-- ==== Sys2Proof/Word.lean ====
section
/-! DEFINITION. The word types of the BZ-40 (spec/00_scope.md R5, spec/01_organization.md R16). -/

namespace Sys2Proof

/-- One byte of memory. -/
abbrev Byte := BitVec 8

/-- A scalar register, a vector lane or an element of 32 bits. -/
abbrev W32 := BitVec 32

/-- A q register, an instruction word or a structure word. -/
abbrev W64 := BitVec 64

/-- The mask of a PC slot: bit i governs lane i, so ex0 is bits 31:0, ex1 63:32, ex2 95:64 (R41). -/
abbrev Mask := BitVec 96

/-- The 96 lanes of one vector register (R16). -/
abbrev Lanes := Vector W32 96

end Sys2Proof
end

