-- ==== Sys2Proof/Config.lean ====
section
/-! DEFINITION. What an implementation fixes and the manual leaves open. Every constant here is opaque: no proof can
see its value, so a theorem about the machine holds for every choice of it. -/

namespace Sys2Proof.Config

/-- An unspecified 32-bit or narrower value (R8): the n-th free value. Log entry 2. -/
opaque freeWord : Nat → W64

/-- The byte that stands at an address after software wrote there against a "must" of the manual that has no stated
consequence (R9), with n free values used before. Log entry 43. -/
opaque disownedByte : Nat → Nat → Byte

/-- Whether the n-th access that an L1 may serve keeps a copy there (R234, R238). Log entry 6. -/
opaque l1Holds : Nat → Bool

/-- Whether the n-th translation is held by a TLB (R233). Log entry 7. -/
opaque tlbHolds : Nat → Bool

/-- A page-table entry that stands in the memory of another device, by device, address and free value number (R231). Log
entry 10. -/
opaque farEntry : Nat → Nat → Nat → W64

/-- Whether another device leaves the read of a page-table entry unanswered, by device, address and free value number (R291). Log
entry 10. -/
opaque farSilent : Nat → Nat → Nat → Bool

/-- Whether the n-th instruction word fetched is the content from before its launch (R93). Log entry 13. -/
opaque oldCode : Nat → Bool

/-- Whether a load of another device's memory narrower than .pod is served by the home-L2 copy (R289). Log entry 6. -/
opaque l2Holds : Nat → Bool

/-- How many further lanes of an access are performed with its next one, before another agent may act (R248). Log entry
15. -/
opaque lanesNow : Nat → Nat

/-- Further cycles that a core's or cluster's counter advances at its n-th issue (R118, R62). Log entry 8. -/
opaque stall : Nat → Nat

/-- The firmware image that the ROM finds at reset, and its signature (R340). Log entry 9. -/
opaque firmwareImage : List Byte
/-- The signature that stands beside the firmware image (R340). Log entry 9. -/
opaque firmwareSignature : List Byte
/-- The key by which the ROM verifies firmware images (R340). Log entry 9. -/
opaque firmwareKey : List Byte

/-- The secret fused into the device (R340). Log entry 9. -/
opaque fusedSecret : List Byte
/-- The public and the private key derived from a fused secret (R340). Log entry 9. -/
opaque keyPair : List Byte → List Byte × List Byte
/-- Jenler's public key, and its signature of the device's public key, made at manufacture (R340). Log entry 9. -/
opaque jenlerKey : List Byte
/-- Jenler's signature of the device's public key (R340). Log entry 9. -/
opaque identitySignature : List Byte

/-- Byte i of the ML-DSA-87 signature that a private key makes over a byte string (R341). Log entry 9. -/
opaque mldsaSign : List Byte → List Byte → Nat → Byte
/-- A public key verifies an ML-DSA-87 signature over a byte string (R340): key, bytes, signature. Log entry 9. -/
opaque mldsaVerify : List Byte → List Byte → List Byte → Bool

/-- Base and length of the memory that this device lends a device under a lease id: no command states them (R294). Log
entry 18. -/
opaque lentRange : Nat → BitVec 32 → Nat × Nat

/-- An address was lent to a device by an incarnation of this one before the given one (R294). Log entry 18. -/
opaque lentBefore : Nat → BitVec 16 → Nat → Bool

/-- Memory that a device held under an ended lease has been lent to it anew, by device, address and free value number (R294). Log
entry 18. -/
opaque lentAnew : Nat → Nat → Nat → Bool

/-- Some of n bytes from an address are lent now, by free value number (R293). Log entry 18. -/
opaque lentOut : Nat → Nat → Nat → Bool

end Sys2Proof.Config
end

