-- ==== Sys2Proof/Syntax.lean ====
section
/-! DEFINITION. The instructions and device steps of the BZ-40: one constructor for each row of
spec/opcode_table.json. Encoded instructions carry the fields of their format (Table 09-2, Table 09-3) with operand,
type, scope and order codes already read; device steps carry the operands their rule names. -/

namespace Sys2Proof

/-- Type codes of Table 09-5. -/
inductive Ty where
  | i32 | n32 | i64 | n64 | i16 | n16 | i8 | n8 | f32 | bf16 | f16 | e4m3 | e5m2 | e2m1
deriving DecidableEq, Repr

/-- Operand codes of Table 09-4, with the literal of an X form (R99) in its place. -/
inductive Opnd where
  | v (n : Fin 128)
  | s (n : Fin 64)
  | q (n : Fin 32)
  /-- Codes 0xE0 to 0xEF: the integer k for k below 8 and k - 16 above. -/
  | inl (k : Fin 16)
  /-- Code 0xF0 with the 64-bit literal of the next slot. -/
  | lit (w : W64)
  /-- Code 0xF1. -/
  | imm
  /-- Code 0xFF. -/
  | none
deriving DecidableEq, Repr

/-- Scopes of format M (Table 09-3). -/
inductive Scope where
  | wave | block | cluster | device | pod
deriving DecidableEq, Repr

/-- Orders of format M (Table 09-3). -/
inductive Order where
  | relaxed | acquire | release
deriving DecidableEq, Repr

/-- Clause kinds (R88). -/
inductive ClauseKind where
  | wave | seq | handler
deriving DecidableEq, Repr

/-- Format S. -/
structure SF where
  dst : Opnd
  sa : Opnd
  sb : Opnd
  sc : Opnd
  ty : Ty
  fn : BitVec 4
  imm : BitVec 16
deriving DecidableEq, Repr

/-- Format V. Bit 2 of `neg` belongs to `sa`, bit 1 to `sb`, bit 0 to `sc`. -/
structure VF where
  dst : Opnd
  sa : Opnd
  sb : Opnd
  sc : Opnd
  ty : Ty
  fn : BitVec 4
  rm : BitVec 2
  sat : Bool
  fs : Bool
  neg : BitVec 3
  abs : Bool
  aux : BitVec 8
deriving DecidableEq, Repr

/-- Format M. -/
structure MF where
  dst : Opnd
  sa : Opnd
  sb : Opnd
  ty : Ty
  scope : Scope
  ord : Order
  fs : Bool
  off : BitVec 20
deriving DecidableEq, Repr

/-- Format E. -/
structure EF where
  dst : Opnd
  sa : Opnd
  sb : Opnd
  sc : Opnd
  ty : Ty
  tyb : Ty
  fn : BitVec 4
  fs : Bool
  actx : Bool
  acc : BitVec 2
  aux : BitVec 8
deriving DecidableEq, Repr

/-- Format P, the REP prefix (Table 09-6). -/
structure PF where
  count : BitVec 12
  stepd : BitVec 8
  stepa : BitVec 8
  stepb : BitVec 8
  stepc : BitVec 8
  sshift : BitVec 4
deriving DecidableEq, Repr

/-- An agent that issues instructions: a wave, by the model's own number of it, or thread t of cluster c. -/
inductive Agent where
  | wave (w : Nat)
  | thread (c t : Nat)
deriving DecidableEq, Repr

/-- Destination of a bin: a local pseudo-channel or another device (R270). -/
inductive BinDest where
  | pch (g : Nat)
  | dev (n : Nat)
deriving DecidableEq, Repr

/-- A record: words w0 and w1 of Table 21-1. -/
structure RecordW where
  w0 : W64
  w1 : W64
deriving DecidableEq, Repr

/-- A bin, or a commit notice, as it arrives from another device (R273, Table 23-2). `ctx` is the sending context. -/
structure RemoteBin where
  dev : Nat
  inc : BitVec 16
  ctx : Nat
  bseq : Nat
  hcap : W32
  recs : List RecordW
  /-- The set of covered tags when this is a notice that travels behind its bins, with the sender's request number. -/
  notice : Option (List (BitVec 12) × Nat)
deriving DecidableEq, Repr

/-- Who sent a sequenced request (R263). -/
structure RemoteFrom where
  dev : Nat
  inc : BitVec 16
  queue : Nat
  seq : Nat
deriving DecidableEq, Repr

/-- Operations of Table 13-3. -/
inductive AtomOp where
  | add | min | max | and | or | xor | xchg | fadd | fmin | fmax
  /-- CAS, with the compare value. -/
  | cas (c : W64)
deriving DecidableEq, Repr

/-- Causes of a failed fetch, the `ferr` codes of Table 25-2. -/
inductive FetchErr where
  | translation | uncorrectable | leaseRevoked | linkFailed | backingInvalid
deriving DecidableEq, Repr

/-- Phases of Table 29-4. -/
inductive RecoveryPhase where
  | announce | failItems | drainLeases | endDomains | reroute
deriving DecidableEq, Repr

/-- A fault buffer: the root buffer or that of a tenant partition (R320). -/
inductive FaultBox where
  | root
  | part (n : Nat)
deriving DecidableEq, Repr

/-- A firmware mailbox (R336). -/
inductive MailBox where
  | root
  | part (n : Nat)
deriving DecidableEq, Repr

/-- The instructions and steps. -/
inductive Instr where
  -- Scalar and control instructions, S format (11_scalar_control_instructions.md).
  | iadd (f : SF)
  | isub (f : SF)
  | imul (f : SF)
  | imulh (f : SF)
  | imad (f : SF)
  | idiv (f : SF)
  | irem (f : SF)
  | imin (f : SF)
  | imax (f : SF)
  | andS (f : SF)
  | orS (f : SF)
  | xorS (f : SF)
  | notS (f : SF)
  | shl (f : SF)
  | shr (f : SF)
  | sar (f : SF)
  | rot (f : SF)
  | clz (f : SF)
  | popc (f : SF)
  | bfx (f : SF)
  | bfi (f : SF)
  | icmp (f : SF)
  | sel (f : SF)
  | mov (f : SF)
  | lea (f : SF)
  | sfadd (f : SF)
  | sfmul (f : SF)
  | sfma (f : SF)
  | sfcmp (f : SF)
  | scvt (f : SF)
  | mfs (f : SF)
  | mts (f : SF)
  | br (f : SF)
  | brc (f : SF)
  | brx (f : SF)
  | call (f : SF)
  | callx (f : SF)
  | ret (f : SF)
  | bsplit (f : SF)
  | bjoin (f : SF)
  | dpush (f : SF)
  | dpop (f : SF)
  | msk (f : SF)
  | mbcnt (f : SF)
  | mfirst (f : SF)
  | nop (f : SF)
  -- Vector instructions, V format (12_vector_instructions.md).
  | viadd (f : VF)
  | visub (f : VF)
  | vimul (f : VF)
  | vimad (f : VF)
  | vimin (f : VF)
  | vimax (f : VF)
  | viabs (f : VF)
  | viadds (f : VF)
  | visubs (f : VF)
  | vand (f : VF)
  | vor (f : VF)
  | vxor (f : VF)
  | vnot (f : VF)
  | vshl (f : VF)
  | vshr (f : VF)
  | vsar (f : VF)
  | vbfx (f : VF)
  | vpopc (f : VF)
  | vicmp (f : VF)
  | vsel (f : VF)
  | vmov (f : VF)
  | vfadd (f : VF)
  | vfsub (f : VF)
  | vfmul (f : VF)
  | vfma (f : VF)
  | vfmin (f : VF)
  | vfmax (f : VF)
  | vfcmp (f : VF)
  | vfclass (f : VF)
  | vcvt (f : VF)
  | vpack (f : VF)
  | vunpk (f : VF)
  | dot4 (f : VF)
  | dot8 (f : VF)
  | rcpF32 (f : VF)
  | rsqF32 (f : VF)
  | exp2 (f : VF)
  | log2 (f : VF)
  | sinPi (f : VF)
  | cosPi (f : VF)
  | tanh (f : VF)
  | rcpa (f : VF)
  | shfl (f : VF)
  | bcast (f : VF)
  | vred (f : VF)
  | vscan (f : VF)
  | topk (f : VF)
  | ballot (f : VF)
  -- Memory and synchronization instructions, M format (13_memory_instructions.md).
  | ld (f : MF)
  | st (f : MF)
  | sld (f : MF)
  | sst (f : MF)
  | ldsp (f : MF)
  | stsp (f : MF)
  | ldx (f : MF)
  | atom (f : MF)
  | red (f : MF)
  | cas (f : MF)
  | satom (f : MF)
  | waitc (f : MF)
  | waittl (f : MF)
  | bar (f : MF)
  | arrv (f : MF)
  | bowait (f : MF)
  | cbacqProd (f : MF)
  | cbacqCons (f : MF)
  | cbrelProd (f : MF)
  | cbrelCons (f : MF)
  -- Deferred and memory-side instructions (14_memory_side_instructions.md).
  | commitBlock (f : SF)
  | commitGrid (f : SF)
  | commitPod (f : SF)
  | dflushGrid (f : SF)
  | dflushPod (f : SF)
  | mred (f : MF)
  | mired (f : MF)
  | meval (f : MF)
  | mfill (f : MF)
  | capnew (f : SF)
  | capswap (f : SF)
  | caprev (f : SF)
  | capqry (f : SF)
  -- Matrix instructions, E format (15_matrix_instructions.md).
  | mma (f : EF)
  | mmaSp (f : EF)
  | mmaChk (f : EF)
  | miter (f : EF)
  | miterCont (f : EF)
  | aclr (f : EF)
  | ain (f : EF)
  | aout (f : EF)
  | aoutClr (f : EF)
  | epi (f : EF)
  | kld (f : EF)
  | kldAll (f : EF)
  | actxSwap (f : EF)
  | actxRel (f : EF)
  -- Engine and expert instructions, E format (16_engine_system_instructions.md).
  | txf (f : EF)
  | txfcProd (f : EF)
  | txfcCons (f : EF)
  | txfsRd (f : EF)
  | txfsClr (f : EF)
  | tnext (f : EF)
  | tqaddSh (f : EF)
  | tqaddRt (f : EF)
  | park (f : EF)
  | erqQry (f : EF)
  | erqAcq (f : EF)
  | erqRel (f : EF)
  | erpin (f : EF)
  | erunpin (f : EF)
  -- Debug window and system instructions, S format (R220 to R226).
  | dwrd (f : SF)
  | dwwr (f : SF)
  | dwresResume (f : SF)
  | dwresKill (f : SF)
  | dwstep (f : SF)
  | trapSeq (f : SF)
  | trapHost (f : SF)
  | rett (f : SF)
  | yield (f : SF)
  | sleep (f : SF)
  | halt (f : SF)
  | pgmap (f : SF)
  -- The REP prefix, P format (R100).
  | rep (f : PF)
  -- Steps of the device that no instruction word encodes (95_what_each_step_holds.md).
  /-- R50, R64: issue partition p selects a ready wave. -/
  | waveSelect (p : Nat)
  /-- R50: cluster c selects a ready sequencer thread. -/
  | sequencerSelect (c : Nat)
  /-- R218: the oldest waiting trap of thread t of cluster c is delivered. -/
  | trapDelivery (c t : Nat)
  /-- R221: the wave that was stepped stops again. -/
  | stepTrap (w : Nat)
  /-- R225: the sleep of a PC slot, or of a thread, ends. -/
  | sleepExpire (a : Agent) (alt : Bool)
  /-- R148: access n is performed and completes. -/
  | accessComplete (n : Nat)
  /-- R47: barrier b of workgroup w completes. -/
  | barrierComplete (w b : Nat)
  /-- R170: commit n completes. -/
  | commitComplete (n : Nat)
  /-- R286: a host write to host memory. -/
  | hostWriteInvalidate (pa : Nat) (data : List Byte)
  /-- R54: the write-index line of the queue at address q is read again. -/
  | writeIndexReread (q : Nat)
  /-- R56: packet k of queue q is read and checked. -/
  | launchPacketRead (q k : Nat)
  /-- R35, R66: the next workgroup of launch k of queue q is placed. -/
  | workgroupPlace (q k : Nat)
  /-- R260: launch k of queue q ends. -/
  | launchEnd (q k : Nat)
  /-- R62: the slice of a core ends after u cycles. -/
  | sliceEnd (core u : Nat)
  /-- R62: a context of higher priority is ready for the core. -/
  | preemptionRequest (core : Nat)
  /-- R324: the banks of the core flip. -/
  | bankFlip (core : Nat)
  /-- R324: the spill of the outgoing workgroups ends. -/
  | bankSpillComplete (core : Nat)
  /-- R324: the fill of the shadow bank ends. -/
  | shadowFillComplete (core : Nat)
  /-- R325: a bank of unit u is spilled and filled. -/
  | accumulatorBankMove (u : Nat)
  /-- R187: the operation on unit u completes. -/
  | matrixOpComplete (u : Nat)
  /-- R201: one iteration of the MITER on unit u. -/
  | miterIteration (u : Nat)
  /-- R209: one burst of the command at the head of a stream. -/
  | txfBurst (ctx c st : Nat)
  /-- R209: the command at the head of a stream completes. -/
  | txfCommandComplete (ctx c st : Nat)
  /-- R210: one piece of the TXFC at the head of a stream. -/
  | txfcPiece (ctx c st : Nat)
  /-- R180: one item of the oldest accepted command. -/
  | cupolaItem (ctx stack : Nat)
  /-- R180: the completion word of the oldest accepted command. -/
  | commandCompletionWord (ctx stack : Nat)
  /-- R175: a draining entry is freed. -/
  | capEntryFree (stack e : Nat)
  /-- R268, R270: the oldest entry of a core log is drained. -/
  | belfryDrain (core : Nat)
  /-- R270: a bin ships. -/
  | binShip (die : Nat) (dest : BinDest) (ctx : Nat)
  /-- R274: the oldest shipment from a die to a pseudo-channel arrives. -/
  | binStage (die pch : Nat)
  /-- R273: a bin from another device arrives. -/
  | remoteBinReceive (b : RemoteBin)
  /-- R275: the oldest notice of a pseudo-channel is replayed. -/
  | commitNoticeReplay (pch : Nat)
  /-- R282: a refresh falls due. -/
  | refresh (pch : Nat)
  /-- R282: refresh ownership passes. -/
  | refreshHandover (stack : Nat)
  /-- R298: a fetch completes. -/
  | expertFetchComplete (ctx x : Nat)
  /-- R299: a fetch fails after done bytes. -/
  | expertFetchFail (ctx x done : Nat) (cause : FetchErr)
  /-- R299: a waiting fetch starts. -/
  | expertFetchStart (ctx x : Nat)
  /-- R298: an eviction ends. -/
  | expertEvictComplete (ctx x : Nat)
  /-- R263: a sequenced write arrives. -/
  | remoteWriteReceive (f : RemoteFrom) (pa : Nat) (data : List Byte)
  /-- R291: an atomic arrives. -/
  | remoteAtomicReceive (f : RemoteFrom) (pa : Nat) (op : AtomOp) (ty : Ty) (v : W64)
  /-- R290: a read arrives. -/
  | remoteReadReceive (src pa n : Nat)
  /-- R262: request n is answered. -/
  | fabricAcknowledgement (n : Nat) (data : List Byte) (fails : Nat)
  /-- R291: request n is sent again. -/
  | fabricResend (n : Nat)
  /-- R291: request n fails. -/
  | fabricItemFail (n : Nat)
  /-- R33: a millisecond window ends. -/
  | fabricWindow
  /-- R279: n permits of a receiver arrive. -/
  | permitGrant (ctx dev n : Nat) (h : W32)
  /-- R280: a sender announces an incarnation. -/
  | incarnationAnnounce (dev : Nat) (inc : BitVec 16)
  /-- R294: a lease revoke arrives. -/
  | leaseRevoke (lender : Nat) (lid : W32)
  /-- R294: the accesses in flight to window w have ended. -/
  | leaseDrained (w : Nat)
  /-- R294: the lender stops serving a lease. -/
  | leaseDrainTimeout (borrower : Nat) (lid : W32)
  /-- R286: a host access to device memory. -/
  | hostMemAccess (pa n : Nat) (data : Option (List Byte))
  /-- R339: the arbiter sets clock, budgets and penalties. -/
  | powerArbiterTick (mhz : Nat) (hbm pen : List Nat)
  /-- R29: a die finishes training. -/
  | dieReady (d : Nat)
  /-- R280: the device is reset. -/
  | deviceReset
  /-- R21: the link between two dies fails. -/
  | rinestLinkFail (a b : Nat)
  /-- R343: a phase of recovery runs. -/
  | podRecovery (lost : List Nat) (ph : RecoveryPhase)
  /-- R321: a held record is written. -/
  | heldFaultRecordWrite (b : FaultBox)
  /-- R322: an invalidation completes. -/
  | invalComplete (n : Nat)
  /-- R179: offered block n is accepted or rejected. -/
  | commandBlockAcceptance (n : Nat)
  /-- R291: a port stops reaching a device. -/
  | lossOfPorts (port dev : Nat)
  -- Firmware commands (Table 29-2), for the mailbox and command block that State.fw names.
  | nodeAttach
  | nodeUpdate
  | nodeDetach
  | faultbuf
  | faultflush
  | resume
  | endDomain
  | pool
  | save
  | inval
  | staging
  | exptableRegister
  | exptableDeregister
  | expfetch
  | expevict
  | l2ways
  | replica
  | podJoin
  | inbound
  | leaseGrant
  | leaseRevokeCommand
  | leaseFree
  | leaseRead
  | powercap
  | attest
  | status
  | debugRead
  | debugWrite
  | debugHalt
  | debugStep
  | debugContinue
  | unknownCommand
deriving DecidableEq, Repr

end Sys2Proof
end

