-- ==== Sys2Proof/WellFormed.lean ====
section
/-! DEFINITION. Which instructions have an encoding (spec/09_instruction_formats.md): the format and major opcode of
each constructor, and the checks a term must meet to be the reading of some word. -/

namespace Sys2Proof

/-- The format and major opcode of an instruction (Table 09-7); a device step has none. -/
inductive View where
  | s (op : Nat) (f : SF)
  | v (op : Nat) (f : VF)
  | m (op : Nat) (f : MF)
  | e (op : Nat) (f : EF)
  | p (f : PF)
  | step
deriving DecidableEq, Repr

/-- The sub-operation field of ATOM, RED, SATOM, CBACQ, CBREL and WAITC (R145). -/
def MF.mop (f : MF) : Nat := f.off.toNat / 65536

/-- Table 09-7. -/
def Instr.view : Instr → View
  | .iadd f => .s 0x01 f
  | .isub f => .s 0x02 f
  | .imul f => .s 0x03 f
  | .imulh f => .s 0x04 f
  | .imad f => .s 0x05 f
  | .idiv f => .s 0x06 f
  | .irem f => .s 0x07 f
  | .imin f => .s 0x08 f
  | .imax f => .s 0x09 f
  | .andS f => .s 0x0A f
  | .orS f => .s 0x0B f
  | .xorS f => .s 0x0C f
  | .notS f => .s 0x0D f
  | .shl f => .s 0x0E f
  | .shr f => .s 0x0F f
  | .sar f => .s 0x10 f
  | .rot f => .s 0x11 f
  | .clz f => .s 0x12 f
  | .popc f => .s 0x13 f
  | .bfx f => .s 0x14 f
  | .bfi f => .s 0x15 f
  | .icmp f => .s 0x16 f
  | .sel f => .s 0x17 f
  | .mov f => .s 0x18 f
  | .lea f => .s 0x19 f
  | .sfadd f => .s 0x1A f
  | .sfmul f => .s 0x1B f
  | .sfma f => .s 0x1C f
  | .sfcmp f => .s 0x1D f
  | .scvt f => .s 0x1E f
  | .mfs f => .s 0x1F f
  | .mts f => .s 0x20 f
  | .br f => .s 0x28 f
  | .brc f => .s 0x29 f
  | .brx f => .s 0x2A f
  | .call f => .s 0x2B f
  | .callx f => .s 0x2C f
  | .ret f => .s 0x2D f
  | .bsplit f => .s 0x2E f
  | .bjoin f => .s 0x2F f
  | .dpush f => .s 0x30 f
  | .dpop f => .s 0x31 f
  | .msk f => .s 0x32 f
  | .mbcnt f => .s 0x33 f
  | .mfirst f => .s 0x34 f
  | .nop f => .s 0x35 f
  | .commitBlock f => .s 0xA0 f
  | .commitGrid f => .s 0xA0 f
  | .commitPod f => .s 0xA0 f
  | .dflushGrid f => .s 0xA1 f
  | .dflushPod f => .s 0xA1 f
  | .capnew f => .s 0xA6 f
  | .capswap f => .s 0xA7 f
  | .caprev f => .s 0xA8 f
  | .capqry f => .s 0xA9 f
  | .dwrd f => .s 0xCC f
  | .dwwr f => .s 0xCD f
  | .dwresResume f => .s 0xCE f
  | .dwresKill f => .s 0xCE f
  | .dwstep f => .s 0xCF f
  | .trapSeq f => .s 0xD0 f
  | .trapHost f => .s 0xD0 f
  | .rett f => .s 0xD1 f
  | .yield f => .s 0xD2 f
  | .sleep f => .s 0xD3 f
  | .halt f => .s 0xD4 f
  | .pgmap f => .s 0xD5 f
  | .viadd f => .v 0x40 f
  | .visub f => .v 0x41 f
  | .vimul f => .v 0x42 f
  | .vimad f => .v 0x43 f
  | .vimin f => .v 0x44 f
  | .vimax f => .v 0x45 f
  | .viabs f => .v 0x46 f
  | .viadds f => .v 0x47 f
  | .visubs f => .v 0x48 f
  | .vand f => .v 0x49 f
  | .vor f => .v 0x4A f
  | .vxor f => .v 0x4B f
  | .vnot f => .v 0x4C f
  | .vshl f => .v 0x4D f
  | .vshr f => .v 0x4E f
  | .vsar f => .v 0x4F f
  | .vbfx f => .v 0x50 f
  | .vpopc f => .v 0x51 f
  | .vicmp f => .v 0x52 f
  | .vsel f => .v 0x53 f
  | .vmov f => .v 0x54 f
  | .vfadd f => .v 0x58 f
  | .vfsub f => .v 0x59 f
  | .vfmul f => .v 0x5A f
  | .vfma f => .v 0x5B f
  | .vfmin f => .v 0x5C f
  | .vfmax f => .v 0x5D f
  | .vfcmp f => .v 0x5E f
  | .vfclass f => .v 0x5F f
  | .vcvt f => .v 0x60 f
  | .vpack f => .v 0x61 f
  | .vunpk f => .v 0x62 f
  | .dot4 f => .v 0x63 f
  | .dot8 f => .v 0x64 f
  | .rcpF32 f => .v 0x65 f
  | .rsqF32 f => .v 0x66 f
  | .exp2 f => .v 0x67 f
  | .log2 f => .v 0x68 f
  | .sinPi f => .v 0x69 f
  | .cosPi f => .v 0x6A f
  | .tanh f => .v 0x6B f
  | .rcpa f => .v 0x6C f
  | .shfl f => .v 0x70 f
  | .bcast f => .v 0x71 f
  | .vred f => .v 0x72 f
  | .vscan f => .v 0x73 f
  | .topk f => .v 0x74 f
  | .ballot f => .v 0x75 f
  | .ld f => .m 0x80 f
  | .st f => .m 0x81 f
  | .sld f => .m 0x82 f
  | .sst f => .m 0x83 f
  | .ldsp f => .m 0x84 f
  | .stsp f => .m 0x85 f
  | .ldx f => .m 0x86 f
  | .atom f => .m 0x87 f
  | .red f => .m 0x88 f
  | .cas f => .m 0x89 f
  | .satom f => .m 0x8A f
  | .waitc f => .m 0x90 f
  | .waittl f => .m 0x91 f
  | .bar f => .m 0x92 f
  | .arrv f => .m 0x93 f
  | .bowait f => .m 0x94 f
  | .cbacqProd f => .m 0x95 f
  | .cbacqCons f => .m 0x95 f
  | .cbrelProd f => .m 0x96 f
  | .cbrelCons f => .m 0x96 f
  | .mred f => .m 0xA2 f
  | .mired f => .m 0xA3 f
  | .meval f => .m 0xA4 f
  | .mfill f => .m 0xA5 f
  | .mma f => .e 0xB0 f
  | .mmaSp f => .e 0xB1 f
  | .mmaChk f => .e 0xB2 f
  | .miter f => .e 0xB3 f
  | .miterCont f => .e 0xB3 f
  | .aclr f => .e 0xB4 f
  | .ain f => .e 0xB6 f
  | .aout f => .e 0xB5 f
  | .aoutClr f => .e 0xB5 f
  | .epi f => .e 0xB7 f
  | .kld f => .e 0xB8 f
  | .kldAll f => .e 0xB8 f
  | .actxSwap f => .e 0xB9 f
  | .actxRel f => .e 0xB9 f
  | .txf f => .e 0xC0 f
  | .txfcProd f => .e 0xC1 f
  | .txfcCons f => .e 0xC1 f
  | .txfsRd f => .e 0xC2 f
  | .txfsClr f => .e 0xC2 f
  | .tnext f => .e 0xC4 f
  | .tqaddSh f => .e 0xC9 f
  | .tqaddRt f => .e 0xC9 f
  | .park f => .e 0xC5 f
  | .erqQry f => .e 0xC6 f
  | .erqAcq f => .e 0xC6 f
  | .erqRel f => .e 0xC6 f
  | .erpin f => .e 0xC7 f
  | .erunpin f => .e 0xC8 f
  | .rep f => .p f

  | .waveSelect _ 
  | .sequencerSelect _ 
  | .trapDelivery _ _ 
  | .stepTrap _ 
  | .sleepExpire _ _ 
  | .accessComplete _ 
  | .barrierComplete _ _ 
  | .commitComplete _ 
  | .hostWriteInvalidate _ _ 
  | .writeIndexReread _ 
  | .launchPacketRead _ _ 
  | .workgroupPlace _ _ 
  | .launchEnd _ _ 
  | .sliceEnd _ _ 
  | .preemptionRequest _ 
  | .bankFlip _ 
  | .bankSpillComplete _ 
  | .shadowFillComplete _ 
  | .accumulatorBankMove _ 
  | .matrixOpComplete _ 
  | .miterIteration _ 
  | .txfBurst _ _ _ 
  | .txfCommandComplete _ _ _ 
  | .txfcPiece _ _ _ 
  | .cupolaItem _ _ 
  | .commandCompletionWord _ _ 
  | .capEntryFree _ _ 
  | .belfryDrain _ 
  | .binShip _ _ _ 
  | .binStage _ _ 
  | .remoteBinReceive _ 
  | .commitNoticeReplay _ 
  | .refresh _ 
  | .refreshHandover _ 
  | .expertFetchComplete _ _ 
  | .expertFetchFail _ _ _ _ 
  | .expertFetchStart _ _ 
  | .expertEvictComplete _ _ 
  | .remoteWriteReceive _ _ _ 
  | .remoteAtomicReceive _ _ _ _ _ 
  | .remoteReadReceive _ _ _ 
  | .fabricAcknowledgement _ _ _ 
  | .fabricResend _ 
  | .fabricItemFail _ 
  | .fabricWindow 
  | .permitGrant _ _ _ _ 
  | .incarnationAnnounce _ _ 
  | .leaseRevoke _ _ 
  | .leaseDrained _ 
  | .leaseDrainTimeout _ _ 
  | .hostMemAccess _ _ _ 
  | .powerArbiterTick _ _ _ 
  | .dieReady _ 
  | .deviceReset 
  | .rinestLinkFail _ _ 
  | .podRecovery _ _ 
  | .heldFaultRecordWrite _ 
  | .invalComplete _ 
  | .commandBlockAcceptance _ 
  | .lossOfPorts _ _ 
  | .nodeAttach 
  | .nodeUpdate 
  | .nodeDetach 
  | .faultbuf 
  | .faultflush 
  | .resume 
  | .endDomain 
  | .pool 
  | .save 
  | .inval 
  | .staging 
  | .exptableRegister 
  | .exptableDeregister 
  | .expfetch 
  | .expevict 
  | .l2ways 
  | .replica 
  | .podJoin 
  | .inbound 
  | .leaseGrant 
  | .leaseRevokeCommand 
  | .leaseFree 
  | .leaseRead 
  | .powercap 
  | .attest 
  | .status 
  | .debugRead 
  | .debugWrite 
  | .debugHalt 
  | .debugStep 
  | .debugContinue 
  | .unknownCommand => .step


/-- Whether an operand is a literal. -/
def Opnd.isLit : Opnd → Bool
  | .lit _ => true
  | _ => false

/-- How many of the operands are literals; R99 allows one. -/
def litCount (l : List Opnd) : Nat := (l.filter Opnd.isLit).length

/-- The operands of a view. -/
def View.opnds : View → List Opnd
  | .s _ f => [f.dst, f.sa, f.sb, f.sc]
  | .v _ f => [f.dst, f.sa, f.sb, f.sc]
  | .m _ f => [f.dst, f.sa, f.sb]
  | .e _ f => [f.dst, f.sa, f.sb, f.sc]
  | _ => []

/-- The value that the constructor itself fixes in `fn` or `mop`, where Table 09-7 splits an opcode into rows. -/
def Instr.selectorOk : Instr → Bool
  | .cbacqProd f | .cbrelProd f => f.mop == 0
  | .cbacqCons f | .cbrelCons f => f.mop == 1
  | .commitBlock f | .dflushGrid f | .dwresResume f | .trapSeq f => f.fn == 0
  | .commitGrid f | .dflushPod f | .dwresKill f | .trapHost f => f.fn == 1
  | .commitPod f => f.fn == 2
  | .aout f | .kld f | .actxSwap f | .txfcProd f | .txfsRd f | .erqQry f | .tqaddSh f => f.fn == 0
  | .aoutClr f | .kldAll f | .actxRel f | .txfcCons f | .txfsClr f | .erqAcq f | .tqaddRt f => f.fn == 1
  | .erqRel f => f.fn == 2
  | .miter f => f.fn.toNat ≤ 2
  | .miterCont f => 8 ≤ f.fn.toNat && f.fn.toNat ≤ 10
  | _ => true

/-- An instruction has an encoding: it is no device step, its selector suits its constructor, and it holds at most
one literal (R99). -/
def Instr.wf (i : Instr) : Bool :=
  match i.view with
  | .step => false
  | v => i.selectorOk && decide (litCount v.opnds ≤ 1)

end Sys2Proof
end

