-- ==== Sys2Proof/Decode.lean ====
section
/-! DEFINITION. Reading instruction words, clause headers and firmware command blocks
(spec/09_instruction_formats.md R87 to R104, spec/29_system.md Table 29-1), the static legality of an instruction in a
clause kind, and the encoder. -/

namespace Sys2Proof

/-- Why a word is no instruction; each is the illegal-instruction trap of R104. -/
inductive DecErr where
  /-- A reserved or unassigned major opcode (R103), or a selector with no row. -/
  | badOpcode
  /-- An operand code that Table 09-4 permits nowhere (R96). -/
  | badOperand
  /-- A type code 0xE or 0xF (R98). -/
  | badType
  /-- A scope, order or reserved bit that format M or P does not allow (Table 09-3, Table 09-6). -/
  | badField
  /-- 0xF0 in more than one field (R99). -/
  | twoLiterals
  /-- Fewer bytes than the instruction occupies. -/
  | short
deriving DecidableEq, Repr

/-- Bits hi:lo of a word as a number. -/
def fld (w : W64) (hi lo : Nat) : Nat := (w.toNat >>> lo) % 2 ^ (hi + 1 - lo)

/-- Bit n of a word. -/
def bitAt (w : W64) (n : Nat) : Bool := w.getLsbD n

/-- Table 09-5. -/
def Ty.code : Ty → Nat
  | .i32 => 0 | .n32 => 1 | .i64 => 2 | .n64 => 3 | .i16 => 4 | .n16 => 5 | .i8 => 6 | .n8 => 7
  | .f32 => 8 | .bf16 => 9 | .f16 => 10 | .e4m3 => 11 | .e5m2 => 12 | .e2m1 => 13

/-- Table 09-5, read back. -/
def Ty.ofCode : Nat → Option Ty
  | 0 => some .i32 | 1 => some .n32 | 2 => some .i64 | 3 => some .n64 | 4 => some .i16 | 5 => some .n16
  | 6 => some .i8 | 7 => some .n8 | 8 => some .f32 | 9 => some .bf16 | 10 => some .f16 | 11 => some .e4m3
  | 12 => some .e5m2 | 13 => some .e2m1 | _ => none

/-- Table 09-4. -/
def Opnd.code : Opnd → Nat
  | .v n => n.val
  | .s n => 0x80 + n.val
  | .q n => 0xC0 + n.val
  | .inl k => 0xE0 + k.val
  | .lit _ => 0xF0
  | .imm => 0xF1
  | .none => 0xFF

/-- Table 09-4, read back; `lit` is the word of the next slot. -/
def Opnd.ofCode (c : Nat) (lit : W64) : Option Opnd :=
  if h : c < 0x80 then some (.v ⟨c, h⟩)
  else if c < 0xC0 then some (.s (Fin.ofNat 64 (c - 0x80)))
  else if c < 0xE0 then some (.q (Fin.ofNat 32 (c - 0xC0)))
  else if c < 0xF0 then some (.inl (Fin.ofNat 16 (c - 0xE0)))
  else if c = 0xF0 then some (.lit lit)
  else if c = 0xF1 then some .imm
  else if c = 0xFF then some .none
  else Option.none

/-- Table 09-3, `scope`. -/
def Scope.code : Scope → Nat
  | .wave => 0 | .block => 1 | .cluster => 2 | .device => 3 | .pod => 4

/-- Table 09-3, `scope` read back. -/
def Scope.ofCode : Nat → Option Scope
  | 0 => some .wave | 1 => some .block | 2 => some .cluster | 3 => some .device | 4 => some .pod | _ => none

/-- Table 09-3, `ord`. -/
def Order.code : Order → Nat
  | .relaxed => 0 | .acquire => 1 | .release => 2

/-- Table 09-3, `ord` read back. -/
def Order.ofCode : Nat → Option Order
  | 0 => some .relaxed | 1 => some .acquire | 2 => some .release | _ => none

/-- An operand field, or the name of what is wrong with it. -/
def rdOpnd (w : W64) (hi lo : Nat) (lit : W64) : Except DecErr Opnd :=
  match Opnd.ofCode (fld w hi lo) lit with
  | some o => .ok o
  | none => .error .badOperand

/-- A type field, or the name of what is wrong with it. -/
def rdTy (w : W64) (hi lo : Nat) : Except DecErr Ty :=
  match Ty.ofCode (fld w hi lo) with
  | some t => .ok t
  | none => .error .badType

/-- Format S (Table 09-2, Table 09-3). -/
def readS (w lit : W64) : Except DecErr SF :=
  match rdOpnd w 55 48 lit, rdOpnd w 47 40 lit, rdOpnd w 39 32 lit, rdOpnd w 31 24 lit, rdTy w 23 20 with
  | .ok d, .ok a, .ok b, .ok c, .ok t =>
    .ok ⟨d, a, b, c, t, BitVec.ofNat 4 (fld w 19 16), BitVec.ofNat 16 (fld w 15 0)⟩
  | .ok _, .ok _, .ok _, .ok _, .error e => .error e
  | _, _, _, _, _ => .error .badOperand

/-- Format V (Table 09-2, Table 09-3). -/
def readV (w lit : W64) : Except DecErr VF :=
  match rdOpnd w 55 48 lit, rdOpnd w 47 40 lit, rdOpnd w 39 32 lit, rdOpnd w 31 24 lit, rdTy w 23 20 with
  | .ok d, .ok a, .ok b, .ok c, .ok t =>
    .ok ⟨d, a, b, c, t, BitVec.ofNat 4 (fld w 19 16), BitVec.ofNat 2 (fld w 15 14), bitAt w 13, bitAt w 12,
      BitVec.ofNat 3 (fld w 11 9), bitAt w 8, BitVec.ofNat 8 (fld w 7 0)⟩
  | .ok _, .ok _, .ok _, .ok _, .error e => .error e
  | _, _, _, _, _ => .error .badOperand

/-- Format M (Table 09-2, Table 09-3). -/
def readM (w lit : W64) : Except DecErr MF :=
  match rdOpnd w 55 48 lit, rdOpnd w 47 40 lit, rdOpnd w 39 32 lit, rdTy w 31 28 with
  | .ok d, .ok a, .ok b, .ok t =>
    match Scope.ofCode (fld w 27 25), Order.ofCode (fld w 24 23) with
    | some sc, some od =>
      if fld w 21 20 = 0 then .ok ⟨d, a, b, t, sc, od, bitAt w 22, BitVec.ofNat 20 (fld w 19 0)⟩
      else .error .badField
    | _, _ => .error .badField
  | .ok _, .ok _, .ok _, .error e => .error e
  | _, _, _, _ => .error .badOperand

/-- Format E (Table 09-2, Table 09-3). -/
def readE (w lit : W64) : Except DecErr EF :=
  match rdOpnd w 55 48 lit, rdOpnd w 47 40 lit, rdOpnd w 39 32 lit, rdOpnd w 31 24 lit, rdTy w 23 20, rdTy w 19 16 with
  | .ok d, .ok a, .ok b, .ok c, .ok t, .ok u =>
    .ok ⟨d, a, b, c, t, u, BitVec.ofNat 4 (fld w 15 12), bitAt w 11, bitAt w 10, BitVec.ofNat 2 (fld w 9 8),
      BitVec.ofNat 8 (fld w 7 0)⟩
  | .ok _, .ok _, .ok _, .ok _, _, _ => .error .badType
  | _, _, _, _, _, _ => .error .badOperand

/-- Format P (Table 09-6). -/
def readP (w : W64) : Except DecErr PF :=
  if fld w 7 0 = 0 then
    .ok ⟨BitVec.ofNat 12 (fld w 55 44), BitVec.ofNat 8 (fld w 43 36), BitVec.ofNat 8 (fld w 35 28),
      BitVec.ofNat 8 (fld w 27 20), BitVec.ofNat 8 (fld w 19 12), BitVec.ofNat 4 (fld w 11 8)⟩
  else .error .badField

/-- Table 09-7, the opcodes of format S. -/
def sCtor (op : Nat) (f : SF) : Option Instr :=
  match op with
  | 0x01 => some (.iadd f)
  | 0x02 => some (.isub f)
  | 0x03 => some (.imul f)
  | 0x04 => some (.imulh f)
  | 0x05 => some (.imad f)
  | 0x06 => some (.idiv f)
  | 0x07 => some (.irem f)
  | 0x08 => some (.imin f)
  | 0x09 => some (.imax f)
  | 0x0A => some (.andS f)
  | 0x0B => some (.orS f)
  | 0x0C => some (.xorS f)
  | 0x0D => some (.notS f)
  | 0x0E => some (.shl f)
  | 0x0F => some (.shr f)
  | 0x10 => some (.sar f)
  | 0x11 => some (.rot f)
  | 0x12 => some (.clz f)
  | 0x13 => some (.popc f)
  | 0x14 => some (.bfx f)
  | 0x15 => some (.bfi f)
  | 0x16 => some (.icmp f)
  | 0x17 => some (.sel f)
  | 0x18 => some (.mov f)
  | 0x19 => some (.lea f)
  | 0x1A => some (.sfadd f)
  | 0x1B => some (.sfmul f)
  | 0x1C => some (.sfma f)
  | 0x1D => some (.sfcmp f)
  | 0x1E => some (.scvt f)
  | 0x1F => some (.mfs f)
  | 0x20 => some (.mts f)
  | 0x28 => some (.br f)
  | 0x29 => some (.brc f)
  | 0x2A => some (.brx f)
  | 0x2B => some (.call f)
  | 0x2C => some (.callx f)
  | 0x2D => some (.ret f)
  | 0x2E => some (.bsplit f)
  | 0x2F => some (.bjoin f)
  | 0x30 => some (.dpush f)
  | 0x31 => some (.dpop f)
  | 0x32 => some (.msk f)
  | 0x33 => some (.mbcnt f)
  | 0x34 => some (.mfirst f)
  | 0x35 => some (.nop f)
  | 0xA0 => match f.fn.toNat with | 0 => some (.commitBlock f) | 1 => some (.commitGrid f) | 2 => some (.commitPod f) | _ => none
  | 0xA1 => match f.fn.toNat with | 0 => some (.dflushGrid f) | 1 => some (.dflushPod f) | _ => none
  | 0xA6 => some (.capnew f)
  | 0xA7 => some (.capswap f)
  | 0xA8 => some (.caprev f)
  | 0xA9 => some (.capqry f)
  | 0xCC => some (.dwrd f)
  | 0xCD => some (.dwwr f)
  | 0xCE => match f.fn.toNat with | 0 => some (.dwresResume f) | 1 => some (.dwresKill f) | _ => none
  | 0xCF => some (.dwstep f)
  | 0xD0 => match f.fn.toNat with | 0 => some (.trapSeq f) | 1 => some (.trapHost f) | _ => none
  | 0xD1 => some (.rett f)
  | 0xD2 => some (.yield f)
  | 0xD3 => some (.sleep f)
  | 0xD4 => some (.halt f)
  | 0xD5 => some (.pgmap f)
  | _ => none

/-- Table 09-7, the opcodes of format V. -/
def vCtor (op : Nat) (f : VF) : Option Instr :=
  match op with
  | 0x40 => some (.viadd f)
  | 0x41 => some (.visub f)
  | 0x42 => some (.vimul f)
  | 0x43 => some (.vimad f)
  | 0x44 => some (.vimin f)
  | 0x45 => some (.vimax f)
  | 0x46 => some (.viabs f)
  | 0x47 => some (.viadds f)
  | 0x48 => some (.visubs f)
  | 0x49 => some (.vand f)
  | 0x4A => some (.vor f)
  | 0x4B => some (.vxor f)
  | 0x4C => some (.vnot f)
  | 0x4D => some (.vshl f)
  | 0x4E => some (.vshr f)
  | 0x4F => some (.vsar f)
  | 0x50 => some (.vbfx f)
  | 0x51 => some (.vpopc f)
  | 0x52 => some (.vicmp f)
  | 0x53 => some (.vsel f)
  | 0x54 => some (.vmov f)
  | 0x58 => some (.vfadd f)
  | 0x59 => some (.vfsub f)
  | 0x5A => some (.vfmul f)
  | 0x5B => some (.vfma f)
  | 0x5C => some (.vfmin f)
  | 0x5D => some (.vfmax f)
  | 0x5E => some (.vfcmp f)
  | 0x5F => some (.vfclass f)
  | 0x60 => some (.vcvt f)
  | 0x61 => some (.vpack f)
  | 0x62 => some (.vunpk f)
  | 0x63 => some (.dot4 f)
  | 0x64 => some (.dot8 f)
  | 0x65 => some (.rcpF32 f)
  | 0x66 => some (.rsqF32 f)
  | 0x67 => some (.exp2 f)
  | 0x68 => some (.log2 f)
  | 0x69 => some (.sinPi f)
  | 0x6A => some (.cosPi f)
  | 0x6B => some (.tanh f)
  | 0x6C => some (.rcpa f)
  | 0x70 => some (.shfl f)
  | 0x71 => some (.bcast f)
  | 0x72 => some (.vred f)
  | 0x73 => some (.vscan f)
  | 0x74 => some (.topk f)
  | 0x75 => some (.ballot f)
  | _ => none

/-- Table 09-7, the opcodes of format M. -/
def mCtor (op : Nat) (f : MF) : Option Instr :=
  match op with
  | 0x80 => some (.ld f)
  | 0x81 => some (.st f)
  | 0x82 => some (.sld f)
  | 0x83 => some (.sst f)
  | 0x84 => some (.ldsp f)
  | 0x85 => some (.stsp f)
  | 0x86 => some (.ldx f)
  | 0x87 => some (.atom f)
  | 0x88 => some (.red f)
  | 0x89 => some (.cas f)
  | 0x8A => some (.satom f)
  | 0x90 => some (.waitc f)
  | 0x91 => some (.waittl f)
  | 0x92 => some (.bar f)
  | 0x93 => some (.arrv f)
  | 0x94 => some (.bowait f)
  | 0x95 => match f.mop with | 0 => some (.cbacqProd f) | 1 => some (.cbacqCons f) | _ => none
  | 0x96 => match f.mop with | 0 => some (.cbrelProd f) | 1 => some (.cbrelCons f) | _ => none
  | 0xA2 => some (.mred f)
  | 0xA3 => some (.mired f)
  | 0xA4 => some (.meval f)
  | 0xA5 => some (.mfill f)
  | _ => none

/-- Table 09-7, the opcodes of format E. -/
def eCtor (op : Nat) (f : EF) : Option Instr :=
  match op with
  | 0xB0 => some (.mma f)
  | 0xB1 => some (.mmaSp f)
  | 0xB2 => some (.mmaChk f)
  | 0xB3 => match f.fn.toNat with | 0 => some (.miter f) | 1 => some (.miter f) | 2 => some (.miter f) | 8 => some (.miterCont f) | 9 => some (.miterCont f) | 10 => some (.miterCont f) | _ => none
  | 0xB4 => some (.aclr f)
  | 0xB5 => match f.fn.toNat with | 0 => some (.aout f) | 1 => some (.aoutClr f) | _ => none
  | 0xB6 => some (.ain f)
  | 0xB7 => some (.epi f)
  | 0xB8 => match f.fn.toNat with | 0 => some (.kld f) | 1 => some (.kldAll f) | _ => none
  | 0xB9 => match f.fn.toNat with | 0 => some (.actxSwap f) | 1 => some (.actxRel f) | _ => none
  | 0xC0 => some (.txf f)
  | 0xC1 => match f.fn.toNat with | 0 => some (.txfcProd f) | 1 => some (.txfcCons f) | _ => none
  | 0xC2 => match f.fn.toNat with | 0 => some (.txfsRd f) | 1 => some (.txfsClr f) | _ => none
  | 0xC4 => some (.tnext f)
  | 0xC5 => some (.park f)
  | 0xC6 => match f.fn.toNat with | 0 => some (.erqQry f) | 1 => some (.erqAcq f) | 2 => some (.erqRel f) | _ => none
  | 0xC7 => some (.erpin f)
  | 0xC8 => some (.erunpin f)
  | 0xC9 => match f.fn.toNat with | 0 => some (.tqaddSh f) | 1 => some (.tqaddRt f) | _ => none
  | _ => none

/-- The format of a major opcode (Table 09-7). -/
inductive Fmt where
  | s | v | m | e | p | reserved
deriving DecidableEq, Repr

/-- Table 09-7, column Format. -/
def fmtOf (op : Nat) : Fmt :=
  if op = 0 then .reserved
  else if op ≤ 0x20 then .s
  else if op < 0x28 then .reserved
  else if op ≤ 0x35 then .s
  else if op < 0x40 then .reserved
  else if op ≤ 0x75 then .v
  else if op < 0x80 then .reserved
  else if op ≤ 0x96 then .m
  else if op < 0xA0 then .reserved
  else if op ≤ 0xA1 then .s
  else if op ≤ 0xA5 then .m
  else if op ≤ 0xA9 then .s
  else if op < 0xB0 then .reserved
  else if op ≤ 0xC9 then .e
  else if op < 0xCC then .reserved
  else if op ≤ 0xD5 then .s
  else if op = 0xE0 then .p
  else .reserved

/-- The instruction of a view, where its opcode and selector have a row. -/
def View.ctor : View → Except DecErr Instr
  | .s op f => if litCount [f.dst, f.sa, f.sb, f.sc] ≤ 1 then
      (match sCtor op f with | some i => .ok i | none => .error .badOpcode) else .error .twoLiterals
  | .v op f => if litCount [f.dst, f.sa, f.sb, f.sc] ≤ 1 then
      (match vCtor op f with | some i => .ok i | none => .error .badOpcode) else .error .twoLiterals
  | .m op f => if litCount [f.dst, f.sa, f.sb] ≤ 1 then
      (match mCtor op f with | some i => .ok i | none => .error .badOpcode) else .error .twoLiterals
  | .e op f => if litCount [f.dst, f.sa, f.sb, f.sc] ≤ 1 then
      (match eCtor op f with | some i => .ok i | none => .error .badOpcode) else .error .twoLiterals
  | .p f => .ok (.rep f)
  | .step => .error .badOpcode

/-- The instruction whose word is `w`, with `lit` the word of the next slot (R94, R99). -/
def decodeWord (w lit : W64) : Except DecErr Instr :=
  match fmtOf (fld w 63 56) with
  | .s => match readS w lit with | .ok f => (View.s (fld w 63 56) f).ctor | .error e => .error e
  | .v => match readV w lit with | .ok f => (View.v (fld w 63 56) f).ctor | .error e => .error e
  | .m => match readM w lit with | .ok f => (View.m (fld w 63 56) f).ctor | .error e => .error e
  | .e => match readE w lit with | .ok f => (View.e (fld w 63 56) f).ctor | .error e => .error e
  | .p => match readP w with | .ok f => .ok (.rep f) | .error e => .error e
  | .reserved => .error .badOpcode

/-- How many slots an instruction occupies (R99). -/
def Instr.slots (i : Instr) : Nat := if litCount i.view.opnds = 0 then 1 else 2

/-- Eight bytes, least significant first (R5). -/
def wordOfBytes : List Byte → W64
  | [] => 0
  | b :: r => b.zeroExtend 64 ||| (wordOfBytes r <<< (8 : Nat))

/-- The instruction at the start of a byte list, with the bytes that follow it. -/
def decodeBytes (bs : List Byte) : Except DecErr (Instr × List Byte) :=
  if bs.length < 8 then .error .short
  else
    match decodeWord (wordOfBytes (bs.take 8)) (wordOfBytes ((bs.drop 8).take 8)) with
    | .error e => .error e
    | .ok i => if i.slots = 2 then (if bs.length < 16 then .error .short else .ok (i, bs.drop 16)) else .ok (i, bs.drop 8)

/-! ### Encoder -/

/-- The upper half of formats S, V, M and E (Table 09-2). -/
def encUpper (op : Nat) (d a b : Opnd) : Nat := op * 2 ^ 56 + d.code * 2 ^ 48 + a.code * 2 ^ 40 + b.code * 2 ^ 32

/-- The literals among some operands, in field order. -/
def litsOf : List Opnd → List W64
  | [] => []
  | .lit w :: r => w :: litsOf r
  | _ :: r => litsOf r

/-- The words of an instruction; a device step has none. -/
def encode (i : Instr) : List W64 :=
  match i.view with
  | .s op f => BitVec.ofNat 64 (encUpper op f.dst f.sa f.sb + f.sc.code * 2 ^ 24 + f.ty.code * 2 ^ 20
      + f.fn.toNat * 2 ^ 16 + f.imm.toNat) :: litsOf [f.dst, f.sa, f.sb, f.sc]
  | .v op f => BitVec.ofNat 64 (encUpper op f.dst f.sa f.sb + f.sc.code * 2 ^ 24 + f.ty.code * 2 ^ 20
      + f.fn.toNat * 2 ^ 16 + f.rm.toNat * 2 ^ 14 + f.sat.toNat * 2 ^ 13 + f.fs.toNat * 2 ^ 12
      + f.neg.toNat * 2 ^ 9 + f.abs.toNat * 2 ^ 8 + f.aux.toNat) :: litsOf [f.dst, f.sa, f.sb, f.sc]
  | .m op f => BitVec.ofNat 64 (encUpper op f.dst f.sa f.sb + f.ty.code * 2 ^ 28 + f.scope.code * 2 ^ 25
      + f.ord.code * 2 ^ 23 + f.fs.toNat * 2 ^ 22 + f.off.toNat) :: litsOf [f.dst, f.sa, f.sb]
  | .e op f => BitVec.ofNat 64 (encUpper op f.dst f.sa f.sb + f.sc.code * 2 ^ 24 + f.ty.code * 2 ^ 20
      + f.tyb.code * 2 ^ 16 + f.fn.toNat * 2 ^ 12 + f.fs.toNat * 2 ^ 11 + f.actx.toNat * 2 ^ 10
      + f.acc.toNat * 2 ^ 8 + f.aux.toNat) :: litsOf [f.dst, f.sa, f.sb, f.sc]
  | .p f => [BitVec.ofNat 64 (0xE0 * 2 ^ 56 + f.count.toNat * 2 ^ 44 + f.stepd.toNat * 2 ^ 36
      + f.stepa.toNat * 2 ^ 28 + f.stepb.toNat * 2 ^ 20 + f.stepc.toNat * 2 ^ 12 + f.sshift.toNat * 2 ^ 8)]
  | .step => []

/-! ### Clause header (R88, R89) -/

/-- A checked clause header. -/
structure Header where
  wait : BitVec 12
  set0 : Option (Fin 12)
  set1 : Option (Fin 12)
  nslot : Nat
  kind : ClauseKind
deriving DecidableEq, Repr

/-- A flag field of the header: `none` when the field breaks R89. -/
def hdrFlag (valid : Bool) (n : Nat) : Option (Option (Fin 12)) :=
  if h : n < 12 then (if valid then some (some ⟨n, h⟩) else if n = 0 then some none else none) else none

/-- Table 09-1 with the checks of R89; `none` is the illegal-instruction trap at slot 0. -/
def readHeader (w : W64) : Option Header :=
  if fld w 63 48 = 0 ∧ fld w 35 32 = 0 ∧ fld w 30 28 = 0 ∧ fld w 22 20 = 0 ∧ fld w 15 11 = 0 ∧ fld w 7 2 = 0
      ∧ fld w 10 8 ≠ 0 then
    match hdrFlag (bitAt w 31) (fld w 27 24), hdrFlag (bitAt w 23) (fld w 19 16) with
    | some a, some b =>
      if a.isSome && a == b then none
      else
        match fld w 1 0 with
        | 0 => some ⟨BitVec.ofNat 12 (fld w 47 36), a, b, fld w 10 8, .wave⟩
        | 1 => some ⟨BitVec.ofNat 12 (fld w 47 36), a, b, fld w 10 8, .seq⟩
        | 2 => some ⟨BitVec.ofNat 12 (fld w 47 36), a, b, fld w 10 8, .handler⟩
        | _ => none
    | _, _ => none
  else none

/-! ### Legality in a clause kind (R95 to R99, R103, R104) -/

/-- The width in bits of a type. -/
def Ty.bits : Ty → Nat
  | .i32 | .n32 | .f32 => 32
  | .i64 | .n64 => 64
  | .i16 | .n16 | .bf16 | .f16 => 16
  | .i8 | .n8 | .e4m3 | .e5m2 => 8
  | .e2m1 => 4

/-- The integer types of Table 11-1. -/
def Ty.isInt4 : Ty → Bool
  | .i32 | .n32 | .i64 | .n64 => true
  | _ => false

/-- Signed integer types. -/
def Ty.signed : Ty → Bool
  | .i32 | .i64 | .i16 | .i8 => true
  | _ => false

/-- Integer types. -/
def Ty.isInt : Ty → Bool
  | .i32 | .n32 | .i64 | .n64 | .i16 | .n16 | .i8 | .n8 => true
  | _ => false

/-- Types of 64 bits. -/
def Ty.wide (t : Ty) : Bool := t.bits == 64

/-- A scalar register that a clause of kind `k` may name; `w` asks for 64 bits (R97, R110). -/
def regOk (k : ClauseKind) (w : Bool) : Opnd → Bool
  | .s n => k != .seq && (!w || n.val % 2 == 0)
  | .q _ => k == .seq
  | _ => false

/-- A literal that fits its operand's width (R99). -/
def litOk (bits : Nat) : Opnd → Bool
  | .lit w => decide (w.toNat < 2 ^ bits)
  | _ => false

/-- A scalar source: a register, an inline code, a literal that fits, or 0xF1 where `im` allows it. -/
def srcOk (k : ClauseKind) (bits : Nat) (im : Bool) (o : Opnd) : Bool :=
  regOk k (bits == 64) o || litOk bits o || (match o with | .inl _ => true | .imm => im | _ => false)

/-- A vector register. -/
def isV : Opnd → Bool
  | .v _ => true
  | _ => false

/-- A vector register, even where `w` asks for a pair. -/
def vecOk (w : Bool) : Opnd → Bool
  | .v n => !w || n.val % 2 == 0
  | _ => false

/-- A source in a vector position (R128). -/
def vsrcOk (o : Opnd) : Bool :=
  match o with
  | .v _ | .s _ | .inl _ => true
  | o => litOk 32 o

/-- No operand. -/
def isNone (o : Opnd) : Bool := o == .none

/-- A mask triple s(n) to s(n+2) with n at most 61 (R121, R124). -/
def tripleOk : Opnd → Bool
  | .s n => decide (n.val ≤ 61)
  | _ => false

/-- An even q register and the next (R190, R213). -/
def qPair : Opnd → Bool
  | .q n => n.val % 2 == 0
  | _ => false

/-- A q register. -/
def isQ : Opnd → Bool
  | .q _ => true
  | _ => false

/-- A q register or a literal. -/
def qOrLit (bits : Nat) (o : Opnd) : Bool := isQ o || litOk bits o

/-- Whether some source of a format S instruction is 0xF1. -/
def SF.usesImm (f : SF) : Bool := f.sa == .imm || f.sb == .imm || f.sc == .imm

/-- `imm` is zero unless a source uses it (R95, R96). -/
def SF.immOk (f : SF) : Bool := f.usesImm || f.imm == 0

/-- Integer instructions of Table 11-1 with n sources. -/
def legalInt (k : ClauseKind) (f : SF) (n : Nat) : Bool :=
  let W := f.ty.bits
  f.ty.isInt4 && f.fn == 0 && regOk k f.ty.wide f.dst && srcOk k W true f.sa
    && (if 2 ≤ n then srcOk k W true f.sb else isNone f.sb)
    && (if 3 ≤ n then srcOk k W true f.sc else isNone f.sc) && f.immOk

/-- Special registers: width, and whether a clause kind has them (Table 11-3, Table 16-7, Table 27-4). -/
def sprWidth (k : ClauseKind) (n : Nat) : Option Nat :=
  match k with
  | .seq =>
    if n = 5 ∨ n = 6 ∨ n = 0x102 then some 32
    else if n = 7 ∨ n = 8 ∨ n = 0x100 ∨ n = 0x101 ∨ (0x103 ≤ n ∧ n ≤ 0x10F) then some 64 else none
  | _ =>
    if n = 0 ∨ n = 1 ∨ (3 ≤ n ∧ n ≤ 6) then some 32
    else if n = 2 ∨ n = 7 ∨ n = 8 then some 64
    else if k = .handler ∧ n = 0x112 then some 32
    else if k = .handler ∧ 0x110 ≤ n ∧ n ≤ 0x117 then some 64 else none

/-- A branch target by displacement or literal (R119). -/
def targetOk (f : SF) : Bool :=
  match f.sa with
  | .imm => true
  | .lit w => f.imm == 0 && fld w 63 57 == 0 && fld w 5 0 == 0
  | _ => false

/-- The types SCVT converts between (R116). -/
def Ty.scvtOk : Ty → Bool
  | .i32 | .n32 | .i64 | .n64 | .f32 | .bf16 | .f16 => true
  | _ => false

/-- Operand, type and field rules of format S (chapters 11, 14 and 16). That c of SEL may be a constant in a sequencer clause, where Table
11-2 names the whole q register only, is a DESIGN CHOICE (log entry 27). -/
def legalS (k : ClauseKind) (i : Instr) (f : SF) : Bool :=
  let z := f.ty == .i32 && f.fn == 0
  let no := isNone f.dst && isNone f.sa && isNone f.sb && isNone f.sc
  let nbc := isNone f.sb && isNone f.sc
  match i with
  | .iadd _ | .isub _ | .imul _ | .imulh _ | .idiv _ | .irem _ | .imin _ | .imax _ | .andS _ | .orS _ | .xorS _
  | .shl _ | .shr _ | .sar _ | .rot _ | .bfx _ => legalInt k f 2
  | .imad _ | .bfi _ => legalInt k f 3
  | .notS _ | .clz _ | .popc _ | .mov _ => legalInt k f 1
  | .icmp _ => f.ty.isInt4 && decide (f.fn.toNat ≤ 5) && regOk k f.ty.wide f.dst && srcOk k f.ty.bits true f.sa
      && srcOk k f.ty.bits true f.sb && isNone f.sc && f.immOk
  | .sel _ => f.ty.isInt4 && f.fn == 0 && regOk k f.ty.wide f.dst && srcOk k f.ty.bits true f.sa
      && srcOk k f.ty.bits true f.sb && srcOk k (if k = .seq then 64 else 32) true f.sc && f.immOk
  | .lea _ => f.ty.isInt4 && regOk k true f.dst && srcOk k 64 false f.sa && srcOk k f.ty.bits false f.sb && isNone f.sc
  | .sfadd _ | .sfmul _ => f.ty == .f32 && f.fn == 0 && f.imm == 0 && regOk k false f.dst && srcOk k 32 false f.sa
      && srcOk k 32 false f.sb && isNone f.sc
  | .sfma _ => f.ty == .f32 && f.fn == 0 && f.imm == 0 && regOk k false f.dst && srcOk k 32 false f.sa
      && srcOk k 32 false f.sb && srcOk k 32 false f.sc
  | .sfcmp _ => f.ty == .f32 && decide (f.fn.toNat ≤ 7) && f.imm == 0 && regOk k false f.dst && srcOk k 32 false f.sa
      && srcOk k 32 false f.sb && isNone f.sc
  | .scvt _ =>
    (match Ty.ofCode f.fn.toNat with
     | some st => f.ty.scvtOk && st.scvtOk && regOk k f.ty.wide f.dst && srcOk k st.bits false f.sa && nbc
         && decide (f.imm.toNat % 4 ≤ 1) && decide (f.imm.toNat < 8)
     | none => false)
  | .mfs _ =>
    (match sprWidth k f.imm.toNat with
     | some W => z && regOk k (W == 64) f.dst && isNone f.sa && nbc
     | none => false)
  | .mts _ =>
    (match sprWidth k f.imm.toNat with
     | some W => z && isNone f.dst && srcOk k W false f.sa && nbc
     | none => false)
  | .br _ => z && targetOk f && isNone f.dst && nbc
  | .brc _ => f.ty.isInt4 && decide (f.fn.toNat ≤ 3) && (f.ty.signed || decide (f.fn.toNat ≤ 1)) && targetOk f
      && isNone f.dst && regOk k f.ty.wide f.sb && isNone f.sc
  | .brx _ | .ret _ => z && f.imm == 0 && regOk k true f.sa && isNone f.dst && nbc
  | .call _ => z && targetOk f && regOk k true f.dst && nbc
  | .callx _ => z && f.imm == 0 && regOk k true f.sa && regOk k true f.dst && nbc
  | .bsplit _ => k != .seq && f.ty == .i32 && targetOk f && isNone f.dst && isNone f.sc
      && (if f.fn = 0 then isV f.sb else f.fn == 1 && tripleOk f.sb)
  | .bjoin _ => k != .seq && z && f.imm == 0 && no
  | .dpush _ => k != .seq && z && f.imm == 0 && isNone f.dst && nbc
      && (match f.sa with | .s n => n.val % 8 == 0 && decide (n.val ≤ 48) | _ => false)
  | .dpop _ => k != .seq && z && f.imm == 0 && isNone f.sa && nbc
      && (match f.dst with | .s n => n.val % 8 == 0 && decide (n.val ≤ 48) | _ => false)
  | .msk _ => k != .seq && f.ty == .i32 && f.imm == 0 && decide (f.fn.toNat ≤ 5) && tripleOk f.dst && tripleOk f.sa
      && (if f.fn.toNat ≤ 3 then tripleOk f.sb else isNone f.sb) && isNone f.sc
  | .mbcnt _ => k != .seq && z && regOk k false f.dst && tripleOk f.sa && srcOk k 32 true f.sb && isNone f.sc && f.immOk
  | .mfirst _ => k != .seq && f.ty == .i32 && f.imm == 0 && decide (f.fn.toNat ≤ 1) && regOk k false f.dst
      && tripleOk f.sa && nbc
  | .nop _ => z && f.imm == 0 && no
  | .commitBlock _ | .commitGrid _ | .commitPod _ => f.ty == .i32 && f.imm == 0 && (isNone f.dst || regOk k false f.dst)
      && isNone f.sa && nbc
  | .dflushGrid _ | .dflushPod _ => f.ty == .i32 && f.imm == 0 && no
  | .capnew _ => z && decide (1 ≤ f.imm.toNat) && decide (f.imm.toNat ≤ 3) && regOk k false f.dst
      && (regOk k true f.sa || litOk 64 f.sa) && (regOk k true f.sb || litOk 64 f.sb) && isNone f.sc
  | .capswap _ => z && f.imm == 0 && (isNone f.dst || regOk k false f.dst) && regOk k false f.sa && regOk k false f.sb
      && isNone f.sc
  | .caprev _ => z && f.imm == 0 && (isNone f.dst || regOk k false f.dst) && regOk k false f.sa && nbc
  | .capqry _ => z && f.imm == 0 && regOk k false f.dst && regOk k false f.sa && nbc
  | .dwrd _ => k == .seq && f.ty == .i32 && isQ f.dst && isQ f.sa && isNone f.sc && dwSel f
      && (if f.fn = 2 then (isQ f.sb || litOk 64 f.sb || (match f.sb with | .inl _ => true | _ => false)) else isNone f.sb)
  | .dwwr _ => k == .seq && f.ty == .i32 && isNone f.dst && isQ f.sa && qOrLit 64 f.sc && dwSel f
      && (if f.fn = 2 then (isQ f.sb || litOk 64 f.sb || (match f.sb with | .inl _ => true | _ => false)) else isNone f.sb)
  | .dwresResume _ | .dwresKill _ => k == .seq && f.ty == .i32 && f.imm == 0 && isNone f.dst && isQ f.sa && nbc
  | .dwstep _ => k == .seq && z && f.imm == 0 && isNone f.dst && isQ f.sa && nbc
  | .trapSeq _ | .trapHost _ => f.ty == .i32 && no
  | .rett _ => k != .wave && z && f.imm == 0 && no
  | .yield _ | .halt _ => z && f.imm == 0 && no
  | .sleep _ => z && isNone f.dst && nbc && f.immOk
      && (f.sa == .imm || regOk k false f.sa || litOk 32 f.sa)
  | .pgmap _ => k == .handler && z && f.imm == 0 && regOk k false f.dst && regOk k true f.sa && nbc
  | _ => false
where
  /-- The bits of `imm` that a debug-window class uses (R220). -/
  dwSel (f : SF) : Bool :=
    match f.fn.toNat with
    | 0 => decide (f.imm.toNat < 64)
    | 1 => decide (f.imm.toNat % 256 < 4) && decide (f.imm.toNat < 512)
    | 2 => decide (f.imm.toNat < 128)
    | 3 => decide (f.imm.toNat < 4096)
    | 4 => decide (f.imm.toNat % 256 = 0) && decide (f.imm.toNat < 512)
    | _ => false

/-- 32-bit and packed integer types of the vector integer instructions. -/
def Ty.isVInt : Ty → Bool
  | .i32 | .n32 | .i16 | .n16 | .i8 | .n8 => true
  | _ => false

/-- .f32, .bf16 and .f16. -/
def Ty.isVFloat : Ty → Bool
  | .f32 | .bf16 | .f16 => true
  | _ => false

/-- The modifier and rounding fields are all zero. -/
def VF.plain (f : VF) : Bool := f.rm == 0 && !f.sat && f.neg == 0 && !f.abs

/-- The operands of a format V instruction with n vector-position sources and a vector destination. -/
def VF.ops (f : VF) (n : Nat) : Bool :=
  isV f.dst && vsrcOk f.sa && (if 2 ≤ n then vsrcOk f.sb else isNone f.sb) && (if 3 ≤ n then vsrcOk f.sc else isNone f.sc)

/-- Types of VCVT (R135); `int4` is the INT4 mark. -/
def Ty.vcvtOk (t : Ty) (int4 : Bool) : Bool := !t.wide && (!int4 || t == .i8)

/-- Types VPACK writes and VUNPK reads (R136). -/
def Ty.packOk (t : Ty) (int4 : Bool) : Bool :=
  (match t with | .bf16 | .f16 | .e4m3 | .e5m2 | .e2m1 | .i16 | .n16 | .i8 | .n8 => true | _ => false) && (!int4 || t == .i8)

/-- Elements of a packed type in a 32-bit word (R73). -/
def Ty.perWord (t : Ty) (int4 : Bool) : Nat := if int4 then 8 else 32 / t.bits

/-- Type rule of a reduction operation (Table 12-3). -/
def redOk (fn : Nat) (t : Ty) : Bool :=
  match fn with
  | 0 | 1 | 2 => t == .i32 || t == .n32
  | 3 | 4 | 5 => t == .n32
  | 6 | 7 | 8 => t == .f32
  | _ => false

/-- Operand, type and field rules of format V (chapter 12, Table 12-1). -/
def legalV (i : Instr) (f : VF) : Bool :=
  let z := f.fn == 0 && f.plain && f.aux == 0
  let fl := f.fn == 0 && f.rm == 0 && f.aux == 0
  let w32 := f.ty == .i32 || f.ty == .n32
  !f.fs && f.rm != 3 &&
  match i with
  | .viadd _ | .visub _ | .vimin _ | .vimax _ | .viadds _ | .visubs _ | .vshl _ | .vshr _ | .vsar _ =>
    z && f.ty.isVInt && f.ops 2
  | .vimul _ => f.plain && f.aux == 0 && decide (f.fn.toNat ≤ 1) && w32 && f.ops 2
  | .vimad _ => z && w32 && f.ops 3
  | .viabs _ => z && (f.ty == .i32 || f.ty == .i16 || f.ty == .i8) && f.ops 1
  | .vand _ | .vor _ | .vxor _ | .vbfx _ => z && w32 && f.ops 2
  | .vnot _ => z && w32 && f.ops 1
  | .vpopc _ => z && f.ty == .n32 && f.ops 1
  | .vicmp _ => f.plain && f.aux == 0 && decide (f.fn.toNat ≤ 5) && w32 && f.ops 2
  | .vsel _ => z && (w32 || f.ty == .f32) && f.ops 3
  | .vmov _ => z && (w32 || f.ty == .f32) && f.ops 1
  | .vfadd _ | .vfsub _ | .vfmul _ => fl && f.ty.isVFloat && f.ops 2 && !f.neg.getLsbD 0
  | .vfma _ => fl && f.ty.isVFloat && f.ops 3
  | .vfmin _ | .vfmax _ => fl && !f.sat && f.ty.isVFloat && f.ops 2 && !f.neg.getLsbD 0
  | .vfcmp _ => f.rm == 0 && f.aux == 0 && !f.sat && decide (f.fn.toNat ≤ 7) && f.ty == .f32 && f.ops 2 && !f.neg.getLsbD 0
  | .vfclass _ => z && f.ty.isVFloat && f.ops 1
  | .vcvt _ => f.neg == 0 && !f.abs && decide (f.aux.toNat < 4) && f.ops 1 && f.ty.vcvtOk (f.aux.getLsbD 0)
      && (match Ty.ofCode f.fn.toNat with
          | some st => st.vcvtOk (f.aux.getLsbD 1) | none => false)
  | .vpack _ => f.neg == 0 && !f.abs && decide (f.aux.toNat < 8) && f.ops 2 && f.ty.packOk (f.aux.getLsbD 2)
      && decide (2 * (f.aux.toNat % 4) < f.ty.perWord (f.aux.getLsbD 2))
      && (match Ty.ofCode f.fn.toNat with | some .f32 | some .i32 | some .n32 => true | _ => false)
  | .vunpk _ => f.plain && decide (f.aux.toNat < 16) && f.ops 1
      && (match Ty.ofCode f.fn.toNat with
          | some st => st.packOk (f.aux.getLsbD 3) && decide (f.aux.toNat % 8 < st.perWord (f.aux.getLsbD 3))
              && (if st.isInt then (if st.signed then f.ty == .i32 else f.ty == .n32) else f.ty == .f32)
          | none => false)
  | .dot4 _ => f.rm == 0 && f.neg == 0 && !f.abs && f.aux == 0 && f.ops 3
      && (match Ty.ofCode f.fn.toNat with
          | some tb => ((f.ty == .i8 || f.ty == .n8) && (tb == .i8 || tb == .n8))
              || ((f.ty == .e4m3 || f.ty == .e5m2) && (tb == .e4m3 || tb == .e5m2))
          | none => false)
  | .dot8 _ => f.rm == 0 && f.neg == 0 && !f.abs && f.ops 3
      && (match Ty.ofCode f.fn.toNat with
          | some tb => (f.ty == .i8 && tb == .i8 && f.aux == 3) || (f.ty == .e2m1 && tb == .e2m1 && f.aux == 0)
          | none => false)
  | .rcpF32 _ | .rsqF32 _ | .exp2 _ | .log2 _ | .sinPi _ | .cosPi _ | .tanh _ | .rcpa _ =>
    fl && !f.sat && f.ty == .f32 && f.ops 1 && f.neg.toNat % 4 == 0
  | .shfl _ => f.plain && f.ty == .n32 && decide (f.fn.toNat ≤ 3) && decide (f.aux.toNat ≤ 5) && f.ops 2
  | .bcast _ => z && f.ty == .n32 && f.ops 2 && !isV f.sb
  | .vred _ => f.plain && f.aux == 0 && redOk f.fn.toNat f.ty && vsrcOk f.sa && isNone f.sb && isNone f.sc
      && (match f.dst with | .v _ | .s _ => true | _ => false)
  | .vscan _ => f.plain && decide (f.aux.toNat ≤ 1) && redOk f.fn.toNat f.ty && f.ops 1
  | .topk _ => f.fn == 0 && f.plain && decide (f.aux.toNat < 32) && vecOk true f.dst && vsrcOk f.sa && isNone f.sb
      && isNone f.sc && (f.ty == .f32 || f.ty == .bf16 || f.ty == .i32 || f.ty == .n32)
  | .ballot _ => z && f.ty == .i32 && tripleOk f.dst && isV f.sa && isNone f.sb && isNone f.sc
  | _ => false

/-- The access types of R150. -/
def Ty.memOk : Ty → Bool
  | .i8 | .n8 | .i16 | .n16 | .i32 | .n32 | .f32 | .i64 | .n64 => true
  | _ => false

/-- A base address register or none (R145). -/
def baseOk (k : ClauseKind) (o : Opnd) : Bool := isNone o || regOk k true o

/-- The index of a vector instruction: a vector register, a 32-bit scalar or none. -/
def vindexOk (o : Opnd) : Bool := isNone o || isV o || regOk .wave false o

/-- The index of a scalar instruction. -/
def sindexOk (k : ClauseKind) (o : Opnd) : Bool := isNone o || regOk k false o

/-- Data that a vector store only reads: a vector register, a scalar one, whose value goes to every lane, an inline code or a
literal (R97, R99, R145). -/
def vdataOk (t : Ty) (o : Opnd) : Bool := vecOk t.wide o || srcOk .wave t.bits false o

/-- Type rule of the atomic operations (Table 13-3). -/
def atomOk (mop : Nat) (t : Ty) : Bool :=
  match mop with
  | 0 | 1 | 2 => t.isInt4
  | 3 | 4 | 5 => t == .n32 || t == .n64
  | 6 => t == .n32 || t == .n64 || t == .f32
  | 7 | 8 | 9 => t == .f32
  | _ => false

/-- Register choice of CAS and SATOM.CAS (R158). -/
def casRegOk (t : Ty) : Opnd → Bool
  | .v n => if t.wide then n.val % 4 == 0 else n.val % 2 == 0
  | .s n => if t.wide then n.val % 4 == 0 else n.val % 2 == 0
  | .q n => decide (n.val < 31)
  | _ => false

/-- Scopes .block and .cluster. -/
def Scope.bc (s : Scope) : Bool := s == .block || s == .cluster

/-- Operand, type and field rules of format M (Table 13-1, R177). -/
def legalM (k : ClauseKind) (i : Instr) (f : MF) : Bool :=
  let ld := f.ord != .release
  let st := f.ord != .acquire
  let w := k != .seq
  let nw := f.ty == .i32
  match i with
  | .ld _ => w && f.ty.memOk && vecOk f.ty.wide f.dst && baseOk k f.sa && vindexOk f.sb && ld
  | .st _ => w && f.ty.memOk && vdataOk f.ty f.dst && baseOk k f.sa && vindexOk f.sb && st
  | .sld _ => f.ty.memOk && regOk k f.ty.wide f.dst && baseOk k f.sa && sindexOk k f.sb && ld
  | .sst _ => f.ty.memOk && srcOk k f.ty.bits false f.dst && baseOk k f.sa && sindexOk k f.sb && st
  | .ldsp _ => !f.fs && f.ty.memOk && ld && f.scope.code ≤ 2 && regOk k false f.sa
      && (if k = .seq then isQ f.dst && sindexOk k f.sb else vecOk f.ty.wide f.dst && vindexOk f.sb)
  | .stsp _ => !f.fs && f.ty.memOk && st && f.scope.code ≤ 2 && regOk k false f.sa
      && (if k = .seq then srcOk k f.ty.bits false f.dst && sindexOk k f.sb else vdataOk f.ty f.dst && vindexOk f.sb)
  | .ldx _ => w && f.ty.memOk && !f.ty.wide && isV f.dst && regOk k true f.sa && isV f.sb && ld
  | .atom _ => w && atomOk f.mop f.ty && vecOk f.ty.wide f.dst && baseOk k f.sa && vindexOk f.sb
  | .red _ => w && atomOk f.mop f.ty && vdataOk f.ty f.dst && baseOk k f.sa && vindexOk f.sb && st
  | .cas _ => w && (f.ty == .n32 || f.ty == .n64) && isV f.dst && casRegOk f.ty f.dst && baseOk k f.sa && vindexOk f.sb
  | .satom _ => baseOk k f.sa && sindexOk k f.sb
      && (if f.mop = 10 then (f.ty == .n32 || f.ty == .n64) && regOk k false f.dst && casRegOk f.ty f.dst
          else atomOk f.mop f.ty && regOk k f.ty.wide f.dst)
  | .waitc _ => nw && !f.fs && isNone f.dst && isNone f.sa && isNone f.sb && ld && decide (f.mop ≤ 2)
  | .waittl _ => nw && !f.fs && isNone f.dst && f.ord == .acquire && f.off == 0
      && (regOk k false f.sa || litOk 32 f.sa) && (regOk k true f.sb || litOk 64 f.sb)
  | .bar _ => w && nw && !f.fs && isNone f.dst && isNone f.sa && isNone f.sb && f.scope == .block && f.ord == .relaxed
      && decide (f.off.toNat < 16)
  | .arrv _ => nw && !f.fs && f.scope.bc && st && srcOk k 32 false f.dst && regOk k false f.sa
      && (if k = .seq then sindexOk k f.sb else vindexOk f.sb)
  | .bowait _ => nw && !f.fs && f.scope.bc && ld && regOk k true f.dst && regOk k false f.sa
      && (regOk k true f.sb || litOk 64 f.sb)
  | .cbacqProd _ | .cbacqCons _ => nw && !f.fs && f.scope.bc && ld && regOk k false f.dst && regOk k false f.sa && isNone f.sb
  | .cbrelProd _ | .cbrelCons _ => nw && !f.fs && f.scope.bc && st && isNone f.dst && regOk k false f.sa && isNone f.sb
  | .mred _ | .mired _ | .meval _ | .mfill _ => nw && (f.scope == .device || f.scope == .pod) && st
      && (isNone f.dst || regOk k false f.dst) && regOk k true f.sa && sindexOk k f.sb
  | _ => false

/-- Type pairs of Table 15-4. -/
def mmaOk (a b : Ty) (mx : Nat) : Bool :=
  match a, b with
  | .bf16, .bf16 | .f16, .f16 => mx == 0
  | .e4m3, .e4m3 | .e4m3, .e5m2 | .e5m2, .e4m3 | .e5m2, .e5m2 | .e2m1, .e2m1 => true
  | .i8, .i8 => mx == 0 || mx == 3
  | _, _ => false

/-- Operand, type and field rules of format E (Table 15-1, Table 16-1, Table 16-5). -/
def legalE (k : ClauseKind) (i : Instr) (f : EF) : Bool :=
  let sq := k == .seq
  let u := decide (f.aux.toNat < 16)
  let t0 := f.ty == .i32 && f.tyb == .i32
  let mx := f.fn.toNat % 4
  let nd := isNone f.dst
  let ex := sq && t0 && !f.fs && !f.actx && f.acc == 0 && f.aux == 0
  match i with
  | .mma _ => sq && u && nd && qPair f.sa && qPair f.sb && qOrLit 64 f.sc && mmaOk f.ty f.tyb mx && decide (f.fn.toNat < 4)
  | .mmaSp _ => sq && u && nd && qPair f.sa && qPair f.sb && qPair f.sc && mmaOk f.ty f.tyb mx && decide (f.fn.toNat < 4)
  | .mmaChk _ => sq && (nd || isQ f.dst) && qPair f.sa && qPair f.sb && qPair f.sc && mmaOk f.ty f.tyb mx
      && !(f.ty == .i8 && mx == 0) && decide (f.fn.toNat < 8)
  | .miter _ | .miterCont _ => sq && u && (nd || isQ f.dst) && isNone f.sa && isNone f.sb && qOrLit 64 f.sc
      && (f.ty == .bf16 || f.ty == .f16) && f.tyb == .i32
  | .aclr _ => sq && u && nd && isNone f.sa && isNone f.sb && isNone f.sc && (f.ty == .f32 || f.ty == .i32)
      && f.tyb == .i32 && (f.fn == 0 || (f.fn == 1 && f.acc == 0))
  | .aout _ | .aoutClr _ => sq && u && qPair f.dst && isNone f.sa && isNone f.sb && qOrLit 64 f.sc && f.tyb == .i32
      && (match f.ty with | .f32 | .bf16 | .f16 | .e4m3 | .e5m2 | .e2m1 | .i32 | .i8 => true | _ => false)
  | .ain _ => sq && u && nd && qPair f.sa && isNone f.sb && qOrLit 64 f.sc && f.tyb == .i32 && f.fn == 0
      && (f.ty == .f32 || f.ty == .i32)
  | .epi _ => sq && u && nd && isQ f.sa && isNone f.sb && isNone f.sc && t0 && f.fn == 0 && f.acc == 0
  | .kld _ => sq && decide (f.aux.toNat < 128) && nd && qOrLit 32 f.sa && isNone f.sb && isNone f.sc && f.ty == .f32
      && f.tyb == .i32 && f.acc == 0
  | .kldAll _ => sq && u && nd && qOrLit 32 f.sa && isNone f.sb && isNone f.sc && f.ty == .f32 && f.tyb == .i32 && f.acc == 0
  | .actxSwap _ | .actxRel _ => sq && u && nd && isNone f.sa && isNone f.sb && isNone f.sc && t0 && f.acc == 0
  | .txf _ => t0 && !f.actx && (nd || regOk k true f.dst) && regOk k true f.sa && regOk k true f.sb
      && (regOk k true f.sc || litOk 64 f.sc) && decide (f.fn.toNat ≤ 5) && decide (f.aux.toNat < 16)
      && decide (f.aux.toNat % 4 ≠ 3) && (f.aux.toNat % 8 == 0 || f.fn == 2 || f.fn == 3)
      && (!f.aux.getLsbD 3 || f.fn == 0 || f.fn == 2)
  | .txfcProd _ | .txfcCons _ => t0 && !f.actx && (nd || regOk k true f.dst) && regOk k true f.sa
      && regOk k false f.sb && isNone f.sc && f.aux == 0
  | .txfsRd _ | .txfsClr _ => t0 && !f.actx && !f.fs && regOk k true f.dst && isNone f.sa
      && isNone f.sb && isNone f.sc && f.aux == 0
  | .tnext _ => ex && qPair f.dst && isQ f.sa && isNone f.sb && isNone f.sc && f.fn == 0
  | .park _ => ex && (nd || isQ f.dst) && isQ f.sa && qPair f.sb && isNone f.sc && f.fn == 0
  | .tqaddSh _ | .tqaddRt _ => ex && (nd || isQ f.dst) && isQ f.sa && qPair f.sb && isNone f.sc
  | .erqQry _ | .erqAcq _ | .erqRel _ => ex && isQ f.dst && qOrLit 64 f.sa && isNone f.sb && isNone f.sc
  | .erpin _ | .erunpin _ => ex && isQ f.dst && qOrLit 64 f.sa && isNone f.sb && isNone f.sc && f.fn == 0
  | _ => false

/-- An instruction that a clause of kind `k` may hold: R95 to R99, R103 and the rules of its description. -/
def legal (k : ClauseKind) (i : Instr) : Bool :=
  match i.view with
  | .s _ f => legalS k i f
  | .v _ f => k != .seq && legalV i f
  | .m _ f => legalM k i f
  | .e _ f => legalE k i f
  | .p _ => true
  | .step => false

/-- Control transfers (R90) and the other instructions that end their clause (R163, R168, R222). -/
def Instr.mustEnd : Instr → Bool
  | .br _ | .brc _ | .brx _ | .call _ | .callx _ | .ret _ | .bsplit _ | .bjoin _ | .trapSeq _ | .trapHost _ | .rett _
  | .halt _ | .bar _ | .commitBlock _ | .commitGrid _ | .commitPod _ | .sleep _ => true
  | _ => false

/-- Instructions that gate their clause from slot 1 (R160, R214). -/
def Instr.gates : Instr → Bool
  | .waitc _ | .waittl _ | .bowait _ | .cbacqProd _ | .cbacqCons _ | .tnext _ => true
  | _ => false

/-- Where in its clause an instruction may stand: slot `k` of `n` occupied ones (R90, R99, R101, R160). -/
def placeOk (i : Instr) (k n : Nat) : Bool :=
  decide (k + i.slots ≤ n + 1) && (!i.mustEnd || k + i.slots == n + 1) && (!i.gates || k == 1)
    && (match i with | .rep _ => decide (k < 7) && decide (k < n) | _ => true)

/-- The `fs` bit of a variable-latency instruction (R91); `none` for the others. -/
def Instr.flagSel : Instr → Option Bool
  | .ld f | .st f | .sld f | .sst f | .ldx f | .atom f | .red f | .cas f | .satom f | .mred f | .mired f | .meval f
  | .mfill f => some f.fs
  | .mma f | .mmaSp f | .mmaChk f | .miter f | .miterCont f | .aclr f | .ain f | .aout f | .aoutClr f | .epi f | .kld f
  | .kldAll f | .actxSwap f | .actxRel f | .txf f | .txfcProd f | .txfcCons f => some f.fs
  | _ => none

/-! ### Firmware command blocks (Table 29-1, Table 29-2) -/

/-- The command that a block names: its code, with w6 bit 0 for EXPTABLE and w1 bits 1:0 for LEASE (Table 29-5). -/
def decodeCommand (w0 w1 w6 : W64) : Instr :=
  match fld w0 63 56 with
  | 0x01 => .nodeAttach
  | 0x02 => .nodeUpdate
  | 0x03 => .nodeDetach
  | 0x04 => .faultbuf
  | 0x05 => .faultflush
  | 0x06 => .resume
  | 0x07 => .endDomain
  | 0x08 => .pool
  | 0x09 => .save
  | 0x0A => .inval
  | 0x0B => .staging
  | 0x0C => if bitAt w6 0 then .exptableDeregister else .exptableRegister
  | 0x0D => .expfetch
  | 0x0E => .expevict
  | 0x0F => .l2ways
  | 0x10 => .replica
  | 0x11 => .podJoin
  | 0x12 => .inbound
  | 0x13 =>
    match fld w1 1 0 with
    | 0 => .leaseGrant
    | 1 => .leaseRevokeCommand
    | 2 => .leaseFree
    | _ => .leaseRead
  | 0x14 => .powercap
  | 0x15 => .attest
  | 0x16 => .status
  | 0xE0 => .debugRead
  | 0xE1 => .debugWrite
  | 0xE2 => .debugHalt
  | 0xE3 => .debugStep
  | 0xE4 => .debugContinue
  | _ => .unknownCommand

/-- The instruction that a word numbered as the opcode table numbers it decodes to: bits 63:0 are the instruction
word, bits 127:64 the next slot; the instruction must be legal in some clause kind. -/
def decodeTableWord (nbits w : Nat) : Option Instr :=
  match decodeWord (BitVec.ofNat 64 (w % 2 ^ nbits)) (BitVec.ofNat 64 (w % 2 ^ nbits / 2 ^ 64)) with
  | .ok i => if legal .wave i || legal .seq i || legal .handler i then some i else none
  | .error _ => none

end Sys2Proof
end

