-- ==== Sys2Proof/Machine/State.lean ====
section
/-! DEFINITION. The state of one BZ-40, as plain data, and the state right after reset. INVENTORY.md, heading State,
lists the rule of spec/ behind every field; the model's own fields are `agenda`, `issue`, `fw`, `free`, `fresh`, `tick`. -/

namespace Sys2Proof.Machine

open Sys2Proof

/-- A finite map with natural keys: pairs in strictly rising key order. -/
abbrev Map (V : Type) := List (Nat × V)

/-- Memory: (address, byte) pairs in strictly rising address order, none of them 0, which is what an unlisted address
reads as (log entry 4). -/
abbrev Mem := List Host.Cell

/-- Why the machine stops with a fault. -/
inductive Fault where
  /-- Raised by no step: the manual turns every stop into a trap, a status or a record. Kept so that the outcome type
  is closed. Safe. -/
  | neverRaised
deriving DecidableEq, Repr

/-- Why a step has no meaning. -/
inductive Refusal where
  /-- Raised by exec for an instruction without a meaning in this model. Safe. -/
  | notModelled (mnemonic : String)
  /-- Raised by the meaning of an encoded instruction when no agent issues it, a state that no selection makes. Safe. -/
  | noAgent
deriving DecidableEq, Repr

/-- What the agenda holds: a step of the device or of the world outside, or a command offered to a mailbox. -/
inductive Act where
  | event (i : Instr)
  | mail (b : MailBox) (a : Nat)
deriving DecidableEq, Repr

/-- The agent whose next step is an instruction; `rep` is set when the instruction is the target of a REP. -/
structure Latch where
  ag : Agent
  rep : Bool
deriving DecidableEq, Repr

/-- A trap record (Table 27-2). -/
structure TRec where
  w0 : W64
  w1 : W64
  w2 : W64
  w3 : W64
deriving DecidableEq, Repr

/-- A PC slot is Empty, Running or Joined (R42). -/
inductive PathSt where
  | empty | running | joined
deriving DecidableEq, Repr

/-- What holds back the next clause of a PC slot or thread. -/
inductive Wait where
  | none
  /-- BAR b has been executed (R163). -/
  | bar (b : Nat)
  /-- A COMMIT waits (R170). -/
  | commit (n : Nat)
  /-- SLEEP has been executed; its end on the agent's clock (R225). -/
  | sleep (until_ : Nat)
deriving DecidableEq, Repr

/-- A PC slot (R42, Table 16-9). -/
structure Path where
  st : PathSt
  /-- Clause address. -/
  pc : BitVec 57
  /-- Slot of the clause at which the path goes on, 1 to 7. -/
  slot : Nat
  depth : Nat
  mask : Mask
  /-- The eight words of the clause while it is being issued (R93). -/
  code : Option (List W64)
  wait : Wait
  /-- The path resumes at a named slot, so its header's wait is not tested (R220). -/
  named : Bool
deriving DecidableEq, Repr

/-- Whether a wave issues (R219, R318, Table 27-10). -/
inductive Stop where
  | run | seq | host | parked
deriving DecidableEq, Repr

/-- Where the registers of a wave or thread are (R324). -/
inductive Bank where
  | active
  /-- In the shadow bank, waiting for the spill. -/
  | out
  /-- In the save area only. -/
  | saved
  /-- In the shadow bank, filled. -/
  | filled
deriving DecidableEq, Repr

/-- Handler special registers (Table 27-4). -/
structure HRegs where
  hpc : W64
  hmask01 : W64
  hmask2 : W32
  hva : W64
  hsave : Vector W64 4
deriving DecidableEq, Repr

/-- A wave (R36, Table 27-10). -/
structure Wave where
  wg : Nat
  launch : Nat
  ctx : Nat
  /-- Index in the workgroup. -/
  ix : Nat
  /-- Issue partition, 0 to 639. -/
  part : Nat
  /-- Residence slot, 0 to 11. -/
  rslot : Nat
  /-- Vector registers granted (R40). -/
  allot : Nat
  sreg : Vector W32 61
  vreg : Vector Lanes 128
  p0 : Path
  p1 : Path
  /-- The alternate slot issued last (R46). -/
  alt : Bool
  fcnt : Vector Nat 12
  ldcnt : Nat
  stcnt : Nat
  fpstat : W32
  repctl : W32
  dstkbase : W64
  dstklen : W32
  dstkdepth : W32
  stop : Stop
  /-- The PC slot in the handler state (R315); `some true` is the alternate slot. -/
  inh : Option Bool
  /-- PC slot, clause address and slot (0 for a clause fetch) of each first-touch that has not passed its checks since, and whether
  its handler has taken a pool's reserve (R316). -/
  touched : List (Bool × BitVec 57 × Nat × Bool)
  hreg : HRegs
  trec : TRec
  dlv : Bool
  /-- DWSTEP has released the wave for one instruction (R221). -/
  step : Bool
  /-- When the wave was last selected (R64). -/
  age : Nat
  bank : Bank
deriving DecidableEq, Repr

/-- State of a sequencer thread (Table 27-11). -/
inductive ThreadSt where
  | free | running | halted
deriving DecidableEq, Repr

/-- A trap that waits for a thread (R218). -/
structure Queued where
  /-- The wave that trapped; `none` is the thread itself. -/
  wave : Option Nat
  /-- `tsrc` (Table 16-7). -/
  src : W32
  trec : TRec
deriving DecidableEq, Repr

/-- A sequencer thread (R37, Table 27-11). -/
structure Thread where
  st : ThreadSt
  launch : Nat
  ctx : Nat
  q : Vector W64 32
  pc : BitVec 57
  slot : Nat
  code : Option (List W64)
  wait : Wait
  named : Bool
  inh : Bool
  /-- Stopped at tier 3 (R318). -/
  stop : Bool
  /-- The instruction at `slot` has been found waiting at issue (R218). -/
  waits : Bool
  wasHalted : Bool
  /-- The COMMIT or SLEEP that the thread waited for when it took the trap (R218). -/
  wasWait : Wait
  tvec : W64
  tret : W64
  tsrc : W32
  trec : TRec
  queue : List Queued
  fpstat : W32
  repctl : W32
  fcnt : Vector Nat 12
  ldcnt : Nat
  stcnt : Nat
  /-- Epoch of the thread's tag (R269). -/
  epoch : Bool
  /-- The thread has been bound since reset. -/
  used : Bool
  /-- Number of the present binding: every binding has its own. -/
  bind : Nat
  age : Nat
  bank : Bank
  /-- The workgroup with which the thread was saved (R60). -/
  kept : Nat
deriving DecidableEq, Repr

/-- A workgroup (R35, R47). -/
structure WG where
  launch : Nat
  ctx : Nat
  x : Nat
  y : Nat
  z : Nat
  core : Nat
  slot : Nat
  epoch : Bool
  /-- Offset and size of the window in the cluster's scratchpad. -/
  wbase : Nat
  wsize : Nat
  nw : Nat
  /-- Pre-empted and not resident. -/
  out : Bool
deriving DecidableEq, Repr

/-- Parameters of a launch (Table 03-2, Table 05-1). -/
structure Params where
  l1mode : Nat
  serial : Bool
  cond : Bool
  brcount : Nat
  wpg : Nat
  allot : Nat
  gridx : Nat
  gridy : Nat
  gridz : Nat
  wgspad : Nat
  seqspad : Nat
  stksz : Nat
  wentry : Nat
  sentry : Nat
  argptr : W64
  stkbase : W64
  cpladdr : Nat
  resaddr : Nat
  skips : List Nat
deriving DecidableEq, Repr

/-- How far a launch is (R38, R260). -/
inductive LPhase where
  | run
  /-- The launch-end commit runs under this number. -/
  | commit (n : Nat)
deriving DecidableEq, Repr

/-- A launch that is placing or running. -/
structure Launch where
  /-- Address of the queue's block. -/
  q : Nat
  k : Nat
  ctx : Nat
  par : Params
  /-- Linear index of the next workgroup to place. -/
  next : Nat
  /-- Sequencer windows: cluster, offset in its scratchpad. -/
  win : Map Nat
  /-- Uses held through ERQ.ACQ: expert id, count (R302). -/
  uses : Map Nat
  phase : LPhase
  /-- Memory when the launch started: a clause word may be fetched as it was then (R93). -/
  snap : Mem
  /-- Ended by its fault domain, with the cause (R318). -/
  dead : Option Nat
  /-- Records failed at the end of the domain (R281). -/
  failed : Nat
deriving DecidableEq, Repr

/-- A visible packet (R53 to R58). A completed one is kept while an older one of its queue is incomplete. -/
inductive PacketSt where
  | visible
  /-- A no-op that was read and waits for the packet before it (R58). -/
  | read (w : List W64)
  /-- A launch, with the words that were read. -/
  | launched (w : List W64)
  | done (st : Nat)
deriving DecidableEq, Repr

/-- Attached region control blocks (R31, R61, R319). -/
structure Node where
  w : Vector W64 16
  state : Nat
  faults : Nat
  gen : W32
  /-- Pass value (R61). -/
  pass : W64
  /-- HBM frames held, in units of 4 KiB. -/
  hbmuse : Nat
  /-- UALink bytes sent in the present window (R33). -/
  sent : Nat
  /-- Permits held by the subtree (R279). -/
  permits : Nat
  /-- Device-wide readiness at the last choice (R61). -/
  ready : Bool
  /-- Write index applied last, and packets complete (R53, R55). -/
  wprev : Nat
  c : Nat
  /-- Placement pointer, a core (R66); `none` until the first launch. -/
  ptr : Option Nat
  /-- Packets that are skipped as they become visible: the launch whose branch passed over them, and how many follow it (R65). -/
  skip : List (Nat × Nat)
  /-- The device's copy of the write-index line has been invalidated (R53). -/
  stale : Bool
deriving DecidableEq, Repr

/-- A core (R60 to R62, R324). -/
structure Core where
  active : Option Nat
  /-- Queue that the present slice is charged to. -/
  queue : Nat
  /-- Pre-emption requested for this context and queue. -/
  req : Option (Nat × Nat)
  /-- The shadow bank holds the requested context. -/
  filled : Bool
  /-- The context whose outgoing spill has not ended. -/
  spill : Option Nat
  /-- Cycle count at which the slice began. -/
  slice : W64
  /-- A slice is running: it has not been charged (R62). -/
  inSlice : Bool
  /-- The next slice waits for full service, which begins between two slices of every core (R338). -/
  hold : Bool
  /-- An instruction has issued since the last flip (R69). -/
  begun : Bool
  cyc : W64
  /-- Epoch of the next occupant of each workgroup slot (R269). -/
  epochs : Vector Bool 8
deriving DecidableEq, Repr

/-- Scheduling state. -/
structure Sched where
  nodes : Map Node
  /-- By block address of the queue and packet number. -/
  packets : Map (Map PacketSt)
  launches : Map Launch
  wgs : Map WG
  cores : Map Core
  /-- Clusters whose L1s are in fused mode. -/
  fused : List Nat
  /-- Cycle counters of the clusters (R118). -/
  clk : Map W64
deriving DecidableEq, Repr

/-- What a translated address reaches. -/
inductive Home where
  /-- Device physical memory of this device. -/
  | mem (pa : Nat)
  /-- Byte of a cluster's scratchpad. -/
  | spad (c off : Nat)
  /-- Memory of device n, through lease window w where one is named. -/
  | dev (n pa : Nat) (w : Option Nat)
  /-- The window of a device that is no member (R288). -/
  | down (pa : Nat)
deriving DecidableEq, Repr

/-- Where an agent stood when it issued: the core of a wave (`none` for a thread), the cluster, the commit tag, and for a
thread the number of its binding. What is under way keeps it, so that it goes on when the agent has ended. -/
structure Seat where
  core : Option Nat
  cluster : Nat
  tag : BitVec 12
  bind : Nat
deriving DecidableEq, Repr

/-- One lane of an access whose checks have passed. -/
structure LaneAcc where
  lane : Nat
  va : Nat
  home : Home
  /-- An L1 may hold its line (R235). -/
  cached : Bool
  /-- An L2 may hold its line: no bypass page (R237). -/
  l2 : Bool
  val : W64
  cmp : W64
deriving DecidableEq, Repr

/-- What an access does to each lane's word. -/
inductive AccOp where
  | load
  | store
  /-- A read-modify-write; `true` returns the old value. -/
  | rmw (op : Nat) (ret : Bool)
deriving DecidableEq, Repr

/-- A record on its way to a core log, a log entry or a bin entry: words of Table 21-1, its destination and context. -/
structure Rec where
  w0 : W64
  w1 : W64
  dest : BinDest
  ctx : Nat
  launch : Nat
  /-- Virtual address of the lane. -/
  va : Nat
deriving DecidableEq, Repr

/-- An incomplete access (R91, R148, R149). -/
structure Access where
  n : Nat
  ag : Agent
  seat : Seat
  /-- The PC slot that issued it. -/
  alt : Bool
  ctx : Nat
  launch : Nat
  op : AccOp
  ty : Ty
  scope : Scope
  ord : Order
  dst : Opnd
  lanes : List LaneAcc
  /-- Lanes sent to another device and not yet answered: fabric request number, lane. -/
  sent : List (Nat × LaneAcc)
  recs : List Rec
  flag : Option Nat
  ld : Bool
  st : Bool
deriving DecidableEq, Repr

/-- A line held by an L1 (R235): its owner (a core, or 160 + cluster when fused), bytes and which of them are dirty. -/
structure L1Line where
  owner : Nat
  line : Nat
  bytes : List Byte
  dirty : List Bool
deriving DecidableEq, Repr

/-- A copy, in the home L2 of a die, of bytes of another device (R234, R289). -/
structure FarCopy where
  die : Nat
  dev : Nat
  pa : Nat
  byte : Byte
deriving DecidableEq, Repr

/-- A translation held by a TLB (R17, R233): its unit (a core, 160 + c for the sequencer of cluster c, 200 + c for its tensor
engine, 240 for the command processor and firmware), context, virtual address bits 56:12, leaf entry and frame of that 4 KiB. -/
structure TlbEntry where
  unit : Nat
  ctx : Nat
  vpn : Nat
  leaf : W64
  pa : Nat
deriving DecidableEq, Repr

/-- The memory path. -/
structure MemPath where
  acc : List Access
  l1 : List L1Line
  far : List FarCopy
  tlb : List TlbEntry
deriving DecidableEq, Repr

/-- An entry of a core log (R268). -/
inductive LogEntry where
  | record (r : Rec)
  | marker (n : Nat)
deriving DecidableEq, Repr

/-- A record in a bin: the run of FADD operands it stands for (R271) and the number of markers ahead of its group. -/
structure BinRec where
  w0 : W64
  w1 : W64
  run : List W64
  grp : Nat
  launch : Nat
  /-- Numbers of the inbound slots whose records it stands for (R274). -/
  slots : List Nat
deriving DecidableEq, Repr

/-- A bin (R270, Table 21-4). `key` names the records' source: a context of this device, or 1024 + 1024 * device +
context for records that another device sent. -/
structure Bin where
  die : Nat
  dest : BinDest
  key : Nat
  hcap : W32
  srcdev : Nat
  inc : BitVec 16
  recs : List BinRec
  /-- The bin is to ship. -/
  due : Bool
deriving DecidableEq, Repr

/-- A commit notice: the commit, the tags covered, and the source device and incarnation of a remote one. -/
structure Notice where
  /-- Commit number; for a remote notice the number under which its acknowledgement is due. -/
  n : Nat
  tags : List (BitVec 12)
  srcdev : Nat
  inc : BitVec 16
  /-- Groups up to this one are ahead of the marker; in `marks` by the core of the tag, where several are covered. -/
  grp : Nat
  marks : Map Nat
  /-- The die whose Belfry unit sends it, and the context on whose fabric queue it travels. -/
  die : Nat
  ctx : Nat
deriving DecidableEq, Repr

/-- What travels from a Belfry unit to one destination. -/
inductive Shipment where
  | bin (b : Bin)
  | notice (n : Notice)
deriving DecidableEq, Repr

/-- The channel from a die to a destination: what has shipped, and notices that wait behind bins not yet shipped. -/
structure Chan where
  die : Nat
  dest : BinDest
  sent : List Shipment
  behind : List Notice
deriving DecidableEq, Repr

/-- A region held by an accepted command or a staged bin (R175, R277): table entry, generation of the region, base, bound, rights. -/
structure Region where
  stack : Nat
  entry : Nat
  base : Nat
  bound : Nat
  rd : Bool
  wr : Bool
  /-- Regions the entry has held by CAPSWAP since this one was taken. -/
  swaps : Nat
deriving DecidableEq, Repr

/-- A staged bin (R272 to R275). -/
structure Staged where
  pch : Nat
  slot : Nat
  srcdev : Nat
  inc : BitVec 16
  hcap : W32
  key : Nat
  /-- For each record: group data, and whether it has been applied or has failed. -/
  recs : List (BinRec × Bool)
  /-- The region of the capability entry held (R277). -/
  hold : Option Region
deriving DecidableEq, Repr

/-- A bin of another device in an inbound slot of the receiving die (R273): its place on stack 3d, the first of the group
numbers kept for its records, which is also the slot's number, how many of them have been filed, and the region of the entry of
stack 3d that it holds (R277). The slot is kept until each record has been applied or has failed (R274). -/
structure Inbound where
  pch : Nat
  slot : Nat
  b : RemoteBin
  first : Nat
  filed : Nat
  hold : Option Region
deriving DecidableEq, Repr

/-- Why a commit runs. -/
inductive CommitFor where
  /-- A COMMIT; `all` is set where it covers every tag of its launch. -/
  | agent (ag : Agent) (seat : Seat) (alt : Bool) (dst : Opnd) (all : Bool)
  | launch
  | retire
deriving DecidableEq, Repr

/-- A commit in progress (R169, R170). -/
structure Commit where
  n : Nat
  why : CommitFor
  launch : Nat
  ctx : Nat
  tags : List (BitVec 12)
  pod : Bool
  /-- Cores whose log still holds the marker behind covered records. -/
  cores : List Nat
  /-- Cores whose log the marker has not entered: it waits for room, and for records of the tags that wait for it. -/
  pend : List Nat
  /-- Notices not yet acknowledged. -/
  left : Nat
  failed : Nat
  /-- Groups ahead of the marker, by core whose marker has been drained. -/
  marks : Map Nat
deriving DecidableEq, Repr

/-- A failed record, which every COMMIT that covers it counts (R170). -/
structure Lost where
  /-- The device that sent it and its incarnation; `none` for this device's own (R267). -/
  src : Option (Nat × BitVec 16)
  launch : Nat
  tag : BitVec 12
  /-- The tag has passed to another workgroup or thread since. -/
  old : Bool
  /-- Bound for another device. -/
  far : Bool
deriving DecidableEq, Repr

/-- A notice from another device: sender and incarnation, its request, notices of it not yet replayed, failures, tags (R292). -/
structure Waiting where
  dev : Nat
  inc : BitVec 16
  req : Nat
  left : Nat
  fails : Nat
  tags : List (BitVec 12)
deriving DecidableEq, Repr

/-- A region capability table entry (Table 21-5). -/
structure Cap where
  state : Nat
  wr : Bool
  rd : Bool
  kind : Nat
  owner : Nat
  gen : BitVec 16
  busy : Nat
  old : Nat
  base : Nat
  bound : W64
deriving DecidableEq, Repr

/-- An accepted memory-side command (R180). -/
structure Cmd where
  num : Nat
  /-- The agent and the number that orders its instruction among the agent's accesses. -/
  ag : Agent
  seat : Seat
  n : Nat
  ctx : Nat
  stack : Nat
  launch : Nat
  w : Vector W64 8
  scope : Scope
  dst : Region
  src : Option Region
  idx : Option Region
  prog : List Byte
  item : Nat
  st : Nat
deriving DecidableEq, Repr

/-- A command block that has not been accepted or rejected (R177, R179). -/
structure Offer where
  n : Nat
  ag : Agent
  seat : Seat
  alt : Bool
  ctx : Nat
  launch : Nat
  kind : Nat
  w : Vector W64 8
  va : Nat
  scope : Scope
  ord : Order
  dst : Opnd
  flag : Option Nat
deriving DecidableEq, Repr

/-- The deferred path and the memory side. -/
structure Deferred where
  logs : Map (List LogEntry)
  /-- Markers drained from each log. -/
  groups : Map Nat
  bins : List Bin
  chans : List Chan
  /-- Staging area of a stack: ring base and slots. -/
  areas : Map (Nat × Nat)
  staged : List Staged
  inb : List Inbound
  /-- Notices received by a pseudo-channel. -/
  inbox : Map (List Notice)
  commits : List Commit
  caps : Map Cap
  /-- CAPSWAPs that an entry has undergone. -/
  swaps : Map Nat
  offers : List Offer
  cmds : List Cmd
  /-- Command counters by context and stack: accepted, completed. -/
  counts : Map (Nat × Nat)
  replicas : Map (Nat × Nat)
  /-- Bins numbered so far to each device. -/
  bseq : Map Nat
  /-- Devices that have been sent records whose notice is unanswered: device, tag, request of the last bin. -/
  farTags : List (Nat × BitVec 12 × Nat)
  /-- Words of other devices to which records of a tag have been sent and not yet covered: device, tag, address, group (R171). -/
  farWords : List (Nat × BitVec 12 × Nat × Nat)
  /-- Failed records of the present occupants of their tags. -/
  lost : List Lost
deriving DecidableEq, Repr

/-- The loop state of MITER (R202, Table 27-13). -/
structure Loop where
  active : Bool
  mode : Nat
  ft : Nat
  xtile : Nat
  iters : Nat
  ctl : W32
  rho : W32
deriving DecidableEq, Repr

/-- A logical accumulator context (R16, R188, Table 27-13). -/
structure Acc where
  claimed : Bool
  /-- Workgroup that claimed it. -/
  wg : Nat
  tiles : Vector (Vector W32 4096) 4
  kinds : BitVec 4
  k : Vector W32 8
  epi : Vector W64 8
  loop : Loop
deriving DecidableEq, Repr

/-- A physical accumulator bank (R325): owner context and x, and when it was last selected. -/
structure AccBank where
  owner : Option (Nat × Nat)
  age : Nat
deriving DecidableEq, Repr

/-- A matrix operation in flight: the instruction with the register values it captured at issue (R187). -/
structure MOp where
  num : Nat
  i : Instr
  cluster : Nat
  thread : Nat
  seat : Seat
  ctx : Nat
  launch : Nat
  dst : Opnd
  a : W64
  a2 : W64
  b : W64
  b2 : W64
  c : W64
  c2 : W64
  /-- The destination pair of AOUT. -/
  d : W64
  d2 : W64
  flag : Option Nat
  /-- MITER has more iterations to run. -/
  more : Bool
  /-- `out` of Table 15-7. -/
  out : Nat
  /-- Trap record of the instruction, without its cause. -/
  trec : TRec
  /-- Operand codes as they stood at issue, by operand (R193). -/
  snap : List (Nat × List Nat)
  /-- The thread's launch view at issue: ranges of it, each with its length and its scratchpad offset (R153). -/
  view : List (Nat × Nat × Nat)
  /-- The waves resident on the unit at issue: residence slot and wave. -/
  res : List (Nat × Nat)
deriving DecidableEq, Repr

/-- The matrix units. -/
structure Matrix where
  accs : Map Acc
  banks : Map (AccBank × AccBank)
  mops : Map MOp
  /-- Stream counters by context and unit: given, completed. -/
  counts : Map (Nat × Nat)
deriving DecidableEq, Repr

/-- An accepted TXF or TXFC (Table 27-12). -/
structure TxfCmd where
  num : Nat
  txfc : Bool
  fn : Nat
  rm : Nat
  sat : Bool
  sums : Bool
  par : W64
  cursor : Nat
  cbaddr : W32
  idx : List W32
  srec : List W64
  drec : List W64
  ag : Agent
  seat : Seat
  /-- Number that orders the instruction among the agent's accesses. -/
  n : Nat
  launch : Nat
  flag : Option Nat
  /-- Virtual pages pinned, each with the frame it reaches (R206). -/
  pages : List (Nat × Home)
  /-- Launch-view pages that the command reaches, each with its offset in the cluster's scratchpad. -/
  pads : List (Nat × Nat)
  /-- Pinned virtual pages whose lines no L2 holds (R237). -/
  bypass : List Nat
  /-- Bytes that the command moves, and the bytes of one burst or piece. -/
  total : Nat
  piece : Nat
deriving DecidableEq, Repr

/-- A TXF stream (R203, R211). -/
structure Stream where
  status : W64
  last : Nat
  done : Nat
  cmds : List TxfCmd
  /-- Stopped at a switch (R212). -/
  saved : Bool
  /-- Numbers of the commands in the slots of its record, while it is saved. -/
  slots : List Nat
deriving DecidableEq, Repr

/-- A registered expert table (Table 25-1). -/
structure ExpTable where
  ertbase : Nat
  nent : Nat
  spcnt : Nat
  spbase : Nat
  /-- Virtual pages of the table and of the spill records, with the physical addresses of their frames, pinned. -/
  frames : List (Nat × Nat)
deriving DecidableEq, Repr

/-- An expert fetch: running, or waiting for one of the 16 places (R299). -/
structure Fetch where
  ctx : Nat
  x : Nat
  cluster : Nat
  running : Bool
  /-- Backing address, length and destination, read when the fetch began. -/
  kind : Nat
  bpa : Nat
  blen : Nat
  rva : Nat
  /-- Frames of the resident range, pinned. -/
  pages : List (Nat × Home)
  /-- The check failed: `ferr` and the address. -/
  bad : Option (Nat × Nat)
  /-- Bytes copied so far, in increasing order; writes of them to other devices may still be unanswered. -/
  copied : Nat
deriving DecidableEq, Repr

/-- A filled hardware wait slot (R301). -/
structure HwSlot where
  ctx : Nat
  e0 : W64
  e1 : W64
  block : W32
  thread : Nat
  launch : Nat
  link : W64
deriving DecidableEq, Repr

/-- A command or an invalidation that waits for an entry to become evicting or absent. -/
structure EvictWait where
  ctx : Nat
  x : Nat
  box : MailBox
  a : Nat
deriving DecidableEq, Repr

/-- The tensor engines and the experts. -/
structure Engines where
  streams : Map Stream
  tables : Map ExpTable
  hwq : Map HwSlot
  /-- Launch and cluster of a spill record in use: context * 2^20 + index. -/
  spills : Map (Nat × Nat)
  fetches : List Fetch
  evicts : List EvictWait
deriving DecidableEq, Repr

/-- A fault buffer (R320). -/
structure FBuf where
  header : Nat
  m : Nat
  wr : Nat
  gen : W32
  lost : W32
deriving DecidableEq, Repr

/-- A fault record that waits for space (R321). -/
structure HeldRec where
  box : FaultBox
  w : Vector W64 8
deriving DecidableEq, Repr

/-- A first-touch pool (R226, R316): free frames (address, count), holder of the reserve, waves that wait. -/
structure Pool where
  free : List (Nat × Nat)
  holder : Option Nat
  waiters : List Nat
deriving DecidableEq, Repr

/-- An invalidation in progress (R322). -/
structure Inval where
  n : Nat
  ctx : Nat
  va : Nat
  len : Nat
  box : MailBox
  a : Nat
deriving DecidableEq, Repr

/-- A tier-3 stop that RESUME may end: the agent and the node charged. -/
structure Tier3 where
  ag : Agent
  node : Nat
deriving DecidableEq, Repr

/-- Faults, pools and invalidations. -/
structure Faults where
  root : Option FBuf
  parts : Map FBuf
  held : List HeldRec
  lostEarly : Nat
  /-- Key: context * 128 + pool * 8 + page size. -/
  pools : Map Pool
  invals : List Inval
  stops : List Tier3
deriving DecidableEq, Repr

/-- What a fabric request carries (Table 23-2). -/
inductive FabKind where
  | read (n : Nat)
  | write (data : List Byte)
  | atomic (op : Nat) (ty : Ty) (v c : W64)
  | bin (b : Bin) (bseq : Nat)
  | notice (n : Notice)
deriving DecidableEq, Repr

/-- An unanswered request (R290, R291). -/
structure FabReq where
  n : Nat
  ctx : Nat
  queue : Nat
  /-- Sequence number, 48 bits; 0 for a read (R263). -/
  seq : Nat
  /-- Die of this device from which it leaves: the home of its address, or the die of its Belfry unit (R234, R290). -/
  die : Nat
  dev : Nat
  pa : Nat
  kind : FabKind
  /-- Sendings so far; 0 while the budget holds it (R33). -/
  sends : Nat
  /-- Lease window through which it goes. -/
  lease : Option Nat
  launch : Nat
  /-- The agent that wrote, with the number of its binding, for R264. -/
  who : Option (Agent × Nat)
  /-- The TXF stream and command, or the fetch, that a write belongs to. -/
  txf : Option (Nat × Nat)
  /-- No write of this device to its bytes, and no completed COMMIT.POD, has run beside it: a home L2 may keep the bytes that a
  read returns, or that a write has written (R171, R289). -/
  keep : Bool
deriving DecidableEq, Repr

/-- A fabric queue: last number given, numbers performed or failed (R263). -/
structure FabQueue where
  last : Nat
  done : List Nat
deriving DecidableEq, Repr

/-- A sequenced request that was performed, with the answer kept for duplicates (R263, R291). -/
structure Seen where
  f : RemoteFrom
  old : W64
deriving DecidableEq, Repr

/-- A peer lease (Table 23-3). -/
structure Lease where
  state : Nat
  rd : Bool
  wr : Bool
  lender : Nat
  linc : BitVec 16
  lid : W32
  lbase : Nat
  len : W64
deriving DecidableEq, Repr

/-- A lease served to a borrower: revoked or not (R294). -/
structure Lent where
  dev : Nat
  lid : W32
  /-- 0 served, 1 revoke sent, 2 no longer served. -/
  state : Nat
deriving DecidableEq, Repr

/-- What the device sends to the host or the pod outside memory. -/
inductive Reply where
  | readData (dev pa : Nat) (data : List Byte)
  /-- A request of a device to an address of a window that is no longer served (R294). -/
  | refused (dev pa : Nat)
  | atomicOld (f : RemoteFrom) (old : W64)
  | ack (f : RemoteFrom)
  | noticeAck (dev : Nat) (n fails : Nat)
  | permit (dev ctx n : Nat) (h : W32)
  | announce (inc : BitVec 16)
  /-- The members of the pod, as recovery announces them (R343). -/
  | members (l : List Nat)
  | leaseRevoke (dev : Nat) (lid : W32)
  | leaseDrained (dev : Nat) (lid : W32)
  | hostData (pa : Nat) (data : List Byte) (poison : Bool)
deriving DecidableEq, Repr

/-- The fabric and the pod. -/
structure Fabric where
  devno : Option Nat
  members : List Nat
  /-- Newest incarnation known of each device. -/
  incs : Map (BitVec 16)
  /-- Key: context * 64 + queue. -/
  queues : Map FabQueue
  out : List FabReq
  seen : List Seen
  /-- Bins seen: device and bin number. -/
  binSeen : List (Nat × Nat)
  /-- Permits held: context * 1024 + device. -/
  permits : Map Nat
  /-- Handle granted with them. -/
  handles : Map W32
  /-- Inbound entries: device * 1024 + context, stack: handle. -/
  inbound : Map (Map W32)
  /-- Permits granted to a sender and not returned: device * 1024 + context, then the handle granted with them. -/
  granted : Map (Map Nat)
  /-- Notices of other devices at work, by the number of their local notices. -/
  waiting : Map Waiting
  leases : Map Lease
  lent : List Lent
  /-- Ports of each device that do not reach it. -/
  lostPorts : List (Nat × Nat)
  recovery : List RecoveryPhase
  replies : List Reply
  /-- Agents of which a write to another device has failed, with their binding and launch: their later .pod releases fail
  (R264). -/
  broken : List (Agent × Nat × Nat)
  /-- Launches of which recovery has failed an item: their domains are to end (R343). -/
  affected : List Nat
deriving DecidableEq, Repr

/-- Forms of Table 00-1. -/
inductive Form where
  | p | m | e
deriving DecidableEq, Repr

/-- Device-wide registers. -/
structure Device where
  form : Form
  inc : BitVec 16
  ready : BitVec 4
  full : Bool
  /-- Cores whose slice began before the last die was ready: full service waits for its end (R338). -/
  late : List Nat
  /-- The ROM has verified the firmware image and runs it (R340). -/
  fwRuns : Bool
  powerCap : Nat
  /-- A POWERCAP that takes effect at the next millisecond (R339). -/
  nextCap : Nat
  clockMHz : Nat
  /-- Byte budget of each HBM stack for the present millisecond, empty before the first; bytes requested in it (R339). -/
  hbmBudget : List Nat
  hbmUsed : Map Nat
  /-- Corrected errors counted (R342). -/
  corrected : Nat
  penalty : Map Nat
  l2ways : Map (BitVec 16)
  /-- Stacks whose Cupola engine owns refresh (R282). -/
  cupolaRefresh : List Nat
  /-- Per pseudo-channel: row counter, postponed refreshes. -/
  refresh : Map (Nat × Nat)
  /-- Failed Rinest links. -/
  linksDown : List (Nat × Nat)
  /-- Controller-core memory that debug commands have written, by address / 8. -/
  ctlMem : Map W64
  fwHalted : Bool
  fwSteps : Nat
deriving DecidableEq, Repr

/-- The machine. -/
structure State where
  /-- Steps and inputs still to come, which say what acts next (log entry 1). -/
  agenda : List Act
  /-- The agent that the last selection chose (log entry 1). -/
  issue : Option Latch
  /-- The mailbox and block of the command being acted on. -/
  fw : Option (MailBox × Nat)
  /-- Free values used so far. -/
  free : Nat
  /-- Next unused number of waves, workgroups, accesses, commits and requests. -/
  fresh : Nat
  /-- Selections so far. -/
  tick : Nat
  mem : Mem
  spad : Mem
  /-- Word addresses (bytes / 4) of memory, and of scratchpad, that meet an uncorrectable error (R342). -/
  uncorr : List Nat
  spadBad : List Nat
  /-- Agents whose registers or accumulators met one. -/
  badAgents : List Agent
  waves : Map Wave
  threads : Map Thread
  dev : Device
  sch : Sched
  path : MemPath
  dfd : Deferred
  mx : Matrix
  eng : Engines
  flt : Faults
  fab : Fabric
deriving DecidableEq, Repr

/-- The machine right after reset. Values that no rule gives are named in log entry 3. -/
def State.reset : State :=
  { agenda := []
    issue := none
    fw := none
    free := 0
    fresh := 0
    tick := 0
    mem := []
    spad := []
    uncorr := []
    spadBad := []
    badAgents := []
    waves := []
    threads := []
    dev := { form := .p, inc := 0, ready := 0, full := false, late := [], fwRuns := false, powerCap := 2800, nextCap := 2800,
             clockMHz := 1200, hbmBudget := [], hbmUsed := [], corrected := 0, penalty := [], l2ways := (List.range 8).map (fun p => (p, 0xFFFF)),
             cupolaRefresh := [], refresh := [], linksDown := [],
             ctlMem := [], fwHalted := false, fwSteps := 0 }
    sch := { nodes := [], packets := [], launches := [], wgs := [], cores := [], fused := [], clk := [] }
    path := { acc := [], l1 := [], far := [], tlb := [] }
    dfd := { logs := [], groups := [], bins := [], chans := [], areas := [], staged := [], inb := [], inbox := [], commits := [],
             caps := [], swaps := [], offers := [], cmds := [], counts := [], replicas := [], bseq := [], farTags := [], farWords := [], lost := [] }
    mx := { accs := [], banks := [], mops := [], counts := [] }
    eng := { streams := [], tables := [], hwq := [], spills := [], fetches := [], evicts := [] }
    flt := { root := none, parts := [], held := [], lostEarly := 0, pools := [], invals := [], stops := [] }
    fab := { devno := none, members := [], incs := [], queues := [], out := [], seen := [], binSeen := [], permits := [],
             handles := [], inbound := [], granted := [], waiting := [], leases := [], lent := [], lostPorts := [],
             recovery := [], replies := [], broken := [], affected := [] } }

end Sys2Proof.Machine
end

