-- ==== Sys2Proof/Machine/Base.lean ====
section
/-! DEFINITION. Finite maps, memory as bytes, the physical map, the scheduling tree and the lookups that every other
file uses. -/

namespace Sys2Proof.Machine

open Sys2Proof

/-! ### Finite maps -/

/-- The value at a key. -/
def Map.find {V : Type} (m : Map V) (k : Nat) : Option V :=
  match m with
  | [] => none
  | (k', v) :: r => if k' = k then some v else Map.find r k

/-- The map with a value at a key. -/
def Map.put {V : Type} (m : Map V) (k : Nat) (v : V) : Map V :=
  match m with
  | [] => [(k, v)]
  | (k', v') :: r => if k < k' then (k, v) :: (k', v') :: r else if k = k' then (k, v) :: r else (k', v') :: Map.put r k v

/-- The map without a key. -/
def Map.del {V : Type} (m : Map V) (k : Nat) : Map V :=
  match m with
  | [] => []
  | (k', v') :: r => if k' = k then Map.del r k else (k', v') :: Map.del r k

/-- The value at a key, or a default. -/
def Map.at {V : Type} (m : Map V) (k : Nat) (d : V) : V := (Map.find m k).getD d

/-- The pairs whose value passes a test. -/
def Map.having {V : Type} (m : Map V) (p : Nat → V → Bool) : List (Nat × V) := m.filter (fun e => p e.1 e.2)

/-- Every value changed by a function of key and value. -/
def Map.each {V : Type} (m : Map V) (f : Nat → V → V) : Map V := m.map (fun e => (e.1, f e.1 e.2))

/-! ### Bytes -/

/-- The byte at an address; an unlisted one is 0 (log entry 4). -/
def Memory.get (m : Mem) (a : Nat) : Byte :=
  match m with
  | [] => 0
  | (k, b) :: r => if k = a then b else Memory.get r a

/-- The n bytes from an address made 0. -/
def Memory.clear (m : Mem) (a n : Nat) : Mem := m.filter (fun c => !(decide (a ≤ c.1) && decide (c.1 < a + n)))

/-- One byte written: an entry with the value that an unlisted address reads as leaves the list, any other stands in its
place by address. -/
def Memory.set (m : Mem) (a : Nat) (b : Byte) : Mem :=
  match m with
  | [] => if b = 0 then [] else [(a, b)]
  | (k, c) :: r =>
    if b = 0 then (if k = a then Memory.set r a b else (k, c) :: Memory.set r a b)
    else if a < k then (a, b) :: (k, c) :: r
    else if a = k then (a, b) :: r
    else (k, c) :: Memory.set r a b

/-- Every address of the list lies above `a` and every byte differs from 0, in rising order. -/
def Memory.above (a : Nat) (m : Mem) : Bool :=
  match m with
  | [] => true
  | (k, b) :: r => decide (a < k) && b != 0 && Memory.above k r

/-- The canonical form: strictly rising addresses, no byte that an unlisted address reads as. -/
def Memory.wf (m : Mem) : Bool :=
  match m with
  | [] => true
  | (k, b) :: r => b != 0 && Memory.above k r

/-- n bytes from an address. -/
def Memory.read (m : Mem) (a n : Nat) : List Byte := (List.range n).map (fun i => Memory.get m (a + i))

/-- Bytes written from an address upward. -/
def Memory.write (m : Mem) (a : Nat) (bs : List Byte) : Mem :=
  match bs with
  | [] => m
  | b :: r => Memory.write (Memory.set m a b) (a + 1) r

/-- Little-endian value of a byte list (R5). -/
def leNat : List Byte → Nat
  | [] => 0
  | b :: r => b.toNat + 256 * leNat r

/-- The n low bytes of a value, least significant first (R5). -/
def leBytes (n v : Nat) : List Byte := (List.range n).map (fun i => BitVec.ofNat 8 (v / 256 ^ i))

/-- n bytes as a number. -/
def Memory.num (m : Mem) (a n : Nat) : Nat := leNat (Memory.read m a n)

/-- A word of 64 bits. -/
def Memory.w64 (m : Mem) (a : Nat) : W64 := BitVec.ofNat 64 (Memory.num m a 8)

/-- Eight bytes written. -/
def Memory.putW64 (m : Mem) (a : Nat) (w : W64) : Mem := Memory.write m a (leBytes 8 w.toNat)

/-- n consecutive words of 64 bits. -/
def Memory.words (m : Mem) (a n : Nat) : List W64 := (List.range n).map (fun i => Memory.w64 m (a + 8 * i))

/-- Consecutive words written. -/
def Memory.putWords (m : Mem) (a : Nat) (ws : List W64) : Mem :=
  match ws with
  | [] => m
  | w :: r => Memory.putWords (Memory.putW64 m a w) (a + 8) r

/-- Word i of a list, 0 past its end. -/
def wordAt (l : List W64) (i : Nat) : W64 := l.getD i 0

/-- A word with bits hi:lo replaced. -/
def withFld (w : W64) (hi lo v : Nat) : W64 :=
  let m := 2 ^ (hi + 1 - lo)
  BitVec.ofNat 64 (w.toNat - (w.toNat / 2 ^ lo % m) * 2 ^ lo + (v % m) * 2 ^ lo)

/-- A number of n bits as a signed value. -/
def signed (n v : Nat) : Int := if v % 2 ^ n < 2 ^ (n - 1) then ((v % 2 ^ n : Nat) : Int) else ((v % 2 ^ n : Nat) : Int) - ((2 ^ n : Nat) : Int)

/-- A signed value in n bits. -/
def unsigned (n : Nat) (v : Int) : Nat := (v % ((2 ^ n : Nat) : Int)).toNat

/-! ### Physical map (Table 18-1) -/

/-- Whether die d is trained (R29, R338). -/
def State.dieReady (s : State) (d : Nat) : Bool := s.dev.ready.getLsbD d

/-- Bytes of local HBM. -/
def hbmSize : Nat := 12 * 2 ^ 36

/-- The address that the own pod window stands for (R288). -/
def State.ownWindow (s : State) (pa : Nat) : Nat :=
  if 2 ^ 50 ≤ pa ∧ s.fab.devno = some ((pa - 2 ^ 50) / 2 ^ 40) then pa % 2 ^ 40 else pa

/-- The die at which an address of Table 18-1 is homed (R234). -/
def mapDie (pa : Nat) : Nat :=
  if pa < hbmSize then pa / 2 ^ 36 / 3
  else if pa < 2 ^ 43 then pa / 2 ^ 41
  else if pa < 2 ^ 45 then (pa - 2 ^ 44) / 2 ^ 36 % 4
  else (pa - 2 ^ 50) / 2 ^ 40 % 4

/-- An address lies in an assigned range; stacks of dies that are not ready count as unassigned, in the own pod window too
(R288, R338, R344), and so do the ports and windows whose home L2 is at such a die, since only units of ready dies are in use (R29;
DEDUCED, log entry 55). -/
def State.assigned (s : State) (addr : Nat) : Bool :=
  let pa := s.ownWindow addr
  (decide (pa < hbmSize) || (decide (2 ^ 40 ≤ pa) && decide (pa < 2 ^ 43)) || (decide (2 ^ 44 ≤ pa) && decide (pa < 2 ^ 45))
    || (decide (2 ^ 50 ≤ pa) && decide (pa < 2 ^ 51) && decide (pa % 2 ^ 40 < hbmSize))) && s.dieReady (mapDie pa)

/-- Key of a TXF stream. -/
def streamKey (x c st : Nat) : Nat := (x * 40 + c) * 4 + st

/-- The lease entry of a window (R293). -/
def Lease.free : Lease := ⟨0, false, false, 0, 0, 0, 0, 0⟩

/-- Entry w of the peer lease table. -/
def State.lease (s : State) (w : Nat) : Lease := Map.at s.fab.leases w Lease.free

/-- What a physical address reaches; one past the map stands for an entry that a walk could not read, which is out of reach. -/
def State.home (s : State) (pa : Nat) : Home :=
  let a := s.ownWindow pa
  if a < 2 ^ 44 then .mem a
  else if a < 2 ^ 45 then
    let w := (a - 2 ^ 44) / 2 ^ 36
    .dev (s.lease w).lender ((s.lease w).lbase + (a - 2 ^ 44) % 2 ^ 36) (some w)
  else if s.fab.members.contains ((a - 2 ^ 50) / 2 ^ 40) then .dev ((a - 2 ^ 50) / 2 ^ 40) (a % 2 ^ 40) none
  else .down (if 2 ^ 51 ≤ a then a - 2 ^ 51 else a)

/-- The die at which an address of this device is homed (R234). -/
def homeDie (pa : Nat) : Nat := if pa < hbmSize then pa / 2 ^ 36 / 3 else pa / 2 ^ 41

/-- The home die of what an address reaches; a lease window w is at die w mod 4, another device n at die n mod 4 (R234). -/
def Home.die (h : Home) : Nat :=
  match h with
  | .mem pa => homeDie pa
  | .spad c _ => c / 10
  | .dev n _ w => w.getD n % 4
  | .down pa => (pa - 2 ^ 50) / 2 ^ 40 % 4

/-- The physical address by which a failed item names what it reaches: at another device that in its pod window, or in the lease
window through which it goes. That the address of Table 27-6 is the physical one is DEDUCED (log entry 38). -/
def State.addrOf (s : State) (h : Home) : Nat :=
  match h with
  | .mem pa | .down pa => pa
  | .spad _ o => o
  | .dev n pa none => 2 ^ 50 + n * 2 ^ 40 + pa
  | .dev _ pa (some w) => 2 ^ 44 + w * 2 ^ 36 + (pa - (s.lease w).lbase) % 2 ^ 36

/-- The Rinest link between two dies has failed (R21). -/
def State.cut (s : State) (a b : Nat) : Bool := a != b && (s.dev.linksDown.contains (a, b) || s.dev.linksDown.contains (b, a))

/-- The address i bytes further on. -/
def Home.plus (h : Home) (i : Nat) : Home :=
  match h with
  | .mem pa => .mem (pa + i)
  | .spad c o => .spad c (o + i)
  | .dev n pa w => .dev n (pa + i) w
  | .down pa => .down (pa + i)

/-- Scratchpad bytes of cluster c start here in `spad`. -/
def spadAt (c off : Nat) : Nat := c * 2 ^ 22 + off

/-- n bytes behind an address. Memory of another device reads as free values (log entry 10). -/
def State.bytesAt (s : State) (h : Home) (n : Nat) : List Byte :=
  match h with
  | .mem pa => Memory.read s.mem pa n
  | .spad c o => Memory.read s.spad (spadAt c o) n
  | .dev _ _ _ | .down _ => (List.range n).map (fun i => (Config.freeWord (s.free + i)).truncate 8)

/-- Word addresses that n bytes from an address do not overwrite whole. -/
def restOf (l : List Nat) (a n : Nat) : List Nat := l.filter (fun w => !(decide (a ≤ 4 * w) && decide (4 * w + 4 ≤ a + n)))

/-- Bytes written to this device's memory: a word overwritten whole meets its uncorrectable error no more (R342). -/
def State.writeMem (s : State) (pa : Nat) (bs : List Byte) : State :=
  { s with mem := Memory.write s.mem pa bs, uncorr := restOf s.uncorr pa bs.length }

/-- Bytes written behind an address of this device. -/
def State.putAt (s : State) (h : Home) (bs : List Byte) : State :=
  match h with
  | .mem pa => s.writeMem pa bs
  | .spad c o => { s with spad := Memory.write s.spad (spadAt c o) bs, spadBad := restOf s.spadBad (spadAt c o) bs.length }
  | .dev _ _ _ | .down _ => s

/-- Whether a read of n bytes meets an uncorrectable error (R342). -/
def State.badBytes (s : State) (h : Home) (n : Nat) : Bool :=
  match h with
  | .mem pa => n != 0 && s.uncorr.any (fun w => decide (4 * w < pa + n) && decide (pa < 4 * w + 4))
  | .spad c o => n != 0 && s.spadBad.any (fun w => decide (4 * w < spadAt c o + n) && decide (spadAt c o < 4 * w + 4))
  | _ => false

/-- The next n free values have been used. -/
def State.bumpFree (s : State) (n : Nat) : State := { s with free := s.free + n }

/-- A free value, and the state that has used it. -/
def State.takeFree (s : State) : W64 × State := (Config.freeWord s.free, { s with free := s.free + 1 })

/-- A number not used before, and the state that has used it. -/
def State.takeFresh (s : State) : Nat × State := (s.fresh, { s with fresh := s.fresh + 1 })

/-! ### Waves, threads, workgroups, launches -/

/-- An empty PC slot. -/
def Path.none : Path := ⟨.empty, 0, 1, 0, 0, Option.none, .none, false⟩

/-- A thread since reset (R37). -/
def Thread.idle : Thread :=
  { st := .free, launch := 0, ctx := 0, q := Vector.replicate 32 0, pc := 0, slot := 1, code := none, wait := .none,
    named := false, inh := false, stop := false, waits := false, wasHalted := false, wasWait := .none, tvec := 0, tret := 0, tsrc := 0,
    trec := ⟨0, 0, 0, 0⟩, queue := [], fpstat := 0, repctl := 0, fcnt := Vector.replicate 12 0, ldcnt := 0, stcnt := 0,
    epoch := false, used := false, bind := 0, age := 0, bank := .active, kept := 0 }

/-- A core since reset. -/
def Core.idle : Core := ⟨none, 0, none, false, none, 0, false, false, true, 0, Vector.replicate 8 false⟩

/-- Wave w. -/
def State.wave (s : State) (w : Nat) : Option Wave := Map.find s.waves w

/-- Wave w replaced. -/
def State.setWave (s : State) (w : Nat) (v : Wave) : State := { s with waves := Map.put s.waves w v }

/-- Thread t of cluster c. -/
def State.thread (s : State) (c t : Nat) : Thread := Map.at s.threads (4 * c + t) Thread.idle

/-- Thread t of cluster c replaced. -/
def State.setThread (s : State) (c t : Nat) (v : Thread) : State := { s with threads := Map.put s.threads (4 * c + t) v }

/-- Core n. -/
def State.core (s : State) (n : Nat) : Core := Map.at s.sch.cores n Core.idle

/-- Core n replaced. -/
def State.setCore (s : State) (n : Nat) (v : Core) : State := { s with sch := { s.sch with cores := Map.put s.sch.cores n v } }

/-- The cluster of a wave (R14). -/
def Wave.cluster (v : Wave) : Nat := v.part / 16

/-- The core of a wave. -/
def Wave.core (v : Wave) : Nat := v.part / 4

/-- The PC slot that issues. -/
def Wave.path (v : Wave) : Path := if v.alt then v.p1 else v.p0

/-- The other PC slot. -/
def Wave.other (v : Wave) : Path := if v.alt then v.p0 else v.p1

/-- The PC slot that issues, replaced. -/
def Wave.setPath (v : Wave) (p : Path) : Wave := if v.alt then { v with p1 := p } else { v with p0 := p }

/-- The other PC slot, replaced. -/
def Wave.setOther (v : Wave) (p : Path) : Wave := if v.alt then { v with p0 := p } else { v with p1 := p }

/-- A wave has ended (R38). -/
def Wave.ended (v : Wave) : Bool := v.p0.st == .empty && v.p1.st == .empty && v.dstkdepth == 0

/-- Workgroup g. -/
def State.wg (s : State) (g : Nat) : Option WG := Map.find s.sch.wgs g

/-- Key of launch k of queue q. -/
def launchKey (q k : Nat) : Nat := q * 2 ^ 64 + k

/-- A launch by its key. -/
def State.launch (s : State) (l : Nat) : Option Launch := Map.find s.sch.launches l

/-- A launch replaced. -/
def State.setLaunch (s : State) (l : Nat) (v : Launch) : State :=
  { s with sch := { s.sch with launches := Map.put s.sch.launches l v } }

/-- The launch of an agent. -/
def State.launchOf (s : State) (ag : Agent) : Nat :=
  match ag with
  | .wave w => match s.wave w with | some v => v.launch | none => 0
  | .thread c t => (s.thread c t).launch

/-- The context of an agent. -/
def State.ctxOf (s : State) (ag : Agent) : Nat :=
  match ag with
  | .wave w => match s.wave w with | some v => v.ctx | none => 0
  | .thread c t => (s.thread c t).ctx

/-- The cluster of an agent. -/
def State.clusterOf (s : State) (ag : Agent) : Nat :=
  match ag with
  | .wave w => match s.wave w with | some v => v.cluster | none => 0
  | .thread c _ => c

/-- The thread bound to a launch on a cluster (R37). -/
def State.threadFor (s : State) (l c : Nat) : Option Nat :=
  (List.range 4).find? (fun t => (s.thread c t).st != .free && (s.thread c t).launch == l)

/-- The commit tag under which an agent writes records (R267). -/
def State.tagOf (s : State) (ag : Agent) : BitVec 12 :=
  match ag with
  | .wave w =>
    match s.wave w with
    | some v =>
      match s.wg v.wg with
      | some g => BitVec.ofNat 12 (g.core * 16 + g.slot * 2 + g.epoch.toNat)
      | none => 0
    | none => 0
  | .thread c t => BitVec.ofNat 12 ((160 + c) * 16 + t * 2 + (s.thread c t).epoch.toNat)

/-- Where an agent stands. -/
def State.seat (s : State) (ag : Agent) : Seat :=
  match ag with
  | .wave w => ⟨match s.wave w with | some v => some v.core | none => none, s.clusterOf ag, s.tagOf ag, 0⟩
  | .thread c t => ⟨none, c, s.tagOf ag, (s.thread c t).bind⟩

/-- The core whose log takes records written from a seat (R268). -/
def Seat.log (p : Seat) : Nat := match p.core with | some k => k | none => 4 * p.cluster

/-- The agent that issued from a seat still exists: no wave that has ended, no thread bound anew. -/
def State.here (s : State) (ag : Agent) (p : Seat) : Bool :=
  match ag with
  | .wave w => (s.wave w).isSome
  | .thread c t => (s.thread c t).st != .free && (s.thread c t).bind == p.bind

/-- A workgroup holds waves of launch l on cluster c. -/
def State.onCluster (s : State) (l c : Nat) : Bool := s.sch.wgs.any (fun e => e.2.launch == l && e.2.core / 4 == c)

/-! ### Region control blocks -/

/-- Bits hi:lo of word i of a node's block. -/
def Node.f (n : Node) (i hi lo : Nat) : Nat := fld (n.w.toList.getD i 0) hi lo

/-- Level code (R30). -/
def Node.level (n : Node) : Nat := n.f 0 63 60

/-- Parent block. -/
def Node.parent (n : Node) : Nat := n.f 1 51 7 * 128

/-- Tenant partition. -/
def Node.tenpart (n : Node) : Nat := n.f 0 11 8

/-- Context number. -/
def Node.ctxid (n : Node) : Nat := n.f 8 9 0

/-- A node is attached. -/
def State.node (s : State) (a : Nat) : Option Node :=
  match Map.find s.sch.nodes a with
  | some n => if n.state = 0 then none else some n
  | none => none

/-- A node replaced, with the HW fields of its block in memory (Table 03-1, w14 and w15). The frames held, of whatever size,
count in `hbmuse` by the sum of their bytes, rounded up to its unit of 2 MiB: DESIGN CHOICE (log entry 47). Where a failed link cuts
die 0 off from the block's memory the node changes and its block does not (R21; log entry 24). -/
def State.setNode (s : State) (a : Nat) (n : Node) (coreuse : Nat) : State :=
  let w14 := BitVec.ofNat 64 (n.state * 2 ^ 56 + n.faults * 2 ^ 32 + n.gen.toNat)
  let w15 := BitVec.ofNat 64 ((n.hbmuse + 511) / 512 * 2 ^ 21 + coreuse)
  let t : State := { s with sch := { s.sch with nodes := Map.put s.sch.nodes a n } }
  if s.cut 0 (homeDie a) then t else t.writeMem (a + 112) (leBytes 8 w14.toNat ++ leBytes 8 w15.toNat)

/-- The node and its ancestors, nearest first; the tree has four levels. -/
def State.line (s : State) (fuel a : Nat) : List (Nat × Node) :=
  match fuel with
  | 0 => []
  | k + 1 =>
    match s.node a with
    | none => []
    | some n => (a, n) :: (if n.level = 0 then [] else s.line k n.parent)

/-- A node and its ancestors. -/
def State.ancestry (s : State) (a : Nat) : List (Nat × Node) := s.line 4 a

/-- Addresses of a node and its ancestors. -/
def State.anc (s : State) (a : Nat) : List Nat := (s.ancestry a).map (·.1)

/-- The effective value of a group (R32): the node's own where its `ovr` bit is set, else its parent's, bounded by
`cap` of the parent's effective value. -/
def effOf (bit : Nat) (own : Node → Nat) (cap : Nat → Nat → Nat) : List (Nat × Node) → Nat
  | [] => 0
  | [(_, n)] => own n
  | (_, n) :: r => if fld (n.w.toList.getD 0 0) (44 + bit) (44 + bit) = 1 then cap (own n) (effOf bit own cap r) else effOf bit own cap r

/-- Effective `cores`. -/
def State.effCores (s : State) (a : Nat) : Nat := effOf 0 (fun n => n.f 4 7 0) min (s.ancestry a)
/-- Effective `clmask`. -/
def State.effClmask (s : State) (a : Nat) : Nat := effOf 0 (fun n => n.f 4 47 8) (· &&& ·) (s.ancestry a)
/-- Effective `hbmbud`. -/
def State.effHbm (s : State) (a : Nat) : Nat := effOf 1 (fun n => n.f 5 63 21) min (s.ancestry a)
/-- Effective `stgbud`. -/
def State.effStg (s : State) (a : Nat) : Nat := effOf 2 (fun n => n.f 6 63 12) min (s.ancestry a)
/-- Effective `fabbud`. -/
def State.effFab (s : State) (a : Nat) : Nat := effOf 3 (fun n => n.f 7 63 10) min (s.ancestry a)
/-- Effective `prio`. -/
def State.effPrio (s : State) (a : Nat) : Nat := effOf 4 (fun n => n.f 0 43 40) min (s.ancestry a)
/-- Effective `weight`. -/
def State.effWeight (s : State) (a : Nat) : Nat := effOf 5 (fun n => n.f 0 31 16) (fun x _ => x) (s.ancestry a)
/-- Effective `fdom`. -/
def State.effFdom (s : State) (a : Nat) : Nat := effOf 6 (fun n => n.f 0 39 36) (fun x _ => x) (s.ancestry a)
/-- Effective `l2ways`. -/
def State.effWays (s : State) (a : Nat) : Nat := effOf 7 (fun n => n.f 4 55 48) (· &&& ·) (s.ancestry a)

/-- The block of context x. -/
def State.ctxNode (s : State) (x : Nat) : Option Nat :=
  match s.sch.nodes.find? (fun e => e.2.state != 0 && e.2.level == 2 && e.2.ctxid == x) with
  | some e => some e.1
  | none => none

/-- The block of tenant partition p. -/
def State.partNode (s : State) (p : Nat) : Option Nat :=
  match s.sch.nodes.find? (fun e => e.2.state != 0 && e.2.level == 1 && e.2.tenpart == p) with
  | some e => some e.1
  | none => none

/-- Root of the page table of context x. -/
def State.ptroot (s : State) (x : Nat) : Nat :=
  match s.ctxNode x with
  | some a => match s.node a with | some n => n.f 8 51 12 * 4096 | none => 0
  | none => 0

/-- Save area of context x (R328). -/
def State.savea (s : State) (x : Nat) : Nat :=
  match s.ctxNode x with
  | some a => match s.node a with | some n => n.f 9 51 12 * 4096 | none => 0
  | none => 0

/-- R328: an address lies in the save area of a context whose header says that spills or fills are in progress; with
`ever`, whatever the header says. -/
def State.inSave (s : State) (ever : Bool) (pa : Nat) : Bool :=
  s.sch.nodes.any (fun e => e.2.state != 0 && e.2.level == 2
    && decide (e.2.f 9 51 12 * 4096 ≤ pa) && decide (pa < e.2.f 9 51 12 * 4096 + 0x18000000)
    && (ever || fld (Memory.w64 s.mem (e.2.f 9 51 12 * 4096 + 48)) 63 32 != 0))

/-- An address is a byte of an expert's residency entry that software must not write: a HW field of a registered one (Table 00-2),
or a SW field of one whose `state` is not absent (R297); with `ever`, whatever its state. -/
def State.inEntry (s : State) (ever : Bool) (pa : Nat) : Bool :=
  s.eng.tables.any (fun e => e.2.frames.any (fun p =>
    let o := p.1 * 4096 + (pa - p.2) - e.2.ertbase
    decide (p.2 ≤ pa) && decide (pa < p.2 + 4096) && decide (e.2.ertbase ≤ p.1 * 4096 + (pa - p.2)) && decide (o < 512 * e.2.nent)
      && (decide (o % 512 < 8) || (decide (32 ≤ o % 512) && decide (o % 512 < 64))
        || (((decide (8 ≤ o % 512) && decide (o % 512 < 32)) || decide (256 ≤ o % 512))
          && (ever || fld (Memory.w64 s.mem (pa - o % 512)) 63 61 != 0)))))

/-- An address is a byte of a spill record of a registered table, which the device owns (Table 00-2, R301). -/
def State.inSpill (s : State) (pa : Nat) : Bool :=
  s.eng.tables.any (fun e => e.2.frames.any (fun p =>
    let va := p.1 * 4096 + (pa - p.2)
    decide (p.2 ≤ pa) && decide (pa < p.2 + 4096) && decide (e.2.spbase ≤ va) && decide (va < e.2.spbase + 32 * e.2.spcnt)))

/-- An address is a byte of a HW field of an attached node's block (w14, w15), of a configured fault buffer (`wr`, `gen`, `lost`, the
records), or of a staging area, all of which the device owns (Table 00-2). -/
def State.inOwned (s : State) (pa : Nat) : Bool :=
  let buf (f : FBuf) : Bool := (decide (f.header ≤ pa) && decide (pa < f.header + 8))
    || (decide (f.header + 16 ≤ pa) && decide (pa < f.header + 24))
    || (decide (f.header + 64 ≤ pa) && decide (pa < f.header + 64 + 64 * 2 ^ f.m))
  s.sch.nodes.any (fun e => e.2.state != 0 && decide (e.1 + 112 ≤ pa) && decide (pa < e.1 + 128))
    || (match s.flt.root with | some f => buf f | none => false) || s.flt.parts.any (fun e => buf e.2)
    || s.dfd.areas.any (fun e => decide (e.1 * 2 ^ 36 + e.2.1 ≤ pa) && decide (pa < e.1 * 2 ^ 36 + e.2.1 + (2 ^ 17 + 1024) * e.2.2))

/-- Software must not write an address now (Table 00-2, R297, R328); with `ever`, at some time. -/
def State.barred (s : State) (ever : Bool) (pa : Nat) : Bool := s.inSave ever pa || s.inEntry ever pa || s.inSpill pa || s.inOwned pa

/-- R9: what software leaves in memory where it writes bytes: an unspecified value at each address that a rule forbids it to
write for now without saying what follows (Table 00-2, R297, R328). Log entry 43. -/
def State.disown (s : State) (pa : Nat) (bs : List Byte) : List Byte :=
  bs.mapIdx (fun i b => if s.barred false (pa + i) then Config.disownedByte s.free (pa + i) else b)

/-- Bytes that software writes behind an address of this device. -/
def State.softPut (s : State) (h : Home) (bs : List Byte) : State :=
  match h with
  | .mem pa => s.putAt h (s.disown pa bs)
  | _ => s.putAt h bs

/-- Tenant partition of context x. -/
def State.partOf (s : State) (x : Nat) : Option Nat :=
  match s.ctxNode x with
  | some a => match s.node a with | some n => some n.tenpart | none => none
  | none => none

/-- Cores that hold workgroups of the subtree of node a (`coreuse`). -/
def State.coresOf (s : State) (a : Nat) : List Nat :=
  ((s.sch.wgs.filter (fun e => (match s.launch e.2.launch with | some l => (s.anc l.q).contains a | none => false))).map
    (fun e => e.2.core)).eraseDups

/-- A node changed by a function, its block in memory kept in step. -/
def State.modNode (s : State) (a : Nat) (f : Node → Node) : State :=
  match Map.find s.sch.nodes a with
  | some n => s.setNode a (f n) (s.coresOf a).length
  | none => s

/-- Several nodes changed by one function. -/
def State.modNodes (s : State) (l : List Nat) (f : Node → Node) : State := l.foldl (fun t a => t.modNode a f) s

/-- Several nodes changed in what their blocks do not show. -/
def State.countNodes (s : State) (l : List Nat) (f : Node → Node) : State :=
  { s with sch := { s.sch with nodes := Map.each s.sch.nodes (fun a n => if l.contains a then f n else n) } }

/-- `coreuse` of every block in memory, after workgroups came or went. -/
def State.syncCores (s : State) (q : Nat) : State := s.modNodes (s.anc q) id

end Sys2Proof.Machine
end

