-- ==== Sys2Proof/Machine/Float.lean ====
section
/-! DEFINITION. Values of the number formats, rounding, conversion and exact arithmetic rounded once
(spec/07_arithmetic.md R70 to R78, R86). -/

namespace Sys2Proof.Machine

open Sys2Proof

/-- A value: NaN, an infinity, or the exact number (-1)^neg * m * 2^e. -/
inductive FV where
  | nan
  | inf (neg : Bool)
  | fin (neg : Bool) (m : Nat) (e : Int)
deriving DecidableEq, Repr

/-- Flags in the order of `fpstat` bits 4:0: invalid 16, division by zero 8, overflow 4, underflow 2, inexact 1. -/
abbrev FFlags := BitVec 5

/-- A floating format (Table 07-1). -/
structure FFmt where
  width : Nat
  ebits : Nat
  mbits : Nat
  bias : Nat
  /-- The all-ones exponent holds only infinities and NaNs. -/
  ieee : Bool
deriving DecidableEq, Repr

/-- The floating format of a type code. -/
def ffmt : Ty → FFmt
  | .bf16 => ⟨16, 8, 7, 127, true⟩
  | .f16 => ⟨16, 5, 10, 15, true⟩
  | .e5m2 => ⟨8, 5, 2, 15, true⟩
  | .e4m3 => ⟨8, 4, 3, 7, false⟩
  | .e2m1 => ⟨4, 2, 1, 1, false⟩
  | _ => ⟨32, 8, 23, 127, true⟩

/-- E4M3 is the one format whose NaN is a single magnitude code (R70). -/
def FFmt.nanTop (f : FFmt) : Bool := !f.ieee && f.width == 8

/-- The value of a code (R70). -/
def FFmt.value (f : FFmt) (b : Nat) : FV :=
  let s := b / 2 ^ (f.width - 1) % 2 == 1
  let e := b / 2 ^ f.mbits % 2 ^ f.ebits
  let m := b % 2 ^ f.mbits
  if f.ieee && e == 2 ^ f.ebits - 1 then (if m = 0 then .inf s else .nan)
  else if f.nanTop && e == 2 ^ f.ebits - 1 && m == 2 ^ f.mbits - 1 then .nan
  else if e = 0 then .fin s m (1 - (f.bias : Int) - f.mbits)
  else .fin s (2 ^ f.mbits + m) ((e : Int) - f.bias - f.mbits)

/-- The canonical NaN (R71); E2M1 has none and takes +0 (R75). -/
def FFmt.nanCode (f : FFmt) : Nat :=
  if f.ieee then (2 ^ f.ebits - 1) * 2 ^ f.mbits + 2 ^ (f.mbits - 1) else if f.nanTop then 0x7F else 0

/-- Sign bit of a format. -/
def FFmt.sign (f : FFmt) (s : Bool) : Nat := if s then 2 ^ (f.width - 1) else 0

/-- An infinity of a format that has one. -/
def FFmt.infCode (f : FFmt) (s : Bool) : Nat := f.sign s + (2 ^ f.ebits - 1) * 2 ^ f.mbits

/-- The magnitude code of the largest finite value. -/
def FFmt.maxMag (f : FFmt) : Nat :=
  if f.ieee then (2 ^ f.ebits - 1) * 2 ^ f.mbits - 1 else if f.nanTop then 0x7E else 2 ^ (f.ebits + f.mbits) - 1

/-- How a narrowing step rounds (R74). -/
inductive Rnd where
  | even
  | away
  | zero
  /-- Stochastic, with the random value r (R77). -/
  | stoch (r : Nat)
deriving DecidableEq, Repr

/-- Position of the highest set bit, 0 for 0. -/
def log2 (n : Nat) : Nat := Nat.log2 n

/-- m * 2^e cut to a multiple of 2^q: the multiple toward zero, the rest, and the weight of one unit of the multiple in
units of the rest. -/
def cutAt (m : Nat) (e q : Int) : Nat × Nat × Nat :=
  if q ≤ e then (m * 2 ^ (e - q).toNat, 0, 1) else (m / 2 ^ (q - e).toNat, m % 2 ^ (q - e).toNat, 2 ^ (q - e).toNat)

/-- The rounded multiple (R74, R77). -/
def pick (r : Rnd) (c : Nat × Nat × Nat) : Nat :=
  match r with
  | .even => if c.2.2 < 2 * c.2.1 ∨ (2 * c.2.1 = c.2.2 ∧ c.1 % 2 = 1 ∧ c.2.1 ≠ 0) then c.1 + 1 else c.1
  | .away => if c.2.2 ≤ 2 * c.2.1 ∧ c.2.1 ≠ 0 then c.1 + 1 else c.1
  | .zero => c.1
  | .stoch x => if c.2.1 ≠ 0 ∧ 65536 ≤ c.2.1 * 65536 / c.2.2 + x then c.1 + 1 else c.1

/-- The exponent of the last place kept for a finite magnitude (R74). -/
def FFmt.quantum (f : FFmt) (m : Nat) (e : Int) : Int :=
  max (e + log2 m) (1 - (f.bias : Int)) - f.mbits

/-- Magnitude code of t * 2^q, with t at most 2^(mbits + 1); beyond the largest finite value the code is too. -/
def FFmt.pack (f : FFmt) (t : Nat) (q : Int) : Nat :=
  if t < 2 ^ f.mbits then t
  else
    let t' := if t = 2 ^ (f.mbits + 1) then 2 ^ f.mbits else t
    let q' := if t = 2 ^ (f.mbits + 1) then q + 1 else q
    (q' + f.mbits + f.bias).toNat * 2 ^ f.mbits + (t' - 2 ^ f.mbits)

/-- Round(x, format) with its flags (R74, R75, R78). -/
def FFmt.round (f : FFmt) (r : Rnd) (sat : Bool) (x : FV) : Nat × FFlags :=
  match x with
  | .nan => (f.nanCode, if f.width = 4 then 16 else 0)
  | .inf s => if f.ieee then (f.infCode s, 0) else (f.sign s + f.maxMag, 5)
  | .fin s m e =>
    if m = 0 then (f.sign s, 0)
    else
      let q := f.quantum m e
      let c := cutAt m e q
      let t := pick r c
      let k := f.pack t q
      if f.maxMag < k then
        if f.ieee && !sat && r != .zero then (f.infCode s, 5) else (f.sign s + f.maxMag, 5)
      else
        let inx := c.2.1 ≠ 0
        (f.sign s + k, if inx then (if k ≠ 0 ∧ k < 2 ^ f.mbits then 3 else 1) else 0)

/-- Conversion to an integer of w bits (R75, R78): the value modulo 2^w. Overflow is a rounded value outside the range of the
type, so exactly −2^(w−1) in a signed type overflows not: DEDUCED (log entry 49). -/
def toInt (w : Nat) (sgn : Bool) (r : Rnd) (x : FV) : Nat × FFlags :=
  let hi : Int := if sgn then 2 ^ (w - 1) - 1 else 2 ^ w - 1
  let lo : Int := if sgn then -(2 ^ (w - 1)) else 0
  match x with
  | .nan => (0, 16)
  | .inf s => (unsigned w (if s then lo else hi), 16)
  | .fin s m e =>
    let c := cutAt m e 0
    let t : Int := pick r c
    let v := if s then -t else t
    let inx : FFlags := if c.2.1 ≠ 0 then 1 else 0
    if hi < v then (unsigned w hi, 21)
    else if v < lo then (unsigned w lo, if sgn then 21 else 17)
    else (unsigned w v, inx)

/-- The discarded value d of an element under stochastic rounding (R77), with the exponent of the last place kept. -/
def discarded (q : Int) (x : FV) : Nat :=
  match x with
  | .fin _ m e => let c := cutAt m e q; c.2.1 * 65536 / c.2.2
  | _ => 0

/-- The fixed function H of R77. -/
def hashH (a b i : Nat) : Nat :=
  let x0 : W32 := BitVec.ofNat 32 (b * 65536 + a)
  let x1 := x0 ^^^ BitVec.ofNat 32 (i * 0x9E3779B9)
  let x2 := x1 ^^^ (x1 >>> (16 : Nat))
  let x3 := x2 * 0x2C1B3C6D
  let x4 := x3 ^^^ (x3 >>> (12 : Nat))
  let x5 := x4 * 0x297A2D39
  let x6 := x5 ^^^ (x5 >>> (15 : Nat))
  x6.toNat / 65536

/-! ### Formats of conversions -/

/-- A source or destination of a conversion: a floating type, or an integer of some width. -/
inductive NumFmt where
  | fl (f : FFmt)
  | int (w : Nat) (sgn : Bool)
deriving DecidableEq, Repr

/-- Whether a type code is an integer type. -/
def isIntTy : Ty → Bool
  | .i32 | .n32 | .i64 | .n64 | .i16 | .n16 | .i8 | .n8 => true
  | _ => false

/-- Whether a type is a signed integer. -/
def isSigned : Ty → Bool
  | .i32 | .i64 | .i16 | .i8 => true
  | _ => false

/-- Width in bits of a type. -/
def tyBits : Ty → Nat
  | .i32 | .n32 | .f32 => 32
  | .i64 | .n64 => 64
  | .i16 | .n16 | .bf16 | .f16 => 16
  | .i8 | .n8 | .e4m3 | .e5m2 => 8
  | .e2m1 => 4

/-- The format that a type code and an INT4 mark name (R134). -/
def numFmt (t : Ty) (int4 : Bool) : NumFmt :=
  if int4 then .int 4 true else if isIntTy t then .int (tyBits t) (isSigned t) else .fl (ffmt t)

/-- Width of a format. -/
def NumFmt.width : NumFmt → Nat
  | .fl f => f.width
  | .int w _ => w

/-- The value of a code. -/
def NumFmt.value (n : NumFmt) (b : Nat) : FV :=
  match n with
  | .fl f => f.value (b % 2 ^ f.width)
  | .int w true => let v := signed w b; .fin (decide (v < 0)) v.natAbs 0
  | .int w false => .fin false (b % 2 ^ w) 0

/-- The rounding that `rm` asks for at a destination (Table 07-2). -/
def NumFmt.mode (n : NumFmt) (rm r : Nat) : Rnd :=
  match rm with
  | 0 => if n.width < 16 then .away else .even
  | 1 => .zero
  | _ => .stoch r

/-- Round(x, destination, rounding) with its flags. -/
def NumFmt.round (n : NumFmt) (r : Rnd) (sat : Bool) (x : FV) : Nat × FFlags :=
  match n with
  | .fl f => f.round r sat x
  | .int w sgn => toInt w sgn r x

/-- The discarded value of an element at a destination (R77). -/
def NumFmt.dropped (n : NumFmt) (x : FV) : Nat :=
  match n, x with
  | .fl f, .fin _ m e => if m = 0 then 0 else discarded (f.quantum m e) x
  | .int _ _, .fin _ _ _ => discarded 0 x
  | _, _ => 0

/-- One conversion (R75, R116, R135): a copy when both formats are the same, but for NaN. -/
def convert (dt st : NumFmt) (rm r : Nat) (sat : Bool) (b : Nat) : Nat × FFlags :=
  if dt = st then
    match st.value b with
    | .nan => ((dt.round .even sat .nan).1, 0)
    | _ => (b % 2 ^ st.width, 0)
  else dt.round (dt.mode rm r) sat (st.value b)

/-! ### Exact arithmetic -/

/-- A value's negation. -/
def FV.negate : FV → FV
  | .nan => .nan
  | .inf s => .inf (!s)
  | .fin s m e => .fin (!s) m e

/-- A value's magnitude. -/
def FV.abs : FV → FV
  | .nan => .nan
  | .inf _ => .inf false
  | .fin _ m e => .fin false m e

/-- Signed integer of a finite value in units of 2^q. -/
def inUnits (q : Int) (neg : Bool) (m : Nat) (e : Int) : Int :=
  let k : Int := (m * 2 ^ (e - q).toNat : Nat)
  if neg then -k else k

/-- Exact sum; an exact zero is +0 unless both are -0. -/
def FV.add (x y : FV) : FV × FFlags :=
  match x, y with
  | .nan, _ | _, .nan => (.nan, 0)
  | .inf a, .inf b => if a = b then (.inf a, 0) else (.nan, 16)
  | .inf a, _ | _, .inf a => (.inf a, 0)
  | .fin a m e, .fin b n k =>
    if m = 0 ∧ n = 0 then (.fin (a && b) 0 0, 0)
    else
      let q := min e k
      let v := inUnits q a m e + inUnits q b n k
      if v = 0 then (.fin false 0 0, 0) else (.fin (decide (v < 0)) v.natAbs q, 0)

/-- Exact product. -/
def FV.mul (x y : FV) : FV × FFlags :=
  match x, y with
  | .nan, _ | _, .nan => (.nan, 0)
  | .inf a, .inf b => (.inf (a != b), 0)
  | .inf a, .fin b n _ => if n = 0 then (.nan, 16) else (.inf (a != b), 0)
  | .fin a m _, .inf b => if m = 0 then (.nan, 16) else (.inf (a != b), 0)
  | .fin a m e, .fin b n k => (.fin (a != b) (m * n) (e + k), 0)

/-- Round(x + y, T, nearest-even). -/
def FFmt.addOp (f : FFmt) (sat : Bool) (x y : FV) : Nat × FFlags :=
  let v := x.add y
  let r := f.round .even sat v.1
  (r.1, v.2 ||| r.2)

/-- Round(x * y, T, nearest-even). -/
def FFmt.mulOp (f : FFmt) (sat : Bool) (x y : FV) : Nat × FFlags :=
  let v := x.mul y
  let r := f.round .even sat v.1
  (r.1, v.2 ||| r.2)

/-- Round(x * y + z, T, nearest-even), rounded once (R74). -/
def FFmt.fmaOp (f : FFmt) (sat : Bool) (x y z : FV) : Nat × FFlags :=
  let p := x.mul y
  let v := p.1.add z
  let r := f.round .even sat v.1
  (r.1, p.2 ||| v.2 ||| r.2)

/-- Comparison of two values that are numbers: x < y, with both zeros equal. -/
def FV.lt (x y : FV) : Bool :=
  match x, y with
  | .nan, _ | _, .nan => false
  | .inf a, .inf b => a && !b
  | .inf a, _ => a
  | _, .inf b => !b
  | .fin a m e, .fin b n k => let q := min e k; decide (inUnits q a m e < inUnits q b n k)

/-- Equality of two numbers, with both zeros equal. -/
def FV.eq (x y : FV) : Bool :=
  match x, y with
  | .nan, _ | _, .nan => false
  | _, _ => !x.lt y && !y.lt x

/-- A value is NaN. -/
def FV.isNan : FV → Bool
  | .nan => true
  | _ => false

/-- A value is negative, -0 among them. -/
def FV.isNeg : FV → Bool
  | .nan => false
  | .inf s => s
  | .fin s _ _ => s

/-- VFMIN and VFMAX (R132): the code of the lesser or greater operand, -0 below +0. -/
def FFmt.minMax (f : FFmt) (wantMax : Bool) (a b : Nat) : Nat :=
  let x := f.value a
  let y := f.value b
  if x.isNan then (if y.isNan then f.nanCode else b)
  else if y.isNan then a
  else
    let aLess := x.lt y || (x.eq y && x.isNeg && !y.isNeg)
    if aLess != wantMax then a else b

/-- FP32 addition of memory-side units (R86). -/
def f32Add (a b : W32) : W32 := BitVec.ofNat 32 ((ffmt .f32).addOp false ((ffmt .f32).value a.toNat) ((ffmt .f32).value b.toNat)).1

end Sys2Proof.Machine
end

