-- ==== Sys2Proof/Machine/Translate.lean ====
section
/-! DEFINITION. Address translation (spec/18_memory_hierarchy.md R230 to R233) and the scratchpad launch view (R153). -/

namespace Sys2Proof.Machine

open Sys2Proof

/-- Where a walk ends: a leaf entry with its address and level, a cause code of Table 27-1, or an entry that cannot be read, by
its address. -/
inductive Walk where
  | leaf (addr level : Nat) (e : W64)
  | err (cause : Nat)
  | lost (addr : Nat)
deriving DecidableEq, Repr

/-- Bytes of a page by its `psz` code (R230). -/
def pageBytes (psz : Nat) : Nat :=
  match psz with
  | 0 => 2 ^ 12 | 1 => 2 ^ 16 | 2 => 2 ^ 21 | 3 => 2 ^ 25 | 4 => 2 ^ 30 | _ => 2 ^ 34

/-- Frame address of an entry. -/
def entryFrame (e : W64) : Nat := fld e 51 12 * 4096

/-- The die of a TLB's unit. -/
def tlbDie (u : Nat) : Nat := if u < 160 then u / 40 else if u < 200 then (u - 160) / 10 else if u < 240 then (u - 200) / 10 else 0

/-- A unit cannot read a page-table entry: a failed link stands between, it lies in the window of a device that is no member, or
its device does not answer, which a free value decides (R21, R288, R291; log entry 10). -/
def State.entryLost (s : State) (u ea : Nat) : Bool :=
  match s.home ea with
  | .down _ => true
  | .dev n pa w => s.cut (tlbDie u) (Home.dev n pa w).die || Config.farSilent n pa s.free
  | h => s.cut (tlbDie u) h.die

/-- A page-table entry, read as one whole value wherever it stands (R231): in the memory of another device it is a free
value; one in a word with an uncorrectable error reads as 0 (log entry 10). -/
def State.readEntry (s : State) (ea : Nat) : W64 :=
  match s.home ea with
  | .mem pa => if s.badBytes (.mem pa) 8 then 0 else Memory.w64 s.mem pa
  | .dev n pa _ => Config.farEntry n pa s.free
  | .spad _ _ | .down _ => 0

/-- A leaf entry keeps the rules of Table 18-2 and R230 at its level. -/
def State.leafOk (s : State) (level ea : Nat) (e : W64) : Bool :=
  let psz := fld e 11 9
  let sz := pageBytes psz
  decide (level ≤ 2) && decide (psz / 2 = level) && decide (psz ≤ 5) && fld e 8 4 == 0
    && decide (entryFrame e % sz = 0) && s.assigned (entryFrame e) && s.assigned (entryFrame e + sz - 1)
    && (psz % 2 == 0 || (List.range 16).all (fun i => s.readEntry (ea / 128 * 128 + 8 * i) == e))

/-- A table entry has every field zero but `frame` and `p` (Table 18-2). -/
def State.tableOk (s : State) (e : W64) : Bool :=
  fld e 63 52 == 0 && fld e 11 1 == 0 && s.assigned (entryFrame e)

/-- The walk of one address by a unit from a table of the given level (R230, first two rows of Table 18-3). -/
def State.walkFrom (s : State) (u level table va : Nat) : Walk :=
  let ea := table + 8 * (va / 2 ^ (12 + 9 * level) % 512)
  let e := s.readEntry ea
  if s.entryLost u ea then .lost ea
  else match level with
  | 0 => if bitAt e 3 && s.leafOk 0 ea e then .leaf ea 0 e else .err 0x21
  | l + 1 =>
    if bitAt e 3 then (if s.leafOk (l + 1) ea e then .leaf ea (l + 1) e else .err 0x21)
    else if !bitAt e 0 then .err 0x20
    else if s.tableOk e then s.walkFrom u l (entryFrame e) va
    else .err 0x21

/-- The walk by a unit from the root of a context's page table. -/
def State.walk (s : State) (u x va : Nat) : Walk := s.walkFrom u 4 (s.ptroot x) va

/-- Addresses of the page-table entries that the walk of one address from a table of a level reads. -/
def State.walkPath (s : State) (u level table va : Nat) : List Nat :=
  let ea := table + 8 * (va / 2 ^ (12 + 9 * level) % 512)
  let e := s.readEntry ea
  if s.entryLost u ea then []
  else match level with
  | 0 => [ea]
  | l + 1 => if bitAt e 3 || !bitAt e 0 || !s.tableOk e then [ea] else ea :: s.walkPath u l (entryFrame e) va

/-- Physical address of a virtual address under a leaf. -/
def leafPa (e : W64) (va : Nat) : Nat := entryFrame e + va % pageBytes (fld e 11 9)

/-- The window of a physical address, when it lies in one (Table 18-1). -/
def leaseWindow (pa : Nat) : Option Nat := if 2 ^ 44 ≤ pa ∧ pa < 2 ^ 45 then some ((pa - 2 ^ 44) / 2 ^ 36) else none

/-- The conditions of Table 18-3 that a walk tests on its leaf before the rights (rows 3 to 5). -/
def State.leafRules (s : State) (x va : Nat) (e : W64) : Option Nat :=
  let pa := s.ownWindow (leafPa e va)
  let ways := match s.ctxNode x with | some a => s.effWays a | none => 0xFF
  if !bitAt e 0 then some (if bitAt e 52 then 0x25 else 0x20)
  else if !(ways.testBit (fld e 59 57)) then some 0x21
  else if bitAt e 53 && !(decide (pa < hbmSize) || decide (2 ^ 50 ≤ pa)) then some 0x21
  else if bitAt e 53 && decide (pa < hbmSize) && (Map.find s.dfd.areas (pa / 2 ^ 36)).isNone then some 0x21
  else if bitAt e 53 && fld e 56 55 == 3 then some 0x21
  else none

/-- The conditions of Table 18-3 that hold for every use of a leaf, held by a TLB or not: its rights, and the state of its
lease (R293). -/
def State.leafRights (s : State) (va : Nat) (e : W64) (rd wr : Bool) : Option Nat :=
  let pa := s.ownWindow (leafPa e va)
  match (leaseWindow pa).map (fun w => (s.lease w, (pa - 2 ^ 44) % 2 ^ 36)) with
    | some (l, off) =>
      if l.state = 0 ∨ l.len.toNat ≤ off then some 0x21
      else if (rd && !bitAt e 1) || (wr && !bitAt e 2) then some 0x22
      else if l.state ≠ 1 then some 0x24
      else if (rd && !l.rd) || (wr && !l.wr) then some 0x22
      else none
    | none => if (rd && !bitAt e 1) || (wr && !bitAt e 2) then some 0x22 else none

/-- The conditions of Table 18-3 on a leaf that a walk gives: `none` when the access is translated. -/
def State.leafFault (s : State) (x va : Nat) (e : W64) (rd wr : Bool) : Option Nat :=
  match s.leafRules x va e with
  | some c => some c
  | none => s.leafRights va e rd wr

/-- The TLB that serves an agent. -/
def State.tlbOf (s : State) (ag : Agent) : Nat :=
  match ag with
  | .wave w => match s.wave w with | some v => v.core | none => 240
  | .thread c _ => 160 + c

/-- The TLB of the command processor and firmware. -/
def devTlb : Nat := 240

/-- A translation held by a TLB (R233). -/
def State.tlbHit (s : State) (u x va : Nat) : Option W64 :=
  match s.path.tlb.find? (fun t => t.unit == u && t.ctx == x && t.vpn == va / 4096) with
  | some t => some t.leaf
  | none => none

/-- The leaf under which an access whose walk cannot read an entry goes on: a page with all rights, whose frame is out of
reach, so that the access fails item by item with cause link-failed (R21, R288, R291; log entry 10). -/
def lostLeaf : W64 := 0xF

/-- Translation of one address by a unit with the rights an access needs: physical address and leaf entry, or a cause. A
translation that the unit's TLB holds goes on under the leaf it was made from until it is invalidated (R233). An access whose
walk cannot read an entry reaches the address of that entry as one out of reach. -/
def State.xlate (s : State) (u x va : Nat) (rd wr : Bool) : Except Nat (Nat × W64) :=
  if 2 ^ 57 ≤ va then .error 0x23
  else
    match s.tlbHit u x va with
    | some e => match s.leafRights va e rd wr with | some c => .error c | none => .ok (s.ownWindow (leafPa e va), e)
    | none =>
      match s.walk u x va with
      | .err c => .error c
      | .lost ea => .ok (2 ^ 51 + ea, lostLeaf)
      | .leaf _ _ e => match s.leafFault x va e rd wr with | some c => .error c | none => .ok (s.ownWindow (leafPa e va), e)

/-- Entries that a unit must read to translate an address: none where its TLB holds the translation. -/
def State.walkReads (s : State) (u x va : Nat) : List Nat :=
  if 2 ^ 57 ≤ va ∨ (s.tlbHit u x va).isSome then [] else s.walkPath u 4 (s.ptroot x) va

/-- Bytes of other devices' page tables among some entries (R290). -/
def State.tableBytes (s : State) (l : List Nat) : Nat :=
  8 * (l.filter (fun ea => match s.home ea with | .dev _ _ _ => true | _ => false)).length

/-- Bytes of requests charged to a context and its ancestors (R33). -/
def State.chargeFab (s : State) (x n : Nat) : State :=
  if n = 0 then s
  else
    match s.ctxNode x with
    | some a => s.countNodes (s.anc a) (fun m => { m with sent := m.sent + n })
    | none => s

/-- The present millisecond window of a context and its ancestors has room for n more bytes (R33). -/
def State.fabRoom (s : State) (x n : Nat) : Bool :=
  match s.ctxNode x with
  | some a => (s.ancestry a).all (fun e => decide (e.2.sent + n ≤ s.effFab e.1 * 1024))
  | none => true

/-- Requests of a context of n bytes in all that one step makes wait for room in its window, or, where they are more than the
budget, for a window of their own (R33). -/
def State.fabWaits (s : State) (x n : Nat) : Bool :=
  n != 0 && (match s.ctxNode x with | some a => !s.fabRoom x (max 1 (min n (s.effFab a * 1024))) | none => false)

/-- A request of n bytes to an HBM controller is beyond its budget for the present millisecond (R339); one of more bytes than the
budget waits for a millisecond of its own. -/
def State.hbmFull (s : State) (pa n : Nat) : Bool :=
  decide (pa < hbmSize) && (match s.dev.hbmBudget[pa / 2 ^ 36]? with
    | some b => decide (b < Map.at s.dev.hbmUsed (pa / 2 ^ 36) 0 + max 1 (min n b))
    | none => false)

/-- n bytes requested of an HBM controller (R339). -/
def State.useHbm (s : State) (pa n : Nat) : State :=
  if pa < hbmSize then
    { s with dev := { s.dev with hbmUsed := Map.put s.dev.hbmUsed (pa / 2 ^ 36) (Map.at s.dev.hbmUsed (pa / 2 ^ 36) 0 + n) } }
  else s

/-- Bytes of page-table entries, of those in a list, in one stack. -/
def State.entryBytes (s : State) (l : List Nat) (st : Nat) : Nat :=
  8 * (l.filter (fun ea => match s.home ea with | .mem pa => pa / 2 ^ 36 == st | _ => false)).length

/-- Reads of page-table entries by a context wait: of another device's for room in its window, of this one's for the budgets of
the HBM controllers (R33, R339). -/
def State.readsHeld (s : State) (x : Nat) (l : List Nat) : Bool :=
  s.fabWaits x (s.tableBytes l)
    || l.any (fun ea => match s.home ea with | .mem pa => s.hbmFull pa (s.entryBytes l (pa / 2 ^ 36)) | _ => false)

/-- Reads of page-table entries counted against the budgets (R33, R290, R339). -/
def State.readsMade (s : State) (x : Nat) (l : List Nat) : State :=
  l.foldl (fun t ea => match s.home ea with | .mem pa => t.useHbm pa 8 | _ => t) (s.chargeFab x (s.tableBytes l))

/-- The walk of one address waits. -/
def State.walkHeld (s : State) (u x va : Nat) : Bool := s.readsHeld x (s.walkReads u x va)

/-- A translation that the TLB of a unit may hold from now on; what its walk read counts against the budgets. -/
def State.keepTlb (s : State) (u x va : Nat) (e : W64) : State :=
  let s' := ({ s with free := s.free + 1 }).readsMade x (s.walkReads u x va)
  let got := match s.walk u x va with | .leaf _ _ _ => true | _ => false
  if (s.tlbHit u x va).isSome || !got || !Config.tlbHolds s.free then s'
  else { s' with path := { s'.path with tlb := ⟨u, x, va / 4096, e, leafPa e va⟩ :: s'.path.tlb } }

/-- Bytes that the device reads for itself through a context's translation: read rights; `bad` is an uncorrectable
error. -/
def State.loadVa (s : State) (x va n : Nat) : Except Nat (List Byte × Bool) :=
  match s.xlate devTlb x va true false with
  | .error c => .error c
  | .ok (pa, _) => .ok (s.bytesAt (s.home pa) n, s.badBytes (s.home pa) n)

/-- An L2 may hold the line of a page with this leaf: no bypass page (R237). -/
def l2able (e : W64) : Bool := fld e 56 55 != 3

/-- An L2 may hold a line of another device under a leaf: no bypass page, and a way partition with a way (R237). -/
def State.l2Holds (s : State) (e : W64) : Bool := l2able e && Map.at s.dev.l2ways (fld e 59 57) 0xFFFF != 0

/-! ### Scratchpad launch view (Table 13-2) -/

/-- The sequencer window of a launch on a cluster: offset and size. -/
def State.seqWindow (s : State) (l c : Nat) : Option (Nat × Nat) :=
  match s.launch l with
  | some v => match Map.find v.win c with | some o => some (o, v.par.seqspad * 4096) | none => none
  | none => none

/-- The scratchpad bytes that a launch-view range reaches for a wave of workgroup `g`, or for a thread (`none`). -/
def State.view (s : State) (g : Option Nat) (l c addr n : Nat) : Option Home :=
  if 0x400000 ≤ addr ∧ addr < 0x1000000 then
    match s.seqWindow l c with
    | some (o, sz) => if addr - 0x400000 + n ≤ sz then some (.spad c (o + (addr - 0x400000))) else none
    | none => none
  else
    match g with
    | some gi =>
      match s.wg gi with
      | some w => if addr + n ≤ w.wsize then some (.spad c (w.wbase + addr)) else none
      | none => none
    | none =>
      if addr < 0x1000000 then none
      else
        let k := (addr - 0x1000000) / 0x400000
        match s.sch.wgs.find? (fun e => e.2.launch == l && e.2.core == 4 * c + k / 8 && e.2.slot == k % 8) with
        | some e =>
          if k < 32 ∧ (addr - 0x1000000) % 0x400000 + n ≤ e.2.wsize then
            some (.spad c (e.2.wbase + (addr - 0x1000000) % 0x400000)) else none
        | none => none

/-- The workgroup whose window an agent's launch view shows. -/
def State.viewWg (s : State) (ag : Agent) : Option Nat :=
  match ag with
  | .wave w => match s.wave w with | some v => some v.wg | none => some 0
  | .thread _ _ => none

/-- The launch view of an agent. -/
def State.viewOf (s : State) (ag : Agent) (addr n : Nat) : Option Home :=
  s.view (s.viewWg ag) (s.launchOf ag) (s.clusterOf ag) addr n

end Sys2Proof.Machine
end

