-- ==== Sys2Proof/Machine/Parked.lean ====
section
/-! DEFINITION. Parked tape entries: residency entries and spill records by the translations pinned at registration, tile-queue
blocks, and the release of parked entries (spec/25_experts.md R296, R301, R304). -/

namespace Sys2Proof.Machine

open Sys2Proof

/-! ### Links (R301) -/

/-- Physical address of the residency entry of an expert, through the translations pinned at registration (R296). -/
def State.ertAddr (s : State) (x e : Nat) : Option Nat :=
  match Map.find s.eng.tables x with
  | none => none
  | some t =>
    if t.nent ≤ e then none
    else (t.frames.find? (fun p => p.1 == (t.ertbase + 512 * e) / 4096)).map (fun p => p.2 + (t.ertbase + 512 * e) % 4096)

/-- Physical address of a spill record. -/
def State.spillAddr (s : State) (x i : Nat) : Option Nat :=
  match Map.find s.eng.tables x with
  | none => none
  | some t => (t.frames.find? (fun p => p.1 == (t.spbase + 32 * i) / 4096)).map (fun p => p.2 + (t.spbase + 32 * i) % 4096)

/-- A link word (Table 25-2, w5): kind 1 a hardware slot, 2 a spill record. -/
def linkWord (kind idx : Nat) : W64 := BitVec.ofNat 64 (kind * 2 ^ 62 + idx)

/-- The link to the next parked entry held behind a link. -/
def State.linkNext (s : State) (x : Nat) (l : W64) : W64 :=
  match fld l 63 62 with
  | 1 => match Map.find s.eng.hwq (fld l 31 0) with | some h => h.link | none => 0
  | 2 => match s.spillAddr x (fld l 31 0) with | some a => Memory.w64 s.mem (a + 24) | none => 0
  | _ => 0

/-- The link stored in a parked entry, replaced. -/
def State.setLink (s : State) (x : Nat) (l nxt : W64) : State :=
  match fld l 63 62 with
  | 1 =>
    match Map.find s.eng.hwq (fld l 31 0) with
    | some h => { s with eng := { s.eng with hwq := Map.put s.eng.hwq (fld l 31 0) { h with link := nxt } } }
    | none => s
  | 2 => match s.spillAddr x (fld l 31 0) with | some a => s.writeMem (a + 24) (leBytes 8 nxt.toNat) | none => s
  | _ => s

/-- The launch that parked the entry behind a link. -/
def State.linkLaunch (s : State) (x : Nat) (l : W64) : Nat :=
  match fld l 63 62 with
  | 1 => match Map.find s.eng.hwq (fld l 31 0) with | some h => h.launch | none => 0
  | _ => (Map.at s.eng.spills (x * 2 ^ 20 + fld l 31 0) (0, 0)).1

/-- The place of a parked entry freed. -/
def State.freeLink (s : State) (x : Nat) (l : W64) : State :=
  match fld l 63 62 with
  | 1 => { s with eng := { s.eng with hwq := Map.del s.eng.hwq (fld l 31 0) } }
  | 2 => { s with eng := { s.eng with spills := Map.del s.eng.spills (x * 2 ^ 20 + fld l 31 0) } }
  | _ => s

/-- The links of an expert's parked entries, oldest first. -/
def State.parked (s : State) (x : Nat) (fuel : Nat) (l : W64) : List W64 :=
  match fuel with
  | 0 => []
  | k + 1 => if fld l 63 62 = 0 then [] else l :: s.parked x k (s.linkNext x l)

/-- Word i of an entry replaced. -/
def State.putErt (s : State) (a i : Nat) (w : W64) : State := s.writeMem (a + 8 * i) (leBytes 8 w.toNat)

/-- `state` of an entry. -/
def ertState (w : List W64) : Nat := fld (wordAt w 0) 63 61

/-! ### Tile-queue blocks (Table 25-5) -/

/-- A ring of a tile-queue block. -/
structure Ring where
  base : Nat
  cap : Nat
  head : Nat
  cnt : Nat
deriving DecidableEq, Repr

/-- A tile-queue block. -/
structure TileQ where
  sh : Ring
  rt : Ring
  closed : Bool
  nctr : Nat
  ctrbase : Nat
  npark : Nat
deriving DecidableEq, Repr

/-- A block read from its words; `none` where it breaks Table 25-5. -/
def tileQ (w : List W64) : Option TileQ :=
  let g (i hi lo : Nat) : Nat := fld (wordAt w i) hi lo
  let q : TileQ := ⟨⟨g 2 63 32, g 0 63 48, g 1 63 48, g 1 47 32⟩, ⟨g 2 31 0, g 0 47 32, g 1 31 16, g 1 15 0⟩,
    bitAt (wordAt w 0) 31, g 0 15 0, g 3 63 32, g 3 31 16⟩
  let ring (r : Ring) : Bool := r.cap == 0 || decide (4096 < r.cap) || decide (r.cap < r.cnt) || decide (r.cap ≤ r.head) || r.base % 16 != 0
  if g 0 30 16 != 0 || g 3 15 0 != 0 || (List.range 4).any (fun i => wordAt w (4 + i) != 0) || ring q.sh || ring q.rt
      || q.nctr == 0 || decide (4096 < q.nctr) || q.ctrbase % 16 != 0 then none
  else some q

/-- A block as a thread of launch l on cluster c names it: its home and contents, or a cause with an address (R304). -/
def State.blockAt (s : State) (l c a : Nat) : Except (Nat × Nat) (Home × TileQ) :=
  match s.view none l c a 64 with
  | none => .error (0x04, a)
  | some h =>
    if a % 64 ≠ 0 then .error (0x17, 0)
    else
      let bs := s.bytesAt h 64
      match tileQ ((List.range 8).map (fun i => BitVec.ofNat 64 (leNat ((bs.drop (8 * i)).take 8)))) with
      | none => .error (0x17, 0)
      | some q =>
        let inw (b n : Nat) : Bool := (s.view none l c b (16 * n)).isSome
        if inw q.sh.base q.sh.cap && inw q.rt.base q.rt.cap && inw q.ctrbase q.nctr then .ok (h, q) else .error (0x17, 0)

/-- The HW fields of a block written back. -/
def State.putBlock (s : State) (h : Home) (q : TileQ) : State :=
  let w3 := leNat (s.bytesAt (h.plus 24) 8)
  (s.putAt (h.plus 8) (leBytes 8 (q.sh.head * 2 ^ 48 + q.sh.cnt * 2 ^ 32 + q.rt.head * 2 ^ 16 + q.rt.cnt))).putAt (h.plus 24)
    (leBytes 8 (w3 - w3 / 2 ^ 16 % 2 ^ 16 * 2 ^ 16 + q.npark % 2 ^ 16 * 2 ^ 16))

/-- Sixteen bytes written. -/
def State.putEntry (s : State) (l c a : Nat) (e : W64 × W64) : State :=
  match s.view none l c a 16 with
  | some h => s.putAt h (leBytes 8 e.1.toNat ++ leBytes 8 e.2.toNat)
  | none => s

/-- Address of place k of a ring, counted from its head. -/
def Ring.at (r : Ring) (k : Nat) : Nat := r.base + 16 * ((r.head + k) % r.cap)

/-- An entry appended at the tail of the routed ring, or of the shared one. -/
def State.append (s : State) (l c : Nat) (h : Home) (q : TileQ) (rt : Bool) (e : W64 × W64) : State :=
  let r := if rt then q.rt else q.sh
  let r' := { r with cnt := r.cnt + 1 }
  (s.putEntry l c (r.at r.cnt) e).putBlock h (if rt then { q with rt := r' } else { q with sh := r' })

/-! ### Release (R301) -/

/-- The parked entries of one expert that belong to a launch are removed without effect (R301). -/
def State.unpark (s : State) (x e l : Nat) : State :=
  match s.ertAddr x e with
  | none => s
  | some a =>
    let n := fld (Memory.w64 s.mem (a + 32)) 63 32
    let all := s.parked x n (Memory.w64 s.mem (a + 40))
    let gone := all.filter (fun k => s.linkLaunch x k == l)
    if gone.isEmpty then s
    else
      let kept := all.filter (fun k => s.linkLaunch x k != l)
      let s1 := (kept.zip (kept.drop 1 ++ [0])).foldl (fun t p => t.setLink x p.1 p.2) s
      let s2 := gone.foldl (fun t k => t.freeLink x k) s1
      let ws := [BitVec.ofNat 64 (kept.length * 2 ^ 32), kept.headD 0, kept.getLastD 0]
      s2.writeMem (a + 32) (ws.map (fun w => leBytes 8 w.toNat)).flatten

/-- The launch and the cluster whose thread parked the entry behind a link, its block's address and the entry. -/
def State.linkEntry (s : State) (x : Nat) (l : W64) : Option (Nat × Nat × Nat × (W64 × W64)) :=
  match fld l 63 62 with
  | 1 => match Map.find s.eng.hwq (fld l 31 0) with | some h => some (h.launch, fld l 31 0 / 64, h.block.toNat, (h.e0, h.e1)) | none => none
  | 2 =>
    match s.spillAddr x (fld l 31 0) with
    | some a =>
      let w2 := Memory.w64 s.mem (a + 16)
      some ((Map.at s.eng.spills (x * 2 ^ 20 + fld l 31 0) (0, 0)).1, fld w2 37 32, fld w2 31 0, (Memory.w64 s.mem a, Memory.w64 s.mem (a + 8)))
    | none => none
  | _ => none

/-- The parked entries of a resident expert are released, oldest first, while there is room. -/
def State.release (s : State) (x id : Nat) : Nat → State
  | 0 => s
  | k + 1 =>
    match s.ertAddr x id with
    | none => s
    | some a =>
      let w4 := Memory.w64 s.mem (a + 32)
      let head := Memory.w64 s.mem (a + 40)
      match s.linkEntry x head with
      | none => s
      | some (l, c, b, e) =>
        match s.blockAt l c b with
        | .error _ => s
        | .ok (h, q) =>
          if q.rt.cnt = q.rt.cap then s
          else
            let nxt := s.linkNext x head
            let s1 := (s.append l c h { q with npark := q.npark - 1 } true e).freeLink x head
            let s2 := ((s1.putErt a 4 (withFld w4 63 32 (fld w4 63 32 - 1))).putErt a 5 nxt)
            (if fld nxt 63 62 = 0 then s2.putErt a 6 0 else s2).release x id k

/-- The release of every resident or pinned expert of a context goes on (R301). -/
def State.releaseAll (s : State) (x : Nat) : State :=
  match Map.find s.eng.tables x with
  | none => s
  | some t =>
    (List.range t.nent).foldl (fun u id =>
      match u.ertAddr x id with
      | some a =>
        let w := Memory.words u.mem a 6
        if ertState w = 2 ∨ ertState w = 3 then u.release x id (fld (wordAt w 4) 63 32) else u
      | none => u) s

end Sys2Proof.Machine
end

