-- ==== Sys2Proof/Machine/Life.lean ====
section
/-! DEFINITION. What several steps share about the life of launches: requests to other devices (R33, R263, R290), fault records
(R320, R321), the L1 caches (R234, R235, R238), commits (R169, R269),
the end of workgroups and threads (R37, R38), packet completion (R55, R57) and the end of a fault domain (R318). -/

namespace Sys2Proof.Machine

open Sys2Proof

/-! ### Requests to other devices (R33, R263, R290) -/

/-- Payload bytes of a request (Table 21-4, Table 23-2). -/
def FabKind.bytes (k : FabKind) : Nat :=
  match k with
  | .read n => n
  | .write d => d.length
  | .atomic _ ty _ _ => tyBits ty / 8
  | .bin b _ => 16 + 16 * b.recs.length
  | .notice n => 16 + 2 * n.tags.length

/-- A request changes memory at its target, so that its queue numbers it; a bin is a pod-scope write (R263, R270). -/
def FabKind.numbered (k : FabKind) : Bool := match k with | .write _ | .atomic _ _ _ _ | .bin _ _ => true | .read _ | .notice _ => false

/-- A request writes bytes of memory at its target. -/
def FabKind.writes (k : FabKind) : Bool := match k with | .write _ | .atomic _ _ _ _ => true | .read _ | .bin _ _ | .notice _ => false

/-- An unanswered request writes some of n bytes of another device. A read of them waits for its answer, so that no agent reads
an older value after a newer one, and no write that is still unanswered is read (R253, R254). -/
def State.farClash (s : State) (dev pa n : Nat) : Bool :=
  s.fab.out.any (fun r => r.kind.writes && r.dev == dev && decide (pa < r.pa + r.kind.bytes) && decide (r.pa < pa + n))

/-- A request of n bytes for a context waits: at another device for room in its window and for an unanswered write of those bytes,
in local HBM for the controller's budget (R33, R254, R339). -/
def State.devHeld (s : State) (x : Nat) (h : Home) (n : Nat) : Bool :=
  match h with
  | .mem pa => s.hbmFull pa n
  | .dev d pa _ => s.fabWaits x (max 4 n) || s.farClash d pa n
  | _ => false

/-- Copies of bytes of another device are dropped. -/
def State.farDrop (s : State) (dev pa n : Nat) : State :=
  { s with path := { s.path with far := s.path.far.filter (fun c => !(c.dev == dev && decide (pa ≤ c.pa) && decide (c.pa < pa + n))) } }

/-- Bytes of an L2's SRAM (Table 01-2). A copy counts uncompressed: which lines are held compressed is open, and a copy may leave
at any time (log entry 6). -/
def l2Bytes : Nat := 2 ^ 26

/-- Copies that a die's L2 holds, at most its bytes: the oldest leave (R19; which leave is open, log entry 6). -/
def farTrim (die : Nat) (l : List FarCopy) : List FarCopy :=
  let n := (l.filter (fun c => c.die == die)).length
  if n ≤ l2Bytes then l
  else (l.foldl (fun (a : Nat × List FarCopy) c => if c.die = die ∧ 0 < a.1 then (a.1 - 1, a.2) else (a.1, c :: a.2)) (n - l2Bytes, [])).2.reverse

/-- The home-L2 copy of bytes of another device that this device has read or written (R289). -/
def State.farPut (s : State) (die dev pa : Nat) (bs : List Byte) : State :=
  let far := (s.farDrop dev pa bs.length).path.far
  { s with path := { s.path with far := farTrim die (far ++ bs.mapIdx (fun i b => ⟨die, dev, pa + i, b⟩)) } }

/-- A request is put on a fabric queue: numbered if it changes memory, and charged, or held while the budget of its context
has no room or an earlier request of the context is held (R33, R263, R290). Home-L2 copies of bytes that it writes are dropped,
and come back with its acknowledgement where `keep` says that an L2 may hold them and no other request has written them beside it
(R237, R289). -/
def State.send (s : State) (x q dev pa : Nat) (k : FabKind) (lease : Option Nat) (l : Nat) (who : Option (Agent × Nat)) (keep : Bool) : Nat × State :=
  let fq := Map.at s.fab.queues (x * 64 + q) ⟨0, []⟩
  let fq' := if k.numbered then { fq with last := (fq.last + 1) % 2 ^ 48 } else fq
  let go := s.fabRoom x k.bytes && !(s.fab.out.any (fun r => r.ctx == x && r.sends == 0))
  let die := if 40 ≤ q then q - 40 else (lease.getD dev) % 4
  let rq : FabReq := ⟨s.fresh, x, q, if k.numbered then fq'.last else 0, die, dev, pa, k, if go then 1 else 0, lease, l, who, none,
    keep && !(s.farClash dev pa k.bytes)⟩
  let out := if k.writes then s.fab.out.map (fun r =>
      if r.dev == dev && decide (pa < r.pa + r.kind.bytes) && decide (r.pa < pa + k.bytes) then { r with keep := false } else r)
    else s.fab.out
  let s0 := if k.writes then s.farDrop dev pa k.bytes else s
  let s1 := { s0 with
    fresh := s.fresh + 1
    fab := { s.fab with out := out ++ [rq], queues := Map.put s.fab.queues (x * 64 + q) fq' } }
  (s.fresh, if go then s1.chargeFab x k.bytes else s1)

/-- The pieces of at most 256 bytes in which bytes travel, each with its offset (Table 23-2); `k` pieces at most. -/
def pieces : Nat → Nat → List Byte → List (Nat × List Byte)
  | 0, _, _ => []
  | k + 1, o, bs => if bs.isEmpty then [] else (o, bs.take 256) :: pieces k (o + 256) (bs.drop 256)

/-- The fabric queues of firmware's own writes, which belong to no context: numbered apart, and charged to no budget. R290 gives
queues to contexts only: DESIGN CHOICE (log entry 10). -/
def fwCtx : Nat := 1024

/-- A unit of die d reaches an address: no failed link stands between, and no window of a device that is no member (R15, R21, R288).
The controller core and the command processor are on die 0. -/
def State.reach (s : State) (d : Nat) (h : Home) : Bool :=
  match h with
  | .down _ => false
  | _ => !s.cut d h.die

/-- Bytes that firmware, the command processor or a switch writes from die d behind an address for a context: at another device as
Writes on the context's queue 0 (R289, R290). -/
def State.devWrite (s : State) (d x : Nat) (h : Home) (bs : List Byte) : State :=
  if !s.reach d h then s
  else
    match h with
    | .dev n pa w => (pieces (bs.length / 256 + 1) 0 bs).foldl (fun t e => (t.send x 0 n (pa + e.1) (.write e.2) w 0 none false).2) s
    | _ => s.putAt h bs

/-- Consecutive words as bytes. -/
def wordBytes (ws : List W64) : List Byte := (ws.map (fun w => leBytes 8 w.toNat)).flatten

/-- A read from die d behind an address fails: it is out of reach, or another device gives no answer, which a free value decides
(R21, R288, R291; log entry 10). -/
def State.devLost (s : State) (d : Nat) (h : Home) : Bool :=
  !s.reach d h || (match h with | .dev _ _ _ => bitAt (Config.freeWord s.free) 0 | _ => false)

/-- n bytes that the device reads from die d behind an address: zeros where the read fails, and for words with an uncorrectable
error; those of another device are free values (R342; log entry 10). -/
def State.devBytes (s : State) (d : Nat) (h : Home) (n : Nat) : List Byte :=
  if s.devLost d h then List.replicate n 0
  else
    match h with
    | .dev _ _ _ => (List.range n).map (fun i => (Config.freeWord (s.free + 1 + i)).truncate 8)
    | _ => if s.badBytes h n then (s.bytesAt h n).mapIdx (fun i b => if s.badBytes (h.plus i) 1 then 0 else b) else s.bytesAt h n

/-! ### Fault records (Table 27-5, Table 27-6) -/

/-- The configured buffer of a box. -/
def State.fbuf (s : State) (b : FaultBox) : Option FBuf :=
  match b with
  | .root => s.flt.root
  | .part n => Map.find s.flt.parts n

/-- A buffer replaced, with the HW fields of its header in memory. -/
def State.setFbuf (s : State) (b : FaultBox) (f : FBuf) : State :=
  let t := (s.devWrite 0 fwCtx (s.home f.header) (leBytes 8 f.wr)).devWrite 0 fwCtx (s.home (f.header + 16))
    (leBytes 8 (f.gen.toNat * 2 ^ 32 + f.lost.toNat))
  match b with
  | .root => { t with flt := { t.flt with root := some f } }
  | .part n => { t with flt := { t.flt with parts := Map.put t.flt.parts n f } }

/-- Room for one more record: wr - rd < 2^m. -/
def State.fbufRoom (s : State) (f : FBuf) : Bool :=
  decide (((BitVec.ofNat 64 f.wr) - BitVec.ofNat 64 (leNat (s.devBytes 0 (s.home (f.header + 8)) 8))).toNat < 2 ^ f.m)

/-- A record written at slot wr mod 2^m, with the present generation. -/
def State.fbufWrite (s : State) (b : FaultBox) (f : FBuf) (w : Vector W64 8) : State :=
  let w0 := withFld (w.toList.getD 0 0) 63 32 f.gen.toNat
  let a := f.header + 64 + 64 * (f.wr % 2 ^ f.m)
  let t := s.devWrite 0 fwCtx (s.home a) (wordBytes (w0 :: w.toList.drop 1))
  t.setFbuf b { f with wr := f.wr + 1 }

/-- The oldest held record of a box is written where there is room (R321). -/
def State.writeHeld (s : State) (b : FaultBox) : State :=
  match s.fbuf b, s.flt.held.find? (fun h => h.box == b) with
  | some f, some h =>
    if s.fbufRoom f then
      let t := s.fbufWrite b f h.w
      { t with flt := { t.flt with held := t.flt.held.erase h } }
    else s
  | _, _ => s

/-- Held records of a box written while there is room; `n` at most. -/
def State.writeAllHeld (s : State) (b : FaultBox) : Nat → State
  | 0 => s
  | n + 1 => if s.flt.held.any (fun h => h.box == b) then (s.writeHeld b).writeAllHeld b n else s

/-- A fault record sent to a box: written, held or counted (R320, R321). Held records of the box are written first where
there is room, so that records keep the order of their events. -/
def State.sendRecord (s0 : State) (b : FaultBox) (kind : Nat) (w : Vector W64 8) : State :=
  let s := s0.writeAllHeld b s0.flt.held.length
  let held := { s with flt := { s.flt with held := s.flt.held ++ [⟨b, w⟩] } }
  match s.fbuf b with
  | none => if kind = 2 then { s with flt := { s.flt with lostEarly := s.flt.lostEarly + 1 } } else held
  | some f =>
    if s.fbufRoom f then s.fbufWrite b f w
    else if kind = 2 then s.setFbuf b { f with lost := if f.lost = 0xFFFFFFFF then f.lost else f.lost + 1 }
    else held

/-- The box for records of a context (R320). -/
def State.boxOf (s : State) (x : Nat) : FaultBox := match s.partOf x with | some p => .part p | none => .root

/-- This device's number in a record. -/
def State.selfDev (s : State) : Nat := s.fab.devno.getD 0

/-- Words of a fault record. -/
def faultWords (kind cause x : Nat) (seq : Nat) (t : TRec) (part clus stack dev : Nat) : Vector W64 8 :=
  #v[BitVec.ofNat 64 (kind * 2 ^ 24 + cause * 2 ^ 16 + x % 1024), BitVec.ofNat 64 seq, t.w0, t.w1, t.w2, t.w3,
     BitVec.ofNat 64 (part * 2 ^ 48 + clus * 2 ^ 40 + stack * 2 ^ 32 + dev), 0]

/-- The sequence number of a launch. -/
def State.seqOf (s : State) (l : Nat) : Nat := match s.launch l with | some v => v.k | none => l % 2 ^ 64

/-- An item failure (kind 2): address, tag or command number, item index, cluster, stack. -/
def State.itemFailed (s : State) (x l cause addr num idx clus stack : Nat) : State :=
  s.sendRecord (s.boxOf x) 2 (faultWords 2 cause x (s.seqOf l)
    ⟨BitVec.ofNat 64 addr, BitVec.ofNat 64 num, BitVec.ofNat 64 idx, 0⟩ 0xFFFF clus stack s.selfDev)

/-- A failed item that belongs to no context is reported to the root fault buffer (R320, R344). -/
def State.rootItem (s : State) (cause addr dev : Nat) : State :=
  s.sendRecord .root 2 (faultWords 2 cause 0 0 ⟨BitVec.ofNat 64 addr, 0, 0, 0⟩ 0xFFFF 0xFF 0xFF dev)

/-- The first byte of a range that lies in an unassigned range of Table 18-1; every such range is longer than 2^36 bytes. -/
def State.gap (s : State) (a n : Nat) : Option Nat :=
  if n = 0 ∨ (n ≤ 2 ^ 36 ∧ s.assigned a ∧ s.assigned (a + n - 1)) then none
  else (List.range n).find? (fun i => !(s.assigned (a + i)))

/-- Bytes that firmware or a switch writes from die d at a physical address that a structure names, for a context: those in an unassigned
range, or out of reach, are not written, and the root buffer is told (R21, R288, R344). -/
def State.physPut (s : State) (d x a : Nat) (bs : List Byte) : State :=
  match s.gap a bs.length with
  | none => if s.reach d (s.home a) then s.devWrite d x (s.home a) bs else s.rootItem 0x35 a s.selfDev
  | some i =>
    (bs.zipIdx.foldl (fun t e => if s.assigned (a + e.2) then t.devWrite d x (s.home (a + e.2)) [e.1] else t) s).rootItem 0x23 (a + i) s.selfDev

/-- Consecutive words written at a physical address. -/
def State.physWords (s : State) (d x a : Nat) (ws : List W64) : State := s.physPut d x a (wordBytes ws)

/-- n bytes that firmware or a switch reads from die d at a physical address: 0 in an unassigned range or out of reach (R344). -/
def State.physGet (s : State) (d a n : Nat) : List Byte :=
  match s.gap a n with
  | none => s.devBytes d (s.home a) n
  | some _ => (List.range n).map (fun i => if s.assigned (a + i) then (s.devBytes d (s.home (a + i)) 1).headD 0 else 0)

/-- What such a read does beside its value: one that fails, a byte in an unassigned range and an uncorrectable error are reported to
the root buffer, and a read of another device is charged and uses its free values (R21, R33, R288, R342, R344). -/
def State.physNote (s : State) (d x a n : Nat) : State :=
  match s.gap a n with
  | some i => s.rootItem 0x23 (a + i) s.selfDev
  | none =>
    let t := match s.home a with
      | .dev _ _ _ => if s.reach d (s.home a) then ({ s with free := s.free + 1 + n }).chargeFab x (max 4 n) else s
      | _ => s
    if s.devLost d (s.home a) then t.rootItem 0x35 a s.selfDev
    else if s.badBytes (s.home a) n then t.rootItem 0x32 a s.selfDev
    else t

/-- n consecutive words that firmware reads at a physical address. -/
def State.fwWords (s : State) (a n : Nat) : List W64 :=
  let bs := s.physGet 0 a (8 * n)
  (List.range n).map (fun i => BitVec.ofNat 64 (leNat ((bs.drop (8 * i)).take 8)))

/-- What such a read does beside its value. -/
def State.fwNote (s : State) (a n : Nat) : State := s.physNote 0 fwCtx a (8 * n)

/-- Bytes that firmware writes at an address which software has named: where software must not write, what is left is open (R9; log
entry 43). -/
def State.fwPut (s : State) (a : Nat) (bs : List Byte) : State := s.physPut 0 fwCtx a (s.disown a bs)

/-- A word read at a physical address. -/
def State.physW64 (s : State) (d a : Nat) : W64 := BitVec.ofNat 64 (leNat (s.physGet d a 8))

/-- The stack of a physical address, as a fault record names it. -/
def recStack (pa : Nat) : Nat := if pa < hbmSize then pa / 2 ^ 36 else 0xFF

/-- A failed item of an agent's access, with the agent's commit tag (Table 27-6). -/
def State.agentItem (s : State) (ag : Agent) (cause addr idx : Nat) : State :=
  s.itemFailed (s.ctxOf ag) (s.launchOf ag) cause addr (s.tagOf ag).toNat idx (s.clusterOf ag) (recStack addr)

/-- Issue partition and cluster of an agent, as a fault record gives them. -/
def State.placeOf (s : State) (ag : Agent) : Nat × Nat :=
  match ag with
  | .wave w => match s.wave w with | some v => (v.part, v.cluster) | none => (0xFFFF, 0xFF)
  | .thread c _ => (0xFFFF, c)

/-- The stop of an agent reported to the host (kinds 0 and 1). -/
def State.stopRecord (s : State) (ag : Agent) (kind : Nat) (t : TRec) : State :=
  s.sendRecord (s.boxOf (s.ctxOf ag)) kind (faultWords kind (fld t.w0 63 56) (s.ctxOf ag) (s.seqOf (s.launchOf ag)) t
    (s.placeOf ag).1 (s.placeOf ag).2 0xFF s.selfDev)

/-! ### L1 caches (R234, R235, R238) -/

/-- The L1 that may serve an access from a seat at a scope: a core, or 160 + cluster in fused mode (R234). -/
def State.l1Owner (s : State) (p : Seat) (sc : Scope) : Option Nat :=
  if s.sch.fused.contains p.cluster then (if sc.code ≤ 2 then some (160 + p.cluster) else none)
  else if sc.code ≤ 1 then p.core else none

/-- The L1 in which lines written from a seat may stand, whatever the scope. -/
def State.l1Any (s : State) (p : Seat) : Option Nat := s.l1Owner p .wave

/-- The line of an owner that holds an address. -/
def State.l1Line (s : State) (o pa : Nat) : Option L1Line :=
  s.path.l1.find? (fun l => l.owner == o && l.line == pa / 128)

/-- The dirty bytes of a line written to memory. -/
def flushBytes (m : Mem) (a : Nat) : List Byte → List Bool → Mem
  | b :: bs, d :: ds => flushBytes (if d then Memory.set m a b else m) (a + 1) bs ds
  | _, _ => m

/-- A line has written every byte of the word at an address / 4. -/
def L1Line.covers (l : L1Line) (w : Nat) : Bool :=
  decide (w / 32 = l.line) && (List.range 4).all (fun i => l.dirty.getD (w % 32 * 4 + i) false)

/-- A line has bytes to write back to a die that a failed link cuts off from its own (R21). -/
def State.lineLost (s : State) (l : L1Line) : Bool :=
  l.dirty.any id && s.cut (if l.owner < 160 then l.owner / 40 else (l.owner - 160) / 10) (homeDie (l.line * 128))

/-- The lines of the L1s that pass a test are written back and dropped. One whose write needs a failed link is lost, and the root
buffer is told: a line names no context (R21; log entry 6). -/
def State.l1Drop (s : State) (p : L1Line → Bool) : State :=
  let all := s.path.l1.filter p
  let go := all.filter (fun l => !s.lineLost l)
  (all.filter (fun l => s.lineLost l)).foldl (fun t l => t.rootItem 0x35 (l.line * 128) t.selfDev)
    { s with mem := go.foldl (fun m l => flushBytes m (l.line * 128) l.bytes l.dirty) s.mem,
             uncorr := s.uncorr.filter (fun w => !(go.any (fun l => l.covers w))),
             path := { s.path with l1 := s.path.l1.filter (fun l => !p l) } }

/-- The lines of an owner that pass a test are written back and dropped. -/
def State.l1Flush (s : State) (o : Nat) (p : L1Line → Bool) : State := s.l1Drop (fun l => l.owner == o && p l)

/-- Every line of every L1 written back and dropped. -/
def State.l1FlushAll (s : State) : State := s.l1Drop (fun _ => true)

/-- The L1 of a seat written back and dropped: a release, and an acquire (R249, R251). -/
def State.l1SyncAt (s : State) (p : Seat) : State :=
  match s.l1Any p with
  | some o => s.l1Flush o (fun _ => true)
  | none => s

/-- The L1 of an agent written back and dropped. -/
def State.l1Sync (s : State) (ag : Agent) : State := s.l1SyncAt (s.seat ag)

/-- Lines that stand in one core's slice: an L1's own, or in a fused L1 those with the same address bits 8:7 (R235). -/
def L1Line.mates (a b : L1Line) : Bool := a.owner == b.owner && (decide (a.owner < 160) || a.line % 4 == b.line % 4)

/-- A line joins its L1; a slice of 768 KiB that is full gives up its oldest line (R18; which line leaves is open, log entry
6). -/
def State.addLine (s : State) (l : L1Line) : State :=
  let slice := s.path.l1.filter (fun k => k.mates l)
  let s' := match slice.getLast? with
    | some o => if 6144 ≤ slice.length then s.l1Flush o.owner (fun k => k.line == o.line) else s
    | none => s
  { s' with path := { s'.path with l1 := l :: s'.path.l1 } }

/-- n bytes of one line read at the level an access's scope names, and the state after it: a hit in the L1 that may serve the
access, or memory, in which case a copy may be kept, of a line without uncorrectable error (R234, R238; log entry 6). -/
def State.lineRead (s : State) (p : Seat) (sc : Scope) (cached : Bool) (pa n : Nat) : List Byte × State :=
  match s.l1Owner p sc, cached with
  | some o, true =>
    match s.l1Line o pa with
    | some l =>
      let bs := (List.range n).map (fun i => l.bytes.getD (pa % 128 + i) 0)
      let s' := { s with free := s.free + 1 }
      (bs, if Config.l1Holds s.free then s' else s'.l1Flush o (fun l => l.line == pa / 128))
    | none =>
      let s' := { s with free := s.free + 1 }
      let l : L1Line := ⟨o, pa / 128, Memory.read s.mem (pa / 128 * 128) 128, List.replicate 128 false⟩
      (Memory.read s.mem pa n, if Config.l1Holds s.free && !(s.badBytes (.mem (pa / 128 * 128)) 128) then s'.addLine l else s')
  | _, _ =>
    let s' := match s.l1Any p with | some o => s.l1Flush o (fun l => l.line == pa / 128) | none => s
    (Memory.read s'.mem pa n, s')

/-- n bytes read line by line; `k` lines at most. -/
def State.spanRead (s : State) (p : Seat) (sc : Scope) (cached : Bool) : Nat → Nat → Nat → List Byte × State
  | 0, _, _ => ([], s)
  | k + 1, pa, n =>
    if n ≤ 128 - pa % 128 then s.lineRead p sc cached pa n
    else
      let a := s.lineRead p sc cached pa (128 - pa % 128)
      let b := a.2.spanRead p sc cached k (pa + (128 - pa % 128)) (n - (128 - pa % 128))
      (a.1 ++ b.1, b.2)

/-- n bytes read at the level an access's scope names, and the state after it. -/
def State.cachedRead (s : State) (p : Seat) (sc : Scope) (cached : Bool) (pa n : Nat) : List Byte × State :=
  s.spanRead p sc cached (n / 128 + 2) pa n

/-- An access is served by a line that an L1 holds. -/
def State.l1Serves (s : State) (p : Seat) (sc : Scope) (cached : Bool) (pa : Nat) : Bool :=
  match s.l1Owner p sc, cached with
  | some o, true => (s.l1Line o pa).isSome
  | _, _ => false

/-- Bytes of a line replaced and marked dirty. -/
def L1Line.put (l : L1Line) (off : Nat) (bs : List Byte) : L1Line :=
  { l with bytes := l.bytes.mapIdx (fun i b => if off ≤ i ∧ i < off + bs.length then bs.getD (i - off) 0 else b),
           dirty := l.dirty.mapIdx (fun i d => d || (decide (off ≤ i) && decide (i < off + bs.length))) }

/-- Bytes written at the level an access's scope names: into a line of the L1 that may serve it, or through to memory,
with a copy that the agent's L1 holds written back and dropped (R234). -/
def State.cachedWrite (s : State) (p : Seat) (sc : Scope) (cached : Bool) (pa : Nat) (bs : List Byte) : State :=
  let ds := s.disown pa bs
  match s.l1Owner p sc, cached with
  | some o, true =>
    match s.l1Line o pa with
    | some _ =>
      { s with path := { s.path with l1 := s.path.l1.map (fun l => if l.owner == o && l.line == pa / 128 then l.put (pa % 128) ds else l) } }
    | none => s.writeMem pa ds
  | _, _ => (match s.l1Any p with | some o => s.l1Flush o (fun l => l.line == pa / 128) | none => s).writeMem pa ds

/-! ### Commits (R169, R269, R270) -/

/-- Commit tag of a record. -/
def recTag (w0 : W64) : BitVec 12 := BitVec.ofNat 12 (fld w0 63 52)

/-- The core whose log a tag's records enter (R267, R268). -/
def tagCore (t : BitVec 12) : Nat := if t.toNat / 16 < 160 then t.toNat / 16 else 4 * (t.toNat / 16 - 160)

/-- A destination on this device. -/
def isLocalDest : BinDest → Bool
  | .pch _ => true
  | .dev _ => false

/-- A bin of this device's own records holds one that a commit of these tags covers. -/
def Bin.covers (b : Bin) (tags : List (BitVec 12)) (pod : Bool) : Bool :=
  decide (b.key < 1024) && (pod || isLocalDest b.dest) && b.recs.any (fun r => tags.contains (recTag r.w0))

/-- A log entry that a commit of these tags covers. -/
def LogEntry.covered (e : LogEntry) (tags : List (BitVec 12)) (pod : Bool) : Bool :=
  match e with
  | .record r => tags.contains (recTag r.w0) && (pod || isLocalDest r.dest)
  | .marker _ => false

/-- A staged bin holds a record of these tags, sent by this device, that is neither applied nor failed. -/
def Staged.covers (b : Staged) (tags : List (BitVec 12)) : Bool :=
  decide (b.key < 1024) && b.recs.any (fun r => !r.2 && tags.contains (recTag r.1.w0))

/-- A shipment is a bin of covered records. -/
def Shipment.covers (p : Shipment) (tags : List (BitVec 12)) (pod : Bool) : Bool :=
  match p with
  | .bin b => b.covers tags pod
  | .notice _ => false

/-- The log of a core. -/
def State.log (s : State) (n : Nat) : List LogEntry := Map.at s.dfd.logs n []

/-- The channel of a die and destination, replaced by a function of it. -/
def State.modChan (s : State) (die : Nat) (dest : BinDest) (f : Chan → Chan) : State :=
  let cs := s.dfd.chans
  let cs' := if cs.any (fun c => c.die == die && c.dest == dest) then cs.map (fun c => if c.die == die && c.dest == dest then f c else c)
    else cs ++ [f ⟨die, dest, [], []⟩]
  { s with dfd := { s.dfd with chans := cs' } }

/-- The commit of a number, replaced by a function of it. -/
def State.modCommit (s : State) (n : Nat) (f : Commit → Commit) : State :=
  { s with dfd := { s.dfd with commits := s.dfd.commits.map (fun c => if c.n == n then f c else c) } }

/-- A local HBM address lies in a replica (R278). -/
def State.inReplica (s : State) (pa : Nat) : Bool :=
  s.dfd.replicas.any (fun e => decide (e.2.1 ≤ pa % 2 ^ 36) && decide (pa % 2 ^ 36 < e.2.1 + e.2.2))

/-- Local byte address of a record. -/
def recAddr (w0 : W64) : Nat := fld w0 37 0 * 4

/-- The channels of a die on which a notice must follow covered records that are already staged: the die's own, and that
of die 0 for records of replicas. -/
def State.stagedPaths (s : State) (die : Nat) (l : List (Nat × List Nat)) : List (Nat × BinDest) :=
  (l.map (fun e => e.2.map (fun a => (if s.inReplica a then 0 else die, BinDest.pch e.1)))).flatten

/-- The paths that hold covered records once a core's marker has been drained: die and destination. -/
def State.pathsOf (s : State) (tags : List (BitVec 12)) (pod : Bool) (core : Nat) : List (Nat × BinDest) :=
  let open_ := (s.dfd.bins.filter (fun b => b.covers tags pod)).map (fun b => (b.die, b.dest))
  let moving := (s.dfd.chans.filter (fun c => c.sent.any (fun p => p.covers tags pod))).map (fun c => (c.die, c.dest))
  let there := s.stagedPaths (core / 40) ((s.dfd.staged.filter (fun b => b.covers tags)).map (fun b =>
    (b.pch, (b.recs.filter (fun r => !r.2 && tags.contains (recTag r.1.w0))).map (fun r => recAddr r.1.w0))))
  let far := if pod then (s.dfd.farTags.filter (fun e => tags.contains e.2.1)).map (fun e => (core / 40, BinDest.dev e.1)) else []
  (open_ ++ moving ++ there ++ far).eraseDups

/-- A notice joins its channel: behind the bins that wait to ship, and behind the notices that do. -/
def Chan.follow (c : Chan) (nt : Notice) (wait : Bool) : Chan :=
  if wait || !c.behind.isEmpty then { c with behind := c.behind ++ [nt] } else { c with sent := c.sent ++ [.notice nt] }

/-- A commit covers every tag of its launch (R169, R260). -/
def CommitFor.whole (w : CommitFor) : Bool :=
  match w with
  | .agent _ _ _ _ all => all
  | .launch => true
  | .retire => false

/-- A failed record counts in a commit's `done`: it belongs to the present holder of a tag that is covered, which for a commit
of the launch is of that launch (R169, R170). -/
def Lost.counts (l : Lost) (cm : Commit) (tags : List (BitVec 12)) : Bool :=
  l.src == none && !l.old && tags.contains l.tag && (cm.pod || !l.far) && (!cm.why.whole || l.launch == cm.launch)

/-- A notice goes behind the covered bins of a path. -/
def State.addNotice (s : State) (p : Nat × BinDest) (nt : Notice) (cm : Commit) : State :=
  s.modChan p.1 p.2 (fun c => c.follow nt (s.dfd.bins.any (fun b => b.die == p.1 && b.dest == p.2 && b.covers nt.tags cm.pod)))

/-- Covered records ahead of a core's marker are at work: their bins are to ship, a notice follows them to each
pseudo-channel, and failures so far are counted (R169, R170). Once no core of a die is left, one notice to each receiving
device follows the covered bins of that die (R292). -/
def State.noticeFor (s : State) (n core : Nat) : State :=
  let g := Map.at s.dfd.groups core 0
  match s.dfd.commits.find? (fun c => c.n == n) with
  | none => s
  | some cm =>
    let tags := cm.tags.filter (fun t => tagCore t == core)
    let paths := (s.pathsOf tags cm.pod core).filter (fun p => isLocalDest p.2)
    let s1 : State := { s with dfd := { s.dfd with
      bins := s.dfd.bins.map (fun (b : Bin) => if b.covers tags cm.pod then { b with due := true } else b) } }
    let s2 := paths.foldl (fun t p => t.addNotice p ⟨n, tags, s.selfDev, s.dev.inc, g, [(core, g)], p.1, cm.ctx⟩ cm) s1
    let lost := (s.dfd.lost.filter (fun l => l.counts cm tags)).length
    let die := core / 40
    let marks := Map.put cm.marks core g
    let rest := (cm.cores.erase core ++ cm.pend).filter (fun k => k / 40 == die)
    let mine := cm.tags.filter (fun t => tagCore t / 40 == die)
    let far := if cm.pod && rest.isEmpty then (mine.map (fun t => (s2.pathsOf [t] true (tagCore t)).filter (fun p => !isLocalDest p.2))).flatten.eraseDups
      else []
    let s3 := far.foldl (fun t p => t.addNotice p ⟨n, mine, s.selfDev, s.dev.inc, g, marks, p.1, cm.ctx⟩ cm) s2
    s3.modCommit n (fun c => { c with cores := c.cores.erase core, left := c.left + paths.length + far.length, failed := c.failed + lost,
                                      marks := marks })

/-- The records of a core's log begin a new merge group (R271). -/
def State.nextGroup (s : State) (core : Nat) : State :=
  { s with dfd := { s.dfd with groups := Map.put s.dfd.groups core (Map.at s.dfd.groups core 0 + 1) } }

/-- A core's marker of a commit has been drained. A marker that had no covered record ahead of it only ends the merge
groups (R169, R271). -/
def State.markerDone (s : State) (n core : Nat) : State :=
  (if s.dfd.commits.any (fun c => c.n == n && c.cores.contains core) then s.noticeFor n core else s).nextGroup core

/-- A commit's marker enters a core's log, where it is to wait for covered records ahead of it. Where there is none, those
that have been drained are at work at once; in an empty log the marker is drained at once. -/
def State.placeMarker (s : State) (n core : Nat) : State :=
  match s.dfd.commits.find? (fun c => c.n == n) with
  | none => s
  | some cm =>
    let l := s.log core
    let ahead := l.any (fun e => e.covered cm.tags cm.pod)
    let s0 := s.modCommit n (fun c => { c with pend := c.pend.erase core, cores := if ahead then core :: c.cores else c.cores })
    let s1 := if ahead then s0 else s0.noticeFor n core
    if l.isEmpty then s1.nextGroup core
    else { s1 with dfd := { s1.dfd with logs := Map.put s1.dfd.logs core (l ++ [.marker n]) } }

/-- A core's log has room for one more entry (R268). -/
def State.logRoom (s : State) (core : Nat) : Bool := decide ((s.log core).length < 1024)

/-- Records of some tags wait to enter a core's log (R152). -/
def State.recsWait (s : State) (tags : List (BitVec 12)) (core : Nat) : Bool :=
  s.path.acc.any (fun a => a.seat.log == core && a.recs.any (fun r => tags.contains (recTag r.w0)))

/-- The marker of a commit may enter a core's log: there is room, and behind the tag's last record (R268, R269). -/
def State.markerMay (s : State) (why : CommitFor) (tags : List (BitVec 12)) (core : Nat) : Bool :=
  s.logRoom core && (match why with | .agent _ _ _ _ _ => true | _ => !(s.recsWait tags core))

/-- Markers that wait for a core's log enter it, oldest first, while they may. -/
def State.enterMarkers (s : State) (core : Nat) : State :=
  (s.dfd.commits.filter (fun c => c.pend.contains core)).foldl (fun t c =>
    if t.markerMay c.why c.tags core then t.placeMarker c.n core else t) s

/-- Failed records of a launch whose tags have passed on since: a commit of the whole launch counts them as it begins (R170). -/
def State.lostBefore (s : State) (why : CommitFor) (launch : Nat) (pod : Bool) : Nat :=
  if why.whole then (s.dfd.lost.filter (fun l => l.src == none && l.old && l.launch == launch && (pod || !l.far))).length else 0

/-- A commit begins: its marker enters the log of every core whose records it may cover, at once or when it may (R169,
R268). -/
def State.startCommit (s : State) (why : CommitFor) (launch : Nat) (tags : List (BitVec 12)) (pod : Bool) : Nat × State :=
  let n := s.fresh
  let cores := (tags.map tagCore).eraseDups
  let x := match s.launch launch with | some l => l.ctx | none => 0
  let s1 := { s with fresh := s.fresh + 1, dfd := { s.dfd with commits := s.dfd.commits ++ [⟨n, why, launch, x, tags, pod, [], cores, 0, s.lostBefore why launch pod, []⟩] } }
  (n, cores.foldl (fun t k => if t.markerMay why tags k then t.placeMarker n k else t) s1)

/-- A record of a tag is neither applied nor reported failed (R35, R269). -/
def State.tagBusy (s : State) (t : BitVec 12) : Bool :=
  s.path.acc.any (fun a => a.recs.any (fun r => recTag r.w0 == t))
    || s.dfd.logs.any (fun e => e.2.any (fun x => x.covered [t] true))
    || s.dfd.bins.any (fun b => b.covers [t] true)
    || s.dfd.chans.any (fun c => c.sent.any (fun p => p.covers [t] true))
    || s.dfd.staged.any (fun b => b.covers [t])
    || s.dfd.farTags.any (fun e => e.2.1 == t)
    || s.fab.out.any (fun r => match r.kind with | .bin b _ => b.covers [t] true | _ => false)

/-- A tag passes to its next holder (R35, R269): commits and notices that named it for the last one, of whose records none is
left, name it no more. Its failures count in the commits that have still to count them, and later in those of its launch only;
home-L2 copies of words that its records wrote are dropped (R170, R171). -/
def State.passTag (s : State) (t : BitVec 12) : State :=
  let core := tagCore t
  let leave (nt : Notice) : Notice := if (Map.find s.fab.waiting nt.n).isNone then { nt with tags := nt.tags.filter (· != t) } else nt
  let commit (c : Commit) : Commit :=
    let k := if c.cores.contains core || c.pend.contains core then (s.dfd.lost.filter (fun l => l.counts c [t])).length else 0
    if c.tags.contains t then { c with tags := c.tags.filter (· != t), failed := c.failed + k } else c
  let words := s.dfd.farWords.filter (fun e => e.2.1 == t)
  { s with
    path := { s.path with far := s.path.far.filter (fun c =>
      !(words.any (fun e => e.1 == c.dev && decide (e.2.2.1 ≤ c.pa) && decide (c.pa < e.2.2.1 + 8)))) }
    dfd := { s.dfd with
      commits := s.dfd.commits.map commit
      chans := s.dfd.chans.map (fun c => { c with
        sent := c.sent.map (fun p => match p with | .notice nt => .notice (leave nt) | .bin b => .bin b)
        behind := c.behind.map leave })
      inbox := Map.each s.dfd.inbox (fun _ l => l.map leave)
      farWords := s.dfd.farWords.filter (fun e => e.2.1 != t)
      lost := s.dfd.lost.map (fun (r : Lost) => if r.src == none && r.tag == t then { r with old := true } else r) } }

/-! ### The save area header (Table 27-8) -/

/-- Bit n of the words w2 to w4 of a header, or with `off` 40 of w5, set or cleared. -/
def State.headerBit (s : State) (d x off n : Nat) (v : Bool) : State :=
  let a := s.savea x + off + 8 * (n / 64)
  s.physWords d x a [withFld (s.physW64 d a) (n % 64) (n % 64) v.toNat]

/-- `clus` of a context's header: a saved thread or stream stands on the cluster. -/
def State.syncClus (s : State) (x c : Nat) : State :=
  s.headerBit (c / 10) x 40 c (s.threads.any (fun e => e.1 / 4 == c && e.2.ctx == x && e.2.bank == .saved)
    || (List.range 4).any (fun st => match Map.find s.eng.streams (streamKey x c st) with | some r => r.saved | none => false))

/-- Bit n of the words w2 to w4 of a header. -/
def State.coreBit (s : State) (x core : Nat) : Bool := bitAt (s.physW64 (core / 40) (s.savea x + 16 + 8 * (core / 64))) (core % 64)

/-- A core's bit in `cores` of a context's header: workgroups of it are saved there (R329). -/
def State.syncCore (s : State) (x core : Nat) : State :=
  s.headerBit (core / 40) x 16 core (s.sch.wgs.any (fun e => e.2.ctx == x && e.2.core == core && e.2.out))

/-- A saved wave of a context stands on a core. -/
def State.savedOn (s : State) (x core : Nat) : Bool := s.waves.any (fun e => e.2.ctx == x && e.2.core == core && e.2.bank == .saved)

/-- `busy` of a context's header: its spills, and its fills that have started (R329). -/
def State.syncBusy (s : State) (x : Nat) : State :=
  let n := (s.sch.cores.filter (fun e => e.2.spill == some x
    || ((match e.2.req with | some r => r.1 == x | none => false) && !e.2.filled && e.2.spill.isNone && s.savedOn x e.1))).length
  s.physWords 0 x (s.savea x + 48) [BitVec.ofNat 64 (n * 2 ^ 32), 0]

/-! ### The choice of a context for a core (R33, R35, R49, R59 to R62) -/

/-- The context of a queue. -/
def State.queueCtx (s : State) (q : Nat) : Nat :=
  match s.anc q with | _ :: c :: _ => (match s.node c with | some m => m.ctxid | none => 0) | _ => 0

/-- a is lower than b (R61). -/
def passLower (a b : W64) : Bool := decide (2 ^ 63 ≤ (a - b).toNat)

/-- The blocks of a sibling list. -/
def State.sibs (s : State) (fuel a : Nat) : List Nat :=
  match fuel with
  | 0 => []
  | k + 1 => if a = 0 then [] else match Map.find s.sch.nodes a with | none => [] | some n => a :: s.sibs k (n.f 3 51 7 * 128)

/-- The attached children of a node, in the order of its sibling list; those that the list does not reach follow by
address (log entry 14). -/
def State.kids (s : State) (a : Nat) : List Nat :=
  let mine := (s.sch.nodes.filter (fun e => e.2.state != 0 && e.2.level != 0 && e.2.parent == a)).map (·.1)
  let chain := s.sibs s.sch.nodes.length (match Map.find s.sch.nodes a with | some n => n.f 2 51 7 * 128 | none => 0)
  (chain.filter (fun x => mine.contains x)).eraseDups ++ mine.filter (fun x => !chain.contains x)

/-- Workgroups of a launch. -/
def Params.total (p : Params) : Nat := p.gridx * p.gridy * p.gridz

/-- Packet k of a queue has completed. -/
def State.packetOver (s : State) (q k : Nat) : Bool :=
  (match Map.find s.sch.nodes q with | some n => decide (k < n.c) | none => false)
    || (match Map.find (Map.at s.sch.packets q []) k with | some (.done _) => true | _ => false)

/-- The launch of a queue whose workgroup is placed next (R56, R59, R319): the earliest that has one left, with every
earlier packet read, no node suspended, and to start also every node attached and the serial order kept. -/
def State.nextLaunch (s : State) (q : Nat) : Option (Nat × Launch) :=
  match s.sch.launches.find? (fun e => e.2.q == q && e.2.dead.isNone && decide (e.2.next < e.2.par.total)) with
  | none => none
  | some (i, l) =>
    let unread := (Map.at s.sch.packets q []).any (fun e => decide (e.1 < l.k) && e.2 == .visible)
    let line := s.ancestry q
    let start := line.all (fun e => e.2.state == 1) && (!l.par.serial || l.k == 0 || s.packetOver q (l.k - 1))
    if unread || line.any (fun e => e.2.state == 2) || (l.next == 0 && !start) then none else some (i, l)

/-- Windows of a cluster's scratchpad in use: offset and size. -/
def State.windows (s : State) (c : Nat) : List (Nat × Nat) :=
  (s.sch.wgs.filter (fun e => e.2.core / 4 == c && e.2.wsize != 0)).map (fun e => (e.2.wbase, e.2.wsize))
    ++ (s.sch.launches.filterMap (fun e => (Map.find e.2.win c).map (fun o => (o, e.2.par.seqspad * 4096)))).filter (·.2 != 0)

/-- The lowest offset at which n bytes of a scratchpad are free. -/
def hole (used : List (Nat × Nat)) (n : Nat) : Option Nat :=
  let ok (o : Nat) : Bool := decide (o + n ≤ 2 ^ 22) && used.all (fun u => decide (o + n ≤ u.1) || decide (u.1 + u.2 ≤ o))
  if n = 0 then some 0
  else
    ((0 :: used.map (fun u => u.1 + u.2)).filter ok).foldl
      (fun b o => match b with | some x => some (min x o) | none => some o) none

/-- Offsets of the sequencer window, where one is needed, and of the workgroup's window. -/
def State.roomFor (s : State) (l : Launch) (c : Nat) (thread : Bool) : Option (Nat × Nat) :=
  let used := s.windows c
  let sq := if thread then l.par.seqspad * 4096 else 0
  match hole used sq with
  | none => none
  | some a => (hole (if sq = 0 then used else (a, sq) :: used) (l.par.wgspad * 4096)).map (fun b => (a, b))

/-- Commit tag of the next occupant of a workgroup slot. -/
def State.slotTag (s : State) (core j : Nat) : BitVec 12 :=
  BitVec.ofNat 12 (core * 16 + j * 2 + ((s.core core).epochs.toList.getD j false).toNat)

/-- Epoch of the next binding of a thread (R269). -/
def Thread.nextEpoch (h : Thread) : Bool := h.used && !h.epoch

/-- The lowest free thread of a cluster whose next tag has no record left (R37, R269). R37 names one free thread; that it is the
lowest is DESIGN CHOICE (log entry 45). -/
def State.freeThreadOf (s : State) (c : Nat) : Option Nat :=
  (List.range 4).find? (fun t =>
    let h := s.thread c t
    h.st == .free && !s.tagBusy (BitVec.ofNat 12 ((160 + c) * 16 + t * 2 + h.nextEpoch.toNat)))

/-- The lowest workgroup slot of a core that is free and usable (R35). -/
def State.freeSlot (s : State) (core : Nat) : Option Nat :=
  (List.range 8).find? (fun j => !(s.sch.wgs.any (fun e => e.2.core == core && e.2.slot == j)) && !s.tagBusy (s.slotTag core j))

/-- Partition k of a core has room for the waves of a workgroup beside those of the same context (R16, R35, R324). The registers
and the residence place of a wave that has ended are free at once: DESIGN CHOICE, R38 names the scratchpad and the slot only
(log entry 47). -/
def State.partRoom (s : State) (x core k : Nat) (p : Params) : Bool :=
  let nw := (p.wpg + 3 - k) / 4
  let res := s.waves.filter (fun e => e.2.part == 4 * core + k && e.2.ctx == x && !e.2.ended)
  decide (res.length + nw ≤ 12) && decide (res.foldl (fun a e => a + e.2.allot) 0 + nw * 8 * p.allot ≤ 512)

/-- The slot in which a core could hold the next workgroup of a launch under R33, R35, R37, R49 and `clmask`. -/
def State.fits (s : State) (i : Nat) (l : Launch) (core : Nat) : Option Nat :=
  let c := core / 4
  let fresh := (s.threadFor i c).isNone
  let busy := s.sch.wgs.any (fun e => e.2.core / 4 == c)
  let mode := l.par.l1mode == 2 || !busy || (s.sch.fused.contains c == (l.par.l1mode == 1))
  if (s.effClmask l.q).testBit c && s.dieReady (core / 40) && mode
      && (List.range 4).all (fun k => s.partRoom l.ctx core k l.par)
      && (!fresh || (s.freeThreadOf c).isSome) && (s.roomFor l c fresh).isSome
      && (s.ancestry l.q).all (fun e => (s.coresOf e.1).contains core || decide ((s.coresOf e.1).length + 1 ≤ s.effCores e.1))
  then s.freeSlot core else none

/-- A workgroup of a queue stands on a core; `out` asks for a pre-empted one. -/
def State.standsOn (s : State) (q core : Nat) (out : Bool) : Bool :=
  s.sch.wgs.any (fun e => e.2.core == core && (!out || e.2.out) && (match s.launch e.2.launch with | some l => l.q == q | none => false))

/-- A queue is ready for a core: a workgroup of it could be placed there, or one of its pre-empted ones waits there (R61). -/
def State.queueReady (s : State) (q core : Nat) : Bool :=
  s.standsOn q core true || (match s.nextLaunch q with | some (i, l) => (s.fits i l core).isSome | none => false)

/-- A queue takes part in a core's choice: it is ready, or its workgroups are resident there (R62, R63; log entry 14). A
context whose switch-out still spills is not chosen (R69). -/
def State.mayRun (s : State) (q core : Nat) : Bool :=
  (s.queueReady q core || s.standsOn q core false) && !(s.sch.cores.any (fun e => e.2.spill == some (s.queueCtx q)))

/-- The child with the lowest `pass`, the earlier one where two agree. -/
def State.bestKid (s : State) : List Nat → Option Nat
  | [] => none
  | a :: r =>
    match s.bestKid r with
    | none => some a
    | some b =>
      match Map.find s.sch.nodes a, Map.find s.sch.nodes b with
      | some m, some n => if passLower n.pass m.pass then some b else some a
      | _, _ => some a

/-- The way down from a node through nodes that lead to a queue. -/
def State.descend (s : State) (lead : List Nat) : Nat → Nat → Nat
  | 0, a => a
  | k + 1, a => match s.bestKid ((s.kids a).filter (fun b => lead.contains b)) with | some b => s.descend lead k b | none => a

/-- R61: the queue that a core chooses. -/
def State.choose (s : State) (core : Nat) : Option Nat :=
  let qs := ((s.sch.nodes.filter (fun e => e.2.state != 0 && e.2.level == 3)).map (·.1)).filter (fun q => s.mayRun q core)
  if qs.isEmpty then none
  else
    let top := qs.foldl (fun m q => max m (s.effPrio q)) 0
    let lead := ((qs.filter (fun q => s.effPrio q == top)).map (fun q => s.anc q)).flatten
    match s.sch.nodes.find? (fun e => e.2.state != 0 && e.2.level == 0) with
    | some r => some (s.descend lead 3 r.1)
    | none => none

/-- A node is ready for at least one core. -/
def State.nodeReady (s : State) (a : Nat) : Bool :=
  ((s.sch.nodes.filter (fun e => e.2.state != 0 && e.2.level == 3)).map (·.1)).any
    (fun q => (s.anc q).contains a && (List.range 160).any (fun core => s.queueReady q core))

/-- A node's subtree holds the active context of a core. -/
def State.nodeRuns (s : State) (a : Nat) : Bool := s.sch.cores.any (fun e => e.2.active.isSome && (s.anc e.2.queue).contains a)

/-- The lowest `pass` of some nodes. -/
def State.lowest (s : State) (l : List Nat) : Option W64 :=
  match s.bestKid l with | some a => (Map.find s.sch.nodes a).map (·.pass) | none => none

/-- A node's `pass` raised as it becomes ready, and while it is idle (R61). -/
def Node.rise (n : Node) (ready : Bool) (lo : Option W64) : Node :=
  match lo with
  | none => { n with ready := ready }
  | some p =>
    let up := if ready then !n.ready && passLower n.pass p
      else decide (2 ^ 62 ≤ (p - n.pass).toNat) && decide ((p - n.pass).toNat < 2 ^ 63)
    { n with ready := ready, pass := if up then p else n.pass }

/-- Readiness of every node brought up to date. -/
def State.refreshReady (s : State) : State :=
  let nodes := s.sch.nodes.map (fun e =>
    if e.2.state = 0 then e
    else
      let sib := if e.2.level = 0 then [] else (s.kids e.2.parent).filter (fun b =>
        b != e.1 && ((match Map.find s.sch.nodes b with | some m => m.ready | none => false) || s.nodeRuns b))
      (e.1, e.2.rise (s.nodeReady e.1) (s.lowest sib)))
  { s with sch := { s.sch with nodes := nodes } }

/-- A slice of u cycles charged on the path to the queue that the choice named (R61). -/
def State.charge (s : State) (q u : Nat) : State :=
  let s1 := s.refreshReady
  (s1.ancestry q).foldl (fun t e => t.modNode e.1 (fun n => { n with pass := n.pass + BitVec.ofNat 64 (u * 65536 / s1.effWeight e.1) })) s1

/-- Cycles of a core's slice so far. -/
def Core.run (k : Core) : Nat := (k.cyc - k.slice).toNat

/-- Every die is ready and full service has not begun: it waits for the slices that were running, and no core begins another
before it, so that the change happens between two slices of every core (R338). -/
def State.fullPending (s : State) : Bool := s.dev.ready == 15 && !s.dev.full

/-- A core begins a slice, or waits for full service with it. -/
def State.newSlice (s : State) (core : Nat) (k : Core) : State :=
  s.setCore core { k with inSlice := !s.fullPending, hold := s.fullPending }

/-- Full service begins: the nominal clock, and the slices that waited for it (R29, R338). -/
def State.fullService (s : State) : State :=
  { s with dev := { s.dev with late := [], full := true, clockMHz := 2400 },
           sch := { s.sch with cores := Map.each s.sch.cores (fun _ k =>
             if k.hold then { k with slice := k.cyc, inSlice := true, hold := false } else k) } }

/-- A slice of a core has ended: where no core is left whose slice began before the last die was ready, reduced service ends
(R29, R338). -/
def State.boundary (s : State) (core : Nat) : State :=
  if s.dev.late.contains core then
    let l := s.dev.late.filter (· != core)
    if l.isEmpty then (s.setCore core { s.core core with inSlice := false }).fullService
    else { s with dev := { s.dev with late := l } }
  else s

/-- A slice that still runs is charged for the cycles since its start, 32,768 at most (R62, R63). -/
def State.chargeRun (s : State) (core : Nat) : State :=
  let k := s.core core
  if k.inSlice then (s.charge k.queue (min k.run 32768)).boundary core else s

/-- The waves that a dropped request had filled into the shadow bank go back to the save area (R69). -/
def State.unfill (s : State) (core : Nat) : State :=
  { s with waves := Map.each s.waves (fun _ v => if v.core = core ∧ v.bank = .filled then { v with bank := .saved } else v) }

/-- The choice after a slice that ended at a cycle count: a pre-emption request where it names another context, else a new
slice (R62). -/
def State.rechoose (s : State) (core : Nat) (now : W64) : State :=
  let k := s.core core
  match s.choose core with
  | none => s.newSlice core { k with slice := now }
  | some q =>
    let x := s.queueCtx q
    if k.active = some x then s.newSlice core { k with queue := q, slice := now }
    else
      let same := k.req.map (·.1) == some x
      let s1 := (if same then s else s.unfill core).setCore core
        { k with req := some (x, q), filled := k.filled && same, slice := now, inSlice := false, hold := false }
      let s2 := match k.req with | some r => s1.syncBusy r.1 | none => s1
      s2.syncBusy x

/-- The active context's last resident workgroup on a core has ended: its slice is charged and the choice made again; a
core without workgroups has no context (R62, R66). -/
def State.lastEnded (s : State) (core : Nat) : State :=
  if s.sch.wgs.any (fun e => e.2.core == core && !e.2.out) || (s.core core).active.isNone then s
  else
    let s1 := s.chargeRun core
    let k := s1.core core
    if s.sch.wgs.any (fun e => e.2.core == core) then s1.rechoose core k.cyc
    else s1.setCore core { k with active := none, req := none, filled := false, slice := k.cyc, inSlice := false, hold := false }

/-! ### The end of workgroups and threads -/

/-- The retirement commit of a tag (R269). One of a launch that its domain has ended covers nothing at other devices, where records
that no commit has covered have failed (R281). -/
def State.retireTag (s : State) (l : Nat) (tag : BitVec 12) : State :=
  (s.startCommit .retire l [tag] (match s.launch l with | some v => v.dead.isNone | none => true)).2

/-- A thread whose launch has no workgroup left on the cluster is freed once it has halted; a retirement commit follows
(R37, R269). -/
def State.freeThread (s : State) (c t : Nat) : State :=
  let th := s.thread c t
  if th.st = .halted && !(s.onCluster th.launch c) && th.queue.isEmpty then
    let tag := s.tagOf (.thread c t)
    let s1 := s.retireTag th.launch tag
    let s2 := match s1.launch th.launch with
      | some l => s1.setLaunch th.launch { l with win := Map.del l.win c }
      | none => s1
    let s3 := s2.setThread c t { Thread.idle with epoch := th.epoch, used := true }
    if th.bank = .saved then s3.syncClus th.ctx c else s3
  else s

/-- A workgroup whose waves have all ended ends: slot and scratchpad are freed, a retirement commit follows for its tag,
and a thread that waited for it may be freed (R38, R269). -/
def State.reap (s : State) (g : Nat) : State :=
  match s.wg g with
  | none => s
  | some w =>
    let mine := Map.having s.waves (fun _ v => v.wg == g)
    if mine.all (fun e => e.2.ended) then
      let tag := BitVec.ofNat 12 (w.core * 16 + w.slot * 2 + w.epoch.toNat)
      let s1 := { s with waves := s.waves.filter (fun e => e.2.wg != g), sch := { s.sch with wgs := Map.del s.sch.wgs g } }
      let k := s1.core w.core
      let s2 := s1.setCore w.core { k with epochs := k.epochs.setIfInBounds w.slot (!w.epoch) }
      let s3 := s2.retireTag w.launch tag
      let s3' := if w.out && !(s.sch.wgs.any (fun e => e.1 != g && e.2.ctx == w.ctx && e.2.core == w.core && e.2.out)) then s3.syncCore w.ctx w.core
        else s3
      let s4 := (match s3'.launch w.launch with | some l => s3'.syncCores l.q | none => s3').lastEnded w.core
      (match s4.threadFor w.launch (w.core / 4) with
      | some t => s4.freeThread (w.core / 4) t
      | none => s4).refreshReady
    else s

/-- Pools whose reserve a wave held pass it to the wave that has waited longest (R316). -/
def State.dropReserve (s : State) (w : Nat) : State :=
  { s with flt := { s.flt with pools := Map.each s.flt.pools (fun _ p =>
      let p' := { p with waiters := p.waiters.filter (· != w) }
      if p'.holder = some w then { p' with holder := p'.waiters.head?, waiters := p'.waiters.drop 1 } else p') } }

/-- A wave is killed (R221): both slots become Empty and its stack is emptied. -/
def State.killWave (s : State) (w : Nat) : State :=
  match s.wave w with
  | none => s
  | some v =>
    ((s.setWave w { v with p0 := Path.none, p1 := Path.none, dstkdepth := 0, stop := .run, inh := none, step := false }).dropReserve
      w).reap v.wg

/-! ### Experts (R298, R301, R302) -/

/-- A firmware command completes (R336): w7 of its block receives status and result. -/
def State.reply (s : State) (a st res : Nat) : State :=
  s.physPut 0 fwCtx (a + 56) (leBytes 8 (st * 2 ^ 56 + res % 2 ^ 56))

/-- Evict commands that wait are settled: one whose entry is resident without uses makes it evicting, one whose entry is
pinned completes with pinned, one whose entry is neither completes (R298; log entry 20). -/
def State.settleEvicts (s : State) : State :=
  s.eng.evicts.foldl (fun t w =>
    match t.ertAddr w.ctx w.x with
    | none => t
    | some a =>
      let w0 := Memory.w64 t.mem a
      let st := fld w0 63 61
      let done : State := { t with eng := { t.eng with evicts := t.eng.evicts.erase w } }
      if st = 2 ∧ fld w0 31 0 ≠ 0 then t
      else if st = 2 then (done.putErt a 0 (withFld w0 63 61 4)).reply w.a 0 2
      else done.reply w.a (if st = 3 then 5 else 0) 2) s

/-- Every entry that a launch parked is removed, every use it holds is released, and the release of other entries that stood
behind them goes on (R301, R302). -/
def State.dropExperts (s : State) (l : Nat) : State :=
  match s.launch l with
  | none => s
  | some v =>
    let s1 := v.uses.foldl (fun t u => match t.ertAddr v.ctx u.1 with
      | some a =>
        let w0 := Memory.w64 t.mem a
        t.putErt a 0 (withFld w0 31 0 (fld w0 31 0 - u.2))
      | none => t) s
    match Map.find s.eng.tables v.ctx with
    | some t => (((List.range t.nent).foldl (fun u e => u.unpark v.ctx e l) s1).releaseAll v.ctx).settleEvicts
    | none => s1

/-! ### Requests to other devices, held and answered (R33, R290, R291) -/

/-- Held requests are sent, oldest first, while the budgets of their contexts have room (R33). -/
def State.sendHeld (s : State) : State :=
  (s.fab.out.filter (fun r => r.sends == 0)).foldl (fun t r =>
    if t.fabRoom r.ctx r.kind.bytes && !(t.fab.out.any (fun p => p.ctx == r.ctx && p.sends == 0 && decide (p.n < r.n))) then
      ({ t with fab := { t.fab with out := t.fab.out.map (fun (p : FabReq) => if p.n == r.n then { p with sends := 1 } else p) } }).chargeFab r.ctx r.kind.bytes
    else t) s

/-- n bytes of another device read in one step: charged, and free values, or a failure with zeros where the read gets no
answer, which a free value decides (R33, R290, R291; log entry 10). -/
def State.farRead (s : State) (x n : Nat) (fail : State → State) : List Byte × State :=
  let s1 := ({ s with free := s.free + 1 + n }).chargeFab x (max 4 n)
  if bitAt (Config.freeWord s.free) 0 then (List.replicate n 0, fail s1)
  else ((List.range n).map (fun i => (Config.freeWord (s.free + 1 + i)).truncate 8), s1)

/-- n bytes that the command processor reads at a physical address for a context: those of another device at once; a word with
an uncorrectable error, an address out of reach and an unassigned range give zeros and a record (R21, R288, R342, R344). -/
def State.devRead (s : State) (x a n : Nat) : List Byte × State :=
  match s.gap a n with
  | some i => (s.physGet 0 a n, s.rootItem 0x23 (a + i) s.selfDev)
  | none =>
    if !s.reach 0 (s.home a) then (List.replicate n 0, s.itemFailed x 0 0x35 a 0 0 0xFF (recStack a))
    else
      match s.home a with
      | .mem pa =>
        if s.badBytes (.mem pa) n then (List.replicate n 0, (s.useHbm pa n).itemFailed x 0 0x32 pa 0 0 0xFF (recStack pa))
        else (Memory.read s.mem pa n, s.useHbm pa n)
      | .dev _ _ _ => s.farRead x n (fun t => t.itemFailed x 0 0x35 a 0 0 0xFF 0xFF)
      | _ => ([], s)


/-! ### Completion of packets (R55 to R58) -/

/-- The packets of a queue. -/
def State.packetsOf (s : State) (q : Nat) : Map PacketSt := Map.at s.sch.packets q []

/-- A packet's state, replaced. -/
def State.setPacket (s : State) (q k : Nat) (p : PacketSt) : State :=
  { s with sch := { s.sch with packets := Map.put s.sch.packets q (Map.put (s.packetsOf q) k p) } }

/-- Address of packet k in its ring (R52). -/
def Node.ringAt (n : Node) (k : Nat) : Nat := n.f 10 51 12 * 4096 + 128 * (k % 2 ^ n.f 10 4 0)

/-- The sixteen words of a packet as it was read (R53). -/
def State.packetWords (s : State) (q k : Nat) : List W64 :=
  match Map.find (s.packetsOf q) k with
  | some (.read w) | some (.launched w) => w
  | _ => []

/-- A visible packet is read, once (R53). -/
def State.readPacket (s : State) (q k : Nat) : State :=
  match Map.find (s.packetsOf q) k, Map.find s.sch.nodes q with
  | some .visible, some n =>
    let r := s.devRead (s.queueCtx q) (n.ringAt k) 128
    let ws := (List.range 16).map (fun i => BitVec.ofNat 64 (leNat ((r.1.drop (8 * i)).take 8)))
    r.2.setPacket q k (.read ws)
  | _, _ => s

/-- The oldest packet at or above c that has not completed, and the packets with the completed ones below it dropped. -/
def settle (fuel : Nat) (ps : Map PacketSt) (c : Nat) : Nat × Map PacketSt :=
  match fuel with
  | 0 => (c, ps)
  | f + 1 =>
    match Map.find ps c with
    | some (.done _) => settle f (Map.del ps c) (c + 1)
    | _ => (c, ps)

/-- A write of n bytes covers part of a word that has an uncorrectable error (R342). -/
def State.badPart (s : State) (a n : Nat) : Bool :=
  n != 0 && ((a % 4 != 0 && s.badBytes (.mem a) 1) || ((a + n) % 4 != 0 && s.badBytes (.mem (a + n - 1)) 1))

/-- Bytes that the command processor writes for a context, as one device-scope release; the cause when it cannot: the address does
not translate, lacks the right, is out of reach, or the write meets an uncorrectable error (R57). -/
def State.storeVa (s : State) (x va : Nat) (bs : List Byte) : Except Nat State :=
  match s.xlate devTlb x va false true with
  | .error c => .error c
  | .ok (pa, e) =>
    match s.home pa with
    | .mem a =>
      if !s.reach 0 (.mem a) then .error 0x35
      else if s.badBytes (.mem a) bs.length then .error 0x32
      else .ok ((s.l1Drop (fun l => decide (l.line * 128 < a + bs.length) && decide (a < l.line * 128 + 128))).putAt (.mem a) bs)
    | .dev n a w => .ok (s.send x 0 n a (.write bs) w 0 none (s.l2Holds e)).2
    | _ => .error 0x35

/-- Packet k of queue q completes: it is counted, and its completion record is written where it has one (R55, R57). Where that
write fails, w3 and w4 of the fault record are 0, since it names no tag and no item: DESIGN CHOICE (log entry 48). -/
def State.complete (s : State) (q k st : Nat) (result : W32) : State :=
  match Map.find s.sch.nodes q with
  | none => s
  | some n =>
    let w := s.packetWords q k
    let x := s.queueCtx q
    let cpl := fld (wordAt w 7) 56 4 * 16
    let r := settle 65537 (Map.put (s.packetsOf q) k (.done st)) n.c
    let s1 := ({ s with sch := { s.sch with packets := Map.put s.sch.packets q r.2 } }).modNode q (fun m => { m with c := r.1 })
    if cpl = 0 then s1
    else
      let w1 := st * 2 ^ 56 + (r.1 % 2 ^ 24) * 2 ^ 32 + result.toNat
      match s1.storeVa x cpl (leBytes 8 k ++ leBytes 8 w1) with
      | .ok s2 => s2
      | .error c => s1.sendRecord (s1.boxOf x) 2 (faultWords 2 c x k ⟨BitVec.ofNat 64 cpl, 0, 0, 0⟩ 0xFFFF 0xFF 0xFF s1.selfDev)

/-- A packet that has not started: visible, a waiting no-op, or a launch that has placed no workgroup. -/
def State.unstarted (s : State) (q k : Nat) (p : PacketSt) : Bool :=
  match p with
  | .visible | .read _ => true
  | .launched _ => (match s.launch (launchKey q k) with | some l => l.next == 0 | none => false)
  | .done _ => false

/-- A packet that has not started completes without running (R54, R65, R319). -/
def State.dropPacket (s : State) (q k st : Nat) : State :=
  let s1 := (s.readPacket q k).complete q k st 0
  { s1 with sch := { s1.sch with launches := Map.del s1.sch.launches (launchKey q k) } }

/-- Every packet of a queue that has not started completes as cancelled (R54, R319). -/
def State.cancel (s : State) (q : Nat) : State :=
  ((s.packetsOf q).filter (fun e => s.unstarted q e.1 e.2)).foldl (fun t e => t.dropPacket q e.1 6) s

/-- A queue faults (R54). -/
def State.queueFault (s : State) (q cause w : Nat) : State :=
  match s.node q with
  | none => s
  | some _ =>
    let x := s.queueCtx q
    let s1 := s.modNode q (fun n => { n with state := 3 })
    let s2 := s1.sendRecord (s1.boxOf x) 3 (faultWords 3 cause x w ⟨0, 0, 0, 0⟩ 0xFFFF 0xFF 0xFF s1.selfDev)
    s2.cancel q

/-! ### Region capability entries and staging slots (R175, R274, R277) -/

/-- A free entry. -/
def Cap.free : Cap := ⟨0, false, false, 0, 0, 0, 0, 0, 0, 0⟩

/-- Entry e of a stack's table. -/
def State.cap (s : State) (stack e : Nat) : Cap := Map.at s.dfd.caps (stack * 2048 + e) Cap.free

/-- An entry replaced. -/
def State.setCap (s : State) (stack e : Nat) (c : Cap) : State :=
  { s with dfd := { s.dfd with caps := Map.put s.dfd.caps (stack * 2048 + e) c } }

/-- A command or bin that took an entry when it had undergone `swaps` CAPSWAPs holds it no longer. -/
def State.letGoCap (s : State) (stack e swaps : Nat) : State :=
  let c := s.cap stack e
  if Map.at s.dfd.swaps (stack * 2048 + e) 0 = swaps then s.setCap stack e { c with busy := c.busy - 1 }
  else s.setCap stack e { c with old := c.old - 1 }

/-- Slots of which every record has been applied or has failed are freed, with the entries that their bins hold (R274). -/
def State.freeSlots (s : State) : State :=
  let spent (b : Staged) : Bool := b.recs.all (fun r => r.2)
  (s.dfd.staged.filter spent).foldl (fun t b => match b.hold with | some r => t.letGoCap r.stack r.entry r.swaps | none => t)
    { s with dfd := { s.dfd with staged := s.dfd.staged.filter (fun b => !spent b) } }

/-! ### The end of a domain (R281, R318) -/

/-- The launch whose workgroup or thread holds a commit tag. -/
def State.holder (s : State) (t : BitVec 12) : Nat :=
  let k := t.toNat / 16
  if k < 160 then
    match s.sch.wgs.find? (fun e => e.2.core == k && e.2.slot == t.toNat / 2 % 8 && e.2.epoch == t.getLsbD 0) with
    | some e => e.2.launch
    | none => 0
  else
    let h := s.thread (k - 160) (t.toNat / 2 % 8)
    if h.st != .free && h.epoch == t.getLsbD 0 then h.launch else 0

/-- A commit covers a record of this device that has left its core log: its tag, its destination, and a place ahead of the
marker, which is the case while the marker is still to be drained (R169). -/
def Commit.takes (c : Commit) (w0 : W64) (dest : BinDest) (grp : Nat) : Bool :=
  c.tags.contains (recTag w0) && (c.pod || isLocalDest dest)
    && (match Map.find c.marks (tagCore (recTag w0)) with | some g => decide (grp ≤ g) | none => true)

/-- Log entries of a launch that no commit covers are taken out: those without a covering commit's marker behind them. -/
def State.uncovered (s : State) (l : Nat) : List LogEntry → List LogEntry
  | [] => []
  | .marker n :: r => .marker n :: s.uncovered l r
  | .record x :: r =>
    let kept := x.launch != l || s.dfd.commits.any (fun c => c.takes x.w0 x.dest 0 && r.any (fun e => e == .marker c.n))
    if kept then .record x :: s.uncovered l r else s.uncovered l r

/-- A commit notice to a device, on its way or still to leave, covers a tag's records that went there under request n or before. -/
def State.farNoticed (s : State) (dev n : Nat) (t : BitVec 12) : Bool :=
  s.fab.out.any (fun r => match r.kind with | .notice nt => r.dev == dev && nt.tags.contains t && decide (n < r.n) | _ => false)
    || s.dfd.chans.any (fun c => c.dest == .dev dev
      && (c.sent.any (fun p => match p with | .notice nt => nt.tags.contains t | .bin _ => false) || c.behind.any (fun nt => nt.tags.contains t)))

/-- Records of a launch that no commit has covered fail (R281). Those that have been sent to another device are covered by no notice
from now on; they stay staged there without effect, which no rule describes further: DESIGN CHOICE (log entry 42). -/
def State.failRecords (s : State) (l : Nat) : State :=
  let lose (dest : BinDest) (r : BinRec) : Bool := r.launch == l && !(s.dfd.commits.any (fun c => c.takes r.w0 dest r.grp))
  let bin (b : Bin) : Bin := if b.key < 1024 then { b with recs := b.recs.filter (fun r => !lose b.dest r) } else b
  let staged := s.dfd.staged.map (fun b =>
    if b.key < 1024 then { b with recs := b.recs.map (fun r => (r.1, r.2 || lose (.pch b.pch) r.1)) } else b)
  let s1 : State := { s with
    path := { s.path with acc := s.path.acc.map (fun a => { a with recs := a.recs.filter (fun r => r.launch != l) }) }
    dfd := { s.dfd with
      logs := Map.each s.dfd.logs (fun _ es => s.uncovered l es)
      bins := (s.dfd.bins.map bin).filter (fun b => !b.recs.isEmpty)
      chans := s.dfd.chans.map (fun c => { c with sent := c.sent.map (fun p => match p with | .bin b => .bin (bin b) | x => x) })
      staged := staged
      farTags := s.dfd.farTags.filter (fun e => !(s.holder e.2.1 == l) || s.farNoticed e.1 e.2.2 e.2.1) }
    fab := { s.fab with out := s.fab.out.map (fun (r : FabReq) => match r.kind with
      | .bin b q => if r.sends = 0 then { r with kind := .bin { b with recs := (bin b).recs } q } else r
      | _ => r) } }
  s1.freeSlots

/-- A stream's status after a failure: counted, and the first one kept (Table 16-4). -/
def Stream.fail (t : Stream) (num cause n : Nat) : Stream :=
  let k := min (fld t.status 23 0 + n) (2 ^ 24 - 1)
  if fld t.status 63 32 = 0 ∧ fld t.status 31 24 = 0 ∧ fld t.status 23 0 = 0 then
    { t with status := BitVec.ofNat 64 ((num % 2 ^ 32) * 2 ^ 32 + cause * 2 ^ 24 + k) }
  else { t with status := withFld t.status 23 0 k }

/-- A command is dropped from its stream: each of its remaining bursts or pieces is counted as failed, and reported with the cause
that ended the domain (R209, R318). The stream's `st` stays 0x00, since Table 16-4 lists no code for it, and the records name no
address, since the bursts have not been begun: DESIGN CHOICE (log entry 42). -/
def State.dropTxf (s : State) (key : Nat) (c : TxfCmd) (cause : Nat) : State :=
  match Map.find s.eng.streams key with
  | none => s
  | some t =>
    let left := (c.total - c.cursor + c.piece - 1) / max 1 c.piece
    let t1 := if left = 0 then t else t.fail c.num 0 left
    let t2 := { t1 with done := max t.done c.num, cmds := t.cmds.filter (fun d => d.num != c.num) }
    let s0 := { s with eng := { s.eng with streams := Map.put s.eng.streams key t2 } }
    let s1 := if t.saved then s0.physWords (key / 4 % 40 / 10) (key / 160) (s.savea (key / 160) + 0x20000 + 0x8000 * (key % 160)) [t2.status] else s0
    (List.range left).foldl (fun t k => t.itemFailed (key / 160) c.launch cause 0 c.num (c.cursor / max 1 c.piece + k) (key / 4 % 40) 0xFF) s1

/-- Every tensor command of a launch is dropped. -/
def State.dropStreams (s : State) (l cause : Nat) : State :=
  s.eng.streams.foldl (fun t e => (e.2.cmds.filter (fun c => c.launch == l)).foldl (fun u c => u.dropTxf e.1 c cause) t) s

/-- A launch is ended: agents killed, tensor commands stopped, records failed, the packet completed as faulted
(R318, steps 1 to 5). -/
def State.endLaunch (s : State) (l cause : Nat) : State :=
  match s.launch l with
  | none => s
  | some v =>
    let s0 := (s.setLaunch l { v with dead := some cause, next := v.par.gridx * v.par.gridy * v.par.gridz }).failRecords l
    let s1 := (Map.having s0.waves (fun _ w => w.launch == l)).foldl (fun t e => t.killWave e.1) s0
    let s2 := (Map.having s1.threads (fun _ h => h.st != .free && h.launch == l)).foldl (fun t e =>
      let h := t.thread (e.1 / 4) (e.1 % 4)
      (t.setThread (e.1 / 4) (e.1 % 4) { h with st := .halted, queue := [], inh := false, stop := false, code := none }).freeThread (e.1 / 4) (e.1 % 4)) s1
    let s3 := (s2.dropStreams l cause).dropExperts l
    let s4 := s3.complete v.q v.k 5 0
    { s4 with sch := { s4.sch with launches := Map.del s4.sch.launches l },
              dfd := { s4.dfd with lost := s4.dfd.lost.filter (fun k => k.launch != l || k.src.isSome) },
              flt := { s4.flt with stops := s4.flt.stops.filter (fun t => s.launchOf t.ag != l) } }

/-- The record of kind 4 of a node whose domain has ended: the context is that of the node or of the stop, the sequence
number that of the stop or of the one launch ended; where there is neither it is free (Table 27-6; log entry 23). -/
def State.domainRecord (s : State) (a cause : Nat) (stop : Option (Nat × Nat)) (ended : List Nat) : State :=
  match Map.find s.sch.nodes a with
  | none => s
  | some n =>
    let x := match n.level, stop with
      | 3, _ => s.queueCtx a
      | 2, _ => n.ctxid
      | _, some e => e.1
      | _, none => 0
    let box : FaultBox := match n.level, stop with
      | 0, none => .root
      | 1, none => .part n.tenpart
      | _, _ => s.boxOf x
    let f := s.takeFree
    let k : Nat × State := match stop, ended with
      | some e, _ => (e.2, s)
      | none, [l] => (l % 2 ^ 64, s)
      | none, _ => (f.1.toNat, f.2)
    k.2.sendRecord box 4 (faultWords 4 cause x k.1 ⟨0, 0, 0, 0⟩ 0xFFFF 0xFF 0xFF s.selfDev)

/-- One more tier-3 stop or ended domain, in a node and its ancestors (R319). -/
def State.chargeFault (s : State) (a : Nat) : State :=
  s.modNodes (s.anc a) (fun n => { n with faults := min (n.faults + 1) 65535 })

/-- The node of a queue's effective fault domain: the ancestor at the level its extent names (R31, R318). -/
def State.domainOf (s : State) (q : Nat) : Nat :=
  let lvl := 3 - s.effFdom q % 8
  match (s.ancestry q).find? (fun e => e.2.level == lvl) with
  | some e => e.1
  | none => q

/-- The domain of a node is ended (R318), by the stop of a launch, whose context and number are given, or by a command; a
launch that has placed no workgroup is cancelled. -/
def State.endDomain (s : State) (a cause : Nat) (stop : Option (Nat × Nat)) : State :=
  let ls := (Map.having s.sch.launches (fun _ l => l.next != 0 && (s.anc l.q).contains a)).map (·.1)
  let s1 := ls.foldl (fun t l => t.endLaunch l cause) s
  let s2 := ((s1.domainRecord a cause stop ls).chargeFault a).modNode a (fun n => { n with state := 3 })
  ((s2.sch.nodes.filter (fun e => e.2.state != 0 && e.2.level == 3 && (s2.anc e.1).contains a)).map (·.1)).foldl
    (fun t q => t.cancel q) s2

/-- A tier-3 stop of an agent: record, charge, and what the hold bit asks for (R318, R319). -/
def State.tier3 (s : State) (ag : Agent) (kind : Nat) (t : TRec) : State :=
  let s1 := s.stopRecord ag kind t
  match s1.launch (s1.launchOf ag) with
  | none => s1
  | some l =>
    let d := s1.domainOf l.q
    let s2 := s1.chargeFault l.q
    if (s2.effFdom l.q).testBit 3 then
      let s3 := s2.modNode d (fun n => if n.state = 1 then { n with state := 2 } else n)
      { s3 with flt := { s3.flt with stops := s3.flt.stops ++ [⟨ag, l.q⟩] } }
    else s2.endDomain d (fld t.w0 63 56) (some (l.ctx, l.k))

end Sys2Proof.Machine
end

