-- ==== Sys2Proof/Machine/Save.lean ====
section
/-! DEFINITION. The images of waves, sequencer threads and streams in the context save area (spec/27_faults_preemption.md R328
to R332), and reading and writing an agent wherever its registers are. -/

namespace Sys2Proof.Machine

open Sys2Proof

/-- PC slot state (Table 16-9). -/
def pcsWord (p : Path) : W64 :=
  BitVec.ofNat 64 (p.depth * 2 ^ 58 + p.pc.toNat + p.slot * 8 + (match p.st with | .empty => 0 | .running => 2 | .joined => 4))

/-- A PC slot set to a PC slot state; slot 0, which is reserved, stands for slot 1. -/
def setPcs (p : Path) (w : W64) : Path :=
  let k := fld w 5 3
  { p with depth := fld w 63 58, pc := BitVec.ofNat 57 (fld w 56 6 * 64), slot := if k = 0 then 1 else k,
           st := (match fld w 2 1 with | 1 => .running | 2 => .joined | _ => .empty), code := none, named := decide (1 < k) }

/-- The mask of a slot as three words. -/
def maskWord (m : Mask) (i : Nat) : W32 := BitVec.ofNat 32 (m.toNat / 2 ^ (32 * i))

/-- A mask from three words. -/
def maskOf (a b c : Nat) : Mask := BitVec.ofNat 96 (a % 2 ^ 32 + (b % 2 ^ 32) * 2 ^ 32 + (c % 2 ^ 32) * 2 ^ 64)

/-- Two 32-bit halves, low one first. -/
def pair32 (lo hi : Nat) : W64 := BitVec.ofNat 64 (lo % 2 ^ 32 + (hi % 2 ^ 32) * 2 ^ 32)

/-- Register s(n) below s61, 0 past it. -/
def Wave.s (v : Wave) (n : Nat) : W32 := v.sreg.toList.getD n 0

/-- Flag counts, four to a word. -/
def fcntWord (f : Vector Nat 12) (i : Nat) : W64 :=
  let g (j : Nat) : Nat := f.toList.getD (4 * i + j) 0 % 65536
  BitVec.ofNat 64 (g 0 + g 1 * 2 ^ 16 + g 2 * 2 ^ 32 + g 3 * 2 ^ 48)

/-- Flag counts read back. -/
def fcntOf (ws : List W64) : Vector Nat 12 := Vector.ofFn (fun i : Fin 12 => fld (wordAt ws (i.val / 4)) (16 * (i.val % 4) + 15) (16 * (i.val % 4)))

/-- `wst` (Table 27-10). -/
def Wave.wst (v : Wave) : Nat :=
  match v.stop with
  | .seq => 1
  | .host => 2
  | .parked => 4
  | .run => if v.inh.isSome then 3 else 0

/-- The wave record (Table 27-10). -/
def waveImage (v : Wave) (wgslot vbase age : Nat) : List W64 :=
  (List.range 31).map (fun i => pair32 (v.s (2 * i)).toNat (v.s (2 * i + 1)).toNat)
  ++ [pcsWord v.p0, pair32 (maskWord v.p0.mask 0).toNat (maskWord v.p0.mask 1).toNat, pair32 (maskWord v.p0.mask 2).toNat 0,
      pcsWord v.p1, pair32 (maskWord v.p1.mask 0).toNat (maskWord v.p1.mask 1).toNat, pair32 (maskWord v.p1.mask 2).toNat 0,
      v.dstkbase, pair32 v.dstklen.toNat v.dstkdepth.toNat, pair32 v.fpstat.toNat v.repctl.toNat,
      BitVec.ofNat 64 (v.wst * 2 ^ 60 + v.dlv.toNat * 2 ^ 59 + vbase % 64 * 2 ^ 45 + v.allot / 8 % 32 * 2 ^ 40 + v.ix % 16 * 2 ^ 36
        + wgslot % 8 * 2 ^ 33 + age % 16 * 2 ^ 29),
      v.trec.w0, v.trec.w1, v.trec.w2, v.trec.w3, v.hreg.hpc, v.hreg.hmask01, pair32 v.hreg.hmask2.toNat 0, v.hreg.hva]
  ++ v.hreg.hsave.toList
  ++ [fcntWord v.fcnt 0, fcntWord v.fcnt 1, fcntWord v.fcnt 2, pair32 (v.stcnt + v.ldcnt * 2 ^ 16) 0]
  ++ List.replicate 7 0

/-- A wave as its record and registers give it; what the record does not hold stays. -/
def waveFrom (v : Wave) (ws : List W64) (reg : Nat → Nat → W32) : Wave :=
  let w (i : Nat) : W64 := wordAt ws i
  let st := fld (w 40) 63 60
  { v with
    sreg := Vector.ofFn (fun i : Fin 61 => BitVec.ofNat 32 (fld (w (i.val / 2)) (32 * (i.val % 2) + 31) (32 * (i.val % 2))))
    p0 := { setPcs v.p0 (w 31) with mask := maskOf (fld (w 32) 31 0) (fld (w 32) 63 32) (fld (w 33) 31 0) }
    p1 := { setPcs v.p1 (w 34) with mask := maskOf (fld (w 35) 31 0) (fld (w 35) 63 32) (fld (w 36) 31 0) }
    dstkbase := w 37
    dstklen := BitVec.ofNat 32 (fld (w 38) 31 0)
    dstkdepth := BitVec.ofNat 32 (fld (w 38) 63 32)
    fpstat := BitVec.ofNat 32 (fld (w 39) 31 0)
    repctl := BitVec.ofNat 32 (fld (w 39) 63 32)
    stop := (match st with | 1 => .seq | 2 => .host | 4 => .parked | _ => .run)
    inh := (match st with | 0 => none | 3 => some (v.inh.getD false) | _ => v.inh)
    dlv := bitAt (w 40) 59
    age := fld (w 40) 32 29
    trec := ⟨w 41, w 42, w 43, w 44⟩
    hreg := { hpc := w 45, hmask01 := w 46, hmask2 := BitVec.ofNat 32 (fld (w 47) 31 0), hva := w 48,
              hsave := #v[w 49, w 50, w 51, w 52] }
    fcnt := fcntOf [w 53, w 54, w 55]
    ldcnt := fld (w 56) 31 16
    stcnt := fld (w 56) 15 0
    vreg := Vector.ofFn (fun r : Fin 128 => if r.val < v.allot then Vector.ofFn (fun i : Fin 96 => reg r.val i.val)
      else Vector.replicate 96 0) }

/-- The core region of a context's save area (Table 27-7). -/
def State.coreRegion (s : State) (x core : Nat) : Nat := s.savea x + 0x4000000 + 0x200000 * core

/-- Address of a wave's record. -/
def State.waveAt (s : State) (v : Wave) : Nat := s.coreRegion v.ctx v.core + 0x800 + 512 * (12 * (v.part % 4) + v.rslot)

/-- Address of a partition's vector bank. -/
def State.bankAt (s : State) (v : Wave) : Nat := s.coreRegion v.ctx v.core + 0x10000 + 0x30000 * (v.part % 4)

/-- The bytes of a wave's vector registers. -/
def vregBytes (v : Wave) : List Byte :=
  ((v.vreg.toList.take v.allot).map (fun l => (l.toList.map (fun w => leBytes 4 w.toNat)).flatten)).flatten

/-- A wave written to the save area. -/
def State.storeWave (s : State) (v : Wave) (wgslot vbase age : Nat) : State :=
  (s.physWords (v.core / 40) v.ctx (s.waveAt v) (waveImage v wgslot vbase age)).physPut (v.core / 40) v.ctx (s.bankAt v + 384 * 8 * vbase) (vregBytes v)

/-- The resident workgroup of a core, or the pre-empted one of a context there, that stands in a slot. -/
def State.wgIn (s : State) (x core j : Nat) : Option Nat :=
  (s.sch.wgs.find? (fun e => e.2.core == core && e.2.slot == j && e.2.ctx == x)).map (·.1)

/-- A wave read from the save area, its record read as it stands (R334). -/
def State.loadWave (s : State) (v : Wave) : Wave :=
  let ws := (List.range 64).map (fun i => s.physW64 (v.core / 40) (s.waveAt v + 8 * i))
  let vb := s.bankAt v + 384 * 8 * fld (wordAt ws 40) 50 45
  let u := waveFrom { v with allot := 8 * fld (wordAt ws 40) 44 40, ix := fld (wordAt ws 40) 39 36 } ws
    (fun r i => BitVec.ofNat 32 (leNat (s.physGet (v.core / 40) (vb + 384 * r + 4 * i) 4)))
  { u with wg := (s.wgIn v.ctx v.core (fld (wordAt ws 40) 35 33)).getD v.wg }

/-- Wave w as its registers stand, in the bank or in the save area. -/
def State.liveWave (s : State) (w : Nat) : Option Wave :=
  match s.wave w with
  | some v => if v.bank = .saved then some (s.loadWave v) else some v
  | none => none

/-- Wave w changed where its registers are: in the save area too while they are saved there, and still after they have been
filled. -/
def State.putWave (s : State) (w : Nat) (v : Wave) : State :=
  if v.bank = .saved ∨ v.bank = .filled then
    let w40 := s.physW64 (v.core / 40) (s.waveAt v + 320)
    (s.setWave w v).storeWave v (fld w40 35 33) (fld w40 50 45) (fld w40 32 29)
  else s.setWave w v

/-- The thread record (Table 27-11). -/
def threadImage (h : Thread) (seq : Nat) : List W64 :=
  h.q.toList
  ++ [BitVec.ofNat 64 (h.pc.toNat + h.slot * 8 + (match h.st with | .free => 0 | .running => 2 | .halted => 4) + h.inh.toNat),
      h.tvec, h.tret, pair32 h.fpstat.toNat h.repctl.toNat, h.trec.w0, h.trec.w1, h.trec.w2, h.trec.w3,
      pair32 0 h.tsrc.toNat, BitVec.ofNat 64 seq, fcntWord h.fcnt 0, fcntWord h.fcnt 1, fcntWord h.fcnt 2,
      pair32 (h.stcnt + h.ldcnt * 2 ^ 16) 0]
  ++ List.replicate 18 0

/-- A thread as its record gives it. -/
def threadFrom (h : Thread) (ws : List W64) : Thread :=
  let w (i : Nat) : W64 := wordAt ws i
  let k := fld (w 32) 5 3
  { h with
    q := Vector.ofFn (fun i : Fin 32 => w i.val)
    pc := BitVec.ofNat 57 (fld (w 32) 56 6 * 64)
    slot := if k = 0 then 1 else k
    named := decide (1 < k)
    st := (match fld (w 32) 2 1 with | 0 => .free | 1 => .running | _ => .halted)
    inh := bitAt (w 32) 0
    code := none
    tvec := w 33
    tret := w 34
    fpstat := BitVec.ofNat 32 (fld (w 35) 31 0)
    repctl := BitVec.ofNat 32 (fld (w 35) 63 32)
    trec := ⟨w 36, w 37, w 38, w 39⟩
    tsrc := BitVec.ofNat 32 (fld (w 40) 63 32)
    fcnt := fcntOf [w 42, w 43, w 44]
    ldcnt := fld (w 45) 31 16
    stcnt := fld (w 45) 15 0 }

/-- Address of a thread's record. -/
def State.threadAt (s : State) (x c t : Nat) : Nat := s.savea x + 0x2000 + 512 * (4 * c + t)

/-- A thread written to the save area. -/
def State.storeThread (s : State) (c t : Nat) (h : Thread) : State :=
  s.physWords (c / 10) h.ctx (s.threadAt h.ctx c t) (threadImage h (s.seqOf h.launch))

/-- The launch of a context that a saved sequence number names; the one given where no launch of the context has it. -/
def State.launchBy (s : State) (x l : Nat) (seq : W64) : Nat :=
  if s.seqOf l = seq.toNat then l
  else match s.sch.launches.find? (fun e => e.2.ctx == x && e.2.k == seq.toNat) with | some e => e.1 | none => l

/-- Thread t of cluster c as its registers stand. -/
def State.liveThread (s : State) (c t : Nat) : Thread :=
  let h := s.thread c t
  if h.bank = .saved then
    let ws := (List.range 64).map (fun i => s.physW64 (c / 10) (s.threadAt h.ctx c t + 8 * i))
    { threadFrom h ws with launch := s.launchBy h.ctx h.launch (wordAt ws 41) }
  else h

/-- A thread changed where its registers are. -/
def State.putThread (s : State) (c t : Nat) (h : Thread) : State :=
  if h.bank = .saved then (s.setThread c t h).storeThread c t h else s.setThread c t h

/-! ### Header and streams (Table 27-8, R332) -/

/-- The record of a TXF command (Table 27-12). -/
def txfImage (c : TxfCmd) : List W64 :=
  [BitVec.ofNat 64 (2 ^ 63 + c.txfc.toNat * 2 ^ 62 + c.fn % 16 * 2 ^ 52 + c.rm % 4 * 2 ^ 50 + c.sat.toNat * 2 ^ 49 + c.sums.toNat * 2 ^ 48),
   BitVec.ofNat 64 c.num, c.par, BitVec.ofNat 64 c.cursor, pair32 c.idx.length c.cbaddr.toNat, 0, 0, 0]
  ++ (List.range 32).map (fun i => wordAt c.srec i) ++ (List.range 32).map (fun i => wordAt c.drec i) ++ List.replicate 56 0

/-- A command as its record gives it; what the record does not hold stays. -/
def txfFrom (c : TxfCmd) (w : List W64) (idx : Nat → W32) : TxfCmd :=
  let f (i hi lo : Nat) : Nat := fld (wordAt w i) hi lo
  { c with txfc := f 0 62 62 == 1, fn := f 0 55 52, rm := f 0 51 50, sat := f 0 49 49 == 1, sums := f 0 48 48 == 1,
           num := (wordAt w 1).toNat, par := wordAt w 2, cursor := (wordAt w 3).toNat, cbaddr := BitVec.ofNat 32 (f 4 63 32),
           idx := (List.range (min (f 4 31 0) 4096)).map idx,
           srec := (w.drop 8).take c.srec.length, drec := (w.drop 40).take c.drec.length }

/-- Address of a stream's record. -/
def State.streamAt (s : State) (x c st : Nat) : Nat := s.savea x + 0x20000 + 0x8000 * (4 * c + st)

/-- Address of the index list of command slot i of a stream. -/
def State.listAt (s : State) (x c st i : Nat) : Nat := s.savea x + 0x600000 + 0x40000 * (4 * c + st) + 0x4000 * i

/-- A stream written to the save area and stopped; what the tables leave reserved is 0 (R328, R332). -/
def State.storeStream (s : State) (x c st : Nat) (t : Stream) : State :=
  let a := s.streamAt x c st
  let s1 := s.physWords (c / 10) x a ([t.status, BitVec.ofNat 64 t.last, BitVec.ofNat 64 t.cmds.length] ++ List.replicate 125 0)
  let s2 := (List.range 16).foldl (fun u i =>
    match t.cmds[i]? with
    | some c' => (u.physWords (c / 10) x (a + 0x400 + 0x400 * i) (txfImage c')).physPut (c / 10) x (u.listAt x c st i)
        ((c'.idx.map (fun w => leBytes 4 w.toNat)).flatten)
    | none => u.physWords (c / 10) x (a + 0x400 + 0x400 * i) (List.replicate 128 0)) s1
  { s2 with eng := { s2.eng with streams := Map.put s2.eng.streams (streamKey x c st) { t with saved := true, slots := t.cmds.map (·.num) } } }

/-- A stream read from the save area and running again: the command of each slot whose bit `v` is set, as its record stands (R334),
unless its launch has ended since. -/
def State.loadStream (s : State) (x c st : Nat) (t : Stream) : State :=
  let a := s.streamAt x c st
  let n := (s.physW64 (c / 10) (a + 16)).toNat
  let cmds := (List.range (min n 16)).filterMap (fun i =>
    let w := (List.range 72).map (fun j => s.physW64 (c / 10) (a + 0x400 + 0x400 * i + 8 * j))
    if !bitAt (wordAt w 0) 63 then none
    else (t.cmds.find? (fun k => t.slots[i]? == some k.num)).map (fun k =>
      txfFrom k w (fun j => BitVec.ofNat 32 (leNat (s.physGet (c / 10) (s.listAt x c st i + 4 * j) 4)))))
  let t' : Stream := { t with status := s.physW64 (c / 10) a, last := (s.physW64 (c / 10) (a + 8)).toNat, cmds := cmds, saved := false, slots := [] }
  let s1 := (List.range (min n 16)).foldl (fun u i => u.physNote (c / 10) x (a + 0x400 + 0x400 * i) 1024) (s.physNote (c / 10) x a 1024)
  { s1 with eng := { s1.eng with streams := Map.put s1.eng.streams (streamKey x c st) t' } }

/-- Workgroups of a context on a cluster that are resident. -/
def State.residentCtx (s : State) (x c : Nat) : Bool := s.sch.wgs.any (fun e => e.2.ctx == x && e.2.core / 4 == c && !e.2.out)

/-- The streams of a context on a cluster stopped, where its last workgroup there leaves at a switch, or running again once a workgroup
of it is resident (R212). Those of a context whose last workgroup has ended there are served on. -/
def State.moveStreams (s : State) (x c : Nat) (leaves : Bool) : State :=
  (List.range 4).foldl (fun t st =>
    match Map.find t.eng.streams (streamKey x c st) with
    | none => t
    | some r =>
      if leaves && !r.saved then t.storeStream x c st r
      else if t.residentCtx x c && r.saved then t.loadStream x c st r
      else t) s

end Sys2Proof.Machine
end

