-- ==== Sys2Proof/Machine/Ops.lean ====
section
/-! DEFINITION. Named operations over the registers of the issuing agent; taking a trap, entering the first-touch handler
and stopping at tier 3 as shared operations, and the return beside them; going on after an instruction. -/

namespace Sys2Proof.Machine

open Sys2Proof

/-! ### Registers of an agent -/

/-- Scalar register n of a wave: s0 to s60, then the masks of the issuing slot (R41). -/
def Wave.getS (v : Wave) (n : Nat) : W32 := if n < 61 then v.sreg.toList.getD n 0 else maskWord v.path.mask (n - 61)

/-- Scalar register n written; s61 to s63 reach the issuing slot's mask only. -/
def Wave.putS (v : Wave) (n : Nat) (w : W32) : Wave :=
  if n < 61 then { v with sreg := v.sreg.setIfInBounds n w }
  else
    let m := v.path.mask
    let g (i : Nat) : Nat := if n - 61 = i then w.toNat else (maskWord m i).toNat
    v.setPath { v.path with mask := maskOf (g 0) (g 1) (g 2) }

/-- Lane i of vector register r. -/
def Wave.lane (v : Wave) (r i : Nat) : W32 := (v.vreg.toList.getD r (Vector.replicate 96 0)).toList.getD i 0

/-- Vector register r. -/
def Wave.vec (v : Wave) (r : Nat) : Lanes := v.vreg.toList.getD r (Vector.replicate 96 0)

/-- Vector register r written in active lanes only (R41). -/
def Wave.putVec (v : Wave) (r : Nat) (x : Lanes) : Wave :=
  let old := v.vec r
  { v with vreg := v.vreg.setIfInBounds r (Vector.ofFn (fun i : Fin 96 => if v.path.mask.getLsbD i.val then x[i] else old[i])) }

/-- One lane of a vector register written, whatever the mask. -/
def Wave.putLane (v : Wave) (r i : Nat) (w : W32) : Wave :=
  { v with vreg := v.vreg.setIfInBounds r ((v.vec r).setIfInBounds i w) }

/-- q register n. -/
def Thread.getQ (h : Thread) (n : Nat) : W64 := h.q.toList.getD n 0

/-- q register n written. -/
def Thread.putQ (h : Thread) (n : Nat) (w : W64) : Thread := { h with q := h.q.setIfInBounds n w }

/-- A register operand of an agent, 64 bits wide where `wide` (R97, R110); other operands read as 0. -/
def State.reg (s : State) (ag : Agent) (o : Opnd) (wide : Bool) : W64 :=
  match ag, o with
  | .wave w, .s n =>
    match s.wave w with
    | some v => if wide then pair32 (v.getS n.val).toNat (v.getS (n.val + 1)).toNat else (v.getS n.val).zeroExtend 64
    | none => 0
  | .thread c t, .q n => if wide then (s.thread c t).getQ n.val else ((s.thread c t).getQ n.val).truncate 32 |>.zeroExtend 64
  | _, _ => 0

/-- A register operand written. A wave's 64-bit value takes an even pair; a q register takes all 64 bits, a narrower
value sign-extended where `sgn` and zero-extended otherwise (R110). -/
def State.putReg (s : State) (ag : Agent) (o : Opnd) (wide sgn : Bool) (x : W64) : State :=
  match ag, o with
  | .wave w, .s n =>
    match s.wave w with
    | some v =>
      if wide then s.setWave w ((v.putS n.val (x.truncate 32)).putS (n.val + 1) ((x >>> (32 : Nat)).truncate 32))
      else s.setWave w (v.putS n.val (x.truncate 32))
    | none => s
  | .thread c t, .q n =>
    let y : W64 := if wide then x else if sgn then (x.truncate 32).signExtend 64 else (x.truncate 32).zeroExtend 64
    s.setThread c t ((s.thread c t).putQ n.val y)
  | _, _ => s

/-! ### Where the agent stands -/

/-- The clause address, slot and PC slot of the issuing agent. -/
def State.pcOf (s : State) (ag : Agent) : BitVec 57 × Nat × Bool :=
  match ag with
  | .wave w => match s.wave w with | some v => (v.path.pc, v.path.slot, v.alt) | none => (0, 1, false)
  | .thread c t => ((s.thread c t).pc, (s.thread c t).slot, false)

/-- `repctl` of an agent. -/
def State.repctlOf (s : State) (ag : Agent) : W32 :=
  match ag with
  | .wave w => match s.wave w with | some v => v.repctl | none => 0
  | .thread c t => (s.thread c t).repctl

/-- `repctl` of an agent written. -/
def State.setRepctl (s : State) (ag : Agent) (x : W32) : State :=
  match ag with
  | .wave w => match s.wave w with | some v => s.setWave w { v with repctl := x } | none => s
  | .thread c t => s.setThread c t { s.thread c t with repctl := x }

/-- The clause an agent is in, as fetched. -/
def State.codeOf (s : State) (ag : Agent) : List W64 :=
  match ag with
  | .wave w => match s.wave w with | some v => v.path.code.getD [] | none => []
  | .thread c t => (s.thread c t).code.getD []

/-- The occupied slots of the clause an agent is in. -/
def State.nslot (s : State) (ag : Agent) : Nat := fld (wordAt (s.codeOf ag) 0) 10 8

/-- The wave handle of Table 16-8. -/
def Wave.handle (v : Wave) : Nat := (v.part / 4 % 4) * 2 ^ 14 + (v.part % 4) * 2 ^ 12 + v.rslot % 16 * 2 ^ 8

/-- A trap record for an agent where it stands (Table 27-2). -/
def State.trapRec (s : State) (ag : Agent) (cause slot : Nat) (lane : Option Nat) (code addr : Nat) : TRec :=
  let p := s.pcOf ag
  let h := match ag with | .wave w => (match s.wave w with | some v => v.handle | none => 0) | .thread _ _ => 0
  { w0 := BitVec.ofNat 64 (cause * 2 ^ 56 + slot % 8 * 2 ^ 53 + p.2.2.toNat * 2 ^ 52 + (lane.getD 0x1FF) * 2 ^ 32 + (code % 65536) * 2 ^ 16 + h)
    w1 := p.1.zeroExtend 64
    w2 := BitVec.ofNat 64 addr
    w3 := BitVec.ofNat 64 ((s.repctlOf ag).toNat * 2 ^ 32) }

/-! ### Stops -/

/-- The instruction latch is cleared: the agent's next instruction waits for its next selection. -/
def State.unlatch (s : State) : State := { s with issue := none }

/-- A wave stands stopped at its instruction: its clause must be fetched again (R220). -/
def Wave.halt (v : Wave) (st : Stop) (t : TRec) : Wave :=
  let p := v.path
  { (v.setPath { p with code := none, named := decide (1 < p.slot) }) with stop := st, trec := t, dlv := false, step := false }

/-- A trap joins the queue of the launch's thread on the wave's cluster (R218). -/
def State.queueTrap (s : State) (l c : Nat) (q : Queued) : State :=
  match s.threadFor l c with
  | some t => s.setThread c t { s.thread c t with queue := (s.thread c t).queue ++ [q] }
  | none => s

/-- A thread stands stopped at its instruction. -/
def Thread.halt (h : Thread) : Thread := { h with code := none, named := decide (1 < h.slot), stop := true }

/-- TAKING A TRAP of groups 1 to 3, 5 and 6 (R105, R218, R219, R311, Table 27-3): a wave stops and its record joins the
queue of its launch's sequencer thread; a sequencer thread stops at tier 3. `slot` is 0 for a header. -/
def State.trapAt (s : State) (ag : Agent) (cause slot : Nat) (lane : Option Nat) (code addr : Nat) : State :=
  let t := s.trapRec ag cause slot lane code addr
  match ag with
  | .wave w =>
    match s.wave w with
    | some v => ((s.setWave w (v.halt .seq t)).queueTrap v.launch v.cluster ⟨some w, BitVec.ofNat 32 v.handle, t⟩).unlatch
    | none => s.unlatch
  | .thread c i => ((s.setThread c i ((s.thread c i).halt)).tier3 ag 1 t).unlatch

/-- A trap at the instruction that issues. -/
def State.trap (s : State) (ag : Agent) (cause : Nat) (lane : Option Nat) (code addr : Nat) : State :=
  s.trapAt ag cause (s.pcOf ag).2.1 lane code addr

/-- The first-touch handler address of a context (Table 27-8); 0 sends first-touch to tier 3. A header whose w0 has reserved
bits set is used all the same: DESIGN CHOICE (log entry 44). -/
def State.hentry (s : State) (x : Nat) : Nat :=
  match s.ctxNode x with
  | some _ => fld (Memory.w64 s.mem (s.savea x)) 56 6 * 64
  | none => 0

/-- The first-touches of a wave with one more in its issuing PC slot, which keeps the reserve that its handler took (R316). -/
def Wave.touchAt (v : Wave) (pc : BitVec 57) (slot : Nat) : List (Bool × BitVec 57 × Nat × Bool) :=
  (v.alt, pc, slot, v.touched.any (fun e => e.1 == v.alt && e.2.2.2)) :: v.touched.filter (fun e => e.1 != v.alt)

/-- Entry to the first-touch handler, one step (R315), from an instruction at a slot or a clause fetch (slot 0); `resume` is the
slot that `hpc` names. -/
def State.enterHandler (s : State) (w slot resume va : Nat) (lanes : Mask) : State :=
  match s.wave w with
  | none => s.unlatch
  | some v =>
    let p := v.path
    let hr : HRegs := { v.hreg with
      hpc := BitVec.ofNat 64 (p.pc.toNat + resume * 8)
      hmask01 := pair32 (maskWord p.mask 0).toNat (maskWord p.mask 1).toNat
      hmask2 := maskWord p.mask 2
      hva := BitVec.ofNat 64 va }
    let p' := { p with pc := BitVec.ofNat 57 (s.hentry v.ctx), slot := 1, mask := lanes, code := none, named := false }
    (s.setWave w { (v.setPath p') with inh := some v.alt, touched := v.touchAt p.pc slot, hreg := hr }).unlatch

/-- What a wave met first-touch at passes its checks outside the handler, an instruction where it stands or, with `fetch`, its
clause fetch: the wave gives up a pool's reserve (R316). -/
def State.passes (s : State) (ag : Agent) (fetch : Bool) : State :=
  match ag with
  | .thread _ _ => s
  | .wave w =>
    match s.wave w with
    | none => s
    | some v =>
      match v.touched.find? (fun e => e.1 == v.alt && e.2.1 == v.path.pc && e.2.2.1 == (if fetch then 0 else v.path.slot)) with
      | some e =>
        if v.inh.isSome then s
        else
          let s1 := s.setWave w { v with touched := v.touched.erase e }
          if e.2.2.2 then s1.dropReserve w else s1
      | none => s

/-- A stop at tier 3 of a wave or thread where it stands (R314, R318, R219). -/
def State.hostStop (s : State) (ag : Agent) (t : TRec) : State :=
  match ag with
  | .wave w =>
    match s.wave w with
    | some v => (((s.setWave w (v.halt .host t)).dropReserve w).tier3 ag 1 t).unlatch
    | none => s.unlatch
  | .thread c i => ((s.setThread c i ((s.thread c i).halt)).tier3 ag 1 t).unlatch

/-- TAKING A TRANSLATION FAULT (R314): the first-touch handler for first-touch of a wave outside it, with a handler, else
tier 3. `touch` holds the active lanes whose walk ended in first-touch. A clause fetch is reported at slot 0 (R93), and so
`hpc` holds slot 0 where the path stood at the beginning of its clause, its slot where it was to resume at another:
DESIGN CHOICE (log entry 50). -/
def State.faultAt (s : State) (ag : Agent) (cause slot : Nat) (lane : Option Nat) (va : Nat) (touch : Mask) : State :=
  let t := s.trapRec ag cause slot lane 0 va
  match ag with
  | .wave w =>
    match s.wave w with
    | some v => if cause = 0x25 ∧ s.hentry v.ctx ≠ 0 ∧ v.inh = none then
        s.enterHandler w slot (if slot = 0 ∧ v.path.slot = 1 then 0 else v.path.slot) va touch else s.hostStop ag t
    | none => s.unlatch
  | .thread _ _ => s.hostStop ag t

/-- A translation fault at the instruction that issues. -/
def State.faultHere (s : State) (ag : Agent) (cause : Nat) (lane : Option Nat) (va : Nat) (touch : Mask) : State :=
  s.faultAt ag cause (s.pcOf ag).2.1 lane va touch

/-- A RETT of a wave (R224): the handler is left, the masks it held at the fault return, and the slot goes on at `hpc`. -/
def State.leaveHandler (s : State) (w : Nat) : State :=
  match s.wave w with
  | none => s.unlatch
  | some v =>
    let k := fld v.hreg.hpc 5 3
    let p := v.path
    let p' := { p with pc := BitVec.ofNat 57 (fld v.hreg.hpc 56 6 * 64), slot := if k = 0 then 1 else k,
                       mask := maskOf (fld v.hreg.hmask01 31 0) (fld v.hreg.hmask01 63 32) v.hreg.hmask2.toNat,
                       code := none, named := decide (1 < k) }
    (s.setWave w { (v.setPath p') with inh := none }).unlatch

/-- A RETT of a thread (R218, R224): it leaves its handler state and goes on at `tret`, halted if it was halted. A trap
that was not released is forwarded by the caller first (R317). A SLEEP or COMMIT that the trap came upon goes on. -/
def State.leaveTrap (s : State) (c t : Nat) : State :=
  let h := s.thread c t
  let k := fld h.tret 5 3
  let h' := { h with inh := false, pc := BitVec.ofNat 57 (fld h.tret 56 6 * 64), slot := if k = 0 then 1 else k,
                     named := decide (1 < k), code := none, st := if h.wasHalted then .halted else h.st, wasHalted := false,
                     wait := h.wasWait, wasWait := .none }
  let s1 := (s.setThread c t h').unlatch
  if h'.st = .halted then s1.freeThread c t else s1

/-! ### Going on -/

/-- The wave or thread goes on at a clause (R90). -/
def State.goto (s : State) (ag : Agent) (pc : BitVec 57) (w : Wait) : State :=
  match ag with
  | .wave i =>
    match s.wave i with
    | some v => s.setWave i (v.setPath { v.path with pc := pc, slot := 1, code := none, named := false, wait := w })
    | none => s
  | .thread c t => s.setThread c t { s.thread c t with pc := pc, slot := 1, code := none, named := false, wait := w, waits := false }

/-- The agent stands at another slot of its clause. -/
def State.toSlot (s : State) (ag : Agent) (k : Nat) : State :=
  match ag with
  | .wave i => match s.wave i with | some v => s.setWave i (v.setPath { v.path with slot := k }) | none => s
  | .thread c t => s.setThread c t { s.thread c t with slot := k, waits := false }

/-- After an instruction of `n` slots: the next slot of the clause, or the clause that follows in memory, which may have
to wait (R90). A wave released for one instruction stops again (R221). -/
def State.advance (s : State) (ag : Agent) (n : Nat) (w : Wait) : State :=
  let p := s.pcOf ag
  if p.2.1 + n ≤ s.nslot ag then s.toSlot ag (p.2.1 + n) else s.goto ag (p.1 + 64) w

/-- A wave that was released for one instruction has run it (R221). -/
def State.stepped (s : State) (ag : Agent) : State :=
  match ag with
  | .wave i =>
    match s.wave i with
    | some v => if v.step then s.setWave i { (v.halt .seq v.trec) with step := true } else s
    | none => s
  | .thread _ _ => s

/-- `repctl` (Table 09-8). -/
def repctlWord (sl : Bool) (next count : Nat) : W32 :=
  BitVec.ofNat 32 (2 ^ 31 + sl.toNat * 2 ^ 30 + (next % 4096) * 2 ^ 12 + count % 4096)

/-- The instruction that issued has had its effect: the agent goes on, in a REP with the next iteration (R101). -/
def State.retire (s : State) (n : Nat) (w : Wait) : State :=
  match s.issue with
  | none => s
  | some l =>
    if l.rep then
      let r := (s.repctlOf l.ag).toNat
      let next := r / 4096 % 4096 + 1
      let count := r % 4096
      if next < count then (((s.setRepctl l.ag (repctlWord (s.pcOf l.ag).2.2 next count)).unlatch).stepped l.ag)
      else (((s.setRepctl l.ag 0).advance l.ag 2 w).unlatch).stepped l.ag
    else ((s.advance l.ag n w).unlatch).stepped l.ag

/-- The instruction waits at issue: it has had no effect, and the agent may be selected again. -/
def State.stall (s : State) : State :=
  match s.issue with
  | some ⟨.thread c t, _⟩ => (s.setThread c t { s.thread c t with waits := true }).unlatch
  | _ => s.unlatch

/-- The meaning of an encoded instruction: nothing issues it without an agent. -/
def issued (s : State) (f : Agent → State) : Host.Outcome State Fault Refusal :=
  match s.issue with
  | some l => .next (f l.ag)
  | none => .refused .noAgent

/-! ### Completion flags and counters (R91, R148) -/

/-- The flag that an instruction with this `fs` bit binds (R88, R91). -/
def State.flagFor (s : State) (ag : Agent) (fs : Bool) : Option Nat :=
  let h := wordAt (s.codeOf ag) 0
  if fs then (if bitAt h 23 then some (fld h 19 16) else none) else (if bitAt h 31 then some (fld h 27 24) else none)

/-- Counts of an agent: flags, loads, stores. -/
def State.countsOf (s : State) (ag : Agent) : Vector Nat 12 × Nat × Nat :=
  match ag with
  | .wave w => match s.liveWave w with | some v => (v.fcnt, v.ldcnt, v.stcnt) | none => (Vector.replicate 12 0, 0, 0)
  | .thread c t => let h := s.liveThread c t; (h.fcnt, h.ldcnt, h.stcnt)

/-- Counts of an agent written, where its registers are. -/
def State.setCounts (s : State) (ag : Agent) (f : Vector Nat 12) (ld st : Nat) : State :=
  match ag with
  | .wave w => match s.liveWave w with | some v => s.putWave w { v with fcnt := f, ldcnt := ld, stcnt := st } | none => s
  | .thread c t => s.putThread c t { s.liveThread c t with fcnt := f, ldcnt := ld, stcnt := st }

/-- An operation issues: its flag and counters rise. -/
def State.raise (s : State) (ag : Agent) (flag : Option Nat) (ld st : Bool) : State :=
  let c := s.countsOf ag
  let f := match flag with | some n => c.1.setIfInBounds n (c.1.toList.getD n 0 + 1) | none => c.1
  s.setCounts ag f (c.2.1 + ld.toNat) (c.2.2 + st.toNat)

/-- An operation completes: its flag and counters fall. -/
def State.lower (s : State) (ag : Agent) (flag : Option Nat) (ld st : Bool) : State :=
  let c := s.countsOf ag
  let f := match flag with | some n => c.1.setIfInBounds n (c.1.toList.getD n 0 - 1) | none => c.1
  s.setCounts ag f (c.2.1 - ld.toNat) (c.2.2 - st.toNat)

/-- An operation issued from a seat completes: the counts fall of an agent that still stands (R37, R91). -/
def State.lowerAt (s : State) (ag : Agent) (p : Seat) (flag : Option Nat) (ld st : Bool) : State :=
  if s.here ag p then s.lower ag flag ld st else s

/-- No count would pass 65,535. -/
def State.countRoom (s : State) (ag : Agent) (flag : Option Nat) (ld st : Bool) : Bool :=
  let c := s.countsOf ag
  (match flag with | some n => decide (c.1.toList.getD n 0 < 65535) | none => true)
    && (!ld || decide (c.2.1 < 65535)) && (!st || decide (c.2.2 < 65535))

/-- The register file of an agent, wherever it is, given a result that arrives late: element i of a vector register, or a
scalar or q register (R92). The two 32-bit elements of a 64-bit result arrive in one step, so that no mixed pair is read: DESIGN CHOICE
(log entry 15), R92 lets each element be old or new for itself. -/
def State.lateReg (s : State) (ag : Agent) (alt : Bool) (o : Opnd) (lane : Nat) (wide sgn : Bool) (x : W64) : State :=
  match ag with
  | .wave w =>
    match s.liveWave w, o with
    | some v, .v n =>
      let v1 := v.putLane n.val lane (x.truncate 32)
      s.putWave w (if wide then v1.putLane (n.val + 1) lane ((x >>> (32 : Nat)).truncate 32) else v1)
    | some v, .s n =>
      let v1 := ({ v with alt := alt }).putS n.val (x.truncate 32)
      let v2 := if wide then v1.putS (n.val + 1) ((x >>> (32 : Nat)).truncate 32) else v1
      s.putWave w { v2 with alt := v.alt }
    | _, _ => s
  | .thread c t =>
    match o with
    | .q n =>
      let y : W64 := if wide then x else if sgn then (x.truncate 32).signExtend 64 else (x.truncate 32).zeroExtend 64
      s.putThread c t ((s.liveThread c t).putQ n.val y)
    | _ => s

/-- A late result of an operation issued from a seat; nothing is written for an agent that has ended (R37, R92). -/
def State.lateAt (s : State) (ag : Agent) (p : Seat) (alt : Bool) (o : Opnd) (lane : Nat) (wide sgn : Bool) (x : W64) : State :=
  if s.here ag p then s.lateReg ag alt o lane wide sgn x else s

end Sys2Proof.Machine
end

