-- ==== Sys2Proof/Machine/Flags.lean ====
section
/-! DEFINITION. Conditions of the compare instructions, and the sticky flags and traps of `fpstat`
(spec/07_arithmetic.md R78, R79; spec/11 R114, R115). -/

namespace Sys2Proof.Machine

open Sys2Proof

/-- Integer conditions: EQ 0, NE 1, LT 2, LE 3, GT 4, GE 5. -/
def intCond (fn : Nat) (a b : Int) : Bool :=
  match fn with
  | 0 => a == b
  | 1 => a != b
  | 2 => decide (a < b)
  | 3 => decide (a ≤ b)
  | 4 => decide (b < a)
  | _ => decide (b ≤ a)

/-- Floating conditions: EQ, NE, LT, LE, GT, GE, UO 6, OR 7 (R115). -/
def floatCond (fn : Nat) (x y : FV) : Bool :=
  let un := x.isNan || y.isNan
  match fn with
  | 0 => x.eq y
  | 1 => !x.eq y
  | 2 => x.lt y
  | 3 => x.lt y || x.eq y
  | 4 => y.lt x
  | 5 => y.lt x || x.eq y
  | 6 => un
  | _ => !un

/-- `fpstat` of an agent. -/
def State.fpstatOf (s : State) (ag : Agent) : W32 :=
  match ag with
  | .wave w => match s.wave w with | some v => v.fpstat | none => 0
  | .thread c t => (s.thread c t).fpstat

/-- `fpstat` of an agent written. -/
def State.setFpstat (s : State) (ag : Agent) (x : W32) : State :=
  match ag with
  | .wave w => match s.wave w with | some v => s.setWave w { v with fpstat := x } | none => s
  | .thread c t => s.setThread c t { s.thread c t with fpstat := x }

/-- A flag would be raised whose trap bit is set (R79). -/
def trapsOn (fpstat : W32) (fl : FFlags) : Bool := (BitVec.ofNat 5 (fpstat.toNat / 2 ^ 16)) &&& fl != 0

/-- The flags of an instruction: the arithmetic trap, with nothing written, or the effect and the sticky flags
(R78, R79). The trap is the instruction's and not a lane's, so its record has no lane (0x1FF): DESIGN CHOICE (log entry 48). -/
def State.withFlags (s : State) (ag : Agent) (fl : FFlags) (k : State → State) : State :=
  if trapsOn (s.fpstatOf ag) fl then s.trap ag 0x11 none fl.toNat 0
  else
    let s1 := s.setFpstat ag (s.fpstatOf ag ||| fl.zeroExtend 32)
    k s1

/-- An MTS or debug write to `fpstat`: trap bits written, sticky bits cleared where a 1 is written (Table 07-3). -/
def fpstatWrite (old new : W32) : W32 := (new &&& 0x001F0000) ||| (old &&& ~~~new &&& 0x1F)

end Sys2Proof.Machine
end

