-- ==== Sys2Proof/Machine/Operands.lean ====
section
/-! DEFINITION. Operand forms: scalar sources and destinations (R110), vector sources and elements (R128, R129), the
operand-range check (R40), addresses of memory instructions (R146, R154) and the stepping of a REP target (R101). -/

namespace Sys2Proof.Machine

open Sys2Proof

/-- The integer that an inline code names (Table 09-4). -/
def inlineInt (k : Fin 16) : Int := if k.val < 8 then (k.val : Int) else (k.val : Int) - 16

/-- The code of an inline integer in a number format: modulo 2^W in an integer type, the value in a floating one (R96, R128). -/
def inlineCode (n : NumFmt) (k : Fin 16) : Nat :=
  let i := inlineInt k
  match n with
  | .int w _ => unsigned w i
  | n => (n.round .even true (.fin (decide (i < 0)) i.natAbs 0)).1

/-! ### Scalar operands -/

/-- A scalar source read at W bits: a register, an inline code in the instruction's type, `imm` or a literal (R110). -/
def State.src (s : State) (ag : Agent) (n : NumFmt) (imm : BitVec 16) (o : Opnd) : Nat :=
  match o with
  | .inl k => inlineCode n k
  | .lit w => w.toNat % 2 ^ n.width
  | .imm => (imm.signExtend 64).toNat % 2 ^ n.width
  | o => (s.reg ag o (n.width == 64)).toNat % 2 ^ n.width

/-- The scalar source of an instruction whose value is bits: integer inline codes. -/
def State.srcBits (s : State) (ag : Agent) (w : Nat) (imm : BitVec 16) (o : Opnd) : Nat := s.src ag (.int w true) imm o

/-- A scalar result of a type written (R110). -/
def State.putTy (s : State) (ag : Agent) (o : Opnd) (t : Ty) (x : Nat) : State :=
  s.putReg ag o (tyBits t == 64) (isSigned t) (BitVec.ofNat 64 (x % 2 ^ tyBits t))

/-- A 32-bit result written, zero-extended in a q register; no operand drops it. -/
def State.put32 (s : State) (ag : Agent) (o : Opnd) (x : Nat) : State := s.putReg ag o false false (BitVec.ofNat 64 (x % 2 ^ 32))

/-- A 64-bit result written. -/
def State.put64 (s : State) (ag : Agent) (o : Opnd) (x : Nat) : State := s.putReg ag o true false (BitVec.ofNat 64 x)

/-- A mask triple s(n) to s(n+2) (R124). -/
def State.triple (s : State) (ag : Agent) (o : Opnd) : Mask :=
  match ag, o with
  | .wave w, .s n =>
    match s.wave w with
    | some v => maskOf (v.getS n.val).toNat (v.getS (n.val + 1)).toNat (v.getS (n.val + 2)).toNat
    | none => 0
  | _, _ => 0

/-- A mask triple written as one step. -/
def State.putTriple (s : State) (ag : Agent) (o : Opnd) (m : Mask) : State :=
  match ag, o with
  | .wave w, .s n =>
    match s.wave w with
    | some v => s.setWave w (((v.putS n.val (maskWord m 0)).putS (n.val + 1) (maskWord m 1)).putS (n.val + 2) (maskWord m 2))
    | none => s
  | _, _ => s

/-! ### Vector operands -/

/-- Elements of a type in a lane (R129). -/
def perLane (w : Nat) : Nat := if w ≤ 4 then 8 else if w ≤ 8 then 4 else if w ≤ 16 then 2 else 1

/-- Element j of width w in a 32-bit word (R73). -/
def elemOf (x : W32) (w j : Nat) : Nat := x.toNat / 2 ^ (w * j) % 2 ^ w

/-- A word from its elements of width w, element 0 first. -/
def ofElems (w : Nat) : List Nat → Nat
  | [] => 0
  | e :: r => e % 2 ^ w + 2 ^ w * ofElems w r

/-- A word in which every element of width w is `e`. -/
def splat (w e : Nat) : W32 := BitVec.ofNat 32 (ofElems w (List.replicate (32 / w) e))

/-- A source in a vector position, in lane i (R128). -/
def Wave.src (v : Wave) (n : NumFmt) (o : Opnd) (i : Nat) : W32 :=
  match o with
  | .v r => v.lane r.val i
  | .s r => v.getS r.val
  | .inl k => splat n.width (inlineCode n k)
  | .lit w => w.truncate 32
  | _ => 0

/-- Lane i is active (R41). -/
def Wave.active (v : Wave) (i : Nat) : Bool := v.path.mask.getLsbD i

/-- A vector register operand lies below the allotment, with `more` registers after it (R40). -/
def Wave.inRange (v : Wave) (o : Opnd) (more : Nat) : Bool :=
  match o with
  | .v r => decide (r.val + more < v.allot)
  | _ => true

/-- The active lanes, in increasing order. -/
def Wave.lanes (v : Wave) : List Nat := (List.range 96).filter (fun i => v.active i)

/-- Flags of the active lanes together (R129). -/
def Wave.flagsOf (v : Wave) (f : Nat → FFlags) : FFlags := v.lanes.foldl (fun a i => a ||| f i) 0

/-- Slots of an instruction with these operands (R99). -/
def nSlots (l : List Opnd) : Nat := if litCount l = 0 then 1 else 2

/-- A vector instruction: its vector registers are checked against the allotment, every lane's result is formed from the
values before it, and a trap or the active lanes' results and the flags follow (R39, R40, R129). -/
def State.vector (s : State) (ag : Agent) (d : Opnd) (regs : List Opnd) (op : Wave → Nat → W32 × FFlags) : State :=
  match ag with
  | .thread _ _ => s
  | .wave w =>
    match s.wave w with
    | none => s
    | some v =>
      if (d :: regs).all (fun o => v.inRange o 0) then
        s.withFlags ag (v.flagsOf (fun i => (op v i).2)) (fun t =>
          match t.wave w, d with
          | some u, .v r => (t.setWave w (u.putVec r.val (Vector.ofFn (fun i : Fin 96 => (op v i.val).1)))).retire (nSlots regs) .none
          | _, _ => t)
      else s.trap ag 0x02 none 0 0

/-- Mod of R129 on one element of a floating format: magnitude first, then the sign flipped. -/
def modify (f : FFmt) (neg abs : Bool) (b : Nat) : Nat :=
  let half := 2 ^ (f.width - 1)
  let m := if abs then b % half else b % 2 ^ f.width
  if neg then (if m < half then m + half else m - half) else m

/-- Results of the elements of one lane put together (R73, R129). -/
def gather (w : Nat) (n : Nat) (g : Nat → Nat × FFlags) : W32 × FFlags :=
  (BitVec.ofNat 32 (ofElems w ((List.range n).map (fun j => (g j).1))), (List.range n).foldl (fun a j => a ||| (g j).2) 0)

/-! ### Addresses -/

/-- The signed 32-bit index of a lane, 0 where there is none (R145). -/
def State.index (s : State) (ag : Agent) (o : Opnd) (lane : Nat) : Int :=
  match o with
  | .none => 0
  | .v r => (match ag with | .wave w => (match s.wave w with | some v => (v.lane r.val lane).toInt | none => 0) | .thread _ _ => 0)
  | o => ((s.reg ag o false).truncate 32).toInt

/-- The byte offset of an M-format instruction: 20 bits, or the low 16 where `off` holds a sub-operation (R145). -/
def MF.offset (f : MF) (sub : Bool) : Int := if sub then (BitVec.ofNat 16 f.off.toNat).toInt else f.off.toInt

/-- EA of a lane or scalar access (R146). -/
def State.ea (s : State) (ag : Agent) (f : MF) (sub : Bool) (lane : Nat) : Nat :=
  unsigned 64 ((s.reg ag f.sa true).toNat + s.index ag f.sb lane + MF.offset f sub)

/-- EA of a lane of LDX: the vector of offsets is zero-extended (R155). -/
def State.eaX (s : State) (ag : Agent) (f : MF) (lane : Nat) : Nat :=
  unsigned 64 ((s.reg ag f.sa true).toNat + (s.index ag f.sb lane) % 2 ^ 32 + MF.offset f false)

/-- Launch-view address of a lane or scalar access (R154); `step` bytes are added under REP. -/
def State.spadEa (s : State) (ag : Agent) (f : MF) (sub : Bool) (lane : Nat) (step : Int) : Nat :=
  unsigned 32 ((s.reg ag f.sa false).toNat + s.index ag f.sb lane + MF.offset f sub + step)

/-! ### REP (R101) -/

/-- Fields of the REP that holds the sweep of an agent, from its clause. -/
def State.sweep (s : State) (ag : Agent) : PF :=
  match readP (wordAt (s.codeOf ag) (s.pcOf ag).2.1) with
  | .ok p => p
  | .error _ => ⟨0, 0, 0, 0, 0, 0⟩

/-- A signed step of registers added to a vector operand; `none` below v0 or past v127. -/
def stepped (o : Opnd) (st : BitVec 8) (n : Nat) : Option Opnd :=
  match o with
  | .v r => let k : Int := (r.val : Int) + n * st.toInt; if 0 ≤ k ∧ k < 128 then some (.v (Fin.ofNat 128 k.toNat)) else none
  | o => some o

/-- Iteration n of a V-format target (R101). -/
def VF.at (f : VF) (p : PF) (n : Nat) : Option VF :=
  match stepped f.dst p.stepd n, stepped f.sa p.stepa n, stepped f.sb p.stepb n, stepped f.sc p.stepc n with
  | some d, some a, some b, some c => some { f with dst := d, sa := a, sb := b, sc := c }
  | _, _, _, _ => none

/-- Iteration n of LDSP or STSP: registers stepped; the address step is added where the address is formed. -/
def MF.at (f : MF) (p : PF) (n : Nat) : Option MF :=
  match stepped f.dst p.stepd n, stepped f.sb p.stepb n with
  | some d, some b => some { f with dst := d, sb := b }
  | _, _ => none

/-- The byte step of the present iteration of LDSP or STSP under REP, 0 outside one. -/
def State.addrStep (s : State) (ag : Agent) : Int :=
  match s.issue with
  | some l =>
    if l.rep then
      let p := s.sweep ag
      ((s.repctlOf ag).toNat / 4096 % 4096 : Nat) * p.stepa.toInt * (2 ^ p.sshift.toNat : Nat)
    else 0
  | none => 0

end Sys2Proof.Machine
end

