-- ==== Sys2Proof/Machine/Issue.lean ====
section
/-! DEFINITION. Reading the instruction that an agent issues from its clause: decoding, legality and place
(spec/09_instruction_formats.md R88 to R104), and a REP target with its operands stepped (R101). -/

namespace Sys2Proof.Machine

open Sys2Proof

/-- The clause kind of a header (Table 09-1). -/
def headerKind (h : W64) : ClauseKind :=
  match fld h 1 0 with | 1 => .seq | 2 => .handler | _ => .wave

/-- A REP target in iteration n: V format, LDSP or STSP, with its operands stepped. -/
def Instr.iter (i : Instr) (p : PF) (n : Nat) : Option Instr :=
  match i.view with
  | .v op f => match VF.at f p n with | some g => (match (View.v op g).ctor with | .ok j => some j | .error _ => none) | none => none
  | .m op f => match MF.at f p n with | some g => (match (View.m op g).ctor with | .ok j => some j | .error _ => none) | none => none
  | _ => none

/-- What an agent does next: the instruction at its slot, or the state after the trap that its word raises (R104). -/
inductive Next where
  | run (i : Instr)
  | trapped (s : State)
deriving DecidableEq, Repr

/-- The instruction that the latch names: decoded, legal in its clause kind and in its place, else the
illegal-instruction trap, which is reported at the REP's slot for a target (R311). -/
def State.next (s : State) (l : Latch) : Next :=
  let code := s.codeOf l.ag
  let slot := (s.pcOf l.ag).2.1 + l.rep.toNat
  let bad := Next.trapped (s.trap l.ag 0x01 none 0 0)
  match decodeWord (wordAt code slot) (wordAt code (slot + 1)) with
  | .error _ => bad
  | .ok i =>
    if legal (headerKind (wordAt code 0)) i && placeOk i slot (s.nslot l.ag) then
      if l.rep then
        match Instr.iter i (s.sweep l.ag) ((s.repctlOf l.ag).toNat / 4096 % 4096) with
        | some j => .run j
        | none => .trapped (s.trap l.ag 0x02 none 0 0)
      else .run i
    else bad

end Sys2Proof.Machine
end

