-- ==== Sys2Proof/Machine/Send.lean ====
section
/-! DEFINITION. Accesses that an instruction performs at issue, in this device's memory and in another's (spec/18_memory_hierarchy.md
R234, R237; spec/23_fabric_pod.md R289). -/

namespace Sys2Proof.Machine

open Sys2Proof

/-- A request of a cluster to an address needs a failed link (R21). -/
def State.severed (s : State) (c : Nat) (h : Home) : Bool := s.cut (c / 10) h.die

/-- The copies of n bytes of another device that home L2s hold, when they hold all of them (R289). -/
def State.farCopy (s : State) (dev pa n : Nat) : Option (List Byte) :=
  (List.range n).foldr (fun i r => match r, s.path.far.find? (fun c => c.dev == dev && c.pa == pa + i) with
    | some bs, some c => some (c.byte :: bs)
    | _, _ => none) (some [])

/-- An L1 may hold the line of a page with this leaf: no deferred or bypass page (R235), and no memory of the host or of an
expander, which the device holds in the L2 of the port's die only (R286, R287). -/
def cacheable (e : W64) : Bool :=
  !bitAt e 53 && l2able e && !(decide (2 ^ 40 ≤ entryFrame e) && decide (entryFrame e < 2 ^ 43))

/-- Two ranges behind addresses share a byte. -/
def Home.meets (a : Home) (n : Nat) (b : Home) (m : Nat) : Bool :=
  let cut (x y : Nat) : Bool := decide (x < y + m) && decide (y < x + n)
  match a, b with
  | .mem x, .mem y => cut x y
  | .spad c x, .spad d y => c == d && cut x y
  | .dev c x _, .dev d y _ => c == d && cut x y
  | .down x, .down y => cut x y
  | _, _ => false

/-- The bytes of a lane that an access of the agent still waits to perform. -/
def Access.touches (a : Access) (h : Home) (n : Nat) : Bool :=
  a.lanes.any (fun l => l.home.meets (tyBits a.ty / 8) h n) || a.sent.any (fun l => l.2.home.meets (tyBits a.ty / 8) h n)

/-- An access is the present agent's own: its thread has not been bound anew since. -/
def State.mine (s : State) (ag : Agent) (a : Access) : Bool := a.ag == ag && a.seat.bind == (s.seat ag).bind

/-- An access has writes to another device's memory that are still to be sent. -/
def Access.farPending (a : Access) : Bool :=
  a.op != .load && a.lanes.any (fun l => match l.home with | .dev _ _ _ => true | _ => false)

/-- An access of an agent's binding that it issued before number n. -/
def Access.before (a : Access) (ag : Agent) (p : Seat) (n : Nat) : Bool := a.ag == ag && a.seat.bind == p.bind && decide (a.n < n)

/-- An access that an instruction performs at issue must wait for an earlier acquire and for earlier accesses of its agent
to the same bytes (R149, R249), at another device for those that have writes to send (R263), and for what any request waits for
(R33, R254, R339). -/
def State.held (s : State) (ag : Agent) (h : Home) (n : Nat) : Bool :=
  let far := match h with | .dev _ _ _ => true | _ => false
  s.path.acc.any (fun a => s.mine ag a && (a.ord == .acquire || a.touches h n || (far && a.farPending)))
    || s.devHeld (s.ctxOf ag) h n

/-- An earlier acquire of the agent is incomplete (R249). -/
def State.acquiring (s : State) (ag : Agent) : Bool := s.path.acc.any (fun a => s.mine ag a && a.ord == .acquire)

/-- A write that an agent's instruction performed at issue at another device, under a request before number n, is unanswered. -/
def State.pushing (s : State) (ag : Agent) (bind n : Nat) : Bool :=
  s.fab.out.any (fun r => r.who == some (ag, bind) && r.kind.writes && r.txf.isNone && decide (r.n < n)
    && !(s.path.acc.any (fun a => a.sent.any (fun e => e.1 == r.n))))

/-- No access of the agent is incomplete, a write at another device among them. -/
def State.drained (s : State) (ag : Agent) : Bool :=
  !(s.path.acc.any (fun a => s.mine ag a)) && !s.pushing ag (s.seat ag).bind s.fresh

/-- A write of an agent has failed: no release that it precedes is performed any more, were the agent to end before it (R264). -/
def State.breakAgent (s : State) (ag : Agent) (bind launch : Nat) : State :=
  if s.fab.broken.any (fun b => b.1 == ag && b.2.1 == bind) then s
  else { s with fab := { s.fab with broken := s.fab.broken ++ [(ag, bind, launch)] } }

/-- A .pod release of an agent would have to follow a failed write: the agent's own, or perhaps one of another agent that
happens before it, which a free value decides (R264; log entry 52). -/
def State.releaseFails (s : State) (ag : Agent) (bind : Nat) : Bool :=
  s.fab.broken.any (fun b => b.1 == ag && b.2.1 == bind) || (!s.fab.broken.isEmpty && bitAt (Config.freeWord s.free) 0)

/-- A write of the present agent has failed. -/
def State.breakHere (s : State) (ag : Agent) : State := s.breakAgent ag (s.seat ag).bind (s.launchOf ag)

/-- Bytes read behind an address at issue; `e` is the leaf of its page. -/
def State.agentGet (s : State) (ag : Agent) (sc : Scope) (e : W64) (h : Home) (n : Nat) : List Byte × State :=
  let s1 := { s with free := s.free + 1 }
  match h with
  | .mem pa =>
    if s.severed (s.clusterOf ag) h && !(s.l1Serves (s.seat ag) sc (cacheable e) pa) then (List.replicate n 0, s.agentItem ag 0x35 pa 0)
    else (s.useHbm pa n).cachedRead (s.seat ag) sc (cacheable e) pa n
  | .spad _ _ => (s.bytesAt h n, s)
  | .dev d pa _ =>
    if s.severed (s.clusterOf ag) h then (List.replicate n 0, s.agentItem ag 0x35 (s.addrOf h) 0)
    else
      match s.farCopy d pa n with
      | some bs => if s.l2Holds e && sc != .pod && Config.l2Holds s.free then (bs, s1) else s1.farRead (s.ctxOf ag) n (fun t => t.agentItem ag 0x35 (s.addrOf h) 0)
      | none => s1.farRead (s.ctxOf ag) n (fun t => t.agentItem ag 0x35 (s.addrOf h) 0)
  | .down pa => (List.replicate n 0, s.agentItem ag 0x35 pa 0)

/-- The bytes of a load at issue: zero, with a failed item, where they meet an uncorrectable error (R342). -/
def State.agentLoad (s : State) (ag : Agent) (sc : Scope) (e : W64) (h : Home) (n : Nat) : List Byte × State :=
  let pa := match h with | .mem pa => pa | _ => 0
  if s.badBytes h n && !(s.l1Serves (s.seat ag) sc (cacheable e) pa) then (List.replicate n 0, s.agentItem ag 0x32 pa 0)
  else s.agentGet ag sc e h n

/-- Bytes written behind an address at issue; `e` is the leaf of its page. -/
def State.agentPut (s : State) (ag : Agent) (sc : Scope) (e : W64) (h : Home) (bs : List Byte) : State :=
  match h with
  | .mem pa =>
    if s.severed (s.clusterOf ag) h && !(s.l1Serves (s.seat ag) sc (cacheable e) pa) then (s.agentItem ag 0x35 pa 0).breakHere ag
    else (s.useHbm pa bs.length).cachedWrite (s.seat ag) sc (cacheable e) pa bs
  | .spad _ _ => s.putAt h bs
  | .dev n pa w =>
    if s.severed (s.clusterOf ag) h then (s.agentItem ag 0x35 (s.addrOf h) 0).breakHere ag
    else (s.send (s.ctxOf ag) (s.clusterOf ag) n pa (.write bs) w (s.launchOf ag) (some (ag, (s.seat ag).bind)) (s.l2Holds e)).2
  | .down pa => (s.agentItem ag 0x35 pa 0).breakHere ag

/-- A stop of the issuing instruction by its cause: a translation fault (group 4) or a trap. -/
def State.raiseStop (s : State) (ag : Agent) (cause addr : Nat) : State :=
  if 0x20 ≤ cause ∧ cause ≤ 0x25 then s.faultHere ag cause none addr 0 else s.trap ag cause none 0 addr

end Sys2Proof.Machine
end

