-- ==== Sys2Proof/Machine/Scalar.lean ====
section
/-! DEFINITION. The scalar instructions (spec/11_scalar_control_instructions.md R110 to R118). -/

namespace Sys2Proof.Machine

open Sys2Proof

/-- Slots that a format S instruction occupies. -/
def SF.nslot (f : SF) : Nat := nSlots [f.sa, f.sb, f.sc]

/-- An integer instruction: sources at the width of the type, the result modulo 2^W (R112). -/
def scalarInt (f : SF) (s : State) (op : Nat → Bool → Nat → Nat → Nat → Nat) : Host.Outcome State Fault Refusal :=
  issued s (fun ag =>
    let w := tyBits f.ty
    let r (o : Opnd) : Nat := s.srcBits ag w f.imm o
    (s.putTy ag f.dst f.ty (op w (isSigned f.ty) (r f.sa) (r f.sb) (r f.sc))).retire (SF.nslot f) .none)

/-- A value of width w, signed or unsigned as the type says. -/
def asInt (w : Nat) (sgn : Bool) (a : Nat) : Int := if sgn then signed w a else (a % 2 ^ w : Nat)

/-- Quotient and remainder of R113. -/
def divRem (w : Nat) (sgn : Bool) (a b : Nat) : Nat × Nat :=
  let x := asInt w sgn a
  let y := asInt w sgn b
  if b % 2 ^ w = 0 then (2 ^ w - 1, a % 2 ^ w) else (unsigned w (x.tdiv y), unsigned w (x.tmod y))

/-- Leading zeros of a value of width w. -/
def leadingZeros (w a : Nat) : Nat := if a = 0 then w else w - 1 - log2 a

/-- Set bits of a value of width w. -/
def popCount (w a : Nat) : Nat := ((List.range w).filter (fun i => a.testBit i)).length

/-- Position and length of the field that b packs (R113). -/
def packedField (w b : Nat) : Nat × Nat :=
  let pos := b % 64 % w
  (pos, min (b / 256 % 128) (w - pos))

/-- BFX (R113). -/
def bitExtract (w : Nat) (sgn : Bool) (a b : Nat) : Nat :=
  let p := packedField w b
  if p.2 = 0 then 0
  else
    let f := a / 2 ^ p.1 % 2 ^ p.2
    if sgn then unsigned w (signed p.2 f) else f

/-- BFI (R113). -/
def bitInsert (w a b c : Nat) : Nat :=
  let p := packedField w b
  let m := (2 ^ p.2 - 1) * 2 ^ p.1 % 2 ^ w
  (c &&& (2 ^ w - 1 - m)) ||| (a * 2 ^ p.1 % 2 ^ w &&& m)

/-- Arithmetic shift right. -/
def shiftSar (w a k : Nat) : Nat := unsigned w (signed w a / (2 ^ k : Nat))

/-- Rotation left. -/
def rotl (w a k : Nat) : Nat := (a * 2 ^ k + a / 2 ^ (w - k)) % 2 ^ w

/-- The lesser of two values, or the greater. -/
def minMaxInt (w : Nat) (sgn wantMax : Bool) (a b : Nat) : Nat :=
  if decide (asInt w sgn a < asInt w sgn b) != wantMax then a else b

/-- Table 11-1, IADD. -/
def execIadd (f : SF) (s : State) : Host.Outcome State Fault Refusal := scalarInt f s (fun _ _ a b _ => a + b)
/-- Table 11-1, ISUB. -/
def execIsub (f : SF) (s : State) : Host.Outcome State Fault Refusal := scalarInt f s (fun w _ a b _ => a + (2 ^ w - b % 2 ^ w))
/-- Table 11-1, IMUL. -/
def execImul (f : SF) (s : State) : Host.Outcome State Fault Refusal := scalarInt f s (fun _ _ a b _ => a * b)
/-- Table 11-1, IMULH. -/
def execImulh (f : SF) (s : State) : Host.Outcome State Fault Refusal :=
  scalarInt f s (fun w g a b _ => unsigned w (asInt w g a * asInt w g b / (2 ^ w : Nat)))
/-- Table 11-1, IMAD. -/
def execImad (f : SF) (s : State) : Host.Outcome State Fault Refusal := scalarInt f s (fun _ _ a b c => a * b + c)
/-- R113, IDIV. -/
def execIdiv (f : SF) (s : State) : Host.Outcome State Fault Refusal := scalarInt f s (fun w g a b _ => (divRem w g a b).1)
/-- R113, IREM. -/
def execIrem (f : SF) (s : State) : Host.Outcome State Fault Refusal := scalarInt f s (fun w g a b _ => (divRem w g a b).2)
/-- Table 11-1, IMIN. -/
def execImin (f : SF) (s : State) : Host.Outcome State Fault Refusal := scalarInt f s (fun w g a b _ => minMaxInt w g false a b)
/-- Table 11-1, IMAX. -/
def execImax (f : SF) (s : State) : Host.Outcome State Fault Refusal := scalarInt f s (fun w g a b _ => minMaxInt w g true a b)
/-- Table 11-1, AND. -/
def execAndS (f : SF) (s : State) : Host.Outcome State Fault Refusal := scalarInt f s (fun _ _ a b _ => a &&& b)
/-- Table 11-1, OR. -/
def execOrS (f : SF) (s : State) : Host.Outcome State Fault Refusal := scalarInt f s (fun _ _ a b _ => a ||| b)
/-- Table 11-1, XOR. -/
def execXorS (f : SF) (s : State) : Host.Outcome State Fault Refusal := scalarInt f s (fun _ _ a b _ => a ^^^ b)
/-- Table 11-1, NOT. -/
def execNotS (f : SF) (s : State) : Host.Outcome State Fault Refusal := scalarInt f s (fun w _ a _ _ => 2 ^ w - 1 - a)
/-- Table 11-1, SHL. -/
def execShl (f : SF) (s : State) : Host.Outcome State Fault Refusal := scalarInt f s (fun w _ a b _ => a * 2 ^ (b % w))
/-- Table 11-1, SHR. -/
def execShr (f : SF) (s : State) : Host.Outcome State Fault Refusal := scalarInt f s (fun w _ a b _ => a / 2 ^ (b % w))
/-- Table 11-1, SAR. -/
def execSar (f : SF) (s : State) : Host.Outcome State Fault Refusal := scalarInt f s (fun w _ a b _ => shiftSar w a (b % w))
/-- Table 11-1, ROT. -/
def execRot (f : SF) (s : State) : Host.Outcome State Fault Refusal := scalarInt f s (fun w _ a b _ => rotl w a (b % w))
/-- Table 11-1, CLZ. -/
def execClz (f : SF) (s : State) : Host.Outcome State Fault Refusal := scalarInt f s (fun w _ a _ _ => leadingZeros w a)
/-- Table 11-1, POPC. -/
def execPopc (f : SF) (s : State) : Host.Outcome State Fault Refusal := scalarInt f s (fun w _ a _ _ => popCount w a)
/-- R113, BFX. -/
def execBfx (f : SF) (s : State) : Host.Outcome State Fault Refusal := scalarInt f s (fun w g a b _ => bitExtract w g a b)
/-- R113, BFI. -/
def execBfi (f : SF) (s : State) : Host.Outcome State Fault Refusal := scalarInt f s (fun w _ a b c => bitInsert w a b c)
/-- Table 11-2, ICMP. -/
def execIcmp (f : SF) (s : State) : Host.Outcome State Fault Refusal :=
  scalarInt f s (fun w g a b _ => (intCond f.fn.toNat (asInt w g a) (asInt w g b)).toNat)
/-- Table 11-2, MOV. -/
def execMov (f : SF) (s : State) : Host.Outcome State Fault Refusal := scalarInt f s (fun _ _ a _ _ => a)

/-- Whether an agent is a sequencer thread. -/
def Agent.isThread : Agent → Bool
  | .thread _ _ => true
  | .wave _ => false

/-- Table 11-2, SEL: c is a 32-bit value in a wave and a whole q register in a thread. -/
def execSel (f : SF) (s : State) : Host.Outcome State Fault Refusal :=
  issued s (fun ag =>
    let w := tyBits f.ty
    let c := s.srcBits ag (if (Agent.isThread ag) then 64 else 32) f.imm f.sc
    (s.putTy ag f.dst f.ty (s.srcBits ag w f.imm (if c ≠ 0 then f.sa else f.sb))).retire (SF.nslot f) .none)

/-- Table 11-2, LEA. -/
def execLea (f : SF) (s : State) : Host.Outcome State Fault Refusal :=
  issued s (fun ag =>
    let w := tyBits f.ty
    let b := asInt w (isSigned f.ty) (s.srcBits ag w f.imm f.sb)
    let x : Int := (s.srcBits ag 64 f.imm f.sa : Nat) + b * (2 ^ f.fn.toNat : Nat) + f.imm.toInt
    (s.put64 ag f.dst (unsigned 64 x)).retire (SF.nslot f) .none)

/-- A scalar FP32 instruction: result, flags and trap (R115). -/
def scalarFloat (f : SF) (s : State) (op : FV → FV → FV → Nat × FFlags) : Host.Outcome State Fault Refusal :=
  issued s (fun ag =>
    let g := ffmt .f32
    let r (o : Opnd) : FV := g.value (s.src ag (.fl g) f.imm o)
    let x := op (r f.sa) (r f.sb) (r f.sc)
    s.withFlags ag x.2 (fun t => (t.put32 ag f.dst x.1).retire (SF.nslot f) .none))

/-- R115, SFADD. -/
def execSfadd (f : SF) (s : State) : Host.Outcome State Fault Refusal :=
  scalarFloat f s (fun a b _ => (ffmt .f32).addOp false a b)
/-- R115, SFMUL. -/
def execSfmul (f : SF) (s : State) : Host.Outcome State Fault Refusal :=
  scalarFloat f s (fun a b _ => (ffmt .f32).mulOp false a b)
/-- R115, SFMA. -/
def execSfma (f : SF) (s : State) : Host.Outcome State Fault Refusal :=
  scalarFloat f s (fun a b c => (ffmt .f32).fmaOp false a b c)
/-- R115, SFCMP: no flag. -/
def execSfcmp (f : SF) (s : State) : Host.Outcome State Fault Refusal :=
  scalarFloat f s (fun a b _ => ((floatCond f.fn.toNat a b).toNat, 0))

/-- R116, SCVT. -/
def execScvt (f : SF) (s : State) : Host.Outcome State Fault Refusal :=
  issued s (fun ag =>
    let st := numFmt ((Ty.ofCode f.fn.toNat).getD .i32) false
    let x := convert (numFmt f.ty false) st (f.imm.toNat % 4) 0 (f.imm.getLsbD 2) (s.src ag st f.imm f.sa)
    s.withFlags ag x.2 (fun t => (t.putTy ag f.dst f.ty x.1).retire (SF.nslot f) .none))

/-- Width of a special register. -/
def sprBits (ag : Agent) (n : Nat) : Nat := (sprWidth (if (Agent.isThread ag) then .seq else .handler) n).getD 32

/-- A special register read (Table 11-3, Table 16-7, Table 27-4). -/
def State.spr (s : State) (ag : Agent) (n : Nat) : W64 :=
  match ag with
  | .wave w =>
    match s.wave w with
    | none => 0
    | some v =>
      match n with
      | 0x000 => BitVec.ofNat 64 v.alt.toNat
      | 0x001 => BitVec.ofNat 64 v.path.depth
      | 0x002 => v.dstkbase
      | 0x003 => v.dstklen.zeroExtend 64
      | 0x004 => v.dstkdepth.zeroExtend 64
      | 0x005 => v.repctl.zeroExtend 64
      | 0x006 => v.fpstat.zeroExtend 64
      | 0x007 => (s.core v.core).cyc
      | 0x008 => BitVec.ofNat 64 (s.seqOf v.launch)
      | 0x110 => v.hreg.hpc
      | 0x111 => v.hreg.hmask01
      | 0x112 => v.hreg.hmask2.zeroExtend 64
      | 0x113 => v.hreg.hva
      | 0x114 => v.hreg.hsave[0]
      | 0x115 => v.hreg.hsave[1]
      | 0x116 => v.hreg.hsave[2]
      | 0x117 => v.hreg.hsave[3]
      | _ => 0
  | .thread c t =>
    let h := s.thread c t
    match n with
    | 0x005 => h.repctl.zeroExtend 64
    | 0x006 => h.fpstat.zeroExtend 64
    | 0x007 => Map.at s.sch.clk c 0
    | 0x008 => BitVec.ofNat 64 (s.seqOf h.launch)
    | 0x100 => h.tvec
    | 0x101 => h.tret
    | 0x102 => h.tsrc.zeroExtend 64
    | 0x103 => h.trec.w0
    | 0x104 => h.trec.w1
    | 0x105 => h.trec.w2
    | 0x106 => h.trec.w3
    | _ => 0

/-- The wave registers of Table 11-3 and Table 27-4 that are written, each by its access code. -/
def Wave.putSpr (v : Wave) (n : Nat) (x : W64) : Wave :=
  match n with
  | 0x002 => { v with dstkbase := x &&& 0x01FFFFFFFFFFFFE0 }
  | 0x003 => { v with dstklen := x.truncate 32, dstkdepth := if v.dstkdepth.toNat ≤ x.toNat % 2 ^ 32 then v.dstkdepth else x.truncate 32 }
  | 0x004 => { v with dstkdepth := if x.toNat % 2 ^ 32 ≤ v.dstklen.toNat then x.truncate 32 else v.dstklen }
  | 0x006 => { v with fpstat := fpstatWrite v.fpstat (x.truncate 32) }
  | 0x114 => { v with hreg := { v.hreg with hsave := v.hreg.hsave.set 0 x } }
  | 0x115 => { v with hreg := { v.hreg with hsave := v.hreg.hsave.set 1 x } }
  | 0x116 => { v with hreg := { v.hreg with hsave := v.hreg.hsave.set 2 x } }
  | 0x117 => { v with hreg := { v.hreg with hsave := v.hreg.hsave.set 3 x } }
  | _ => v

/-- A special register written by its access code: read-only registers and reserved bits ignore the write (R117). -/
def State.setSpr (s : State) (ag : Agent) (n : Nat) (x : W64) : State :=
  match ag with
  | .wave w => match s.wave w with | some v => s.setWave w (v.putSpr n x) | none => s
  | .thread c t =>
    let h := s.thread c t
    match n with
    | 0x006 => s.setThread c t { h with fpstat := fpstatWrite h.fpstat (x.truncate 32) }
    | 0x100 => s.setThread c t { h with tvec := x &&& 0x01FFFFFFFFFFFFC0 }
    | 0x101 => s.setThread c t { h with tret := x &&& 0x01FFFFFFFFFFFFF8 }
    | _ => s

/-- R117, MFS. -/
def execMfs (f : SF) (s : State) : Host.Outcome State Fault Refusal :=
  issued s (fun ag =>
    (s.putReg ag f.dst (sprBits ag f.imm.toNat == 64) false (s.spr ag f.imm.toNat)).retire 1 .none)

/-- R117, MTS. -/
def execMts (f : SF) (s : State) : Host.Outcome State Fault Refusal :=
  issued s (fun ag =>
    let x := s.srcBits ag (sprBits ag f.imm.toNat) 0 f.sa
    (s.setSpr ag f.imm.toNat (BitVec.ofNat 64 x)).retire (SF.nslot f) .none)

end Sys2Proof.Machine
end

