-- ==== Sys2Proof/Machine/Control.lean ====
section
/-! DEFINITION. Control transfers, divergence and masks (spec/11_scalar_control_instructions.md R119 to R126;
spec/03_execution_model.md R42 to R45). -/

namespace Sys2Proof.Machine

open Sys2Proof

/-! ### Control transfers -/

/-- The instruction ends its clause and the agent goes on at another one (R90). -/
def State.jump (s : State) (ag : Agent) (pc : BitVec 57) (w : Wait) : State := ((s.goto ag pc w).unlatch).stepped ag

/-- The clause that follows in memory. -/
def State.nextPc (s : State) (ag : Agent) : BitVec 57 := (s.pcOf ag).1 + 64

/-- The target of a transfer (R119); `none` where a register holds no clause address. -/
def State.target (s : State) (ag : Agent) (f : SF) : Option (BitVec 57) :=
  match f.sa with
  | .imm => some ((s.pcOf ag).1 + 64 * f.imm.signExtend 57)
  | .lit w => some (w.truncate 57)
  | o =>
    let t := s.reg ag o true
    if fld t 5 0 = 0 ∧ fld t 63 57 = 0 then some (t.truncate 57) else none

/-- A transfer with its target tested (R120). -/
def transfer (f : SF) (s : State) (k : Agent → BitVec 57 → State) : Host.Outcome State Fault Refusal :=
  issued s (fun ag => match s.target ag f with | some t => k ag t | none => s.trap ag 0x10 none 0 (s.reg ag f.sa true).toNat)

/-- Conditions of BRC: Z 0, NZ 1, LTZ 2, GEZ 3. -/
def branchCond (fn w c : Nat) : Bool :=
  match fn with
  | 0 => c == 0
  | 1 => c != 0
  | 2 => decide (signed w c < 0)
  | _ => decide (0 ≤ signed w c)

/-- R119, BR. -/
def execBr (f : SF) (s : State) : Host.Outcome State Fault Refusal := transfer f s (fun ag t => s.jump ag t .none)
/-- R119, BRX. -/
def execBrx (f : SF) (s : State) : Host.Outcome State Fault Refusal := transfer f s (fun ag t => s.jump ag t .none)
/-- R119, RET. -/
def execRet (f : SF) (s : State) : Host.Outcome State Fault Refusal := transfer f s (fun ag t => s.jump ag t .none)
/-- R119, BRC. -/
def execBrc (f : SF) (s : State) : Host.Outcome State Fault Refusal :=
  transfer f s (fun ag t =>
    let w := tyBits f.ty
    s.jump ag (if branchCond f.fn.toNat w (s.srcBits ag w f.imm f.sb) then t else s.nextPc ag) .none)
/-- R119, CALL. -/
def execCall (f : SF) (s : State) : Host.Outcome State Fault Refusal :=
  transfer f s (fun ag t => (s.put64 ag f.dst (s.nextPc ag).toNat).jump ag t .none)
/-- R119, CALLX: the target is read before the link is written. -/
def execCallx (f : SF) (s : State) : Host.Outcome State Fault Refusal :=
  transfer f s (fun ag t => (s.put64 ag f.dst (s.nextPc ag).toNat).jump ag t .none)

/-! ### Paths and the divergence stack (Table 03-4) -/

/-- A PC slot of a wave: the alternate one where `alt`. -/
def Wave.slotAt (v : Wave) (alt : Bool) : Path := if alt then v.p1 else v.p0

/-- A PC slot replaced. -/
def Wave.setSlotAt (v : Wave) (alt : Bool) (p : Path) : Wave := if alt then { v with p1 := p } else { v with p0 := p }

/-- The four words of a stacked path. -/
def entryOf (p : Path) : List W64 :=
  [BitVec.ofNat 64 (p.pc.toNat + (p.st == .joined).toNat), pair32 (maskWord p.mask 0).toNat (maskWord p.mask 1).toNat,
   pair32 (maskWord p.mask 2).toNat 0, BitVec.ofNat 64 p.depth]

/-- A reserved field of a stack entry is set. -/
def entryBad (e : List W64) : Bool :=
  fld (wordAt e 0) 63 57 != 0 || fld (wordAt e 0) 5 1 != 0 || fld (wordAt e 2) 63 32 != 0 || fld (wordAt e 3) 63 6 != 0

/-- The path that an entry names. -/
def pathOf (e : List W64) : Path :=
  { st := if bitAt (wordAt e 0) 0 then .joined else .running, pc := BitVec.ofNat 57 (fld (wordAt e 0) 56 6 * 64), slot := 1,
    depth := fld (wordAt e 3) 5 0,
    mask := maskOf (fld (wordAt e 1) 31 0) (fld (wordAt e 1) 63 32) (fld (wordAt e 2) 31 0),
    code := none, wait := .none, named := false }

/-- Table of R43, applied to slot X (`alt`) with the clause it goes on at; the slot that becomes Empty, if one does. At
depth 0 the path goes on. -/
def Wave.join (v : Wave) (alt : Bool) (pc : BitVec 57) : Wave × Option Bool :=
  let x := v.slotAt alt
  let y := v.slotAt (!alt)
  let go : Path := { x with st := .running, pc := pc, slot := 1, code := none, wait := .none, named := false }
  if x.depth = 0 then (v.setSlotAt alt go, none)
  else if y.st = .empty ∨ y.depth < x.depth then (v.setSlotAt alt { go with depth := x.depth - 1 }, none)
  else if y.st = .joined ∧ y.depth = x.depth then
    (({ v with p0 := { go with depth := x.depth - 1, mask := x.mask ||| y.mask } }).setSlotAt true Path.none, some true)
  else (v.setSlotAt alt { go with st := .joined }, none)

/-- The path with its slot in state Joined when popped is put in place; a Joined one applies R43 at once, which may empty
the alternate slot. -/
def Wave.place (v : Wave) (alt : Bool) (p : Path) : Wave × Option Bool :=
  let v1 := v.setSlotAt alt { p with st := .running }
  if p.st = .joined then v1.join alt p.pc else (v1, none)

/-- The outcome of an access to the stack: a cause with its address, a wait, or a result. -/
inductive StackStep (α : Type) where
  | stop (cause addr : Nat)
  | wait
  | ok (a : α)
deriving DecidableEq, Repr

/-- Address of stack entry n of a wave. -/
def Wave.entryVa (v : Wave) (n : Nat) : Nat := unsigned 64 (v.dstkbase.toNat + 32 * n : Nat)

/-- The words of the top entry, and the state after the read (R44, R45). -/
def State.readTop (s : State) (w : Nat) (v : Wave) : StackStep (List W64 × State) :=
  let va := v.entryVa (v.dstkdepth.toNat - 1)
  let u := s.tlbOf (.wave w)
  match s.xlate u v.ctx va true false with
  | .error c => .stop c va
  | .ok (pa, e) =>
    if s.held (.wave w) (s.home pa) 32 || s.walkHeld u v.ctx va then .wait
    else
      let r := (s.keepTlb u v.ctx va e).agentLoad (.wave w) .wave e (s.home pa) 32
      .ok ((List.range 4).map (fun i => BitVec.ofNat 64 (leNat ((r.1.drop (8 * i)).take 8))), r.2)

/-- An entry stored above the top (R44, R45). -/
def State.writeTop (s : State) (w : Nat) (v : Wave) (e : List W64) : StackStep State :=
  let va := v.entryVa v.dstkdepth.toNat
  if v.dstkdepth = v.dstklen then .stop 0x08 0
  else
    let u := s.tlbOf (.wave w)
    match s.xlate u v.ctx va false true with
    | .error c => .stop c va
    | .ok (pa, leaf) =>
      if bitAt leaf 53 then .stop 0x0A va
      else if s.held (.wave w) (s.home pa) 32 || s.walkHeld u v.ctx va then .wait
      else .ok ((s.keepTlb u v.ctx va leaf).agentPut (.wave w) .wave leaf (s.home pa)
        ((e.map (fun x => leBytes 8 x.toNat)).flatten))

/-- A slot has become Empty: while the stack holds an entry, the top one is popped into it (R43). Two pops are the most
one step can take, since the second finds no Joined slot to merge with. -/
def State.popInto (s : State) (w : Nat) (v : Wave) (alt : Bool) : Nat → StackStep (State × Wave)
  | 0 => .ok (s, v)
  | k + 1 =>
    if v.dstkdepth = 0 then .ok (s, v)
    else
      match s.readTop w v with
      | .stop c a => .stop c a
      | .wait => .wait
      | .ok (e, s1) =>
        if entryBad e then .stop 0x0B 0
        else
          match ({ v with dstkdepth := v.dstkdepth - 1 }).place alt (pathOf e) with
          | (v1, none) => .ok (s1, v1)
          | (v1, some b) => s1.popInto w v1 b k

/-- The end of a stack step of the issuing wave: a stop, a wait at issue, or its effect. -/
def State.stackEnd (s : State) (ag : Agent) (r : StackStep State) : State :=
  match r with
  | .stop c a => s.raiseStop ag c a
  | .wait => s.stall
  | .ok t => t

/-- A wave that has passed the checks of its stack step is put in place; a first-touch met there is over (R316). -/
def State.setPassed (s : State) (w : Nat) (v : Wave) : State :=
  let s1 := s.passes (.wave w) false
  s1.setWave w { v with touched := match s1.wave w with | some u => u.touched | none => v.touched }

/-- A wave whose issuing slot has become Empty, with what R43 pops into it; the workgroup ends with its last wave. -/
def State.emptied (s : State) (w : Nat) (v : Wave) (alt : Bool) : StackStep State :=
  match s.popInto w v alt 3 with
  | .stop c a => .stop c a
  | .wait => .wait
  | .ok (s1, v1) =>
    let s2 := (s1.setPassed w v1).unlatch
    .ok (if v1.ended then (s2.dropReserve w).reap v1.wg else s2.stepped (.wave w))

/-- Lanes whose BSPLIT condition holds (R121). -/
def Wave.splitLanes (v : Wave) (s : State) (ag : Agent) (f : SF) : Mask :=
  match f.sb with
  | .v r => (List.range 96).foldl (fun m i => if v.lane r.val i ≠ 0 then m ||| (1 <<< i) else m) 0
  | o => s.triple ag o

/-- R42 with the two sides made: the other slot's path, if any, is pushed. A path that waits in a BAR is pushed without its
wait, for which Table 03-4 has no field: DESIGN CHOICE (log entry 46). -/
def State.split (s : State) (w : Nat) (v : Wave) (taken fall : Mask) (target next : BitVec 57) : StackStep State :=
  let p := v.path
  let go (m : Mask) (pc : BitVec 57) : Path := ⟨.running, pc, 1, p.depth + 1, m, none, .none, false⟩
  let v1 := (v.setPath (go fall next)).setOther (go taken target)
  if p.depth = 63 then .stop 0x07 0
  else if v.other.st = .empty then .ok (((s.setPassed w v1).unlatch).stepped (.wave w))
  else
    match s.writeTop w v (entryOf v.other) with
    | .stop c a => .stop c a
    | .wait => .wait
    | .ok t => .ok (((t.setPassed w { v1 with dstkdepth := v.dstkdepth + 1 }).unlatch).stepped (.wave w))

/-- R121, BSPLIT. -/
def execBsplit (f : SF) (s : State) : Host.Outcome State Fault Refusal :=
  transfer f s (fun ag t =>
    match ag with
    | .thread _ _ => s.stall
    | .wave w =>
      match s.wave w with
      | none => s.stall
      | some v =>
        if v.inRange f.sb 0 then
          let taken := v.splitLanes s ag f &&& v.path.mask
          let fall := v.path.mask &&& ~~~taken
          if taken = 0 then s.jump ag (s.nextPc ag) .none
          else if fall = 0 then s.jump ag t .none
          else s.stackEnd ag (s.split w v taken fall t (s.nextPc ag))
        else s.trap ag 0x02 none 0 0)

/-- R122, BJOIN. -/
def execBjoin (_ : SF) (s : State) : Host.Outcome State Fault Refusal :=
  issued s (fun ag =>
    match ag with
    | .thread _ _ => s.stall
    | .wave w =>
      match s.wave w with
      | none => s.stall
      | some v =>
        if v.path.depth = 0 then s.jump ag (s.nextPc ag) .none
        else
          match v.join v.alt (s.nextPc ag) with
          | (v1, none) => ((s.setWave w v1).unlatch).stepped ag
          | (v1, some b) => s.stackEnd ag (s.emptied w v1 b))

/-- The eight registers from s(n) as four words (R123). -/
def Wave.quad (v : Wave) (n : Nat) : List W64 :=
  (List.range 4).map (fun i => pair32 (v.getS (n + 2 * i)).toNat (v.getS (n + 2 * i + 1)).toNat)

/-- Four words put in the eight registers from s(n). -/
def Wave.putQuad (v : Wave) (n : Nat) (e : List W64) : Wave :=
  (List.range 4).foldl (fun u i => (u.putS (n + 2 * i) ((wordAt e i).truncate 32)).putS (n + 2 * i + 1) ((wordAt e i >>> (32 : Nat)).truncate 32)) v

/-- R123, DPUSH. -/
def execDpush (f : SF) (s : State) : Host.Outcome State Fault Refusal :=
  issued s (fun ag =>
    match ag, f.sa with
    | .wave w, .s n =>
      match s.wave w with
      | none => s.stall
      | some v =>
        let e := v.quad n.val
        if v.other.st = .empty then
          if entryBad e then s.trap ag 0x0B none 0 0
          else (s.setPassed w (v.place (!v.alt) (pathOf e)).1).retire 1 .none
        else
          match s.writeTop w v e with
          | .stop c a => s.raiseStop ag c a
          | .wait => s.stall
          | .ok t => (t.setPassed w { v with dstkdepth := v.dstkdepth + 1 }).retire 1 .none
    | _, _ => s.stall)

/-- R123, DPOP: the path is removed without running, and its reserved fields are not checked. -/
def execDpop (f : SF) (s : State) : Host.Outcome State Fault Refusal :=
  issued s (fun ag =>
    match ag, f.dst with
    | .wave w, .s n =>
      match s.wave w with
      | none => s.stall
      | some v =>
        if v.dstkdepth = 0 then s.trap ag 0x09 none 0 0
        else
          match s.readTop w v with
          | .stop c a => s.raiseStop ag c a
          | .wait => s.stall
          | .ok (e, t) => (t.setPassed w ({ v with dstkdepth := v.dstkdepth - 1 }.putQuad n.val e)).retire 1 .none
    | _, _ => s.stall)

/-- Operations of MSK (R124). -/
def maskOp (fn : Nat) (a b : Mask) : Mask :=
  match fn with
  | 0 => a &&& b
  | 1 => a ||| b
  | 2 => a &&& ~~~b
  | 3 => a ^^^ b
  | 4 => ~~~a
  | _ => a

/-- R124, MSK. -/
def execMsk (f : SF) (s : State) : Host.Outcome State Fault Refusal :=
  issued s (fun ag => (s.putTriple ag f.dst (maskOp f.fn.toNat (s.triple ag f.sa) (s.triple ag f.sb))).retire 1 .none)

/-- The set lanes of a mask, in increasing order. -/
def maskLanes (m : Mask) : List Nat := (List.range 96).filter (fun i => m.getLsbD i)

/-- R125, MBCNT. -/
def execMbcnt (f : SF) (s : State) : Host.Outcome State Fault Refusal :=
  issued s (fun ag =>
    let b := min (s.srcBits ag 32 f.imm f.sb) 96
    (s.put32 ag f.dst ((maskLanes (s.triple ag f.sa)).filter (fun i => decide (i < b))).length).retire (SF.nslot f) .none)

/-- R125, MFIRST. -/
def execMfirst (f : SF) (s : State) : Host.Outcome State Fault Refusal :=
  issued s (fun ag =>
    let l := maskLanes (s.triple ag f.sa)
    (s.put32 ag f.dst (if f.fn = 0 then l.headD 96 else l.getLastD 96)).retire 1 .none)

/-- R126, NOP. -/
def execNop (_ : SF) (s : State) : Host.Outcome State Fault Refusal := issued s (fun _ => s.retire 1 .none)

end Sys2Proof.Machine
end

