-- ==== Sys2Proof/Machine/Trans.lean ====
section
/-! DEFINITION. The special functions of spec/07_arithmetic.md R84 and the seed of R85. Each correctly rounded function is
formed in fixed point with `prec` fraction bits, with the last bit marking that the value lies above the one formed; log
entry 11 says why the rounding is that of the exact value. -/

namespace Sys2Proof.Machine

open Sys2Proof

/-- Fraction bits of the fixed-point forms. -/
def prec : Nat := 512

/-- One in fixed point. -/
def fxOne : Nat := 2 ^ prec

/-- Floor of a square root, from bit `b` downward. -/
def isqrtFrom (n b : Nat) (r : Nat) : Nat :=
  match b with
  | 0 => if (r + 1) * (r + 1) ≤ n then r + 1 else r
  | k + 1 => let t := r + 2 ^ (k + 1); isqrtFrom n k (if t * t ≤ n then t else r)

/-- Floor of a square root. -/
def isqrt (n : Nat) : Nat := isqrtFrom n (log2 n / 2 + 1) 0

/-- An inexact magnitude just above f * 2^-prec. -/
def above (neg : Bool) (f : Nat) : FV := .fin neg (2 * f + 1) (-(prec : Int) - 1)

/-- Sum of term / 1, term * x / 2^prec / 1, ... with divisors d, d + step, ...; each term is the one before times `x`,
divided by the product of its divisors. -/
def expSum (fuel k : Nat) (x term acc : Nat) : Nat :=
  match fuel with
  | 0 => acc
  | n + 1 => let t := term * x / fxOne / k; expSum n (k + 1) x t (acc + t)

/-- exp(x) for 0 <= x < 1, in fixed point. -/
def fxExp (x : Nat) : Nat := expSum 110 1 x fxOne fxOne

/-- 2 * atanh(p / q) in fixed point: 2 * sum of t^(2k+1) / (2k+1). -/
def atanhSum (fuel k : Nat) (t2 term acc : Nat) : Nat :=
  match fuel with
  | 0 => acc
  | n + 1 => atanhSum n (k + 2) t2 (term * t2 / fxOne) (acc + term / k)

/-- ln(y) for 1 <= y < 2, in fixed point, from y in fixed point. -/
def fxLn (y : Nat) : Nat :=
  let t := (y - fxOne) * fxOne / (y + fxOne)
  2 * atanhSum 170 1 (t * t / fxOne) t 0

/-- ln 2. -/
def fxLn2 : Nat := 2 * atanhSum 170 1 (fxOne / 9) (fxOne / 3) 0

/-- atan(1 / n) for n above 1. -/
def atanInv (n : Nat) (fuel k term : Nat) (acc : Int) (plus : Bool) : Int :=
  match fuel with
  | 0 => acc
  | f + 1 => atanInv n f (k + 2) (term / (n * n)) (if plus then acc + (term / k : Nat) else acc - (term / k : Nat)) (!plus)

/-- Pi in fixed point. -/
def fxPi : Nat := (16 * atanInv 5 120 1 (fxOne / 5) 0 true - 4 * atanInv 239 40 1 (fxOne / 239) 0 true).toNat

/-- Alternating series of sine (k = 2, term = x) and cosine (k = 1, term = 1). -/
def trigSum (fuel k : Nat) (x2 term : Nat) (acc : Int) (plus : Bool) : Int :=
  match fuel with
  | 0 => acc
  | f + 1 =>
    let t := term * x2 / fxOne / (k * (k + 1))
    trigSum f (k + 2) x2 t (if plus then acc + (t : Nat) else acc - (t : Nat)) (!plus)

/-- sin(x) and cos(x) for 0 <= x <= 1, in fixed point. -/
def fxSin (x : Nat) : Nat := (trigSum 70 2 (x * x / fxOne) x x false).toNat

/-- cos(x) for 0 <= x <= 1, in fixed point. -/
def fxCos (x : Nat) : Nat := (trigSum 70 1 (x * x / fxOne) fxOne fxOne false).toNat

/-- 1 / x (Table 07-4). -/
def fRcp (x : FV) : FV × FFlags :=
  match x with
  | .nan => (.nan, 0)
  | .inf s => (.fin s 0 0, 0)
  | .fin s m e =>
    if m = 0 then (.inf s, 8)
    else
      let k := log2 m + 64
      let q := 2 ^ k / m
      (.fin s (2 * q + (if 2 ^ k % m = 0 then 0 else 1)) (-(k : Int) - 1 - e), 0)

/-- 1 / sqrt x (Table 07-4). -/
def fRsq (x : FV) : FV × FFlags :=
  match x with
  | .nan => (.nan, 0)
  | .inf s => if s then (.nan, 16) else (.fin false 0 0, 0)
  | .fin s m e =>
    if m = 0 then (.inf s, 8)
    else if s then (.nan, 16)
    else
      let odd := e % 2 ≠ 0
      let m' := if odd then 2 * m else m
      let e' := if odd then e - 1 else e
      let k := log2 m' + 80
      let r := isqrt (2 ^ (2 * k) / m')
      (.fin false (2 * r + (if r * r * m' = 2 ^ (2 * k) then 0 else 1)) (-(k : Int) - 1 - e' / 2), 0)

/-- A finite magnitude m * 2^e in fixed point, cut toward zero. -/
def toFx (m : Nat) (e : Int) : Nat :=
  if 0 ≤ e + prec then m * 2 ^ (e + prec).toNat else m / 2 ^ (-(e + prec)).toNat

/-- 2^x. -/
def fExp2 (x : FV) : FV × FFlags :=
  match x with
  | .nan => (.nan, 0)
  | .inf s => (if s then .fin false 0 0 else .inf false, 0)
  | .fin s m e =>
    if m = 0 then (.fin false 1 0, 0)
    else if 2 ^ 10 * 2 ^ prec ≤ m * 2 ^ (e + prec).toNat then (.fin false 1 (if s then -1024 else 1024), if s then 0 else 0)
    else
      let a := toFx m e
      let n : Int := if s then -((a + fxOne - 1) / fxOne : Nat) else (a / fxOne : Nat)
      let f := if s then (fxOne - a % fxOne) % fxOne else a % fxOne
      if f = 0 then (.fin false 1 n, 0)
      else
        let v := fxExp (f * fxLn2 / fxOne)
        (.fin false (2 * v + 1) (n - (prec : Int) - 1), 0)

/-- log2 x. -/
def fLog2 (x : FV) : FV × FFlags :=
  match x with
  | .nan => (.nan, 0)
  | .inf s => if s then (.nan, 16) else (.inf false, 0)
  | .fin s m e =>
    if m = 0 then (.inf true, 8)
    else if s then (.nan, 16)
    else
      let n : Int := e + (log2 m : Nat)
      if m = 2 ^ log2 m then (if n = 0 then .fin false 0 0 else .fin (decide (n < 0)) n.natAbs 0, 0)
      else
        let y := m * 2 ^ (prec - log2 m)
        let l : Int := n * (fxOne : Int) + (fxLn y * fxOne / fxLn2 : Nat)
        (above (decide (l < 0)) (if l < 0 then l.natAbs - 1 else l.natAbs), 0)

/-- sin(pi * f) for a fixed-point f in [0, 2) that is no multiple of 1/2: sign and magnitude. -/
def sinTurn (f : Nat) : Bool × Nat :=
  let neg := decide (fxOne ≤ f)
  let g := f % fxOne
  let h := if fxOne < 2 * g then fxOne - g else g
  if 4 * h ≤ fxOne then (neg, fxSin (h * fxPi / fxOne))
  else (neg, fxCos ((fxOne / 2 - h) * fxPi / fxOne))

/-- x modulo 2 in fixed point, for a magnitude m * 2^e. -/
def mod2 (m : Nat) (e : Int) : Nat := if 1 ≤ e then 0 else toFx m e % (2 * fxOne)

/-- sin(pi * x). -/
def fSinPi (x : FV) : FV × FFlags :=
  match x with
  | .nan => (.nan, 0)
  | .inf _ => (.nan, 16)
  | .fin s m e =>
    let f := mod2 m e
    if m = 0 ∨ f % fxOne = 0 then (.fin s 0 0, 0)
    else if f % (fxOne / 2) = 0 then (.fin (s != decide (fxOne ≤ f)) 1 0, 0)
    else let r := sinTurn f; (above (s != r.1) r.2, 0)

/-- cos(pi * x). -/
def fCosPi (x : FV) : FV × FFlags :=
  match x with
  | .nan => (.nan, 0)
  | .inf _ => (.nan, 16)
  | .fin _ m e =>
    let f := (mod2 m e + fxOne / 2) % (2 * fxOne)
    if f % fxOne = 0 then (.fin false 0 0, 0)
    else if f % (fxOne / 2) = 0 then (.fin (decide (fxOne ≤ f)) 1 0, 0)
    else let r := sinTurn f; (above r.1 r.2, 0)

/-- tanh x. -/
def fTanh (x : FV) : FV × FFlags :=
  match x with
  | .nan => (.nan, 0)
  | .inf s => (.fin s 1 0, 0)
  | .fin s m e =>
    let k : Int := e + (log2 m : Nat)
    if m = 0 then (.fin s 0 0, 0)
    else if k < -40 then (.fin s (m * 2 ^ 64 - 1) (e - 64), 0)
    else if 6 ≤ k then (.fin s (2 ^ 64 - 1) (-64), 0)
    else
      let y := 2 * toFx m e
      let n := y / fxLn2
      let v := fxExp (y % fxLn2) * 2 ^ n
      (above s ((v - fxOne) * fxOne / (v + fxOne)), 0)

/-- RCPA (R85): the seed of 1 / x as FP32 bits. -/
def rcpaSeed (b : Nat) : Nat :=
  let f := ffmt .f32
  match f.value b with
  | .nan => f.nanCode
  | .inf s => f.sign s
  | .fin s m e =>
    if m = 0 then f.infCode s
    else
      let ex : Int := e + (log2 m : Nat)
      let m8 := m * 2 ^ 8 / 2 ^ log2 m % 256
      if ex < -128 ∨ (ex = -128 ∧ m = 2 ^ log2 m) then f.infCode s
      else if 126 < ex ∨ (ex = 126 ∧ m ≠ 2 ^ log2 m) then f.sign s
      else
        let c : Nat × Nat × Nat := (1048576 / (512 + 2 * m8 + 1), 1048576 % (512 + 2 * m8 + 1), 512 + 2 * m8 + 1)
        (f.round .even false (.fin s (pick .even c) (-ex - 11))).1

end Sys2Proof.Machine
end

