-- ==== Sys2Proof/Machine/Vector.lean ====
section
/-! DEFINITION. The vector instructions (spec/12_vector_instructions.md). -/

namespace Sys2Proof.Machine

open Sys2Proof

/-! ### Elementwise integer instructions (R130) -/

/-- An integer instruction on every element of every lane. -/
def vecInt (f : VF) (s : State) (op : Nat → Bool → Nat → Nat → Nat → Nat) : Host.Outcome State Fault Refusal :=
  issued s (fun ag =>
    let nf := numFmt f.ty false
    let w := nf.width
    s.vector ag f.dst [f.sa, f.sb, f.sc] (fun v i =>
      gather w (perLane w) (fun j =>
        (op w (isSigned f.ty) (elemOf (v.src nf f.sa i) w j) (elemOf (v.src nf f.sb i) w j) (elemOf (v.src nf f.sc i) w j), 0))))

/-- A value clamped to the range of a type. -/
def clampInt (w : Nat) (sgn : Bool) (x : Int) : Nat :=
  let hi : Int := if sgn then 2 ^ (w - 1) - 1 else 2 ^ w - 1
  let lo : Int := if sgn then -(2 ^ (w - 1)) else 0
  unsigned w (if hi < x then hi else if x < lo then lo else x)

/-- Table 12-2, VIADD. -/
def execViadd (f : VF) (s : State) : Host.Outcome State Fault Refusal := vecInt f s (fun _ _ a b _ => a + b)
/-- Table 12-2, VISUB. -/
def execVisub (f : VF) (s : State) : Host.Outcome State Fault Refusal := vecInt f s (fun w _ a b _ => a + (2 ^ w - b))
/-- Table 12-2, VIMUL and VIMUL.HI. -/
def execVimul (f : VF) (s : State) : Host.Outcome State Fault Refusal :=
  vecInt f s (fun w g a b _ => if f.fn = 0 then a * b else unsigned w (asInt w g a * asInt w g b / (2 ^ w : Nat)))
/-- Table 12-2, VIMAD. -/
def execVimad (f : VF) (s : State) : Host.Outcome State Fault Refusal := vecInt f s (fun _ _ a b c => a * b + c)
/-- Table 12-2, VIMIN. -/
def execVimin (f : VF) (s : State) : Host.Outcome State Fault Refusal := vecInt f s (fun w g a b _ => minMaxInt w g false a b)
/-- Table 12-2, VIMAX. -/
def execVimax (f : VF) (s : State) : Host.Outcome State Fault Refusal := vecInt f s (fun w g a b _ => minMaxInt w g true a b)
/-- Table 12-2, VIABS. -/
def execViabs (f : VF) (s : State) : Host.Outcome State Fault Refusal := vecInt f s (fun w _ a _ _ => (signed w a).natAbs)
/-- Table 12-2, VIADDS. -/
def execViadds (f : VF) (s : State) : Host.Outcome State Fault Refusal :=
  vecInt f s (fun w g a b _ => clampInt w g (asInt w g a + asInt w g b))
/-- Table 12-2, VISUBS. -/
def execVisubs (f : VF) (s : State) : Host.Outcome State Fault Refusal :=
  vecInt f s (fun w g a b _ => clampInt w g (asInt w g a - asInt w g b))
/-- Table 12-2, VAND. -/
def execVand (f : VF) (s : State) : Host.Outcome State Fault Refusal := vecInt f s (fun _ _ a b _ => a &&& b)
/-- Table 12-2, VOR. -/
def execVor (f : VF) (s : State) : Host.Outcome State Fault Refusal := vecInt f s (fun _ _ a b _ => a ||| b)
/-- Table 12-2, VXOR. -/
def execVxor (f : VF) (s : State) : Host.Outcome State Fault Refusal := vecInt f s (fun _ _ a b _ => a ^^^ b)
/-- Table 12-2, VNOT. -/
def execVnot (f : VF) (s : State) : Host.Outcome State Fault Refusal := vecInt f s (fun w _ a _ _ => 2 ^ w - 1 - a)
/-- Table 12-2, VSHL. -/
def execVshl (f : VF) (s : State) : Host.Outcome State Fault Refusal := vecInt f s (fun w _ a b _ => a * 2 ^ (b % w))
/-- Table 12-2, VSHR. -/
def execVshr (f : VF) (s : State) : Host.Outcome State Fault Refusal := vecInt f s (fun w _ a b _ => a / 2 ^ (b % w))
/-- Table 12-2, VSAR. It fills with a[W−1] whatever the signedness of its type, as SAR of Table 11-1 does, though R130 lists it among the
instructions whose signedness matters: DESIGN CHOICE (log entry 56). -/
def execVsar (f : VF) (s : State) : Host.Outcome State Fault Refusal := vecInt f s (fun w _ a b _ => shiftSar w a (b % w))
/-- Table 12-2, VBFX. -/
def execVbfx (f : VF) (s : State) : Host.Outcome State Fault Refusal := vecInt f s (fun w g a b _ => bitExtract w g a b)
/-- Table 12-2, VPOPC. -/
def execVpopc (f : VF) (s : State) : Host.Outcome State Fault Refusal := vecInt f s (fun w _ a _ _ => popCount w a)
/-- Table 12-2, VICMP. -/
def execVicmp (f : VF) (s : State) : Host.Outcome State Fault Refusal :=
  vecInt f s (fun w g a b _ => (intCond f.fn.toNat (asInt w g a) (asInt w g b)).toNat)
/-- Table 12-2, VSEL. -/
def execVsel (f : VF) (s : State) : Host.Outcome State Fault Refusal := vecInt f s (fun _ _ a b c => if c ≠ 0 then a else b)
/-- Table 12-2, VMOV. -/
def execVmov (f : VF) (s : State) : Host.Outcome State Fault Refusal := vecInt f s (fun _ _ a _ _ => a)

/-! ### Elementwise floating instructions (R131 to R133, R139) -/

/-- A floating instruction on every element, its sources' codes modified first (R129). -/
def vecFloat (f : VF) (s : State) (op : FFmt → Nat → Nat → Nat → Nat × FFlags) : Host.Outcome State Fault Refusal :=
  issued s (fun ag =>
    let g := ffmt f.ty
    let w := g.width
    s.vector ag f.dst [f.sa, f.sb, f.sc] (fun v i =>
      gather w (perLane w) (fun j =>
        op g (modify g (f.neg.getLsbD 2) f.abs (elemOf (v.src (.fl g) f.sa i) w j))
          (modify g (f.neg.getLsbD 1) false (elemOf (v.src (.fl g) f.sb i) w j))
          (modify g (f.neg.getLsbD 0) false (elemOf (v.src (.fl g) f.sc i) w j)))))

/-- R131, VFADD. -/
def execVfadd (f : VF) (s : State) : Host.Outcome State Fault Refusal :=
  vecFloat f s (fun g a b _ => g.addOp f.sat (g.value a) (g.value b))
/-- R131, VFSUB. -/
def execVfsub (f : VF) (s : State) : Host.Outcome State Fault Refusal :=
  vecFloat f s (fun g a b _ => g.addOp f.sat (g.value a) (g.value b).negate)
/-- R131, VFMUL. -/
def execVfmul (f : VF) (s : State) : Host.Outcome State Fault Refusal :=
  vecFloat f s (fun g a b _ => g.mulOp f.sat (g.value a) (g.value b))
/-- R131, VFMA. -/
def execVfma (f : VF) (s : State) : Host.Outcome State Fault Refusal :=
  vecFloat f s (fun g a b c => g.fmaOp f.sat (g.value a) (g.value b) (g.value c))
/-- R132, VFMIN. -/
def execVfmin (f : VF) (s : State) : Host.Outcome State Fault Refusal := vecFloat f s (fun g a b _ => (g.minMax false a b, 0))
/-- R132, VFMAX. -/
def execVfmax (f : VF) (s : State) : Host.Outcome State Fault Refusal := vecFloat f s (fun g a b _ => (g.minMax true a b, 0))
/-- R133, VFCMP. -/
def execVfcmp (f : VF) (s : State) : Host.Outcome State Fault Refusal :=
  vecFloat f s (fun g a b _ => ((floatCond f.fn.toNat (g.value a) (g.value b)).toNat, 0))

/-- The class mask of R133. -/
def FFmt.classOf (g : FFmt) (b : Nat) : Nat :=
  let e := b / 2 ^ g.mbits % 2 ^ g.ebits
  match g.value b with
  | .nan => 256
  | .inf s => if s then 1 else 128
  | .fin s m _ => if m = 0 then (if s then 8 else 16) else if e = 0 then (if s then 4 else 32) else (if s then 2 else 64)

/-- R133, VFCLASS: a 16-bit value is taken from the low half of the lane. -/
def execVfclass (f : VF) (s : State) : Host.Outcome State Fault Refusal :=
  issued s (fun ag =>
    let g := ffmt f.ty
    s.vector ag f.dst [f.sa] (fun v i => (BitVec.ofNat 32 (g.classOf (elemOf (v.src (.fl g) f.sa i) g.width 0)), 0)))

/-- A special function: the exact value rounded to FP32 (R84). -/
def special (f : VF) (s : State) (fn : FV → FV × FFlags) : Host.Outcome State Fault Refusal :=
  vecFloat f s (fun g a _ _ =>
    let y := fn (g.value a)
    let r := g.round .even false y.1
    (r.1, y.2 ||| r.2))

/-- R139, RCP.F32. -/
def execRcpF32 (f : VF) (s : State) : Host.Outcome State Fault Refusal := special f s fRcp
/-- R139, RSQ.F32. -/
def execRsqF32 (f : VF) (s : State) : Host.Outcome State Fault Refusal := special f s fRsq
/-- R139, EXP2. -/
def execExp2 (f : VF) (s : State) : Host.Outcome State Fault Refusal := special f s fExp2
/-- R139, LOG2. -/
def execLog2 (f : VF) (s : State) : Host.Outcome State Fault Refusal := special f s fLog2
/-- R139, SIN.PI. -/
def execSinPi (f : VF) (s : State) : Host.Outcome State Fault Refusal := special f s fSinPi
/-- R139, COS.PI. -/
def execCosPi (f : VF) (s : State) : Host.Outcome State Fault Refusal := special f s fCosPi
/-- R139, TANH. -/
def execTanh (f : VF) (s : State) : Host.Outcome State Fault Refusal := special f s fTanh
/-- R139, RCPA. -/
def execRcpa (f : VF) (s : State) : Host.Outcome State Fault Refusal := vecFloat f s (fun _ a _ _ => (rcpaSeed a, 0))

/-! ### Conversions (R134 to R137) -/

/-- The random value of lane i under stochastic rounding, from the discarded values of its group (R76, R77). -/
def laneRandom (d : Nat → Nat) (i : Nat) : Nat := hashH (d (i / 8 * 8 + (i + 7) % 8)) (d (i / 8 * 8 + (i + 1) % 8)) (i % 8)

/-- The conversion of lane i of a source. -/
def laneConvert (v : Wave) (dt st : NumFmt) (rm : Nat) (sat : Bool) (o : Opnd) (i : Nat) : Nat × FFlags :=
  let bits (k : Nat) : Nat := (v.src st o k).toNat % 2 ^ st.width
  let r := if rm = 2 ∧ dt ≠ st then laneRandom (fun k => dt.dropped (st.value (bits k))) i else 0
  convert dt st rm r sat (bits i)

/-- The source type that `fn` names. -/
def VF.st (f : VF) (int4 : Bool) : NumFmt := numFmt ((Ty.ofCode f.fn.toNat).getD .i32) int4

/-- R135, VCVT. Bits above a result of less than 32 bits are written as zero, for the types that R129 packs too, of which R134 and R135 do
not say it: DESIGN CHOICE (log entry 56). -/
def execVcvt (f : VF) (s : State) : Host.Outcome State Fault Refusal :=
  issued s (fun ag =>
    let dt := numFmt f.ty (f.aux.getLsbD 0)
    let st := VF.st f (f.aux.getLsbD 1)
    s.vector ag f.dst [f.sa] (fun v i =>
      let x := laneConvert v dt st f.rm.toNat f.sat f.sa i
      (BitVec.ofNat 32 x.1, x.2)))

/-- R136, VPACK. -/
def execVpack (f : VF) (s : State) : Host.Outcome State Fault Refusal :=
  issued s (fun ag =>
    let dt := numFmt f.ty (f.aux.getLsbD 2)
    let st := VF.st f false
    let w := dt.width
    let h := f.aux.toNat % 4
    s.vector ag f.dst [f.sa, f.sb] (fun v i =>
      let x := laneConvert v dt st f.rm.toNat f.sat f.sa i
      let y := laneConvert v dt st f.rm.toNat f.sat f.sb i
      let old := match f.dst with | .v r => v.lane r.val i | _ => 0
      let e (j : Nat) : Nat := if j = 2 * h then x.1 else if j = 2 * h + 1 then y.1 else elemOf old w j
      (BitVec.ofNat 32 (ofElems w ((List.range (32 / w)).map e)), x.2 ||| y.2)))

/-- R137, VUNPK. -/
def execVunpk (f : VF) (s : State) : Host.Outcome State Fault Refusal :=
  issued s (fun ag =>
    let st := VF.st f (f.aux.getLsbD 3)
    s.vector ag f.dst [f.sa] (fun v i =>
      (BitVec.ofNat 32 (convert (numFmt f.ty false) st 0 0 false (elemOf (v.src st f.sa i) st.width (f.aux.toNat % 8))).1, 0)))

/-! ### Dot products (R138) -/

/-- A value is an infinity of a sign. -/
def FV.isInf (x : FV) (neg : Bool) : Bool := x == .inf neg

/-- C plus the exact sum of products, rounded once. -/
def dotFloat (sat : Bool) (c : FV) (ab : List (FV × FV)) : Nat × FFlags :=
  let ps := ab.map (fun p => (p.1.mul p.2).1)
  let g := ffmt .f32
  let bad := ps.any FV.isNan || ((c :: ps).any (fun x => FV.isInf x true) && (c :: ps).any (fun x => FV.isInf x false))
  if bad then (g.nanCode, 16)
  else g.addOp sat c (ps.foldl (fun a p => (a.add p).1) (.fin false 0 0))

/-- DOT4 and DOT8 with n elements of w bits. -/
def dot (f : VF) (s : State) (w : Nat) (ta tb : NumFmt) : Host.Outcome State Fault Refusal :=
  issued s (fun ag =>
    let isInt := isIntTy f.ty
    let tc : NumFmt := if isInt then .int 32 true else .fl (ffmt .f32)
    s.vector ag f.dst [f.sa, f.sb, f.sc] (fun v i =>
      let ks := List.range (32 / w)
      let a (k : Nat) : FV := ta.value (elemOf (v.src ta f.sa i) w k)
      let b (k : Nat) : FV := tb.value (elemOf (v.src tb f.sb i) w k)
      let c := (v.src tc f.sc i).toNat
      if isInt then
        let int (x : FV) : Int := match x with | .fin n m _ => if n then -(m : Int) else m | _ => 0
        let t := signed 32 c + ks.foldl (fun z k => z + int (a k) * int (b k)) 0
        (BitVec.ofNat 32 (if f.sat then clampInt 32 true t else unsigned 32 t), 0)
      else
        let x := dotFloat f.sat ((ffmt .f32).value c) (ks.map (fun k => (a k, b k)))
        (BitVec.ofNat 32 x.1, x.2)))

/-- R138, DOT4. -/
def execDot4 (f : VF) (s : State) : Host.Outcome State Fault Refusal := dot f s 8 (numFmt f.ty false) (VF.st f false)
/-- R138, DOT8. -/
def execDot8 (f : VF) (s : State) : Host.Outcome State Fault Refusal :=
  dot f s 4 (numFmt f.ty (f.aux.getLsbD 0)) (VF.st f (f.aux.getLsbD 1))

/-! ### Cross-lane instructions (R140 to R144) -/

/-- Segment widths of SHFL. -/
def shflWidth (c : Nat) : Nat := if c = 0 then 96 else 2 ^ c

/-- R140, SHFL. -/
def execShfl (f : VF) (s : State) : Host.Outcome State Fault Refusal :=
  issued s (fun ag =>
    let nf : NumFmt := .int 32 false
    let w := shflWidth (f.aux.toNat % 8)
    s.vector ag f.dst [f.sa, f.sb] (fun v i =>
      let g := i / w * w
      let p := i - g
      let b := (v.src nf f.sb i).toNat
      let q : Int := match f.fn.toNat with
        | 0 => b | 1 => (p : Int) - b | 2 => (p : Int) + b | _ => ((p ^^^ b : Nat) : Int)
      (if 0 ≤ q ∧ q < w then v.src nf f.sa (g + q.toNat) else v.src nf f.sa i, 0)))

/-- R141, BCAST. -/
def execBcast (f : VF) (s : State) : Host.Outcome State Fault Refusal :=
  issued s (fun ag =>
    let nf : NumFmt := .int 32 false
    s.vector ag f.dst [f.sa, f.sb] (fun v i =>
      let b := (v.src nf f.sb i).toNat
      (v.src nf f.sa (if b < 96 then b else i), 0)))

/-- A step of Table 12-3 with its flags. -/
def redStep (fn : Nat) (sgn : Bool) (x y : Nat) : Nat × FFlags :=
  let g := ffmt .f32
  match fn with
  | 0 => ((x + y) % 2 ^ 32, 0)
  | 1 => (minMaxInt 32 sgn false x y, 0)
  | 2 => (minMaxInt 32 sgn true x y, 0)
  | 3 => (x &&& y, 0)
  | 4 => (x ||| y, 0)
  | 5 => (x ^^^ y, 0)
  | 6 => g.addOp false (g.value x) (g.value y)
  | 7 => (g.minMax false x y, 0)
  | _ => (g.minMax true x y, 0)

/-- The identity of Table 12-3. -/
def redIdentity (fn : Nat) (sgn : Bool) : Nat :=
  match fn with
  | 1 => if sgn then 0x7FFFFFFF else 0xFFFFFFFF
  | 2 => if sgn then 0x80000000 else 0
  | 3 => 0xFFFFFFFF
  | 7 => 0x7F800000
  | 8 => 0xFF800000
  | _ => 0

/-- A floating result with NaN made canonical. -/
def canonOf (fn x : Nat) : Nat := if 6 ≤ fn ∧ (ffmt .f32).value x = .nan then 0x7FC00000 else x

/-- One level of the tree: neighbours combined, absent ones dropped. -/
def treeLevel (step : Nat → Nat → Nat × FFlags) : List (Option (Nat × FFlags)) → List (Option (Nat × FFlags))
  | x :: y :: r =>
    (match x, y with
     | none, _ => y
     | _, none => x
     | some a, some b => let z := step a.1 b.1; some (z.1, a.2 ||| b.2 ||| z.2)) :: treeLevel step r
  | l => l

/-- The fixed pairwise tree of R142. -/
def reduceTree (step : Nat → Nat → Nat × FFlags) (l : List (Option (Nat × FFlags))) : Option (Nat × FFlags) :=
  ((List.range 7).foldl (fun t _ => treeLevel step t) l).headD none

/-- R142, VRED. -/
def execVred (f : VF) (s : State) : Host.Outcome State Fault Refusal :=
  issued s (fun ag =>
    match ag with
    | .thread _ _ => s.stall
    | .wave w =>
      match s.wave w with
      | none => s.stall
      | some v =>
        if v.inRange f.dst 0 && v.inRange f.sa 0 then
          let nf := numFmt f.ty false
          let fn := f.fn.toNat
          let leaves := (List.range 128).map (fun p => if p < 96 ∧ v.active p then some ((v.src nf f.sa p).toNat, (0 : FFlags)) else none)
          let r := (reduceTree (redStep fn (isSigned f.ty)) leaves).getD (redIdentity fn (isSigned f.ty), 0)
          let x := canonOf fn r.1
          s.withFlags ag r.2 (fun t =>
            match t.wave w, f.dst with
            | some u, .v d => (t.setWave w (u.putVec d.val (Vector.replicate 96 (BitVec.ofNat 32 x)))).retire (nSlots [f.sa]) .none
            | _, _ => (t.put32 ag f.dst x).retire (nSlots [f.sa]) .none)
        else s.trap ag 0x02 none 0 0)

/-- The scan of R142 over the lanes given: the value each lane receives, and the flags. -/
def scanLanes (step : Nat → Nat → Nat × FFlags) (a : Nat → Nat) (excl : Bool) (ident : Nat) :
    List Nat → Option Nat → List (Nat × Nat) × FFlags
  | [], _ => ([], 0)
  | i :: r, acc =>
    let z := match acc with | none => (a i, (0 : FFlags)) | some c => step c (a i)
    let rest := scanLanes step a excl ident r (some z.1)
    ((i, if excl then acc.getD ident else z.1) :: rest.1, z.2 ||| rest.2)

/-- R142, VSCAN. -/
def execVscan (f : VF) (s : State) : Host.Outcome State Fault Refusal :=
  issued s (fun ag =>
    match ag with
    | .thread _ _ => s.stall
    | .wave w =>
      match s.wave w with
      | none => s.stall
      | some v =>
        if v.inRange f.dst 0 && v.inRange f.sa 0 then
          let nf := numFmt f.ty false
          let fn := f.fn.toNat
          let r := scanLanes (redStep fn (isSigned f.ty)) (fun i => (v.src nf f.sa i).toNat) (f.aux.getLsbD 0)
            (redIdentity fn (isSigned f.ty)) v.lanes none
          s.withFlags ag r.2 (fun t =>
            match t.wave w, f.dst with
            | some u, .v d =>
              (t.setWave w (r.1.foldl (fun z e => z.putLane d.val e.1 (BitVec.ofNat 32 (canonOf fn e.2))) u)).retire (nSlots [f.sa]) .none
            | _, _ => t.stall)
        else s.trap ag 0x02 none 0 0)

/-- A lane put in its place among ranked lanes, after those that rank no lower. -/
def rankInsert (gt : Nat → Nat → Bool) (x : Nat) : List Nat → List Nat
  | [] => [x]
  | y :: r => if gt x y then x :: y :: r else y :: rankInsert gt x r

/-- Lanes in the order of R143. -/
def ranked (gt : Nat → Nat → Bool) (l : List Nat) : List Nat := l.foldl (fun a x => rankInsert gt x a) []

/-- The order of R143 on codes: greater first, NaN below every number. -/
def topGt (t : Ty) (x y : Nat) : Bool :=
  match t with
  | .f32 | .bf16 =>
    let a := (ffmt t).value x
    let b := (ffmt t).value y
    !a.isNan && (b.isNan || b.lt a)
  | .i32 => decide (signed 32 y < signed 32 x)
  | _ => decide (y < x)

/-- A ranked value as TOPK writes it. -/
def topValue (t : Ty) (x : Nat) : Nat :=
  match t with
  | .f32 | .bf16 => if (ffmt t).value x = .nan then (ffmt t).nanCode else x
  | _ => x

/-- The filler of R143. -/
def topFiller (t : Ty) : Nat :=
  match t with
  | .f32 => 0x7FC00000
  | .bf16 => 0x7FC0
  | .i32 => 0x80000000
  | _ => 0

/-- R143, TOPK. -/
def execTopk (f : VF) (s : State) : Host.Outcome State Fault Refusal :=
  issued s (fun ag =>
    match ag, f.dst with
    | .wave w, .v d =>
      match s.wave w with
      | none => s.stall
      | some v =>
        if v.inRange f.dst 1 && v.inRange f.sa 0 then
          let nf := numFmt f.ty false
          let k := f.aux.toNat % 8 + 1
          let seg := match f.aux.toNat / 8 % 4 with | 0 => 96 | 1 => 8 | 2 => 16 | _ => 32
          let a (i : Nat) : Nat := (v.src nf f.sa i).toNat % 2 ^ nf.width
          let put (u : Wave) (i : Nat) : Wave :=
            let g := i / seg * seg
            let p := i - g
            if p < k then
              let order := ranked (fun x y => topGt f.ty (a x) (a y)) (v.lanes.filter (fun l => decide (l / seg * seg = g)))
              match order[p]? with
              | some l => (u.putLane d.val i (BitVec.ofNat 32 (topValue f.ty (a l)))).putLane (d.val + 1) i (BitVec.ofNat 32 (l - g))
              | none => (u.putLane d.val i (BitVec.ofNat 32 (topFiller f.ty))).putLane (d.val + 1) i 0xFFFFFFFF
            else u
          (s.setWave w (v.lanes.foldl put v)).retire (nSlots [f.sa]) .none
        else s.trap ag 0x02 none 0 0
    | _, _ => s.stall)

/-- R144, BALLOT. -/
def execBallot (f : VF) (s : State) : Host.Outcome State Fault Refusal :=
  issued s (fun ag =>
    match ag with
    | .thread _ _ => s.stall
    | .wave w =>
      match s.wave w with
      | none => s.stall
      | some v =>
        if v.inRange f.sa 0 then
          let m : Mask := v.lanes.foldl (fun m i => if v.src (.int 32 false) f.sa i ≠ 0 then m ||| (1 <<< i) else m) 0
          (s.putTriple ag f.dst m).retire 1 .none
        else s.trap ag 0x02 none 0 0)

end Sys2Proof.Machine
end

