-- ==== Sys2Proof/Machine/MemOps.lean ====
section
/-! DEFINITION. Memory instructions at issue: addresses, checks and translation (spec/13_memory_instructions.md R145 to
R159), deferred records (spec/21_deferred_logs.md R265 to R267) and the scratchpad accesses of R153 and R154. -/

namespace Sys2Proof.Machine

open Sys2Proof

/-! ### Checks at issue -/

/-- The lanes that an instruction accesses: the active lanes, or the one scalar access. -/
def State.accLanes (s : State) (ag : Agent) (vec : Bool) : List Nat :=
  if vec then (match ag with | .wave w => (match s.wave w with | some v => v.lanes | none => []) | .thread _ _ => []) else [0]

/-- The lane that a record names. -/
def laneOf (vec : Bool) (i : Nat) : Option Nat := if vec then some i else none

/-- Vector register operands lie below the allotment, each with the registers after it (R40). -/
def State.regsOk (s : State) (ag : Agent) (l : List (Opnd × Nat)) : Bool :=
  match ag with
  | .wave w => match s.wave w with | some v => l.all (fun o => v.inRange o.1 o.2) | none => true
  | .thread _ _ => true

/-- A lane with its address, physical address and leaf. -/
structure LaneTr where
  lane : Nat
  va : Nat
  pa : Nat
  leaf : W64
deriving DecidableEq, Repr

/-- The outcome of the checks: the state after a trap or fault, or the translated lanes. -/
inductive Checked where
  | stop (s : State)
  | ok (l : List LaneTr)
deriving DecidableEq, Repr

/-- The translations of lanes by a unit, in order; the lowest lane that fails with its cause. -/
def State.xlateLanes (s : State) (u x : Nat) (rd wr : Bool) (ea : Nat → Nat) : List Nat → Except (Nat × Nat) (List LaneTr)
  | [] => .ok []
  | i :: r =>
    match s.xlate u x (ea i) rd wr with
    | .error c => .error (c, i)
    | .ok (pa, e) =>
      match s.xlateLanes u x rd wr ea r with
      | .error e' => .error e'
      | .ok l => .ok (⟨i, ea i, pa, e⟩ :: l)

/-- The walks that translate some lanes wait for a budget (R33, R339). -/
def State.lanesHeld (s : State) (u x : Nat) (ea : Nat → Nat) (l : List Nat) : Bool := s.readsHeld x (l.flatMap (fun i => s.walkReads u x (ea i)))

/-- The lanes whose walk ends in first-touch (R315). -/
def State.touchLanes (s : State) (u x : Nat) (rd wr : Bool) (ea : Nat → Nat) (l : List Nat) : Mask :=
  l.foldl (fun m i => match s.xlate u x (ea i) rd wr with | .error 0x25 => m ||| (1 <<< i) | _ => m) 0

/-- The checks of R146, R147, R152 and R159 in the group order of R310: alignment, translation, then the rule of the
deferred pages given by `dfr`. An instruction waits at issue while the walks of its lanes have no room in a budget (R33, R339). -/
def State.checkAccess (s : State) (ag : Agent) (vec : Bool) (ea : Nat → Nat) (size : Nat) (rd wr : Bool) (dfr : Option Nat) : Checked :=
  let ls := s.accLanes ag vec
  let x := s.ctxOf ag
  let u := s.tlbOf ag
  match ls.find? (fun i => ea i % size != 0) with
  | some i => .stop (s.trap ag 0x03 (laneOf vec i) 0 (ea i))
  | none =>
    if s.lanesHeld u x ea ls then .stop s.stall
    else match s.xlateLanes u x rd wr ea ls with
    | .error (c, i) => .stop (s.faultHere ag c (laneOf vec i) (ea i) (if vec then s.touchLanes u x rd wr ea ls else 0))
    | .ok tr =>
      match dfr, tr.find? (fun t => bitAt t.leaf 53) with
      | some c, some t => .stop (s.trap ag c (laneOf vec t.lane) 0 t.va)
      | _, _ => .ok tr

/-- The checks of an instruction have passed: the agent's TLB may keep its translations, and a first-touch that a wave met
there is over (R233, R316). -/
def State.passed (s : State) (ag : Agent) (tr : List LaneTr) : State :=
  (tr.foldl (fun t l => t.keepTlb (s.tlbOf ag) (s.ctxOf ag) l.va l.leaf) s).passes ag false

/-! ### Data and records -/

/-- A register further on. -/
def Opnd.plus (o : Opnd) (k : Nat) : Opnd :=
  match o with
  | .v n => .v (Fin.ofNat 128 (n.val + k))
  | .s n => .s (Fin.ofNat 64 (n.val + k))
  | .q n => .q (Fin.ofNat 32 (n.val + k))
  | o => o

/-- The data that a store or atomic of a type takes from an operand, for one lane (R145, R150). -/
def State.data (s : State) (ag : Agent) (vec : Bool) (t : Ty) (o : Opnd) (i : Nat) : W64 :=
  let wide := tyBits t == 64
  match vec, o, ag with
  | true, .v r, .wave w =>
    match s.wave w with
    | some v => if wide then pair32 (v.lane r.val i).toNat (v.lane (r.val + 1) i).toNat else (v.lane r.val i).zeroExtend 64
    | none => 0
  | _, _, _ => BitVec.ofNat 64 (s.src ag (numFmt t false) 0 o)

/-- The pseudo-channel that holds a local HBM address (R14, R229). -/
def pchOf (pa : Nat) : Nat := pa / 2 ^ 36 * 64 + pa / 2 ^ 11 % 64

/-- Operators of Table 21-2 for the operations of Table 13-3; STORE for a plain store. -/
def recOpr (mop : Nat) (sgn : Bool) : Nat :=
  match mop with
  | 0 => 0x02
  | 1 => if sgn then 0x03 else 0x05
  | 2 => if sgn then 0x04 else 0x06
  | 3 => 0x07 | 4 => 0x08 | 5 => 0x09
  | 6 => 0x01
  | 7 => 0x0A | 8 => 0x0B | 9 => 0x0C
  | _ => 0x01

/-- The record of one deferred lane (Table 21-1). -/
def State.recordOf (s : State) (ag : Agent) (opr : Nat) (t : Ty) (l : LaneTr) (val : W64) : Rec :=
  let wide := tyBits t == 64
  let far := decide (2 ^ 50 ≤ l.pa)
  { w0 := BitVec.ofNat 64 ((s.tagOf ag).toNat * 2 ^ 52 + opr * 2 ^ 46 + wide.toNat * 2 ^ 44 + l.pa % 2 ^ 40 / 4)
    w1 := if wide then val else (val.truncate 32).zeroExtend 64
    dest := if far then .dev ((l.pa - 2 ^ 50) / 2 ^ 40) else .pch (pchOf l.pa)
    ctx := s.ctxOf ag, launch := s.launchOf ag, va := l.va }

/-! ### Issuing an access (R147, R148) -/

/-- Memory accesses by kind: what is done, and what the instruction's registers give. -/
structure AccReq where
  op : AccOp
  vec : Bool
  rd : Bool
  wr : Bool
  /-- Lanes on deferred pages write records with this operator. -/
  opr : Option Nat
  /-- Trap of a deferred lane: its cause. -/
  dfr : Option Nat
  ld : Bool
  st : Bool

/-- The access put among the incomplete ones, counted and bound to its flag. -/
def State.addAccess (s : State) (ag : Agent) (f : MF) (r : AccReq) (tr : List LaneTr) (val cmp : Nat → W64) : State :=
  let p := s.pcOf ag
  let flag := s.flagFor ag f.fs
  let isRec (t : LaneTr) : Bool := r.opr.isSome && bitAt t.leaf 53
  let direct := tr.filter (fun t => !isRec t)
  let recs := (tr.filter isRec).map (fun t => s.recordOf ag (r.opr.getD 0) f.ty t (val t.lane))
  let a : Access :=
    { n := s.fresh, ag := ag, seat := s.seat ag, alt := p.2.2, ctx := s.ctxOf ag, launch := s.launchOf ag, op := r.op, ty := f.ty,
      scope := f.scope, ord := f.ord, dst := f.dst,
      lanes := direct.map (fun t => ⟨t.lane, t.va, s.home t.pa, cacheable t.leaf, s.l2Holds t.leaf, val t.lane, cmp t.lane⟩),
      sent := [], recs := recs, flag := flag, ld := r.ld, st := r.st }
  let s1 := { s with fresh := s.fresh + 1, path := { s.path with acc := s.path.acc ++ [a] } }
  (s1.raise ag flag r.ld r.st).retire (nSlots [f.dst, f.sa, f.sb]) .none

/-- A memory instruction: its registers, alignment, translations and deferred lanes are checked, then the access is under
way (R146 to R148, R311). -/
def State.access (s : State) (ag : Agent) (f : MF) (r : AccReq) (regs : List (Opnd × Nat)) (ea : Nat → Nat)
    (val cmp : Nat → W64) : State :=
  if s.regsOk ag regs then
    match s.checkAccess ag r.vec ea (tyBits f.ty / 8) r.rd r.wr r.dfr with
    | .stop t => t
    | .ok tr =>
      if s.countRoom ag (s.flagFor ag f.fs) r.ld r.st then (s.passed ag tr).addAccess ag f r tr val cmp
      else s.stall
  else s.trap ag 0x02 none 0 0

/-- The cause of a deferred lane of a width that records do not have (R152). -/
def dfrWidth (t : Ty) : Option Nat := if tyBits t < 32 then some 0x05 else none

/-- One more register for a 64-bit type. -/
def more64 (t : Ty) : Nat := if tyBits t = 64 then 1 else 0

/-- A load. -/
def loadReq (vec : Bool) : AccReq := ⟨.load, vec, true, false, none, none, true, false⟩

/-- A store. -/
def storeReq (vec : Bool) (t : Ty) : AccReq := ⟨.store, vec, false, true, some 0x01, dfrWidth t, false, true⟩

/-- A read-modify-write that returns the old value. -/
def rmwReq (vec : Bool) (mop : Nat) : AccReq := ⟨.rmw mop true, vec, true, true, none, some 0x06, true, true⟩

/-- R150, LD. -/
def execLd (f : MF) (s : State) : Host.Outcome State Fault Refusal :=
  issued s (fun ag => s.access ag f (loadReq true) [(f.dst, more64 f.ty), (f.sb, 0)] (fun i => s.ea ag f false i) (fun _ => 0) (fun _ => 0))

/-- R150, ST. -/
def execSt (f : MF) (s : State) : Host.Outcome State Fault Refusal :=
  issued s (fun ag => s.access ag f (storeReq true f.ty) [(f.dst, more64 f.ty), (f.sb, 0)] (fun i => s.ea ag f false i)
    (fun i => s.data ag true f.ty f.dst i) (fun _ => 0))

/-- R150, SLD. -/
def execSld (f : MF) (s : State) : Host.Outcome State Fault Refusal :=
  issued s (fun ag => s.access ag f (loadReq false) [] (fun i => s.ea ag f false i) (fun _ => 0) (fun _ => 0))

/-- R150, SST. -/
def execSst (f : MF) (s : State) : Host.Outcome State Fault Refusal :=
  issued s (fun ag => s.access ag f (storeReq false f.ty) [] (fun i => s.ea ag f false i)
    (fun i => s.data ag false f.ty f.dst i) (fun _ => 0))

/-- R155, LDX: every lane receives what LD would give it. -/
def execLdx (f : MF) (s : State) : Host.Outcome State Fault Refusal :=
  issued s (fun ag => s.access ag f (loadReq true) [(f.dst, 0), (f.sb, 0)] (fun i => s.eaX ag f i) (fun _ => 0) (fun _ => 0))

/-- R156, R157, ATOM. -/
def execAtom (f : MF) (s : State) : Host.Outcome State Fault Refusal :=
  issued s (fun ag => s.access ag f (rmwReq true f.mop) [(f.dst, more64 f.ty), (f.sb, 0)] (fun i => s.ea ag f true i)
    (fun i => s.data ag true f.ty f.dst i) (fun _ => 0))

/-- R156, R157, RED. -/
def execRed (f : MF) (s : State) : Host.Outcome State Fault Refusal :=
  issued s (fun ag =>
    s.access ag f ⟨.rmw f.mop false, true, false, true, some (recOpr f.mop (isSigned f.ty)), none, false, true⟩
      [(f.dst, more64 f.ty), (f.sb, 0)] (fun i => s.ea ag f true i) (fun i => s.data ag true f.ty f.dst i) (fun _ => 0))

/-- R158, CAS. -/
def execCas (f : MF) (s : State) : Host.Outcome State Fault Refusal :=
  issued s (fun ag =>
    let k := more64 f.ty + 1
    s.access ag f (rmwReq true 10) [(f.dst, 2 * k - 1), (f.sb, 0)] (fun i => s.ea ag f false i)
      (fun i => s.data ag true f.ty (Opnd.plus f.dst k) i) (fun i => s.data ag true f.ty f.dst i))

/-- R156 to R158, SATOM; a thread's CAS takes its swap value from the next q register. -/
def execSatom (f : MF) (s : State) : Host.Outcome State Fault Refusal :=
  issued s (fun ag =>
    let k := if Agent.isThread ag then 1 else more64 f.ty + 1
    let cas := f.mop == 10
    s.access ag f (rmwReq false f.mop) [] (fun i => s.ea ag f true i)
      (fun i => s.data ag false f.ty (if cas then Opnd.plus f.dst k else f.dst) i)
      (fun i => if cas then s.data ag false f.ty f.dst i else 0))

/-! ### What an access does (Table 13-3, R157, R158) -/

/-- The new word of a read-modify-write of width w. -/
def atomNew (mop : Nat) (t : Ty) (old v c : W64) : W64 :=
  let w := tyBits t
  let a := old.toNat % 2 ^ w
  let b := v.toNat % 2 ^ w
  let g := ffmt .f32
  BitVec.ofNat 64 (match mop with
    | 0 => (a + b) % 2 ^ w
    | 1 => minMaxInt w (isSigned t) false a b
    | 2 => minMaxInt w (isSigned t) true a b
    | 3 => a &&& b
    | 4 => a ||| b
    | 5 => a ^^^ b
    | 6 => b
    | 7 => (f32Add (BitVec.ofNat 32 a) (BitVec.ofNat 32 b)).toNat
    | 8 => g.minMax false a b
    | 9 => g.minMax true a b
    | _ => if a = c.toNat % 2 ^ w then b else a)

/-- A loaded value as a register receives it: sign- or zero-extended to 32 bits (R150). -/
def loadExt (t : Ty) (x : Nat) : W64 :=
  let w := tyBits t
  if w < 32 then BitVec.ofNat 64 (unsigned 32 (asInt w (isSigned t) x)) else BitVec.ofNat 64 x

/-! ### Scratchpad (R153, R154) -/

/-- A launch-view address that breaks R146 or R153: its cause. -/
def State.spadFault (s : State) (ag : Agent) (a size align : Nat) : Option Nat :=
  if a % align ≠ 0 then some 0x03 else if (s.viewOf ag a size).isNone then some 0x04 else none

/-- The lowest lane whose address fails, with its cause and address. -/
def State.spadCheck (s : State) (ag : Agent) (size align : Nat) (ea : Nat → Nat) (l : List Nat) : Option (Nat × Nat × Nat) :=
  l.findSome? (fun i => match s.spadFault ag (ea i) size align with | some c => some (i, c, ea i) | none => none)

/-- Whether LDSP and STSP access lane by lane. -/
def spadVec (ag : Agent) : Bool := !(Agent.isThread ag)

/-- Home of a launch-view address whose checks have passed. -/
def State.spadHome (s : State) (ag : Agent) (a size : Nat) : Home := (s.viewOf ag a size).getD (.spad 0 0)

/-- A failed item of a scratchpad lane, at its launch-view address (R342). -/
def State.padItem (s : State) (ag : Agent) (addr idx : Nat) : State :=
  s.itemFailed (s.ctxOf ag) (s.launchOf ag) 0x32 addr (s.tagOf ag).toNat idx (s.clusterOf ag) 0xFF

/-- One lane of LDSP: the bytes, or zero with a failed item where they meet an uncorrectable error (R154, R342). -/
def State.padLoad (s : State) (ag : Agent) (f : MF) (h : Home) (addr i : Nat) : State :=
  let size := tyBits f.ty / 8
  let wide := tyBits f.ty == 64
  if s.badBytes h size then (s.lateReg ag false f.dst i wide (isSigned f.ty) 0).padItem ag addr i
  else s.lateReg ag false f.dst i wide (isSigned f.ty) (loadExt f.ty (leNat (s.bytesAt h size)))

/-- One lane of STSP; part of a word with an uncorrectable error is not written (R154, R342). -/
def State.padStore (s : State) (ag : Agent) (size : Nat) (h : Home) (addr i : Nat) (x : W64) : State :=
  if size < 4 && s.badBytes h size then s.padItem ag addr i else s.putAt h (leBytes size x.toNat)

/-- R154, LDSP. -/
def execLdsp (f : MF) (s : State) : Host.Outcome State Fault Refusal :=
  issued s (fun ag =>
    let vec := spadVec ag
    let size := tyBits f.ty / 8
    let step := s.addrStep ag
    let ea (i : Nat) : Nat := s.spadEa ag f false i step
    let ls := s.accLanes ag vec
    if s.regsOk ag [(f.dst, more64 f.ty), (f.sb, 0)] then
      match s.spadCheck ag size size ea ls with
      | some (i, c, a) => s.trap ag c (laneOf vec i) 0 a
      | none =>
        if ls.any (fun i => s.held ag (s.spadHome ag (ea i) size) size) then s.stall
        else
          let s1 := ls.foldl (fun t i => t.padLoad ag f (s.spadHome ag (ea i) size) (ea i) i) s
          (if f.ord = .acquire then s1.l1Sync ag else s1).retire (nSlots [f.sa, f.sb]) .none
    else s.trap ag 0x02 none 0 0)

/-- R154, STSP: lanes in increasing order (R149). -/
def execStsp (f : MF) (s : State) : Host.Outcome State Fault Refusal :=
  issued s (fun ag =>
    let vec := spadVec ag
    let size := tyBits f.ty / 8
    let step := s.addrStep ag
    let ea (i : Nat) : Nat := s.spadEa ag f false i step
    let ls := s.accLanes ag vec
    if s.regsOk ag [(f.dst, more64 f.ty), (f.sb, 0)] then
      match s.spadCheck ag size size ea ls with
      | some (i, c, a) => s.trap ag c (laneOf vec i) 0 a
      | none =>
        if ls.any (fun i => s.held ag (s.spadHome ag (ea i) size) size) || (f.ord == .release && !s.drained ag) then s.stall
        else
          let s0 := if f.ord = .release then s.l1Sync ag else s
          let put (t : State) (i : Nat) : State :=
            t.padStore ag size (s.spadHome ag (ea i) size) (ea i) i (s.data ag vec f.ty f.dst i)
          (ls.foldl put s0).retire (nSlots [f.dst, f.sa, f.sb]) .none
    else s.trap ag 0x02 none 0 0)

end Sys2Proof.Machine
end

