-- ==== Sys2Proof/Machine/Sync.lean ====
section
/-! DEFINITION. Waits, barriers, barrier objects and circular buffers (spec/13_memory_instructions.md R160 to R166;
spec/03_execution_model.md R47, R48; spec/18_memory_hierarchy.md R240, R241). -/

namespace Sys2Proof.Machine

open Sys2Proof

/-! ### Counters and timelines -/

/-- The condition of WAITC (R161). -/
def State.waitcReady (s : State) (ag : Agent) (f : MF) : Bool :=
  let c := s.countsOf ag
  let n := f.off.toNat % 65536
  match f.mop with
  | 0 => decide (c.2.1 ≤ n)
  | 1 => decide (c.2.2 ≤ n)
  | _ => decide (c.2.1 ≤ n) && decide (c.2.2 ≤ n)

/-- Numbers from 1 upward that are all in a list. -/
def prefixDone (l : List Nat) (fuel n : Nat) : Nat :=
  match fuel with
  | 0 => n
  | k + 1 => if l.contains (n + 1) then prefixDone l k (n + 1) else n

/-- Key of a unit of a cluster in a context's matrix counters. -/
def unitKey (x c u : Nat) : Nat := x * 640 + 16 * c + u

/-- The counter of a timeline (R162); `none` where it does not exist. -/
def State.timeline (s : State) (ag : Agent) (id : Nat) : Option Nat :=
  let x := s.ctxOf ag
  let c := s.clusterOf ag
  let i := id % 2 ^ 28
  match id / 2 ^ 28 with
  | 0 => if i < 4 then some (match Map.find s.eng.streams (streamKey x c i) with | some t => t.done | none => 0) else none
  | 1 => if i < 16 then some (Map.at s.mx.counts (unitKey x c i) (0, 0)).2 else none
  | 2 => if i < 12 then some (Map.at s.dfd.counts (x * 16 + i) (0, 0)).2 else none
  | 3 => if i < 44 then some (let q := Map.at s.fab.queues (x * 64 + i) ⟨0, []⟩; prefixDone q.done q.last 0) else none
  | _ => none

/-- Identifier and target of a WAITTL. -/
def State.ttlOf (s : State) (ag : Agent) (f : MF) : Nat × Nat := (s.srcBits ag 32 0 f.sa, s.srcBits ag 64 0 f.sb)

/-- The clause of a WAITTL is ready: its condition holds, or it will trap (R162). -/
def State.waittlReady (s : State) (ag : Agent) (f : MF) : Bool :=
  match s.timeline ag (s.ttlOf ag f).1 with
  | some n => decide ((s.ttlOf ag f).2 ≤ n)
  | none => true

/-- R161, WAITC. -/
def execWaitc (f : MF) (s : State) : Host.Outcome State Fault Refusal :=
  issued s (fun ag =>
    if s.waitcReady ag f then (if f.ord = .acquire then s.l1Sync ag else s).retire 1 .none else s.stall)

/-- R162, WAITTL. -/
def execWaittl (f : MF) (s : State) : Host.Outcome State Fault Refusal :=
  issued s (fun ag =>
    match s.timeline ag (s.ttlOf ag f).1 with
    | none => s.trap ag 0x0F none 0 0
    | some n => if (s.ttlOf ag f).2 ≤ n then (s.l1Sync ag).retire (nSlots [f.sa, f.sb]) .none else s.stall)

/-! ### Barriers -/

/-- R163, BAR: a release of the wave's earlier accesses, so it waits at issue for them (R249). -/
def execBar (f : MF) (s : State) : Host.Outcome State Fault Refusal :=
  issued s (fun ag =>
    match ag with
    | .thread _ _ => s.stall
    | .wave w =>
      match s.wave w with
      | none => s.stall
      | some v =>
        if v.dstkdepth ≠ 0 then s.trap ag 0x0C none 0 0
        else if s.drained ag then s.jump ag (s.nextPc ag) (.bar (f.off.toNat % 16))
        else s.stall)

/-! ### Barrier objects (Table 03-5) -/

/-- Fields of a barrier object: expected, remaining, phase. -/
structure BarObj where
  expected : Nat
  remaining : Nat
  phase : Nat
deriving DecidableEq, Repr

/-- A barrier object read; `none` where it is invalid (R48). One that meets an uncorrectable error reads as 0, which is
invalid (R342; log entry 51). -/
def State.barObj (s : State) (h : Home) : Option BarObj :=
  let b := if s.badBytes h 16 then 0 else leNat (s.bytesAt h 16)
  if b / 2 ^ 112 ≠ 0 ∨ b / 2 ^ 80 % 2 ^ 16 ≠ 0 ∨ b / 2 ^ 96 % 2 ^ 16 = 0 then none
  else some ⟨b / 2 ^ 96 % 2 ^ 16, b / 2 ^ 64 % 2 ^ 16, b % 2 ^ 64⟩

/-- k arrivals on an object, k at least 1 (R48). -/
def BarObj.arrive (o : BarObj) (k : Nat) : BarObj :=
  if k < o.remaining then { o with remaining := o.remaining - k }
  else
    let n := (k - o.remaining) / o.expected + 1
    { o with remaining := o.remaining + n * o.expected - k, phase := (o.phase + n) % 2 ^ 64 }

/-- An object written back. -/
def State.putBarObj (s : State) (h : Home) (o : BarObj) : State :=
  s.putAt h (leBytes 16 (o.expected * 2 ^ 96 + o.remaining % 2 ^ 16 * 2 ^ 64 + o.phase))

/-- One arrival step on a valid object. -/
def State.arriveAt (s : State) (h : Home) (k : Nat) : State :=
  match s.barObj h with
  | some o => s.putBarObj h (o.arrive k)
  | none => s

/-- The first lane whose object fails a check of R164, in the order of R310. -/
def State.arrvCheck (s : State) (ag : Agent) (ea : Nat → Nat) (l : List Nat) : Option (Nat × Nat × Nat) :=
  l.findSome? (fun i =>
    match s.spadFault ag (ea i) 16 16 with
    | some c => some (i, c, ea i)
    | none => if (s.barObj (s.spadHome ag (ea i) 16)).isNone then some (i, 0x0D, ea i) else none)

/-- R164, ARRV. -/
def execArrv (f : MF) (s : State) : Host.Outcome State Fault Refusal :=
  issued s (fun ag =>
    let k := s.srcBits ag 32 0 f.dst
    let vec := isV f.sb
    let ls := s.accLanes ag vec
    let ea (i : Nat) : Nat := s.spadEa ag f false i 0
    let n := nSlots [f.dst, f.sa, f.sb]
    if s.regsOk ag [(f.sb, 0)] then
      if k = 0 then s.retire n .none
      else
        match s.arrvCheck ag ea ls with
        | some (i, c, a) => s.trap ag c (laneOf vec i) 0 a
        | none =>
          if ls.any (fun i => s.held ag (s.spadHome ag (ea i) 16) 16) || (f.ord == .release && !s.drained ag) then s.stall
          else
            let s0 := if f.ord = .release then s.l1Sync ag else s
            (ls.foldl (fun t i => t.arriveAt (s.spadHome ag (ea i) 16) k) s0).retire n .none
    else s.trap ag 0x02 none 0 0)

/-- The address of a BOWAIT, and what it meets: a cause, or the object. -/
def State.boOf (s : State) (ag : Agent) (f : MF) : Except (Nat × Nat) BarObj :=
  let a := unsigned 32 ((s.reg ag f.sa false).toNat + MF.offset f false)
  match s.spadFault ag a 16 16 with
  | some c => .error (c, a)
  | none => match s.barObj (s.spadHome ag a 16) with | some o => .ok o | none => .error (0x0D, a)

/-- The phase condition of R165. -/
def phaseDone (phase p : Nat) : Bool := decide ((phase + (2 ^ 64 - p)) % 2 ^ 64 < 2 ^ 63)

/-- The clause of a BOWAIT is ready (R165), behind an earlier acquire of the agent (R249). -/
def State.bowaitReady (s : State) (ag : Agent) (f : MF) : Bool :=
  match s.boOf ag f with
  | .error _ => true
  | .ok o => phaseDone o.phase (s.srcBits ag 64 0 f.sb) && !s.acquiring ag

/-- R165, BOWAIT. -/
def execBowait (f : MF) (s : State) : Host.Outcome State Fault Refusal :=
  issued s (fun ag =>
    match s.boOf ag f with
    | .error (c, a) => s.trap ag c none 0 a
    | .ok o =>
      if phaseDone o.phase (s.srcBits ag 64 0 f.sb) && !s.acquiring ag then
        ((if f.ord = .acquire then s.l1Sync ag else s).put64 ag f.dst o.phase).retire (nSlots [f.sb]) .none
      else s.stall)

/-! ### Circular buffers (Table 18-4) -/

/-- A circular-buffer descriptor. -/
structure CirBuf where
  slots : Nat
  free : Nat
  filled : Nat
  pidx : Nat
  cidx : Nat
  ssize : Nat
  base : Nat
deriving DecidableEq, Repr

/-- A descriptor read; `none` where it is invalid (R241). One that meets an uncorrectable error reads as 0, which is invalid
(R342; log entry 51). -/
def State.cirBuf (s : State) (h : Home) : Option CirBuf :=
  let b := if s.badBytes h 32 then 0 else leNat (s.bytesAt h 32)
  let g (lo n : Nat) : Nat := b / 2 ^ lo % 2 ^ n
  let c : CirBuf := ⟨g 48 16, g 32 16, g 16 16, g 112 16, g 96 16, g 64 32, g 128 32⟩
  if g 0 16 ≠ 0 ∨ g 160 32 ≠ 0 ∨ g 192 64 ≠ 0 ∨ c.slots = 0 ∨ 4096 < c.slots ∨ c.ssize = 0 ∨ c.ssize % 16 ≠ 0
      ∨ c.slots < c.free + c.filled ∨ c.slots ≤ c.pidx ∨ c.slots ≤ c.cidx then none
  else some c

/-- A descriptor written back. -/
def State.putCirBuf (s : State) (h : Home) (c : CirBuf) : State :=
  s.putAt h (leBytes 16 (c.slots * 2 ^ 48 + c.free * 2 ^ 32 + c.filled * 2 ^ 16 + c.pidx * 2 ^ 112 + c.cidx * 2 ^ 96 + c.ssize * 2 ^ 64))

/-- The steps of R166: `prod` and acquire or release; the index given by an acquire. `none` where it must wait. -/
def CirBuf.acquire (c : CirBuf) (prod : Bool) : Option (Nat × CirBuf) :=
  if prod then (if c.free = 0 then none else some (c.pidx, { c with free := c.free - 1, pidx := (c.pidx + 1) % c.slots }))
  else (if c.filled = 0 then none else some (c.cidx, { c with filled := c.filled - 1, cidx := (c.cidx + 1) % c.slots }))

/-- A release step; `none` where it is an overrelease. -/
def CirBuf.release (c : CirBuf) (prod : Bool) : Option CirBuf :=
  if c.free + c.filled = c.slots then none
  else some (if prod then { c with filled := c.filled + 1 } else { c with free := c.free + 1 })

/-- The address of the descriptor of CBACQ or CBREL (R154, R166). -/
def State.cbAddr (s : State) (ag : Agent) (f : MF) : Nat := unsigned 32 ((s.reg ag f.sa false).toNat + MF.offset f true)

/-- The descriptor of CBACQ or CBREL: a cause, or its home and contents. -/
def State.cbOf (s : State) (ag : Agent) (f : MF) : Except (Nat × Nat) (Home × CirBuf) :=
  let a := s.cbAddr ag f
  match s.spadFault ag a 32 32 with
  | some c => .error (c, a)
  | none =>
    let h := s.spadHome ag a 32
    match s.cirBuf h with | some c => .ok (h, c) | none => .error (0x0E, a)

/-- The clause of a CBACQ is ready (R166). -/
def State.cbacqReady (s : State) (ag : Agent) (f : MF) (prod : Bool) : Bool :=
  match s.cbOf ag f with
  | .error _ => true
  | .ok (_, c) => (c.acquire prod).isSome && !s.acquiring ag

/-- CBACQ (R166). -/
def cbAcquire (f : MF) (s : State) (prod : Bool) : Host.Outcome State Fault Refusal :=
  issued s (fun ag =>
    match s.cbOf ag f with
    | .error (c, a) => s.trap ag c none 0 a
    | .ok (h, c) =>
      match c.acquire prod with
      | none => s.stall
      | some (i, c') => if s.held ag h 32 then s.stall else (((if f.ord = .acquire then s.l1Sync ag else s).putCirBuf h c').put32 ag f.dst i).retire 1 .none)

/-- CBREL (R166). -/
def cbRelease (f : MF) (s : State) (prod : Bool) : Host.Outcome State Fault Refusal :=
  issued s (fun ag =>
    match s.cbOf ag f with
    | .error (c, a) => s.trap ag c none 0 a
    | .ok (h, c) =>
      match c.release prod with
      | none => s.trap ag 0x0E none 0 (s.cbAddr ag f)
      | some c' =>
        if s.held ag h 32 || (f.ord == .release && !s.drained ag) then s.stall
        else ((if f.ord = .release then s.l1Sync ag else s).putCirBuf h c').retire 1 .none)

/-- R166, CBACQ.PROD. -/
def execCbacqProd (f : MF) (s : State) : Host.Outcome State Fault Refusal := cbAcquire f s true
/-- R166, CBACQ.CONS. -/
def execCbacqCons (f : MF) (s : State) : Host.Outcome State Fault Refusal := cbAcquire f s false
/-- R166, CBREL.PROD. -/
def execCbrelProd (f : MF) (s : State) : Host.Outcome State Fault Refusal := cbRelease f s true
/-- R166, CBREL.CONS. -/
def execCbrelCons (f : MF) (s : State) : Host.Outcome State Fault Refusal := cbRelease f s false

end Sys2Proof.Machine
end

