-- ==== Sys2Proof/Machine/MemSide.lean ====
section
/-! DEFINITION. Deferred and memory-side instructions (spec/14_memory_side_instructions.md R168 to R179): commits, bin
flushes, capability handles, and command blocks up to their acceptance or rejection. -/

namespace Sys2Proof.Machine

open Sys2Proof

/-! ### Commits -/

/-- Commit tags of a launch: those of its resident workgroups and bound threads, and those under which its records, its failed
records or its running commits still stand and which no later holder has taken (R169, R170). -/
def State.tagsOf (s : State) (l : Nat) : List (BitVec 12) :=
  let wgs := (s.sch.wgs.filter (fun e => e.2.launch == l)).map (fun e => BitVec.ofNat 12 (e.2.core * 16 + e.2.slot * 2 + e.2.epoch.toNat))
  let ths := (s.threads.filter (fun e => e.2.st != .free && e.2.launch == l)).map (fun e => s.tagOf (.thread (e.1 / 4) (e.1 % 4)))
  let bin (b : Bin) : List (BitVec 12) := if b.key < 1024 then (b.recs.filter (fun r => r.launch == l)).map (fun r => recTag r.w0) else []
  let logs := (s.dfd.logs.map (fun e => e.2.filterMap (fun x => match x with
    | .record r => if r.launch = l then some (recTag r.w0) else none
    | .marker _ => none))).flatten
  let chans := (s.dfd.chans.map (fun c => (c.sent.map (fun p => match p with | .bin b => bin b | .notice _ => [])).flatten)).flatten
  let staged := (s.dfd.staged.map (fun b => if b.key < 1024 then
    (b.recs.filter (fun r => r.1.launch == l && !r.2)).map (fun r => recTag r.1.w0) else [])).flatten
  let runs := ((s.dfd.commits.filter (fun c => c.launch == l)).map (·.tags)).flatten
  let lost := (s.dfd.lost.filter (fun k => k.launch == l && k.src.isNone && !k.old)).map (·.tag)
  let waits := ((s.path.acc.map (fun a => (a.recs.filter (fun r => r.launch == l)).map (fun r => recTag r.w0))).flatten)
  (wgs ++ ths ++ lost ++ waits ++ logs ++ (s.dfd.bins.map bin).flatten ++ chans ++ staged ++ runs).eraseDups

/-- The status word of Table 14-1. -/
def statusWord (st done : Nat) : Nat := st * 2 ^ 24 + min done (2 ^ 24 - 1)

/-- A bin of records that a commit covers is on its way to another device, and unanswered (R170). -/
def State.binsOut (s : State) (c : Commit) : Bool :=
  s.fab.out.any (fun r => match r.kind with
    | .bin b _ => decide (b.key < 1024) && b.recs.any (fun x => c.pod && c.takes x.w0 b.dest x.grp)
    | _ => false)

/-- A commit has nothing left to wait for. -/
def State.commitDone (s : State) (n : Nat) : Bool :=
  s.dfd.commits.any (fun c => c.n == n && c.cores.isEmpty && c.pend.isEmpty && c.left == 0 && !s.binsOut c)

/-- The wait of an agent's slot on a commit ends (R170). -/
def State.endWait (s : State) (ag : Agent) (n : Nat) : State :=
  match ag with
  | .wave w =>
    match s.wave w with
    | some v =>
      let f (p : Path) : Path := if p.wait = .commit n then { p with wait := .none } else p
      s.setWave w { v with p0 := f v.p0, p1 := f v.p1 }
    | none => s
  | .thread c t =>
    let h := s.thread c t
    let f (w : Wait) : Wait := if w = .commit n then .none else w
    s.setThread c t { h with wait := f h.wait, wasWait := f h.wasWait }

/-- Copies that home L2s hold of words of other devices to which records covered by a commit were sent are dropped, and no read of
them that is under way leaves one, so that none from before the replay is read (R171). Words of later records wait for theirs. -/
def State.dropReplayed (s : State) (c : Commit) : State :=
  let mine (e : Nat × BitVec 12 × Nat × Nat) : Bool :=
    c.tags.contains e.2.1 && (match Map.find c.marks (tagCore e.2.1) with | some g => decide (e.2.2.2 ≤ g) | none => false)
  let words := s.dfd.farWords.filter mine
  let s1 := words.foldl (fun t e => t.farDrop e.1 e.2.2.1 8) s
  { s1 with
    dfd := { s1.dfd with farWords := s1.dfd.farWords.filter (fun e => !mine e) }
    fab := { s1.fab with out := s1.fab.out.map (fun (r : FabReq) =>
      if words.any (fun e => e.1 == r.dev && decide (e.2.2.1 < r.pa + r.kind.bytes) && decide (r.pa < e.2.2.1 + 8)) then { r with keep := false } else r) } }

/-- A commit whose work is done is over: the status of an agent's COMMIT is written, its next clause is ready, and it has
acquired (R170, R171, R257). -/
def State.finishCommit (s : State) (n : Nat) : State :=
  match s.dfd.commits.find? (fun c => c.n == n) with
  | none => s
  | some c =>
    let s0 := { s with dfd := { s.dfd with commits := s.dfd.commits.filter (fun k => k.n != n) } }
    let s1 := if c.pod then s0.dropReplayed c else s0
    match c.why with
    | .agent ag p alt d _ =>
      let w := BitVec.ofNat 64 (statusWord (if c.failed = 0 then 0 else 1) c.failed)
      ((s1.lateAt ag p alt d 0 false false w).endWait ag n).l1SyncAt p
    | .launch | .retire => s1

/-- Records of an agent that are not yet in its core log. -/
def State.recsPending (s : State) (ag : Agent) : Bool := s.path.acc.any (fun a => s.mine ag a && !a.recs.isEmpty)

/-- COMMIT (R168 to R170): it waits at issue for the agent's records, and while a log that its marker is to enter is full
(R268). -/
def commitOf (f : SF) (s : State) (tags : Agent → List (BitVec 12)) (all pod : Bool) : Host.Outcome State Fault Refusal :=
  issued s (fun ag =>
    if s.recsPending ag || (tags ag).any (fun t => !s.logRoom (tagCore t)) then s.stall
    else
      let r := s.startCommit (.agent ag (s.seat ag) (s.pcOf ag).2.2 f.dst all) (s.launchOf ag) (tags ag) pod
      let s1 := r.2.jump ag (s.nextPc ag) (.commit r.1)
      if s1.commitDone r.1 then s1.finishCommit r.1 else s1)

/-- R169, COMMIT.BLOCK. -/
def execCommitBlock (f : SF) (s : State) : Host.Outcome State Fault Refusal := commitOf f s (fun ag => [s.tagOf ag]) false false
/-- R169, COMMIT.GRID. -/
def execCommitGrid (f : SF) (s : State) : Host.Outcome State Fault Refusal := commitOf f s (fun ag => s.tagsOf (s.launchOf ag)) true false
/-- R169, COMMIT.POD. -/
def execCommitPod (f : SF) (s : State) : Host.Outcome State Fault Refusal := commitOf f s (fun ag => s.tagsOf (s.launchOf ag)) true true

/-- DFLUSH (R172): bins with a record of the launch are to ship. -/
def dflush (s : State) (pod : Bool) : Host.Outcome State Fault Refusal :=
  issued s (fun ag =>
    let l := s.launchOf ag
    let bins := s.dfd.bins.map (fun (b : Bin) =>
      if decide (b.key < 1024) && (pod || isLocalDest b.dest) && b.recs.any (fun r => r.launch == l) then { b with due := true } else b)
    ({ s with dfd := { s.dfd with bins := bins } }).retire 1 .none)

/-- R172, DFLUSH.GRID. -/
def execDflushGrid (_ : SF) (s : State) : Host.Outcome State Fault Refusal := dflush s false
/-- R172, DFLUSH.POD. -/
def execDflushPod (_ : SF) (s : State) : Host.Outcome State Fault Refusal := dflush s true

/-! ### Capability handles (R173 to R176) -/

/-- Stack and entry of a handle (Table 14-2). -/
def capStack (h : Nat) : Nat := h / 2 ^ 28 % 16
/-- Entry of a handle. -/
def capEntry (h : Nat) : Nat := h / 2 ^ 17 % 2048

/-- A handle resolves for a context (R173). -/
def State.resolve (s : State) (x h : Nat) : Option Cap :=
  let c := s.cap (capStack h) (capEntry h)
  if h % 2 = 1 ∧ capStack h < 12 ∧ c.state = 1 ∧ c.gen.toNat = h / 2 % 2 ^ 16 ∧ c.owner = x then some c else none

/-- The handle of an entry. -/
def handleOf (stack e gen : Nat) : Nat := stack * 2 ^ 28 + e * 2 ^ 17 + gen * 2 + 1

/-- The lowest-numbered free entry of a stack (R277). -/
def State.freeCap (s : State) (stack : Nat) : Option Nat := (List.range 2048).find? (fun e => (s.cap stack e).state == 0)

/-- An entry freed, its generation advanced (R277). -/
def State.dropCap (s : State) (stack e : Nat) : State :=
  s.setCap stack e { Cap.free with gen := (s.cap stack e).gen + 1 }

/-- An entry revoked (R175): draining while a command or bin holds it, else free at once. -/
def State.revokeCap (s : State) (stack e : Nat) : State :=
  let c := s.cap stack e
  if c.busy = 0 ∧ c.old = 0 then s.dropCap stack e else s.setCap stack e { c with state := 2 }

/-- An earlier command block of the agent for a stack is neither accepted nor rejected (R175). -/
def State.offered (s : State) (ag : Agent) (stack : Nat) : Bool :=
  s.dfd.offers.any (fun o => o.ag == ag && o.seat.bind == (s.seat ag).bind && capStack (fld (o.w.toList.getD 1 0) 63 32) == stack)

/-- A failed link stands between an agent and a stack, whose Cupola engine holds the stack's table (R21). -/
def State.stackCut (s : State) (ag : Agent) (st : Nat) : Bool := decide (st < 12) && s.cut (s.clusterOf ag / 10) (st / 3)

/-- A handle operation on a stack that a failed link cuts off fails; as no rule gives its result, `dst` receives 0, as where no
entry is named: DESIGN CHOICE (log entry 36). -/
def State.stackLost (s : State) (ag : Agent) (st : Nat) : State := s.agentItem ag 0x35 (st * 2 ^ 36) 0

/-- R174, CAPNEW. -/
def execCapnew (f : SF) (s : State) : Host.Outcome State Fault Refusal :=
  issued s (fun ag =>
    let a := s.srcBits ag 64 0 f.sa
    let b := s.srcBits ag 64 0 f.sb
    let rd := f.imm.getLsbD 0
    let wr := f.imm.getLsbD 1
    let x := s.ctxOf ag
    let n := nSlots [f.sa, f.sb]
    if a % 64 ≠ 0 ∨ b = 0 ∨ b % 64 ≠ 0 then s.trap ag 0x1C none 0 a
    else
      match s.xlate (s.tlbOf ag) x a rd wr with
      | .error c => s.faultHere ag c none a 0
      | .ok (pa, e) =>
        let sz := pageBytes (fld e 11 9)
        if sz < a % sz + b ∨ hbmSize ≤ pa then s.trap ag 0x1C none 0 a
        else
          let st := pa / 2 ^ 36
          if s.offered ag st || s.walkHeld (s.tlbOf ag) x a then s.stall
          else
            let s1 := (s.keepTlb (s.tlbOf ag) x a e).passes ag false
            if s.stackCut ag st then ((s1.stackLost ag st).put32 ag f.dst 0).retire n .none
            else match s1.freeCap st with
            | none => (s1.put32 ag f.dst 0).retire n .none
            | some i =>
              let g := (s1.cap st i).gen
              ((s1.setCap st i ⟨1, wr, rd, 0, x, g, 0, 0, pa, BitVec.ofNat 64 b⟩).put32 ag f.dst (handleOf st i g.toNat)).retire n .none)

/-- R175, CAPSWAP. -/
def execCapswap (f : SF) (s : State) : Host.Outcome State Fault Refusal :=
  issued s (fun ag =>
    let x := s.ctxOf ag
    let a := s.srcBits ag 32 0 f.sa
    let b := s.srcBits ag 32 0 f.sb
    if s.offered ag (capStack a) || s.offered ag (capStack b) then s.stall
    else if s.stackCut ag (capStack a) then ((s.stackLost ag (capStack a)).put32 ag f.dst 0).retire 1 .none
    else
      match s.resolve x a, s.resolve x b with
      | some p, some q =>
        if capStack a = capStack b ∧ capEntry a ≠ capEntry b then
          let k := capStack a * 2048 + capEntry a
          let s1 := s.setCap (capStack a) (capEntry a)
            { p with base := q.base, bound := q.bound, rd := q.rd, wr := q.wr, old := p.old + p.busy, busy := 0 }
          let s2 := { s1 with dfd := { s1.dfd with swaps := Map.put s1.dfd.swaps k (Map.at s1.dfd.swaps k 0 + 1) } }
          ((s2.revokeCap (capStack b) (capEntry b)).put32 ag f.dst 1).retire 1 .none
        else (s.put32 ag f.dst 0).retire 1 .none
      | _, _ => (s.put32 ag f.dst 0).retire 1 .none)

/-- R175, CAPREV. -/
def execCaprev (f : SF) (s : State) : Host.Outcome State Fault Refusal :=
  issued s (fun ag =>
    let a := s.srcBits ag 32 0 f.sa
    if s.offered ag (capStack a) then s.stall
    else if s.stackCut ag (capStack a) then ((s.stackLost ag (capStack a)).put32 ag f.dst 0).retire 1 .none
    else
      match s.resolve (s.ctxOf ag) a with
      | some _ => ((s.revokeCap (capStack a) (capEntry a)).put32 ag f.dst 1).retire 1 .none
      | none => (s.put32 ag f.dst 0).retire 1 .none)

/-- The word of Table 14-3. -/
def Cap.query (c : Cap) : Nat :=
  2 ^ 31 + c.rd.toNat * 2 ^ 30 + c.wr.toNat * 2 ^ 29 + min c.busy 255 * 256 + min c.old 255

/-- R176, CAPQRY. -/
def execCapqry (f : SF) (s : State) : Host.Outcome State Fault Refusal :=
  issued s (fun ag =>
    let a := s.srcBits ag 32 0 f.sa
    if s.offered ag (capStack a) then s.stall
    else if s.stackCut ag (capStack a) then ((s.stackLost ag (capStack a)).put32 ag f.dst 0).retire 1 .none
    else (s.put32 ag f.dst (match s.resolve (s.ctxOf ag) a with | some c => c.query | none => 0)).retire 1 .none)

/-! ### Command blocks (R177 to R179) -/

/-- Bits hi:lo of word i of a command block. -/
def blockFld (w : Vector W64 8) (i hi lo : Nat) : Nat := fld (w.toList.getD i 0) hi lo

/-- A reserved field of a block is not zero. -/
def blockReserved (w : Vector W64 8) : Bool := blockFld w 0 51 48 != 0 || blockFld w 2 31 24 != 0 || blockFld w 5 15 0 != 0

/-- A block has been rejected: its status reaches `dst`, or the fault buffer, and the instruction completes. -/
def State.rejectOffer (s : State) (o : Offer) (code : Nat) : State :=
  let s1 := if o.dst = .none then s.itemFailed o.ctx o.launch 0x37 o.va 0 0 o.seat.cluster (let k := capStack (fld (o.w.toList.getD 1 0) 63 32); if k < 12 then k else 0xFF)
    else s.lateAt o.ag o.seat o.alt o.dst 0 false false (BitVec.ofNat 64 (statusWord code 0))
  s1.lowerAt o.ag o.seat o.flag false false

/-- MRED, MIRED, MEVAL and MFILL at issue (R177): the block is read once and offered to the engine that `hdst` names; the
core itself rejects a block that names none. -/
def offerBlock (f : MF) (s : State) (kind : Nat) : Host.Outcome State Fault Refusal :=
  issued s (fun ag =>
    let ea := s.ea ag f false 0
    match s.checkAccess ag false (fun _ => ea) 64 true false none with
    | .stop t => t
    | .ok tr =>
      match tr with
      | [] => s.stall
      | l :: _ =>
        let h := s.home l.pa
        let flag := s.flagFor ag f.fs
        if s.held ag h 64 || !(s.countRoom ag flag false false) then s.stall
        else
          let r := (s.passed ag tr).agentLoad ag f.scope l.leaf h 64
          let s0 := r.2
          let w : Vector W64 8 := Vector.ofFn (fun i : Fin 8 => BitVec.ofNat 64 (leNat ((r.1.drop (8 * i.val)).take 8)))
          let o : Offer := ⟨s0.fresh, ag, s.seat ag, (s.pcOf ag).2.2, s.ctxOf ag, s.launchOf ag, kind, w, ea, f.scope, f.ord, f.dst, flag⟩
          let s1 := ({ s0 with fresh := s0.fresh + 1 }).raise ag flag false false
          let hd := fld w[1] 63 32
          let s2 := if blockReserved w then s1.rejectOffer o 0x01
            else if 12 ≤ capStack hd ∨ hd % 2 = 0 then s1.rejectOffer o 0x02
            else { s1 with dfd := { s1.dfd with offers := s1.dfd.offers ++ [o] } }
          s2.retire (nSlots [f.sa, f.sb]) .none)

/-- R177, MRED. -/
def execMred (f : MF) (s : State) : Host.Outcome State Fault Refusal := offerBlock f s 1
/-- R177, MIRED. -/
def execMired (f : MF) (s : State) : Host.Outcome State Fault Refusal := offerBlock f s 2
/-- R177, MEVAL. -/
def execMeval (f : MF) (s : State) : Host.Outcome State Fault Refusal := offerBlock f s 3
/-- R177, MFILL. -/
def execMfill (f : MF) (s : State) : Host.Outcome State Fault Refusal := offerBlock f s 4

end Sys2Proof.Machine
end

