-- ==== Sys2Proof/Machine/Access.lean ====
section
/-! DEFINITION. Accesses under way: their lanes are performed and their records enter the core log (spec/13 R148, R149,
R152, R157; spec/19 R249; spec/23 R289, R291; spec/29 R342). -/

namespace Sys2Proof.Machine

open Sys2Proof

/-- Bytes that each lane of an access touches. -/
def Access.size (a : Access) : Nat := tyBits a.ty / 8

/-- The incomplete accesses that the agent of an access issued before it. -/
def State.earlier (s : State) (a : Access) : List Access :=
  (s.path.acc.takeWhile (fun b => b.n != a.n)).filter (fun b => b.ag == a.ag && b.seat.bind == a.seat.bind)

/-- A write or read-modify-write of another device's memory is unanswered. -/
def State.farBusy (s : State) : Bool :=
  s.fab.out.any (fun r => match r.kind with | .write _ | .atomic _ _ _ _ => true | _ => false)

/-- The order of R249 lets lanes of an access be performed: no earlier acquire is incomplete, and a release finds every
earlier access of its agent performed, those made at issue at another device among them. -/
def State.mayPerform (s : State) (a : Access) : Bool :=
  let b := s.earlier a
  !(b.any (fun x => x.ord == .acquire))
    && (a.ord != .release || (b.isEmpty && !s.pushing a.ag a.seat.bind a.n && (a.scope != .pod || !s.farBusy)))

/-- The access of a number. -/
def State.findAcc (s : State) (n : Nat) : Option Access := s.path.acc.find? (fun a => a.n == n)

/-- An access replaced by a function of it. -/
def State.modAcc (s : State) (n : Nat) (f : Access → Access) : State :=
  { s with path := { s.path with acc := s.path.acc.map (fun a => if a.n == n then f a else a) } }

/-- The destination element of a lane is written (R150). -/
def State.give (s : State) (a : Access) (l : LaneAcc) (x : W64) : State :=
  s.lateAt a.ag a.seat a.alt a.dst l.lane (tyBits a.ty == 64) (isSigned a.ty) x

/-- A lane returns a value to its destination: a load, or an atomic that returns the old value. -/
def AccOp.returns (o : AccOp) : Bool :=
  match o with
  | .load => true
  | .store => false
  | .rmw _ r => r

/-- A lane fails: its destination element receives zero, and the host is told (R291, R342). -/
def State.failLane (s : State) (a : Access) (l : LaneAcc) (cause addr : Nat) : State :=
  let s1 := if a.op.returns then s.give a l 0 else s
  s1.itemFailed a.ctx a.launch cause addr a.seat.tag.toNat l.lane a.seat.cluster (recStack addr)

/-- A lane cannot be performed: it fails, and a write breaks its agent's later releases (R264, R291). -/
def State.loseLane (s : State) (a : Access) (l : LaneAcc) : State :=
  let s1 := s.failLane a l 0x35 (s.addrOf l.home)
  if a.op != .load then s1.breakAgent a.ag a.seat.bind a.launch else s1

/-- A lane in this device's memory is performed, in one step (R248). -/
def State.memLane (s : State) (a : Access) (l : LaneAcc) (pa : Nat) : State :=
  let n := a.size
  let bad := s.badBytes (.mem pa) n && !(s.l1Serves a.seat a.scope l.cached pa)
  let part := match a.op with | .store => decide (n < 4) | _ => true
  if bad && part then s.failLane a l 0x32 pa
  else
    match a.op with
    | .store => s.cachedWrite a.seat a.scope l.cached pa (leBytes n l.val.toNat)
    | .load =>
      let r := s.cachedRead a.seat a.scope l.cached pa n
      r.2.give a l (loadExt a.ty (leNat r.1))
    | .rmw op ret =>
      let r := s.cachedRead a.seat a.scope l.cached pa n
      let old := BitVec.ofNat 64 (leNat r.1)
      let s1 := r.2.cachedWrite a.seat a.scope l.cached pa (leBytes n (atomNew op a.ty old l.val l.cmp).toNat)
      if ret then s1.give a l old else s1

/-- First address and bytes of the read that fetches n bytes: at least 4, aligned (Table 23-2). -/
def readSpan (pa n : Nat) : Nat × Nat := (pa / 4 * 4, max 4 n)

/-- A lane of another device's memory: served by a home-L2 copy, or sent; `none` while the budget has no room, while a read would
meet an unanswered write, and while an earlier access of the agent has writes to other devices to send, so that sequence numbers
follow program order (R33, R254, R263). -/
def State.devLane (s : State) (a : Access) (l : LaneAcc) (dev pa : Nat) (w : Option Nat) : Option State :=
  let n := a.size
  let sent (k : FabKind) (at_ : Nat) (keep : Bool) (t : State) : Option State :=
    if t.fabRoom a.ctx k.bytes then
      let r := t.send a.ctx a.seat.cluster dev at_ k w a.launch (some (a.ag, a.seat.bind)) keep
      some (r.2.modAcc a.n (fun b => { b with sent := b.sent ++ [(r.1, l)] }))
    else none
  match a.op with
  | .load =>
    let s1 := { s with free := s.free + 1 }
    if s.farClash dev pa n then none
    else
      match s.farCopy dev pa n with
      | some bs =>
        if l.l2 && a.scope != .pod && Config.l2Holds s.free then some (s1.give a l (loadExt a.ty (leNat bs)))
        else sent (.read (readSpan pa n).2) (readSpan pa n).1 l.l2 s1
      | none => sent (.read (readSpan pa n).2) (readSpan pa n).1 l.l2 s1
  | .store => if (s.earlier a).any (fun b => b.farPending) then none else sent (.write (leBytes n l.val.toNat)) pa l.l2 s
  | .rmw op _ => if (s.earlier a).any (fun b => b.farPending) then none else sent (.atomic op a.ty l.val l.cmp) pa false s

/-- One lane of an access is performed, sent or fails; `none` where it must wait for an earlier access to its bytes, for the
fabric budget, or for that of an HBM controller (R33, R339). A request that needs a failed link fails (R21), and so does a .pod release behind a failed write (R264). -/
def State.oneLane (s : State) (a : Access) (l : LaneAcc) : Option State :=
  if (s.earlier a).any (fun b => b.touches l.home a.size) then none
  else
    let t := if a.ord = .release && a.scope == .pod then { s with free := s.free + 1 } else s
    let broken := a.ord == .release && a.scope == .pod && s.releaseFails a.ag a.seat.bind
    let lost := s.severed a.seat.cluster l.home || broken
    match l.home with
    | .mem pa =>
      if !broken && s.l1Serves a.seat a.scope l.cached pa then some (t.memLane a l pa)
      else if lost then some (t.loseLane a l)
      else if s.hbmFull pa a.size then none
      else some ((t.memLane a l pa).useHbm pa a.size)
    | .spad _ _ => some t
    | .down _ => some (t.loseLane a l)
    | .dev n pa w => if lost then some (t.loseLane a l) else t.devLane a l n pa w

/-- Up to k lanes of access n, in increasing lane order (R149). -/
def State.someLanes (s : State) (n : Nat) : Nat → State
  | 0 => s
  | k + 1 =>
    match s.findAcc n with
    | none => s
    | some a =>
      match a.lanes with
      | [] => s
      | l :: r =>
        match s.oneLane a l with
        | none => s
        | some t => (t.modAcc n (fun b => { b with lanes := r })).someLanes n k

/-- Records of access n that a core log has room for enter it, behind those of the agent's earlier accesses (R152, R268). -/
def State.logRecs (s : State) (n : Nat) : State :=
  match s.findAcc n with
  | none => s
  | some a =>
    let b := s.earlier a
    if b.any (fun x => !x.recs.isEmpty || x.ord == .acquire) then s
    else
      let k := a.seat.log
      let g := s.log k
      let room := 1024 - g.length
      let s1 := { s with dfd := { s.dfd with logs := Map.put s.dfd.logs k (g ++ (a.recs.take room).map LogEntry.record) } }
      (s1.modAcc n (fun x => { x with recs := a.recs.drop room })).enterMarkers k

/-- An access of which nothing is left completes: its flag and counters fall, and an acquire drops what the L1 held
(R91, R148, R249). -/
def State.closeAccess (s : State) (n : Nat) : State :=
  match s.findAcc n with
  | none => s
  | some a =>
    if a.lanes.isEmpty && a.sent.isEmpty && a.recs.isEmpty then
      let s1 := { s with path := { s.path with acc := s.path.acc.filter (fun b => b.n != n) } }
      let s2 := s1.lowerAt a.ag a.seat a.flag a.ld a.st
      if a.ord = .acquire then s2.l1SyncAt a.seat else s2
    else s

/-- R148: lanes of access n are performed, its records enter the log, and it completes once nothing of it is left. How
many lanes one step performs is open (log entry 15). -/
def execAccessComplete (n : Nat) (s : State) : Host.Outcome State Fault Refusal :=
  .next (match s.findAcc n with
    | none => s
    | some a =>
      let k := 1 + Config.lanesNow s.free
      let s0 := { s with free := s.free + 1 }
      let s1 := if s.mayPerform a then
          (if a.ord = .release && !a.lanes.isEmpty then s0.l1SyncAt a.seat else s0).someLanes n (min k a.lanes.length)
        else s0
      (s1.logRecs n).closeAccess n)

/-- R170, R171: a commit that has nothing left to wait for completes. -/
def execCommitComplete (n : Nat) (s : State) : Host.Outcome State Fault Refusal :=
  .next (if s.commitDone n then s.finishCommit n else s)

end Sys2Proof.Machine
end

