-- ==== Sys2Proof/Machine/Cupola.lean ====
section
/-! DEFINITION. Memory-side commands in a Cupola engine: acceptance, items, the completion word and the entries they hold
(spec/14_memory_side_instructions.md R175, R178 to R185). -/

namespace Sys2Proof.Machine

open Sys2Proof

/-! ### Fields of a command block (Table 14-4) -/

/-- Word i of a command block as a number. -/
def blockWord (w : Vector W64 8) (i : Nat) : Nat := (w.toList.getD i 0).toNat

/-- Element type of a block. -/
def blockTy (w : Vector W64 8) : Option Ty := Ty.ofCode (blockFld w 0 55 52)

/-- Types that each command allows (R182 to R185). -/
def cmdTy (kind : Nat) (t : Ty) : Bool :=
  match kind with
  | 1 => (match t with | .f32 | .bf16 | .f16 | .i32 | .n32 | .i64 | .n64 => true | _ => false)
  | 4 => t != .e2m1
  | _ => (match t with | .f32 | .bf16 | .f16 => true | _ => false)

/-! ### MEVAL programs (R184) -/

/-- The stack depth after an operator; `none` where it is illegal or the depth leaves 0 to 4. -/
def evalDepth (nsrc b d : Nat) : Option Nat :=
  let push : Option Nat := if d < 4 then some (d + 1) else none
  let pop (k : Nat) : Option Nat := if k ≤ d then some (d + 1 - k) else none
  if 0x01 ≤ b ∧ b ≤ 0x04 then (if b - 1 < nsrc then push else none)
  else if 0x08 ≤ b ∧ b ≤ 0x0B then push
  else if 0x10 ≤ b ∧ b ≤ 0x14 then pop 2
  else if b = 0x15 then pop 3
  else if b = 0x18 ∨ b = 0x19 then pop 1
  else if b = 0x1C then (if 1 ≤ d then push else none)
  else if b = 0x1D then (if 2 ≤ d then some d else none)
  else if b = 0x1E then (if 1 ≤ d then some (d - 1) else none)
  else none

/-- The operators of a program from a depth on are legal and leave one value. -/
def evalOk (nsrc : Nat) : List Nat → Nat → Bool
  | [], d => d == 1
  | b :: r, d =>
    if b = 0 then d == 1 && r.all (· == 0)
    else match evalDepth nsrc b d with | some k => evalOk nsrc r k | none => false

/-- A program is legal: its operators, and zero in every byte that holds none. -/
def progOk (nsrc : Nat) (p : List Byte) : Bool :=
  evalOk nsrc ((p.take 24).map (·.toNat)) 0 && ((p.drop 24).take 8).all (· == 0) && (p.drop 48).all (· == 0)

/-- One operator on a stack of FP32 codes, top first (Table 14-5). -/
def evalOp (elem konst : Nat → Nat) (b : Nat) (st : List Nat) : List Nat :=
  let g := ffmt .f32
  let v (x : Nat) : FV := g.value x
  if 0x01 ≤ b ∧ b ≤ 0x04 then elem (b - 1) :: st
  else if 0x08 ≤ b ∧ b ≤ 0x0B then konst (b - 8) :: st
  else match b, st with
    | 0x10, y :: x :: r => (g.addOp false (v x) (v y)).1 :: r
    | 0x11, y :: x :: r => (g.addOp false (v x) (v y).negate).1 :: r
    | 0x12, y :: x :: r => (g.mulOp false (v x) (v y)).1 :: r
    | 0x13, y :: x :: r => g.minMax false x y :: r
    | 0x14, y :: x :: r => g.minMax true x y :: r
    | 0x15, z :: y :: x :: r => (g.fmaOp false (v x) (v y) (v z)).1 :: r
    | 0x18, x :: r => (x ^^^ 2 ^ 31) :: r
    | 0x19, x :: r => x % 2 ^ 31 :: r
    | 0x1C, x :: r => x :: x :: r
    | 0x1D, y :: x :: r => x :: y :: r
    | 0x1E, _ :: r => r
    | _, _ => st

/-- The value that a program leaves for one element. -/
def evalRun (elem konst : Nat → Nat) : List Nat → List Nat → Nat
  | [], st => st.headD 0
  | b :: r, st => if b = 0 then st.headD 0 else evalRun elem konst r (evalOp elem konst b st)

/-! ### Regions -/

/-- n bytes at an offset of a region, with the right that is asked for. -/
def Region.inside (r : Region) (off n : Nat) (right : Bool) : Bool := decide (off + n ≤ r.bound) && right

/-- The region that a resolved handle names. -/
def State.regionOf (s : State) (h : Nat) (c : Cap) : Region :=
  ⟨capStack h, capEntry h, c.base, c.bound.toNat, c.rd, c.wr, Map.at s.dfd.swaps (capStack h * 2048 + capEntry h) 0⟩

/-- One more command holds an entry. -/
def State.holdCap (s : State) (stack e : Nat) : State := s.setCap stack e { s.cap stack e with busy := (s.cap stack e).busy + 1 }

/-- The distinct entries among the regions of a command. -/
def Cmd.holds (c : Cmd) : List (Nat × Nat × Nat) :=
  ((some c.dst :: [c.src, c.idx]).filterMap (fun r => r.map (fun g => (g.stack, g.entry, g.swaps)))).eraseDups

/-! ### Acceptance (R179) -/

/-- The capabilities that a block names for a context: destination, source and index; `none` where one does not resolve or
names another stack. -/
def State.blockCaps (s : State) (x kind : Nat) (w : Vector W64 8) : Option (Region × Option Region × Option Region) :=
  let hd := blockFld w 1 63 32
  let get (h : Nat) : Option Region :=
    if capStack h = capStack hd then (s.resolve x h).map (fun c => s.regionOf h c) else none
  match get hd with
  | none => none
  | some d =>
    if kind = 4 then some (d, none, none)
    else
      match get (blockFld w 1 31 0) with
      | none => none
      | some a =>
        if kind = 2 then (match get (blockFld w 2 63 32) with | some i => some (d, some a, some i) | none => none)
        else some (d, some a, none)

/-- The fields of a block keep Table 14-4 and the rule of its command (R179, R182 to R185). -/
def blockFields (kind : Nat) (w : Vector W64 8) (t : Ty) : Bool :=
  let S := tyBits t / 8
  let n := blockFld w 0 39 32
  blockFld w 0 63 56 == kind && cmdTy kind t
    && (if kind = 1 then decide (blockFld w 0 47 40 ≤ 2) else blockFld w 0 47 40 == 0)
    && (match kind with
      | 1 => decide (1 ≤ n) && decide (n ≤ 16)
      | 2 => decide (1 ≤ n)
      | 3 => decide (1 ≤ n) && decide (n ≤ 4)
      | _ => n == 0)
    && (kind != 4 || blockFld w 1 31 0 == 0)
    && (kind == 2 || blockFld w 2 63 32 == 0)
    && (kind != 4 || (blockWord w 4 == 0 && blockFld w 5 63 32 == 0))
    && (if kind = 2 then blockFld w 5 31 16 != 0 else blockFld w 5 31 16 == 0)
    && blockWord w 3 % S == 0 && blockWord w 4 % S == 0 && blockFld w 5 63 32 % S == 0
    && (match kind with
      | 1 => blockWord w 7 == 0
      | 2 => blockWord w 7 % 4 == 0
      | 3 => blockWord w 7 % 64 == 0
      | _ => decide (blockWord w 7 < 2 ^ tyBits t))
    && blockWord w 6 % 8 == 0

/-- The program bytes of a block, and whether the read met an uncorrectable error. -/
def State.progOf (s : State) (src : Region) (w : Vector W64 8) : List Byte × Bool :=
  (Memory.read s.mem (src.base + blockWord w 7) 64, s.badBytes (.mem (src.base + blockWord w 7)) 64)

/-- What an engine does with a block: the code of its rejection, or the regions, the program and whether its read failed. -/
inductive Verdict where
  | reject (code : Nat)
  | accept (d : Region) (a i : Option Region) (prog : List Byte) (bad : Bool)
deriving DecidableEq, Repr

/-- R179: the defects of a block in the order 0x01, 0x02, 0x03. A program of MEVAL whose bytes meet an uncorrectable error is accepted, and
the command completes with st 0x11 and no item done: DESIGN CHOICE (log entry 36), the rules give item reads only. -/
def State.judge (s : State) (x kind : Nat) (w : Vector W64 8) : Verdict :=
  if blockReserved w then .reject 0x01
  else
    match s.blockCaps x kind w, blockTy w with
    | none, _ => .reject 0x02
    | some _, none => .reject 0x03
    | some (d, a, i), some t =>
      if !(blockFields kind w t) || !(d.inside (blockWord w 6) 8 d.wr) then .reject 0x03
      else
        match kind, a with
        | 3, some src =>
          if !(src.inside (blockWord w 7) 64 src.rd) then .reject 0x03
          else
            let p := s.progOf src w
            if p.2 then .accept d a i [] true
            else if progOk (blockFld w 0 39 32) p.1 then .accept d a i p.1 false
            else .reject 0x03
        | _, _ => .accept d a i [] false

/-- An offered block is accepted: it is numbered, holds its entries, and its instruction completes (R179, R180). -/
def State.acceptOffer (s : State) (o : Offer) (d : Region) (a i : Option Region) (prog : List Byte) (bad : Bool) : State :=
  let key := o.ctx * 16 + d.stack
  let c := Map.at s.dfd.counts key (0, 0)
  let cmd : Cmd := ⟨c.1 + 1, o.ag, o.seat, o.n, o.ctx, d.stack, o.launch, o.w, o.scope, d, a, i, prog, 0,
    if bad && blockFld o.w 2 23 0 != 0 then 0x11 else 0⟩
  let s1 := { s with dfd := { s.dfd with cmds := s.dfd.cmds ++ [cmd], counts := Map.put s.dfd.counts key (c.1 + 1, c.2) } }
  let s2 := cmd.holds.foldl (fun t h => t.holdCap h.1 h.2.1) s1
  let s3 := if o.dst = .none then s2 else s2.lateAt o.ag o.seat o.alt o.dst 0 false false (BitVec.ofNat 64 (statusWord 0 0))
  s3.lowerAt o.ag o.seat o.flag false false

/-- The first block that its agent has offered to the stack (R175). -/
def State.firstOffer (s : State) (o : Offer) : Bool :=
  match s.dfd.offers.find? (fun p => p.ag == o.ag && p.seat.bind == o.seat.bind && capStack (blockFld p.w 1 63 32) == capStack (blockFld o.w 1 63 32)) with
  | some p => p.n == o.n
  | none => false

/-- The program bytes that a MEVAL block names, where its source resolves (R184). -/
def State.progRange (s : State) (o : Offer) : List (Nat × Nat) :=
  match o.kind, s.blockCaps o.ctx o.kind o.w with
  | 3, some (_, some src, _) => if src.inside (blockWord o.w 7) 64 src.rd then [(src.base + blockWord o.w 7, 64)] else []
  | _, _ => []

/-- A block waits for earlier accesses of its agent: with .release for all of them (R181), and for those to the bytes of its
program (R149). -/
def State.offerReady (s : State) (o : Offer) : Bool :=
  let mine := s.path.acc.filter (fun a => a.before o.ag o.seat o.n)
  (o.ord != .release || (mine.isEmpty && !s.pushing o.ag o.seat.bind o.n && (o.scope != .pod || !s.farBusy)))
    && !(mine.any (fun a => (s.progRange o).any (fun r => a.touches (.mem r.1) r.2)))

/-- The lines of the L1 of a seat that hold one of some ranges are written back and dropped. -/
def State.flushRanges (s : State) (p : Seat) (l : List (Nat × Nat)) : State :=
  match s.l1Any p with
  | some o => s.l1Flush o (fun k => l.any (fun r => decide (k.line * 128 < r.1 + r.2) && decide (r.1 < k.line * 128 + 128)))
  | none => s

/-- A command that a failed link keeps from its engine (R21), or a .pod.release one that would have to follow a failed write, is not
run: the item is reported failed, and as no rule gives a status for it, `dst` receives a free value (R264; log entry 52). -/
def State.loseOffer (s : State) (o : Offer) : State :=
  let f := s.takeFree
  let s1 := f.2.itemFailed o.ctx o.launch 0x35 o.va 0 0 o.seat.cluster 0xFF
  (if o.dst = .none then s1 else s1.lateAt o.ag o.seat o.alt o.dst 0 false false f.1).lowerAt o.ag o.seat o.flag false false

/-- R179: offered block n is accepted or rejected, in the agent's issue order for its stack. -/
def execCommandBlockAcceptance (n : Nat) (s : State) : Host.Outcome State Fault Refusal :=
  .next (match s.dfd.offers.find? (fun o => o.n == n) with
    | none => s
    | some o =>
      if s.firstOffer o && s.offerReady o then
        let s0 := if o.ord = .release then s.l1SyncAt o.seat else s.flushRanges o.seat (s.progRange o)
        let s1 := { s0 with dfd := { s0.dfd with offers := s0.dfd.offers.filter (fun p => p.n != n) } }
        if s.cut (o.seat.cluster / 10) (capStack (blockFld o.w 1 63 32) / 3) then s1.loseOffer o
        else if o.ord = .release && o.scope == .pod && s.releaseFails o.ag o.seat.bind then ({ s1 with free := s1.free + 1 }).loseOffer o
        else match s1.judge o.ctx o.kind o.w with
        | .reject code => s1.rejectOffer o code
        | .accept d a i p bad => s1.acceptOffer o d a i p bad
      else s)

/-! ### Items (R180 to R185) -/

/-- The oldest accepted command of a context on a stack. -/
def State.headCmd (s : State) (x stack : Nat) : Option Cmd := s.dfd.cmds.find? (fun c => c.ctx == x && c.stack == stack)

/-- Ranges of an item: the bytes read as indices, the bytes read as data, the bytes written; physical address and length. -/
structure Ranges where
  idx : List (Nat × Nat)
  src : List (Nat × Nat)
  dst : Nat × Nat
deriving DecidableEq, Repr

/-- Element type of an accepted command. -/
def Cmd.ty (c : Cmd) : Ty := (blockTy c.w).getD .n32

/-- Element size of an accepted command. -/
def Cmd.size (c : Cmd) : Nat := tyBits c.ty / 8

/-- `nsrc` of a command. -/
def Cmd.nsrc (c : Cmd) : Nat := blockFld c.w 0 39 32

/-- Offsets that an item reads as indices. -/
def Cmd.idxOffs (c : Cmd) (e : Nat) : List Nat :=
  match c.idx with
  | some _ => (List.range c.nsrc).map (fun l => blockWord c.w 7 + 4 * (e * c.nsrc + l))
  | none => []

/-- The rows of a bag, padding left out (R183). -/
def Cmd.rows (c : Cmd) (m : Mem) (e : Nat) : List Nat :=
  match c.idx with
  | some i => ((c.idxOffs e).map (fun o => Memory.num m (i.base + o) 4)).filter (· != 0xFFFFFFFF)
  | none => []

/-- Offsets and length that an item reads in the source region; for MIRED its rows. -/
def Cmd.srcOffs (c : Cmd) (e : Nat) (rows : List Nat) : List (Nat × Nat) :=
  let st := blockFld c.w 5 63 32
  let so := blockWord c.w 4
  match blockFld c.w 0 63 56 with
  | 2 => rows.map (fun r => (so + r * st, blockFld c.w 5 31 16 * c.size))
  | 4 => []
  | _ => (List.range c.nsrc).map (fun p => (so + p * st + e * c.size, c.size))

/-- Offset and length that an item writes in the destination region. -/
def Cmd.dstOff (c : Cmd) (e : Nat) : Nat × Nat :=
  match blockFld c.w 0 63 56 with
  | 2 => (blockWord c.w 3 + e * blockFld c.w 5 31 16 * c.size, blockFld c.w 5 31 16 * c.size)
  | _ => (blockWord c.w 3 + e * c.size, c.size)

/-- Base of the source region. -/
def Cmd.srcBase (c : Cmd) : Nat := match c.src with | some r => r.base | none => 0

/-- A value written to a floating destination is canonical where it is NaN. -/
def canonical (t : Ty) (x : Nat) : Nat :=
  if isIntTy t then x else match (ffmt t).value x with | .nan => (ffmt t).nanCode | _ => x

/-- One step of MRED (R182). -/
def mredStep (fop : Nat) (t : Ty) (x y : Nat) : Nat :=
  let w := tyBits t
  match fop with
  | 0 => if isIntTy t then (x + y) % 2 ^ w else ((ffmt t).addOp false ((ffmt t).value x) ((ffmt t).value y)).1
  | k => if isIntTy t then minMaxInt w (isSigned t) (k == 2) x y else (ffmt t).minMax (k == 2) x y

/-- One level of the fixed tree of R182 over the present buffers; the absent ones stand behind them. -/
def mredLevel (fop : Nat) (t : Ty) : List Nat → List Nat
  | x :: y :: r => mredStep fop t x y :: mredLevel fop t r
  | l => l

/-- The tree of R182: four levels over at most 16 buffers. -/
def mredTree (fop : Nat) (t : Ty) (l : List Nat) : Nat :=
  ((List.range 4).foldl (fun n _ => mredLevel fop t n) l).headD 0

/-- One column of a bag (R183): the rows' elements added in order, +0 for none. -/
def miredCol (t : Ty) (l : List Nat) : Nat :=
  match l with
  | [] => 0
  | x :: r => r.foldl (fun a y => ((ffmt t).addOp false ((ffmt t).value a) ((ffmt t).value y)).1) x

/-- The bytes that an item writes, from memory as it reads it. -/
def Cmd.result (c : Cmd) (m : Mem) (e : Nat) (rows : List Nat) : List Byte :=
  let t := c.ty
  let S := c.size
  let src := (c.srcOffs e rows).map (fun r => c.srcBase + r.1)
  match blockFld c.w 0 63 56 with
  | 1 => leBytes S (canonical t (mredTree (blockFld c.w 0 47 40) t (src.map (fun a => Memory.num m a S))))
  | 2 => ((List.range (blockFld c.w 5 31 16)).map (fun k =>
      leBytes S (canonical t (miredCol t (src.map (fun a => Memory.num m (a + k * S) S)))))).flatten
  | 3 =>
    let el (i : Nat) : Nat := (convert (.fl (ffmt .f32)) (.fl (ffmt t)) 0 0 false (Memory.num m (src.getD i 0) S)).1
    let konst (i : Nat) : Nat := leNat ((c.prog.drop (32 + 4 * i)).take 4)
    let top := evalRun el konst ((c.prog.take 24).map (·.toNat)) []
    leBytes S ((ffmt t).round .even false ((ffmt .f32).value top)).1
  | _ => leBytes S (blockWord c.w 7)

/-- An access that the agent of a command issued before it is still to reach one of some ranges (R181). -/
def State.cmdWaits (s : State) (c : Cmd) (l : List (Nat × Nat)) : Bool :=
  s.path.acc.any (fun a => a.before c.ag c.seat c.n && l.any (fun r => a.touches (.mem r.1) r.2))

/-- The head command of a stream replaced by a function of it. -/
def State.modCmd (s : State) (c : Cmd) (f : Cmd → Cmd) : State :=
  { s with dfd := { s.dfd with cmds := s.dfd.cmds.map (fun d => if d.ctx == c.ctx && d.stack == c.stack && d.num == c.num then f d else d) } }

/-- An item fails, and every later one with it (R180). -/
def State.failCmd (s : State) (c : Cmd) (st : Nat) : State := s.modCmd c (fun d => { d with st := st })

/-- Bytes of some ranges. -/
def rangeBytes (l : List (Nat × Nat)) : Nat := l.foldl (fun k r => k + r.2) 0

/-- Item e of a command: its checks, its reads, its write (R180). A step that must wait for an access of the agent, or for the
budget of the HBM controller (R339), leaves the item to a later one. -/
def State.runItem (s : State) (c : Cmd) (e : Nat) : State :=
  let ib := match c.idx with | some i => i.base | none => 0
  let idxs := (c.idxOffs e).map (fun o => (ib + o, 4))
  let idxOk := match c.idx with | some i => (c.idxOffs e).all (fun o => i.inside o 4 i.rd) | none => true
  let d := c.dstOff e
  if !idxOk || !(c.dst.inside d.1 d.2 c.dst.wr) then s.failCmd c 0x10
  else if s.cmdWaits c idxs then s
  else
    let s1 := s.flushRanges c.seat idxs
    if idxs.any (fun r => s1.badBytes (.mem r.1) r.2) then s1.failCmd c 0x11
    else
      let rows := c.rows s1.mem e
      let offs := c.srcOffs e rows
      let srcOk := match c.src with | some r => offs.all (fun o => r.inside o.1 o.2 r.rd) | none => true
      if !srcOk then s1.failCmd c 0x10
      else
        let rs := (c.dst.base + d.1, d.2) :: offs.map (fun o => (c.srcBase + o.1, o.2))
        let n := rangeBytes idxs + rangeBytes rs
        if s1.cmdWaits c rs || s1.hbmFull (c.stack * 2 ^ 36) n then s1
        else
          let s2 := (s1.flushRanges c.seat rs).useHbm (c.stack * 2 ^ 36) n
          if (offs.any (fun o => s2.badBytes (.mem (c.srcBase + o.1)) o.2)) || s2.badPart (c.dst.base + d.1) d.2 then s2.failCmd c 0x11
          else
            let s3 := s2.softPut (.mem (c.dst.base + d.1)) (c.result s2.mem e rows)
            s3.modCmd c (fun k => { k with item := e + 1 })

/-- R180: the next item of the oldest accepted command of a context on a stack. -/
def execCupolaItem (ctx stack : Nat) (s : State) : Host.Outcome State Fault Refusal :=
  .next (match s.headCmd ctx stack with
    | none => s
    | some c => if c.st = 0 ∧ c.item < blockFld c.w 2 23 0 then s.runItem c c.item else s)

/-- R180: every item of the oldest accepted command has been applied or has failed; its completion word is written, and its
number and entries are released. -/
def execCommandCompletionWord (ctx stack : Nat) (s : State) : Host.Outcome State Fault Refusal :=
  .next (match s.headCmd ctx stack with
    | none => s
    | some c =>
      let a := c.dst.base + blockWord c.w 6
      if (c.st = 0 ∧ c.item < blockFld c.w 2 23 0) ∨ s.cmdWaits c [(a, 8)] ∨ s.hbmFull a 8 then s
      else
        let s1 := ((s.flushRanges c.seat [(a, 8)]).useHbm a 8).putAt (.mem a)
          (leBytes 8 (blockFld c.w 0 31 0 * 2 ^ 32 + statusWord c.st c.item))
        let key := ctx * 16 + stack
        let k := Map.at s1.dfd.counts key (0, 0)
        let s2 := { s1 with dfd := { s1.dfd with
          cmds := s1.dfd.cmds.filter (fun d => !(d.ctx == ctx && d.stack == stack && d.num == c.num))
          counts := Map.put s1.dfd.counts key (k.1, c.num) } }
        c.holds.foldl (fun t h => t.letGoCap h.1 h.2.1 h.2.2) s2)

/-- R175: a draining entry that nothing holds is freed, and its generation advances. -/
def execCapEntryFree (stack e : Nat) (s : State) : Host.Outcome State Fault Refusal :=
  .next (
    let c := s.cap stack e
    if c.state = 2 ∧ c.busy = 0 ∧ c.old = 0 then s.dropCap stack e else s)

end Sys2Proof.Machine
end

