-- ==== Sys2Proof/Machine/Belfry.lean ====
section
/-! DEFINITION. The Belfry units and the replay: core logs are drained into bins, bins ship and are staged, notices are
replayed; bins and notices of other devices; refresh ownership (spec/21_deferred_logs.md R265 to R282; spec/23 R292). -/

namespace Sys2Proof.Machine

open Sys2Proof

/-! ### Records (R266, R271) -/

/-- Operator of a record. -/
def recOp (w0 : W64) : Nat := fld w0 51 46

/-- Bytes of a record's word. -/
def recBytes (w0 : W64) : Nat := if bitAt w0 44 then 8 else 4

/-- Operation and type of Table 13-3 behind an operator of Table 21-2. -/
def recAtom (opr : Nat) (wide : Bool) : Nat × Ty :=
  let i : Ty := if wide then .i64 else .i32
  let n : Ty := if wide then .n64 else .n32
  match opr with
  | 0x02 => (0, n) | 0x03 => (1, i) | 0x04 => (2, i) | 0x05 => (1, n) | 0x06 => (2, n)
  | 0x07 => (3, n) | 0x08 => (4, n) | 0x09 => (5, n)
  | 0x0A => (7, .f32) | 0x0B => (8, .f32) | 0x0C => (9, .f32)
  | _ => (6, n)

/-- The new word (Table 21-2). -/
def recNew (opr : Nat) (wide : Bool) (old v : W64) : W64 := atomNew (recAtom opr wide).1 (recAtom opr wide).2 old v 0

/-- A record keeps Table 21-1 and Table 21-2. -/
def recValid (w0 w1 : W64) : Bool :=
  let op := recOp w0
  decide (1 ≤ op) && decide (op ≤ 12) && fld w0 43 38 == 0 && decide (fld w0 63 56 < 200)
    && (match fld w0 45 44 with
      | 0 => fld w1 63 32 == 0
      | 1 => !bitAt w0 0 && decide (op ≤ 9)
      | _ => false)

/-- The exact sum of a run of FP32 values, rounded once (R86, R271). -/
def runSum (l : List W64) : W64 :=
  let g := ffmt .f32
  match l with
  | [] => 0
  | x :: r => BitVec.ofNat 64 (g.round .even false (r.foldl (fun a y => (a.add (g.value (y.toNat % 2 ^ 32))).1) (g.value (x.toNat % 2 ^ 32)))).1

/-- Two consecutive records of a merge group combined; `none` where they stay two (R271). -/
def BinRec.merge (a b : BinRec) : Option BinRec :=
  let x := recOp a.w0
  let y := recOp b.w0
  let wide := bitAt a.w0 44
  let slots := (a.slots ++ b.slots).eraseDups
  if bitAt b.w0 44 != wide then none
  else if y = 0x01 then some { b with grp := a.grp, slots := slots }
  else if x = 0x01 then
    some { a with w1 := if y = 0x0A then b.run.foldl (fun s v => recNew y wide s v) a.w1 else recNew y wide a.w1 b.w1, slots := slots }
  else if x ≠ y then none
  else if x = 0x0A then (let r := a.run ++ b.run; some { a with run := r, w1 := runSum r, slots := slots })
  else some { a with w1 := recNew x wide a.w1 b.w1, slots := slots }

/-- A record as a bin holds it. -/
def binRec (w0 w1 : W64) (grp launch : Nat) : BinRec := ⟨w0, w1, if recOp w0 = 0x0A then [w1] else [], grp, launch, []⟩

/-- Two records belong to one merge group. -/
def BinRec.mates (a b : BinRec) : Bool := a.grp == b.grp && recTag a.w0 == recTag b.w0 && recAddr a.w0 == recAddr b.w0

/-- Two records of one tag share a byte: their order stays (R258). -/
def BinRec.touches (a b : BinRec) : Bool :=
  recTag a.w0 == recTag b.w0 && decide (recAddr a.w0 < recAddr b.w0 + recBytes b.w0) && decide (recAddr b.w0 < recAddr a.w0 + recBytes a.w0)

/-- A record put behind others: combined with the last one of its tag that shares a byte with it, where the two are of one
group and combine. -/
def fileRec (l : List BinRec) (r : BinRec) : List BinRec :=
  let rec go : List BinRec → Option (List BinRec)
    | [] => none
    | x :: t =>
      match go t with
      | some t' => some (x :: t')
      | none =>
        if !x.touches r then none
        else match if x.mates r then x.merge r else none with
          | some m => some (m :: t)
          | none => some (x :: t ++ [r])
  match go l with
  | some l' => l'
  | none => l ++ [r]

/-! ### Handles -/

/-- The deferred handle of a context on a stack (R270, R277). -/
def State.deferredHandle (s : State) (x stack : Nat) : W32 :=
  match s.dfd.caps.find? (fun e => e.1 / 2048 == stack && e.2.state == 1 && e.2.kind == 1 && e.2.owner == x) with
  | some e => BitVec.ofNat 32 (handleOf stack (e.1 % 2048) e.2.gen.toNat)
  | none => 0

/-- The inbound handle of a sending context on a stack (R292). -/
def State.inboundHandle (s : State) (dev x stack : Nat) : W32 := Map.at (Map.at s.fab.inbound (dev * 1024 + x) []) stack 0

/-- Handle of a bin of a key for a destination (R270). -/
def State.binHandle (s : State) (key : Nat) (dest : BinDest) : W32 :=
  match dest with
  | .pch g =>
    if key < 1024 then s.deferredHandle key (g / 64)
    else s.inboundHandle ((key - 1024) / 1024) ((key - 1024) % 1024) (g / 64)
  | .dev n => Map.at s.fab.handles (key * 1024 + n) 0

/-! ### Filing (R270, R278) -/

/-- The destinations of a record, each with its word w0: one, or for a replica all twelve, from die 0 (R278). -/
def State.targets (s : State) (die : Nat) (dest : BinDest) (w0 : W64) : List (Nat × BinDest × W64) :=
  let a := recAddr w0
  match dest with
  | .dev _ => [(die, dest, w0)]
  | .pch g =>
    if s.inReplica a then
      (List.range 12).map (fun k => (0, .pch (64 * k + g % 64), withFld w0 37 0 ((k * 2 ^ 36 + a % 2 ^ 36) / 4)))
    else [(die, dest, w0)]

/-- A bin is the open one of a die, destination and source; one source is one incarnation of another device (R267, R270). -/
def Bin.holds (b : Bin) (die : Nat) (dest : BinDest) (key : Nat) (inc : BitVec 16) : Bool :=
  b.die == die && b.dest == dest && b.key == key && (decide (key < 1024) || b.inc == inc)

/-- A record filed in the open bin of its destination; `none` while that bin has to ship first. -/
def State.fileOne (s : State) (die : Nat) (dest : BinDest) (key srcdev : Nat) (inc : BitVec 16) (r : BinRec) : Option State :=
  match s.dfd.bins.find? (fun b => b.holds die dest key inc) with
  | none =>
    some { s with dfd := { s.dfd with bins := s.dfd.bins ++ [⟨die, dest, key, s.binHandle key dest, srcdev, inc, [r], false⟩] } }
  | some b =>
    let l := fileRec b.recs r
    if b.due || 128 < l.length then none
    else
      some { s with dfd := { s.dfd with bins := s.dfd.bins.map (fun c =>
        if c.holds die dest key inc then { c with recs := l, due := decide (l.length = 128) } else c) } }

/-- A record filed towards each of its destinations, or none of them. -/
def State.file (s : State) (die : Nat) (dest : BinDest) (key srcdev : Nat) (inc : BitVec 16) (r : BinRec) : Option State :=
  (s.targets die dest r.w0).foldl (fun o t => match o with
    | some u => u.fileOne t.1 t.2.1 key srcdev inc { r with w0 := t.2.2 }
    | none => none) (some s)

/-- R268, R270: the oldest entry of a core log is drained: a record is filed, a marker does its work. -/
def execBelfryDrain (core : Nat) (s : State) : Host.Outcome State Fault Refusal :=
  .next (
    let pop (t : State) (r : List LogEntry) : State := { t with dfd := { t.dfd with logs := Map.put t.dfd.logs core r } }
    match s.log core with
    | [] => s
    | .marker n :: r => ((pop s r).markerDone n core).enterMarkers core
    | .record x :: r =>
      match s.file (core / 40) x.dest x.ctx s.selfDev s.dev.inc (binRec x.w0 x.w1 (Map.at s.dfd.groups core 0) x.launch) with
      | some t => (pop t r).enterMarkers core
      | none => s)

/-! ### Failures (R170, R275, R320) -/

/-- A notice of another device, under way here as number m, covers a record of a source (R267). -/
def Waiting.takes (w : Waiting) (m dev : Nat) (inc : BitVec 16) (r : BinRec) : Bool :=
  w.dev == dev && w.inc == inc && w.tags.contains (recTag r.w0) && decide (r.grp < m)

/-- A record fails: the host is told, and every commit that covers it counts it. One of another device counts in the notices that
cover it, or, where there is none yet, in the next one that does (R292). -/
def State.failRec (s : State) (key srcdev : Nat) (inc : BitVec 16) (dest : BinDest) (r : BinRec) (cause : Nat) : State :=
  let own := decide (key < 1024)
  let tag := recTag r.w0
  let far := !isLocalDest dest
  let x := if own then key else (key - 1024) % 1024
  let stack := if far then 0xFF else recAddr r.w0 / 2 ^ 36
  let s1 := s.sendRecord (if own then s.boxOf x else .root) 2
    (faultWords 2 cause x (if own then s.seqOf r.launch else 0) ⟨BitVec.ofNat 64 (recAddr r.w0), tag.zeroExtend 64, 0, 0⟩ 0xFFFF 0xFF stack srcdev)
  let hit (c : Commit) : Bool :=
    c.tags.contains tag && (c.pod || !far) && (match Map.find c.marks (tagCore tag) with | some g => decide (r.grp ≤ g) | none => false)
  if own then
    { s1 with dfd := { s1.dfd with
      lost := s1.dfd.lost ++ [⟨none, r.launch, tag, false, far⟩]
      commits := s1.dfd.commits.map (fun c => if hit c then { c with failed := c.failed + 1 } else c) } }
  else
    { s1 with
      dfd := { s1.dfd with lost := if s1.fab.waiting.any (fun w => w.2.takes w.1 srcdev inc r) then s1.dfd.lost
        else s1.dfd.lost ++ [⟨some (srcdev, inc), 0, tag, false, far⟩] }
      fab := { s1.fab with waiting := Map.each s1.fab.waiting (fun m w =>
        if w.takes m srcdev inc r then { w with fails := w.fails + 1 } else w) } }

/-- Several records fail for one cause. -/
def State.failRecs (s : State) (key srcdev : Nat) (inc : BitVec 16) (dest : BinDest) (l : List BinRec) (cause : Nat) : State :=
  l.foldl (fun t r => t.failRec key srcdev inc dest r cause) s

/-! ### Shipping (R270, R279) -/

/-- A notice covers a record: its tag, and a group ahead of the marker, by the core of the tag where the notice has several. -/
def Notice.has (nt : Notice) (r : BinRec) : Bool :=
  nt.tags.contains (recTag r.w0) && decide (r.grp ≤ (Map.find nt.marks (tagCore (recTag r.w0))).getD nt.grp)

/-- A bin holds a record that a notice covers. -/
def Bin.under (b : Bin) (nt : Notice) (own : Bool) : Bool :=
  decide (b.key < 1024) == own && (own || (b.srcdev == nt.srcdev && b.inc == nt.inc)) && b.recs.any (fun r => nt.has r)

/-- A notice of this device's own commit. -/
def State.ownNotice (s : State) (nt : Notice) : Bool := (Map.find s.fab.waiting nt.n).isNone

/-- Waiting notices whose covered bins have shipped go on, in their order. -/
def State.freeNotices (s : State) (die : Nat) (dest : BinDest) : State :=
  let held (nt : Notice) : Bool := s.dfd.bins.any (fun b => b.die == die && b.dest == dest && b.under nt (s.ownNotice nt))
  s.modChan die dest (fun c =>
    let go := c.behind.takeWhile (fun e => !held e)
    { c with sent := c.sent ++ go.map Shipment.notice, behind := c.behind.drop go.length })

/-- The queue number under which a notice of another device is remembered: that of no fabric queue. -/
def noticeQueue : Nat := 64

/-- A notice of another device is answered with its failures, and remembered, so that a later copy is answered alike (R291). -/
def State.ackNotice (s : State) (dev : Nat) (inc : BitVec 16) (req fails : Nat) : State :=
  { s with fab := { s.fab with
      seen := s.fab.seen ++ [Seen.mk ⟨dev, inc, noticeQueue, req⟩ (BitVec.ofNat 64 fails)]
      replies := s.fab.replies ++ [.noticeAck dev req fails] } }

/-- A notice has been answered, or replayed: one thing less for its commit to wait for. -/
def State.noticeDone (s : State) (nt : Notice) : State :=
  match Map.find s.fab.waiting nt.n with
  | none => s.modCommit nt.n (fun c => { c with left := c.left - 1 })
  | some w =>
    if w.left ≤ 1 then
      ({ s with fab := { s.fab with waiting := Map.del s.fab.waiting nt.n } }).ackNotice w.dev w.inc w.req w.fails
    else { s with fab := { s.fab with waiting := Map.put s.fab.waiting nt.n { w with left := w.left - 1 } } }

/-- Notices at the head of a channel to another device are sent on the fabric queue of the context whose bins they cover, while
the budget has room; a device that is no member answers none (R270, R288). -/
def State.sendNotices (s : State) (die n : Nat) : Nat → State
  | 0 => s
  | k + 1 =>
    match s.dfd.chans.find? (fun c => c.die == die && c.dest == .dev n) with
    | none => s
    | some c =>
      match c.sent with
      | .notice nt :: r =>
        let x := nt.ctx
        let s1 := s.modChan die (.dev n) (fun c => { c with sent := r })
        if !(s.fab.members.contains n) then (s1.noticeDone nt).sendNotices die n k
        else if s.fabRoom x (FabKind.notice nt).bytes then ((s1.send x (40 + die) n 0 (.notice nt) none 0 none false).2).sendNotices die n k
        else s
      | _ => s

/-- A bin leaves: it joins the channel to a pseudo-channel, or is sent to another device, for which it takes a permit. -/
def State.shipBin (s : State) (b : Bin) : State :=
  let s1 := { s with dfd := { s.dfd with bins := s.dfd.bins.filter (fun c => !(c.holds b.die b.dest b.key b.inc)) } }
  match b.dest with
  | .pch _ => s1.modChan b.die b.dest (fun c => { c with sent := c.sent ++ [.bin b] })
  | .dev n =>
    if !(s.fab.members.contains n) then s1.failRecs b.key b.srcdev b.inc b.dest b.recs 0x35
    else
      let k := b.key * 1024 + n
      if Map.at s.fab.permits k 0 = 0 then s
      else
        let seq := Map.at s.dfd.bseq n 0 + 1
        let kind := FabKind.bin { b with hcap := Map.at s.fab.handles k 0 } seq
        if s.fabRoom b.key kind.bytes then
          let r := s1.send b.key (40 + b.die) n 0 kind none 0 none false
          let tags := (b.recs.map (fun r => recTag r.w0)).eraseDups
          let far := s1.dfd.farTags.filter (fun e => !(e.1 == n && tags.contains e.2.1)) ++ tags.map (fun t => (n, t, r.1))
          let words := (b.recs.map (fun r => (n, recTag r.w0, recAddr r.w0, r.grp))).eraseDups
          let s2 := { r.2 with dfd := { r.2.dfd with bseq := Map.put r.2.dfd.bseq n seq, farTags := far,
                                                     farWords := (r.2.dfd.farWords ++ words).eraseDups },
                               fab := { r.2.fab with permits := Map.put r.2.fab.permits k (Map.at r.2.fab.permits k 0 - 1) } }
          match s2.ctxNode b.key with
          | some a => s2.modNodes (s2.anc a) (fun m => { m with permits := m.permits - 1 })
          | none => s2
        else s

/-! ### Staging (R272 to R274) -/

/-- Address of slot i of a pseudo-channel, and of its header. -/
def slotAt (g base i : Nat) : Nat := g / 64 * 2 ^ 36 + base + 2 ^ 17 * i + 2048 * (g % 64)
/-- Address of the header of slot i of a pseudo-channel. -/
def slotHead (g base nslot i : Nat) : Nat := g / 64 * 2 ^ 36 + base + 2 ^ 17 * nslot + 16 * (g % 64 * nslot + i)

/-- The lowest free slot of a pseudo-channel. -/
def State.freeRing (s : State) (g nslot : Nat) : Option Nat :=
  (List.range nslot).find? (fun i => !(s.dfd.staged.any (fun b => b.pch == g && b.slot == i)) && !(s.dfd.inb.any (fun b => b.pch == g && b.slot == i)))

/-- The words of a slot and of its header written (Table 21-4). -/
def State.putSlot (s : State) (g base nslot i : Nat) (srcdev : Nat) (inc : BitVec 16) (hcap : W32) (bseq : Nat) (ws : List W64) : State :=
  let w0 := BitVec.ofNat 64 (srcdev % 1024 * 2 ^ 54 + inc.toNat * 2 ^ 38 + hcap.toNat)
  let w1 := BitVec.ofNat 64 (ws.length / 2 * 2 ^ 56 + bseq % 2 ^ 48)
  let bytes (l : List W64) : List Byte := (l.map (fun w => leBytes 8 w.toNat)).flatten
  (s.writeMem (slotAt g base i) (bytes ws)).writeMem (slotHead g base nslot i) (bytes [w0, w1])

/-- The region that a bin's handle resolves to when it is staged (R277). -/
def State.binRegion (s : State) (key : Nat) (h : W32) : Option Region :=
  (s.resolve (if key < 1024 then key else (key - 1024) % 1024) h.toNat).map (fun c => s.regionOf h.toNat c)

/-- A bin is staged in a slot: records and header are written, and the entry of its handle is held. -/
def State.stage (s : State) (g base nslot i : Nat) (b : Bin) : State :=
  let reg := s.binRegion b.key b.hcap
  let s1 := match reg with | some r => s.holdCap r.stack r.entry | none => s
  let k := Map.at s.dfd.bseq (2 ^ 20 + b.srcdev) 0 + 1
  let s2 := s1.putSlot g base nslot i b.srcdev b.inc b.hcap k (b.recs.map (fun r => [r.w0, r.w1])).flatten
  { s2 with
    dfd := { s2.dfd with
      bseq := Map.put s2.dfd.bseq (2 ^ 20 + b.srcdev) k
      staged := s2.dfd.staged ++ [⟨g, i, b.srcdev, b.inc, b.hcap, b.key, b.recs.map (fun r => (r, false)), reg⟩] } }

/-- A staged bin holds a record that a notice covers. -/
def Staged.under (b : Staged) (nt : Notice) (own : Bool) : Bool :=
  decide (b.key < 1024) == own && (own || (b.srcdev == nt.srcdev && b.inc == nt.inc))
    && b.recs.any (fun r => !r.2 && nt.has r.1)

/-! ### Replay (R275) -/

/-- A record of a replay: its place, the region of its bin, and the record as it is read from the ring. -/
structure ReplayRec where
  key : Nat
  srcdev : Nat
  inc : BitVec 16
  reg : Option Region
  /-- Address of its words in the ring. -/
  at_ : Nat
  r : BinRec
deriving DecidableEq, Repr

/-- A record as the ring in memory holds it. -/
def State.reread (s : State) (x : ReplayRec) : ReplayRec :=
  let w0 := Memory.w64 s.mem x.at_
  let w1 := Memory.w64 s.mem (x.at_ + 8)
  if w0 = x.r.w0 ∧ w1 = x.r.w1 then x else { x with r := binRec w0 w1 x.r.grp x.r.launch }

/-- Records of one merge group that were split over bins, combined (R271). -/
def regroup (l : List ReplayRec) : List ReplayRec :=
  l.foldl (fun out x =>
    let rec go : List ReplayRec → Option (List ReplayRec)
      | [] => none
      | y :: t =>
        match go t with
        | some t' => some (y :: t')
        | none =>
          if !(y.key == x.key && y.srcdev == x.srcdev && y.inc == x.inc && y.r.touches x.r) then none
          else match if y.r.mates x.r && y.reg == x.reg && recValid x.r.w0 x.r.w1 && recValid y.r.w0 y.r.w1 then y.r.merge x.r else none with
            | some m => some ({ y with r := m } :: t)
            | none => some (y :: t ++ [x])
    match go out with
    | some o => o
    | none => out ++ [x]) []

/-- Check(r, hcap): the record's bytes lie in the entry's region, which has the write right (R277). -/
def ReplayRec.allowed (x : ReplayRec) : Bool :=
  match x.reg with
  | some g => g.wr && decide (g.base ≤ recAddr x.r.w0) && decide (recAddr x.r.w0 + recBytes x.r.w0 ≤ g.base + g.bound)
  | none => false

/-- One record is applied or fails (R275). -/
def State.applyRec (s : State) (x : ReplayRec) (pch : Nat) : State :=
  let a := recAddr x.r.w0
  let n := recBytes x.r.w0
  let lose (c : Nat) : State := s.failRec x.key x.srcdev x.inc (.pch pch) x.r c
  if s.badBytes (.mem x.at_) 16 then lose 0x32
  else if !(recValid x.r.w0 x.r.w1) then lose 0x30
  else if !x.allowed then lose 0x31
  else if recOp x.r.w0 ≠ 1 ∧ s.badBytes (.mem a) n then lose 0x32
  else s.softPut (.mem a) (leBytes n (recNew (recOp x.r.w0) (n == 8) (BitVec.ofNat 64 (Memory.num s.mem a n)) x.r.w1).toNat)

/-- The records that a notice makes a pseudo-channel apply, in staging order: a notice from another die than 0 leaves
records of replicas to the notice from die 0 (R278). -/
def State.replaySet (s : State) (pch : Nat) (nt : Notice) : List ReplayRec :=
  let own := s.ownNotice nt
  let base := match Map.find s.dfd.areas (pch / 64) with | some e => e.1 | none => 0
  ((s.dfd.staged.filter (fun b => b.pch == pch && b.under nt own)).map (fun b =>
    ((b.recs.mapIdx (fun i r => (i, r))).filter (fun e =>
      !e.2.2 && nt.has e.2.1
        && (nt.die == 0 || !(s.inReplica (recAddr e.2.1.w0))))).map
      (fun e => s.reread ⟨b.key, b.srcdev, b.inc, b.hold, slotAt pch base b.slot + 16 * e.1, e.2.1⟩))).flatten

/-- The records of a replay marked, and the slots freed of which none is left (R274). -/
def State.markReplayed (s : State) (pch : Nat) (nt : Notice) : State :=
  let own := s.ownNotice nt
  let mark (b : Staged) : Staged :=
    if b.pch == pch && b.under nt own then
      { b with recs := b.recs.map (fun r =>
        (r.1, r.2 || (nt.has r.1 && (nt.die == 0 || !(s.inReplica (recAddr r.1.w0)))))) }
    else b
  ({ s with dfd := { s.dfd with staged := s.dfd.staged.map mark } }).freeSlots

/-! ### Inbound slots (R273, R274, R279, R292) -/

/-- The key of a sending context's bins. -/
def remoteKey (dev ctx : Nat) : Nat := 1024 + 1024 * dev + ctx

/-- The receiving die of a sending device (R273). -/
def inboundDie (dev : Nat) : Nat := dev % 4

/-- Permits granted to a sending context, with the handle of its inbound entry on stack 3d: how many, up to the number of
free inbound slots, is open (R279, R292; log entry 21). -/
def State.grantPermits (s : State) (dev x : Nat) : State :=
  let d := inboundDie dev
  match Map.find s.dfd.areas (3 * d) with
  | none => s
  | some (_, n) =>
    let out := (s.fab.granted.filter (fun e => inboundDie (e.1 / 1024) == d)).foldl (fun k e => e.2.foldl (fun j c => j + c.2) k) 0
    let held := (s.dfd.staged.filter (fun b => b.pch / 64 == 3 * d)).length
    let h := s.inboundHandle dev x (3 * d)
    let k := if h = 0 then 0 else (Config.freeWord s.free).toNat % (64 * n - out - held + 1)
    let key := dev * 1024 + x
    let g := Map.at s.fab.granted key []
    { s with free := s.free + 1,
             fab := { s.fab with granted := Map.put s.fab.granted key (Map.put g h.toNat (Map.at g h.toNat 0 + k)),
                                 replies := s.fab.replies ++ [.permit dev x k h] } }

/-- The permit of a bin, which was granted with a handle, returns to the pool as its inbound slot is freed, or as the bin fails
without one (R279). -/
def State.returnPermit (s : State) (dev x : Nat) (h : W32) : State :=
  let key := dev * 1024 + x
  let g := Map.at s.fab.granted key []
  let t := { s with fab := { s.fab with granted := Map.put s.fab.granted key (Map.put g h.toNat (Map.at g h.toNat 0 - 1)) } }
  t.grantPermits dev x

/-- A permit with this handle is out to a sending context (R273). -/
def State.permitted (s : State) (dev x : Nat) (h : W32) : Bool :=
  h != 0 && decide (0 < Map.at (Map.at s.fab.granted (dev * 1024 + x) []) h.toNat 0)

/-- A record of an inbound slot is neither applied nor failed: it stands in an open, travelling or staged local bin. -/
def State.slotLive (s : State) (n : Nat) : Bool :=
  let bin (b : Bin) : Bool := b.recs.any (fun r => r.slots.contains n)
  s.dfd.bins.any bin
    || s.dfd.chans.any (fun c => c.sent.any (fun p => match p with | .bin b => bin b | .notice _ => false))
    || s.dfd.staged.any (fun b => b.recs.any (fun r => !r.2 && r.1.slots.contains n))

/-- Inbound slots of which every record has been filed and has been applied or has failed are freed, with the entries that they
hold, and the permits of their bins return, but for those of an older incarnation (R274, R277, R279, R280). -/
def State.freeInbound (s : State) : State :=
  let spent (q : Inbound) : Bool := decide (q.b.recs.length ≤ q.filed) && !s.slotLive q.first
  (s.dfd.inb.filter spent).foldl (fun t q =>
    let u := match q.hold with | some r => t.letGoCap r.stack r.entry r.swaps | none => t
    if Map.find s.fab.incs q.b.dev = some q.b.inc then u.returnPermit q.b.dev q.b.ctx q.b.hcap else u)
    { s with dfd := { s.dfd with inb := s.dfd.inb.filter (fun q => !spent q) } }

/-! ### Arrival at a pseudo-channel and replay (R274, R275) -/

/-- R274: the oldest shipment from a die to a pseudo-channel arrives: a bin is staged, waits or fails, a notice is
received; over a failed link neither arrives (R21). A bin waits for the budget of the stack's HBM controller too (R339). -/
def execBinStage (die pch : Nat) (s : State) : Host.Outcome State Fault Refusal :=
  .next (match s.dfd.chans.find? (fun c => c.die == die && c.dest == .pch pch) with
    | none => s
    | some c =>
      let pop (t : State) (r : List Shipment) : State := t.modChan die (.pch pch) (fun k => { k with sent := r })
      match c.sent with
      | [] => s
      | .notice nt :: r =>
        if s.cut die (pch / 192) then ((((s.replaySet pch nt).foldl (fun t x => t.failRec x.key x.srcdev x.inc (.pch pch) x.r 0x35) (pop s r)).markReplayed pch nt).noticeDone nt).freeInbound
        else pop { s with dfd := { s.dfd with inbox := Map.put s.dfd.inbox pch (Map.at s.dfd.inbox pch [] ++ [nt]) } } r
      | .bin b :: r =>
        if b.recs.isEmpty then pop s r
        else if s.cut die (pch / 192) then (pop (s.failRecs b.key b.srcdev b.inc b.dest b.recs 0x35) r).freeInbound
        else
          match Map.find s.dfd.areas (pch / 64) with
          | none => (pop (s.failRecs b.key b.srcdev b.inc b.dest b.recs 0x33) r).freeInbound
          | some (base, nslot) =>
            match s.freeRing pch nslot with
            | some i =>
              if s.hbmFull (pch / 64 * 2 ^ 36) (16 * b.recs.length + 16) then s
              else pop ((s.stage pch base nslot i b).useHbm (pch / 64 * 2 ^ 36) (16 * b.recs.length + 16)) r
            | none =>
              if (Map.at s.dfd.inbox pch []).any (fun nt => s.dfd.staged.any (fun x => x.pch == pch && x.under nt (s.ownNotice nt))) then s
              else (pop (s.failRecs b.key b.srcdev b.inc b.dest b.recs 0x33) r).freeInbound)

/-- Bytes that the replay of some records moves: each record, and its word read and written. -/
def replayBytes (l : List ReplayRec) : Nat := l.foldl (fun k x => k + 16 + 2 * recBytes x.r.w0) 0

/-- R275: the oldest notice that a pseudo-channel has received is replayed and acknowledged, once the budget of the HBM controller
has room (R339). -/
def execCommitNoticeReplay (pch : Nat) (s : State) : Host.Outcome State Fault Refusal :=
  .next (match Map.at s.dfd.inbox pch [] with
    | [] => s
    | nt :: r =>
      let k := replayBytes (s.replaySet pch nt)
      if k ≠ 0 ∧ s.hbmFull (pch / 64 * 2 ^ 36) k then s
      else
        let s1 := { s with dfd := { s.dfd with inbox := Map.put s.dfd.inbox pch r } }
        let s2 := (regroup (s1.replaySet pch nt)).foldl (fun t x => t.applyRec x pch) (s1.useHbm (pch / 64 * 2 ^ 36) k)
        ((s2.markReplayed pch nt).noticeDone nt).freeInbound)

/-! ### Bins and notices from other devices (R273, R280, R292) -/

/-- Staged records of older incarnations of a sender that no received notice covers fail, with those of its bins that are still
in inbound slots; its permits are freed, and its sequence numbers are forgotten (R263, R280). -/
def State.newIncarnation (s : State) (dev : Nat) (inc : BitVec 16) : State :=
  let covered (i : BitVec 16) (r : BinRec) : Bool := s.fab.waiting.any (fun w => w.2.takes w.1 dev i r)
  let old (key : Nat) (i : BitVec 16) : Bool := decide (1024 ≤ key) && (key - 1024) / 1024 == dev && i != inc
  let lose (b : Bin) (t : State) : State :=
    if old b.key b.inc then t.failRecs b.key dev b.inc b.dest (b.recs.filter (fun r => !covered b.inc r)) 0x34 else t
  let s1 := s.dfd.staged.foldl (fun t b =>
    if old b.key b.inc then
      t.failRecs b.key dev b.inc (.pch b.pch) ((b.recs.filter (fun r => !r.2 && !covered b.inc r.1)).map (·.1)) 0x34 else t) s
  let s2 := s1.dfd.bins.foldl (fun t b => lose b t) s1
  let s3 := s2.dfd.chans.foldl (fun t c => c.sent.foldl (fun u p => match p with | .bin b => lose b u | .notice _ => u) t) s2
  let s4 := s3.dfd.inb.foldl (fun t b =>
    if b.b.dev == dev && b.b.inc != inc then
      t.failRecs (remoteKey dev b.b.ctx) dev b.b.inc (.pch b.pch) ((b.b.recs.drop b.filed).map (fun w => binRec w.w0 w.w1 b.first 0)) 0x34 else t) s3
  let cut (b : Bin) : Bin := if old b.key b.inc then { b with recs := b.recs.filter (covered b.inc) } else b
  let s5 : State := { s4 with
    dfd := { s4.dfd with
      staged := s3.dfd.staged.map (fun b =>
        if old b.key b.inc then { b with recs := b.recs.map (fun r => (r.1, r.2 || !covered b.inc r.1)) } else b)
      inb := s3.dfd.inb.map (fun (b : Inbound) => if b.b.dev == dev && b.b.inc != inc then { b with filed := b.b.recs.length } else b)
      bins := (s3.dfd.bins.map cut).filter (fun b => !b.recs.isEmpty)
      chans := s3.dfd.chans.map (fun c => { c with sent := c.sent.map (fun p => match p with | .bin b => .bin (cut b) | x => x) })
      lost := s4.dfd.lost.filter (fun l => match l.src with | some k => k.1 != dev || k.2 == inc | none => true) }
    fab := { s4.fab with
      incs := Map.put s4.fab.incs dev inc
      seen := s4.fab.seen.filter (fun k => k.f.dev != dev || k.f.inc == inc)
      binSeen := s4.fab.binSeen.filter (fun k => k.1 != dev)
      granted := s4.fab.granted.filter (fun k => k.1 / 1024 != dev) } }
  s5.freeSlots.freeInbound

/-- The incarnation of a sender is the newest known one; an unknown or newer one is learned (R280). `none` for an older
one. -/
def State.meet (s : State) (dev : Nat) (inc : BitVec 16) : Option State :=
  match Map.find s.fab.incs dev with
  | none => some { s with fab := { s.fab with incs := Map.put s.fab.incs dev inc } }
  | some k => if inc = k then some s else if (inc - k).toNat < 2 ^ 15 then some (s.newIncarnation dev inc) else none

/-- The merge group of a record that arrives: that of the last unapplied record of its source and word in an open bin of an
earlier arrival, where the sender's group may go on, or one of its own (R271; log entry 16). -/
def State.arrivalGroup (s : State) (key first own : Nat) (inc : BitVec 16) (w0 : W64) : Nat :=
  let mine := ((s.dfd.bins.filter (fun b => b.key == key && b.inc == inc)).map (fun b => b.recs.filter (fun r => recTag r.w0 == recTag w0 && recAddr r.w0 == recAddr w0))).flatten
  match mine.getLast? with
  | some r =>
    if r.grp < first && bitAt (Config.freeWord s.free) 0 && !(s.fab.waiting.any (fun w => w.2.takes w.1 ((key - 1024) / 1024) inc r))
    then r.grp else own
  | none => own

/-- One record of a bin in an inbound slot is filed; `none` while an open bin has to ship first. A record for a stack without a
staging area fails (R272). -/
def State.refileOne (s : State) (q : Inbound) (w : RecordW) : Option State :=
  let key := remoteKey q.b.dev q.b.ctx
  let a := recAddr w.w0
  let g := s.arrivalGroup key q.first (q.first + q.filed) q.b.inc w.w0
  let s1 := { s with free := s.free + 1 }
  let x := { binRec w.w0 w.w1 g 0 with slots := [q.first] }
  if (Map.find s.dfd.areas (a / 2 ^ 36)).isNone then some (s1.failRec key q.b.dev q.b.inc (.pch (pchOf a)) x 0x33)
  else s1.file (inboundDie q.b.dev) (.pch (pchOf a)) key q.b.dev q.b.inc x

/-- The paths that hold records of a sender's notice. -/
def State.remotePaths (s : State) (nt : Notice) : List (Nat × BinDest) :=
  let die := inboundDie nt.srcdev
  let open_ := (s.dfd.bins.filter (fun b => b.under nt false)).map (fun b => (b.die, b.dest))
  let moving := (s.dfd.chans.filter (fun c => c.sent.any (fun p => match p with | .bin b => b.under nt false | .notice _ => false))).map (fun c => (c.die, c.dest))
  let there := s.stagedPaths die ((s.dfd.staged.filter (fun b => b.under nt false)).map (fun b =>
    (b.pch, (b.recs.filter (fun r => !r.2 && nt.tags.contains (recTag r.1.w0))).map (fun r => recAddr r.1.w0))))
  (open_ ++ moving ++ there).eraseDups

/-- A notice arrives from another device: bins that it covers are to ship, and local notices follow them. The failures that its
acknowledgement counts are forgotten here; the sender keeps them for its later commits (R170, R292). -/
def State.remoteNotice (s : State) (dev req : Nat) (inc : BitVec 16) (tags : List (BitVec 12)) : State :=
  let m := s.fresh
  let nt : Notice := ⟨m, tags, dev, inc, m, [], inboundDie dev, 0⟩
  let paths := s.remotePaths nt
  let hit (l : Lost) : Bool := l.src == some (dev, inc) && tags.contains l.tag
  let fails := (s.dfd.lost.filter hit).length
  let s1 := { s with fresh := m + 1, dfd := { s.dfd with lost := s.dfd.lost.filter (fun l => !hit l) } }
  if paths.isEmpty then s1.ackNotice dev inc req fails
  else
    let s2 : State := { s1 with
      fab := { s1.fab with waiting := Map.put s1.fab.waiting m ⟨dev, inc, req, paths.length, fails, tags⟩ }
      dfd := { s1.dfd with bins := s1.dfd.bins.map (fun (b : Bin) => if b.under nt false then { b with due := true } else b) } }
    paths.foldl (fun t p => t.modChan p.1 p.2 (fun c =>
      c.follow { nt with die := p.1 } (s.dfd.bins.any (fun b => b.die == p.1 && b.dest == p.2 && b.under nt false)))) s2

/-- Records in the inbound slots of a die are filed in the order of arrival, `k` at most (R273). -/
def State.fileInbound (s : State) (d : Nat) : Nat → State
  | 0 => s
  | k + 1 =>
    match s.dfd.inb.find? (fun q => inboundDie q.b.dev == d && decide (q.filed < q.b.recs.length)) with
    | none => s
    | some q =>
      match q.b.recs[q.filed]? with
      | none => s
      | some w =>
        match s.refileOne q w with
        | none => s
        | some t =>
          ({ t with dfd := { t.dfd with inb := t.dfd.inb.map (fun (p : Inbound) =>
              if p.pch == q.pch && p.slot == q.slot then { p with filed := p.filed + 1 } else p) } }).fileInbound d k

/-- The records of every inbound slot of a die that can be filed now; slots of which nothing is left are freed. -/
def State.fileAll (s : State) (d : Nat) : State := (s.fileInbound d (s.dfd.inb.foldl (fun k q => k + q.b.recs.length) 0)).freeInbound

/-- R270: the open bin of a die, destination and context ships when it is full or due, and the notices that waited for it
follow; bins of other devices that waited for it in inbound slots are filed further. -/
def execBinShip (die : Nat) (dest : BinDest) (ctx : Nat) (s : State) : Host.Outcome State Fault Refusal :=
  .next (
    let s1 := match s.dfd.bins.find? (fun b => b.die == die && b.dest == dest && b.key == ctx) with
      | some b => if b.due || 128 ≤ b.recs.length then (s.shipBin b).fileAll die else s
      | none => s
    let s2 := s1.freeNotices die dest
    match dest with
    | .pch _ => s2
    | .dev n => s2.sendNotices die n (s2.dfd.chans.foldl (fun k c => k + c.sent.length) 1))

/-- The lowest free slot among the inbound slots of a die, on any pseudo-channel of its stack; which one is taken is open:
DESIGN CHOICE (log entry 53). -/
def State.inboundSlot (s : State) (d nslot : Nat) : Option (Nat × Nat) :=
  (List.range 64).findSome? (fun h => (s.freeRing (192 * d + h) nslot).map (fun i => (192 * d + h, i)))

/-- A bin takes an inbound slot of its receiving die, and holds the entry that its handle names (R273, R277). -/
def State.stageInbound (s : State) (b : RemoteBin) (base nslot g i : Nat) : State :=
  let reg := s.binRegion (remoteKey b.dev b.ctx) b.hcap
  let s0 := match reg with | some r => s.holdCap r.stack r.entry | none => s
  let s1 := s0.putSlot g base nslot i b.dev b.inc b.hcap b.bseq (b.recs.map (fun w => [w.w0, w.w1])).flatten
  { s1 with fresh := s1.fresh + b.recs.length + 1, dfd := { s1.dfd with inb := s1.dfd.inb ++ [⟨g, i, b, s1.fresh, 0, reg⟩] } }

/-- R273: a bin, or a commit notice behind it, arrives from another device. A repeated bin and one of an older incarnation
are discarded; a handle with which no permit is out to the sender fails every record. A notice is received once the records of every
bin ahead of it have been filed; a copy of one is answered as the first, or waits for its answer (R291). A bin waits for the budget of
the HBM controller too (R339). -/
def execRemoteBinReceive (b : RemoteBin) (s : State) : Host.Outcome State Fault Refusal :=
  .next (match s.meet b.dev b.inc with
    | none => s
    | some s0 =>
      match b.notice with
      | some (tags, req) =>
        match s0.fab.seen.find? (fun k => k.f == ⟨b.dev, b.inc, noticeQueue, req⟩) with
        | some k => { s0 with fab := { s0.fab with replies := s0.fab.replies ++ [.noticeAck b.dev req k.old.toNat] } }
        | none =>
          let t := s0.fileAll (inboundDie b.dev)
          if t.fab.waiting.any (fun w => w.2.dev == b.dev && w.2.inc == b.inc && w.2.req == req)
              || t.dfd.inb.any (fun q => q.b.dev == b.dev && decide (q.filed < q.b.recs.length)) then t
          else t.remoteNotice b.dev req b.inc tags
      | none =>
        let ack (t : State) : State := { t with fab := { t.fab with replies := t.fab.replies ++ [.ack ⟨b.dev, b.inc, 40, b.bseq⟩] } }
        if s0.fab.binSeen.contains (b.dev, b.bseq) then ack s0
        else
          let d := inboundDie b.dev
          let s1 := { s0 with fab := { s0.fab with binSeen := s0.fab.binSeen ++ [(b.dev, b.bseq)] } }
          let lose (c : Nat) : State := (ack (s1.failRecs (remoteKey b.dev b.ctx) b.dev b.inc (.pch (192 * d))
            (b.recs.map (fun w => binRec w.w0 w.w1 s.fresh 0)) c)).returnPermit b.dev b.ctx b.hcap
          match Map.find s0.dfd.areas (3 * d) with
          | none => lose 0x33
          | some (base, nslot) =>
            if !(s0.permitted b.dev b.ctx b.hcap) then lose 0x31
            else
              match s1.inboundSlot d nslot with
              | some (g, i) =>
                if s.hbmFull (3 * d * 2 ^ 36) (16 * b.recs.length + 16) then s
                else (ack ((s1.stageInbound b base nslot g i).useHbm (3 * d * 2 ^ 36) (16 * b.recs.length + 16))).fileAll d
              | none =>
                if s.dfd.inbox.any (fun e => e.1 / 64 == 3 * d && e.2.any (fun nt => s.dfd.staged.any (fun x => x.pch == e.1 && x.under nt (s.ownNotice nt)))) then s
                else lose 0x33)

/-! ### Refresh (R282) -/

/-- A stack is in compute mode. -/
def State.computeMode (s : State) (stack : Nat) : Bool :=
  s.dfd.staged.any (fun b => b.pch / 64 == stack) || s.dfd.inb.any (fun b => b.pch / 64 == stack) || s.dfd.cmds.any (fun c => c.stack == stack)
    || s.dfd.inbox.any (fun e => e.1 / 64 == stack && !e.2.isEmpty)

/-- R282: a refresh falls due at a pseudo-channel: it is issued, or postponed while fewer than 4 are (log entry 17). -/
def execRefresh (pch : Nat) (s : State) : Host.Outcome State Fault Refusal :=
  let c := Map.at s.dev.refresh pch (0, 0)
  let s1 := { s with free := s.free + 1 }
  let k := if bitAt (Config.freeWord s.free) 0 && decide (c.2 < 4) then (c.1, c.2 + 1) else (c.1 + 1, c.2)
  .next { s1 with dev := { s1.dev with refresh := Map.put s1.dev.refresh pch k } }

/-- R282: the mode of a stack has changed: refresh passes to the other owner with each row counter, and postponed refreshes
are issued first. -/
def execRefreshHandover (stack : Nat) (s : State) : Host.Outcome State Fault Refusal :=
  let owns := s.dev.cupolaRefresh.contains stack
  .next (if s.computeMode stack = owns then s
    else
      { s with dev := { s.dev with
        cupolaRefresh := if owns then s.dev.cupolaRefresh.filter (· != stack) else s.dev.cupolaRefresh ++ [stack]
        refresh := Map.each s.dev.refresh (fun g c => if g / 64 = stack then (c.1 + c.2, 0) else c) } })

end Sys2Proof.Machine
end

