-- ==== Sys2Proof/Machine/Tile.lean ====
section
/-! DEFINITION. Accumulator contexts and their banks (spec/15_matrix_instructions.md R188; spec/27_faults_preemption.md
R325, R333), operand descriptors (R191) and the arithmetic of tiles (spec/07_arithmetic.md R80 to R83). -/

namespace Sys2Proof.Machine

open Sys2Proof

/-! ### Accumulator contexts -/

/-- A 64 by 64 tile. -/
abbrev TileW := Vector W32 4096

/-- The state in which a logical context starts (R188, R198). -/
def Acc.fresh (claimed : Bool) : Acc :=
  { claimed := claimed, wg := 0, tiles := Vector.replicate 4 (Vector.replicate 4096 0), kinds := 0, k := Vector.replicate 8 0,
    epi := #v[0, 0, 0, 0xFF8000007F800000, 0, 0, 0, 0], loop := ⟨false, 0, 0, 0, 0, 0, 0⟩ }

/-- Key of logical context n of context x on unit u of the device. -/
def accKey (x u n : Nat) : Nat := (x * 640 + u) * 2 + n

/-- A logical context; 0 is always claimed. -/
def State.acc (s : State) (x u n : Nat) : Acc := Map.at s.mx.accs (accKey x u n) (Acc.fresh (n == 0))

/-- A logical context replaced. -/
def State.setAcc (s : State) (x u n : Nat) (a : Acc) : State := { s with mx := { s.mx with accs := Map.put s.mx.accs (accKey x u n) a } }

/-- Element (i, j) of tile t. -/
def Acc.at (a : Acc) (t i j : Nat) : W32 := (a.tiles.toList.getD t (Vector.replicate 4096 0)).toList.getD (64 * i + j) 0

/-- Tile t replaced where a test holds. -/
def Acc.put (a : Acc) (t : Nat) (p : Nat → Nat → Bool) (f : Nat → Nat → W32) : Acc :=
  let old := a.tiles.toList.getD t (Vector.replicate 4096 0)
  { a with tiles := a.tiles.setIfInBounds t (Vector.ofFn (fun e : Fin 4096 =>
      if p (e.val / 64) (e.val % 64) then f (e.val / 64) (e.val % 64) else old[e])) }

/-- Tile t is of kind I. -/
def Acc.isI (a : Acc) (t : Nat) : Bool := a.kinds.getLsbD t

/-- The kind of tile t set. -/
def Acc.setKind (a : Acc) (t : Nat) (i : Bool) : Acc :=
  { a with kinds := if i then a.kinds ||| ((1 : BitVec 4) <<< t) else a.kinds &&& ~~~((1 : BitVec 4) <<< t) }

/-- Address of an accumulator record (Table 27-9). -/
def State.accAt (s : State) (x u n : Nat) : Nat := s.coreRegion x (u / 4) + 0x100000 + 0x20000 * (2 * (u % 4) + n)

/-- The state block of Table 27-13; the rest of the record is reserved and 0 (R328). -/
def accBlock (a : Acc) (inbank : Bool) : List W64 :=
  let k (i : Nat) : Nat := (a.k.toList.getD i 0).toNat
  [BitVec.ofNat 64 (a.claimed.toNat * 2 ^ 63 + inbank.toNat * 2 ^ 62 + a.kinds.toNat),
   pair32 (k 0) (k 1), pair32 (k 2) (k 3), pair32 (k 4) (k 5), pair32 (k 6) (k 7)]
  ++ a.epi.toList
  ++ [BitVec.ofNat 64 (a.loop.active.toNat * 2 ^ 63 + a.loop.mode % 4 * 2 ^ 61 + a.loop.ft % 16 * 2 ^ 57 + a.loop.xtile % 4 * 2 ^ 55
        + a.loop.iters % 256 * 2 ^ 32 + a.loop.ctl.toNat),
      BitVec.ofNat 64 (a.loop.rho.toNat * 2 ^ 32)]

/-- A logical context spilled to its record. -/
def State.spillAcc (s : State) (x u n : Nat) : State :=
  let a := s.acc x u n
  let at_ := s.accAt x u n
  let tiles := (a.tiles.toList.map (fun t => (t.toList.map (fun w => leBytes 4 w.toNat)).flatten)).flatten
  s.physPut (u / 160) x at_ (tiles ++ ((accBlock a false).map (fun w => leBytes 8 w.toNat)).flatten ++ List.replicate (0x10000 - 120) 0)

/-- A logical context as its record gives it. -/
def State.readAcc (s : State) (x u n : Nat) : Acc :=
  let at_ := s.accAt x u n
  let w (i : Nat) : W64 := s.physW64 (u / 160) (at_ + 0x10000 + 8 * i)
  { claimed := bitAt (w 0) 63, wg := 0,
    tiles := Vector.ofFn (fun t : Fin 4 => Vector.ofFn (fun e : Fin 4096 => BitVec.ofNat 32 (leNat (s.physGet (u / 160) (at_ + 0x4000 * t.val + 4 * e.val) 4)))),
    kinds := BitVec.ofNat 4 (fld (w 0) 3 0),
    k := Vector.ofFn (fun i : Fin 8 => BitVec.ofNat 32 (fld (w (1 + i.val / 2)) (32 * (i.val % 2) + 31) (32 * (i.val % 2)))),
    epi := Vector.ofFn (fun i : Fin 8 => w (5 + i.val)),
    loop := ⟨bitAt (w 13) 63, fld (w 13) 62 61, fld (w 13) 60 57, fld (w 13) 56 55, fld (w 13) 39 32,
      BitVec.ofNat 32 (fld (w 13) 31 0), BitVec.ofNat 32 (fld (w 14) 63 32)⟩ }

/-- The banks of a unit. -/
def State.banksOf (s : State) (u : Nat) : AccBank × AccBank := Map.at s.mx.banks u (⟨none, 0⟩, ⟨none, 0⟩)

/-- A logical context is in a bank of a unit. -/
def State.inBank (s : State) (x u n : Nat) : Bool := (s.banksOf u).1.owner == some (x, n) || (s.banksOf u).2.owner == some (x, n)

/-- A context has claimed a logical context of a unit, as its bank or its current record says (R334). -/
def State.claims (s : State) (x u n : Nat) : Bool :=
  if s.inBank x u n then (s.acc x u n).claimed
  else if (Map.find s.mx.accs (accKey x u n)).isSome then (s.readAcc x u n).claimed || n == 0
  else s.coreBit x (u / 4) && (s.readAcc x u n).claimed

/-- The bank that R325 frees, `true` the second, when context `x` needs one and context `out` goes: one that holds nothing,
then the outgoing context's logical context 1, then one of a context that neither comes nor goes, then the least recently
selected. -/
def State.victimBank (s : State) (u x out keep : Nat) : Bool :=
  let b := s.banksOf u
  let rank (k : AccBank) : Nat := match k.owner with
    | none => 0
    | some (y, n) => if y = x ∧ n = keep then 4 else if y = out ∧ y ≠ x ∧ n = 1 then 1 else if y ≠ x ∧ y ≠ out then 2 else 3
  if rank b.2 < rank b.1 then true else if rank b.1 < rank b.2 then false else decide (b.2.age < b.1.age)

/-- Bank `second` of a unit changed hands: its logical context is spilled, and the new one filled from its record where the context has
claimed it, or else started (R188, R325). -/
def State.moveBank (s : State) (u : Nat) (second : Bool) (x n : Nat) : State :=
  let b := s.banksOf u
  let old := if second then b.2 else b.1
  let s1 := match old.owner with | some (y, m) => s.spillAcc y u m | none => s
  let s2 := if s1.claims x u n then
      (s1.physNote (u / 160) x (s1.accAt x u n) 0x10078).setAcc x u n { s1.readAcc x u n with wg := (s1.acc x u n).wg }
    else s1.setAcc x u n (Acc.fresh (n == 0))
  let nb : AccBank := ⟨some (x, n), s2.tick⟩
  let s3 := { s2 with mx := { s2.mx with banks := Map.put s2.mx.banks u (if second then (b.1, nb) else (nb, b.2)) } }
  let at_ := s3.accAt x u n + 0x10000
  s3.physWords (u / 160) x at_ [s3.physW64 (u / 160) at_ ||| 0x4000000000000000]

/-- A logical context brought into a bank where it is in none, beside the one that must stay. -/
def State.needBank (s : State) (x u n keep : Nat) : State :=
  if s.inBank x u n then s else s.moveBank u (s.victimBank u x x keep) x n

/-! ### Operand descriptors (Table 15-2) -/

/-- An operand descriptor. -/
structure Desc where
  src : Nat
  brot : Nat
  rpitch : Nat
  addr : Nat
  tpitch : Nat
  xaddr : Nat
  /-- A reserved bit is set. -/
  rsvd : Bool
deriving DecidableEq, Repr

/-- The descriptor of a pair. -/
def descOf (a b : W64) : Desc :=
  let v := fld a 63 62 == 1
  ⟨fld a 63 62, fld a 55 52, fld a 47 32, fld a 31 0, fld b 63 32, fld b 31 0,
    fld a 61 56 != 0 || fld a 51 48 != 0 || (v && (fld a 31 20 != 0 || fld a 15 7 != 0))⟩

/-- Bytes of a row of 64 elements of w bits. -/
def rowBytes (w : Nat) : Nat := 8 * w

/-- Launch-view address of byte o of row r of chunk c in scratchpad (R191). -/
def Desc.place (d : Desc) (w c r o : Nat) : Nat :=
  (d.addr + c * d.tpitch + r * d.rpitch + 16 * ((o / 16 + r * d.brot) % (rowBytes w / 16)) + o % 16) % 2 ^ 32

/-- Vector register and byte of byte o of a row of chunk c. -/
def Desc.vplace (d : Desc) (c o : Nat) : Nat × Nat := (d.addr % 128 + c * d.tpitch + o / 4, o % 4)

/-- The wave that a vector-register operand names: resident on unit u of the device, of launch l. -/
def State.unitWave (s : State) (l u wslot : Nat) : Option (Nat × Wave) :=
  s.waves.find? (fun e => e.2.part == u && e.2.rslot == wslot && e.2.launch == l && e.2.bank == .active && !e.2.ended)

/-- The ranges of the launch view of a thread of a launch: each with its length and its scratchpad offset (R153). -/
def State.threadView (s : State) (l cl : Nat) : List (Nat × Nat × Nat) :=
  (match s.seqWindow l cl with | some (o, n) => [(0x400000, n, o)] | none => [])
  ++ ((s.sch.wgs.filter (fun e => e.2.launch == l && e.2.core / 4 == cl)).map
      (fun e => (0x1000000 + (e.2.core % 4 * 8 + e.2.slot) * 0x400000, e.2.wsize, e.2.wbase)))

/-- The scratchpad bytes that an operation reaches at a launch-view range: where they stood at its issue, whatever has ended since. -/
def MOp.spadAt (m : MOp) (a n : Nat) : Option Home :=
  (m.view.find? (fun r => decide (r.1 ≤ a) && decide (a + n ≤ r.1 + r.2.1))).map (fun r => .spad m.cluster (r.2.2 + (a - r.1)))

/-- The wave that an operation names, while it is resident. -/
def State.opWave (s : State) (m : MOp) (d : Desc) : Option (Nat × Wave) :=
  match m.res.find? (fun e => e.1 == d.addr / 2 ^ 16 % 16) with
  | some e => match s.wave e.2 with | some v => if v.bank = .active ∧ !v.ended then some (e.2, v) else none | none => none
  | none => none

/-- An element of w bits at position p of row r, chunk c, of an operand. -/
def State.elem (s : State) (m : MOp) (d : Desc) (w c r p : Nat) : Nat :=
  let o := p * w / 8
  let n := if w < 8 then 1 else w / 8
  let x :=
    if d.src = 0 then
      match m.spadAt (d.place w c r o) n with
      | some h => leNat (s.bytesAt h n)
      | none => 0
    else
      match s.opWave m d with
      | some (_, v) => (v.lane (d.vplace c o).1 r).toNat / 256 ^ (d.vplace c o).2 % 256 ^ n
      | none => 0
  if w < 8 then x / 16 ^ (p % 2) % 16 else x

/-- Causes, with addresses, that a descriptor breaks over `chunks` chunks with `rows c` rows of `len` positions; `dstn`
marks a destination, `mx` an MX-scaled operand, `one` an operand of one chunk (R189, R191). -/
def State.descFaults (s : State) (l cl u : Nat) (d : Desc) (w chunks : Nat) (rows len : Nat → Nat) (dstn mx one : Bool) : List (Nat × Nat) :=
  let bad := d.rsvd || decide (1 < d.src) || decide (7 < d.brot) || (!mx && d.xaddr != 0) || (one && d.tpitch != 0)
  let cells := ((List.range chunks).map (fun c => ((List.range (rows c)).map (fun r =>
    (List.range ((len c * w + 127) / 128)).map (fun k => (c, r, 16 * k, min 16 ((len c * w + 7) / 8 - 16 * k))))).flatten)).flatten
  if d.src = 0 then
    let mis := d.addr % 16 != 0 || d.rpitch % 16 != 0 || d.tpitch % 16 != 0
    let out := cells.find? (fun (c, r, o, n) => (s.view none l cl (d.place w c r o) n).isNone)
    (if mis then [(0x03, d.addr)] else [])
    ++ (match out with | some (c, r, o, _) => [(0x04, d.place w c r o)] | none => [])
    ++ (if bad || (dstn && decide (d.rpitch < rowBytes w)) then [(0x13, 0)] else [])
  else if d.src ≠ 1 then [(0x13, 0)]
  else
    match s.unitWave l u (d.addr / 2 ^ 16 % 16) with
    | none => [(0x13, 0)]
    | some (_, v) =>
      (if cells.any (fun (c, _, o, n) => decide (v.allot ≤ (d.vplace c (o + n - 1)).1)) then [(0x02, 0)] else [])
      ++ (if bad || d.brot != 0 || d.rpitch != 0 || decide (127 < d.tpitch) then [(0x13, 0)] else [])

/-- Causes of n scratchpad bytes at an address with an alignment. -/
def State.padFaults (s : State) (l cl a n align : Nat) : List (Nat × Nat) :=
  (if a % align ≠ 0 then [(0x03, a)] else []) ++ (if (s.view none l cl a n).isNone then [(0x04, a)] else [])

/-- The cause reported among several: operand-range first, then the lowest code (R310). -/
def pickCause (l : List (Nat × Nat)) : Option (Nat × Nat) :=
  match l.find? (fun e => e.1 == 0x02) with
  | some e => some e
  | none => l.foldl (fun b e => match b with | none => some e | some x => if e.1 < x.1 then some e else b) none

/-- n bytes of scratchpad at a launch-view address of a thread's launch. -/
def State.padNum (s : State) (l cl a n : Nat) : Nat :=
  match s.view none l cl a n with
  | some h => leNat (s.bytesAt h n)
  | none => 0

/-! ### Arithmetic of tiles -/

/-- A value times 2^k. -/
def FV.scale (x : FV) (k : Int) : FV := match x with | .fin n m e => .fin n m (e + k) | y => y

/-- The value of an element under an E8M0 scale (R80); plain where there is none. `mxint` is an MXINT8 element. -/
def mxValue (n : NumFmt) (b : Nat) (sc : Option Nat) : FV :=
  match sc with
  | none => n.value b
  | some k =>
    if k = 0xFF then .nan
    else (n.value b).scale ((k : Int) - 127 - (match n with | .int _ _ => 6 | .fl _ => 0))

/-- The sum of one K-block rounded (R81). -/
def blockSum (ab : List (FV × FV)) : FV :=
  (ffmt .f32).value ((ffmt .f32).round .even false (ab.foldl (fun a p => (a.add (p.1.mul p.2).1).1) (.fin false 0 0))).1

/-- An accumulator element after the K-blocks of a product, as the pseudocode of R81 has it: an accumulator of −0 stays −0 where
the sum of the block is −0 too, against the sentence on −0 beside it. DEDUCED (log entry 49). -/
def accumulate (acc : W32) (blocks : List (List (FV × FV))) : W32 :=
  let g := ffmt .f32
  blocks.foldl (fun a ab => BitVec.ofNat 32 (g.addOp false (g.value a.toNat) (blockSum ab)).1) acc

/-- An integer of a finite value. -/
def FV.toI : FV → Int
  | .fin n m e => let k : Int := (m * 2 ^ e.toNat : Nat); if n then -k else k
  | _ => 0

/-- An accumulator element after the K-blocks of an integer product (R83). -/
def accumulateInt (acc : W32) (blocks : List (List (FV × FV))) : W32 :=
  blocks.foldl (fun a ab => BitVec.ofNat 32 (clampInt 32 true (a.toInt + ab.foldl (fun z p => z + p.1.toI * p.2.toI) 0))) acc

/-- FP32 with NaN made canonical. -/
def canon32 (x : W32) : W32 := if (ffmt .f32).value x.toNat = .nan then 0x7FC00000 else x

/-- The larger of two magnitudes, NaN above all. -/
def FV.maxAbs (x y : FV) : FV := if x.isNan then x else if y.isNan then y else if x.abs.lt y.abs then y.abs else x.abs

end Sys2Proof.Machine
end

