-- ==== Sys2Proof/Machine/Matrix.lean ====
section
/-! DEFINITION. The matrix instructions (spec/15_matrix_instructions.md): checks at issue, operations in flight, and what
an operation does when it completes. -/

namespace Sys2Proof.Machine

open Sys2Proof

/-- The fields of a matrix instruction. -/
def Instr.ef (i : Instr) : EF :=
  match i.view with
  | .e _ f => f
  | _ => ⟨.none, .none, .none, .none, .i32, .i32, 0, false, false, 0, 0⟩

/-- M, N and K of a control word (Table 15-3). -/
def ctlM (c : W64) : Nat := fld c 21 16 + 1
/-- Columns in use. -/
def ctlN (c : W64) : Nat := fld c 13 8 + 1
/-- Positions along K. -/
def ctlK (c : W64) : Nat := 32 * fld c 6 0

/-- A control word that breaks Table 15-3; `mma` for the MMA family. -/
def ctlBad (c : W64) (mma : Bool) : Bool :=
  fld c 63 22 != 0 || fld c 15 14 != 0 || bitAt c 7 || (if mma then fld c 6 0 == 0 || decide (64 < fld c 6 0) else fld c 6 0 != 0)

/-- Unit of the device on which an operation runs. -/
def MOp.unit (m : MOp) : Nat := 16 * m.cluster + (Instr.ef m.i).aux.toNat % 16

/-- Number of the logical context named. -/
def EF.ctx (f : EF) : Nat := f.actx.toNat

/-- The tile named. -/
def EF.tile (f : EF) : Nat := f.acc.toNat

/-- An MMA works in integers (Table 15-4). -/
def EF.plainInt (f : EF) : Bool := f.ty == .i8 && f.fn.toNat % 4 == 0

/-- An operand of the MMA family: descriptor, width and format, chunks and positions. -/
def MOp.da (m : MOp) : Desc := descOf m.a m.a2
/-- The B operand. -/
def MOp.db (m : MOp) : Desc := descOf m.b m.b2

/-- Positions of A along K in memory: half of K where A is compressed. -/
def MOp.ka (m : MOp) : Nat := match m.i with | .mmaSp _ => ctlK m.c / 2 | _ => ctlK m.c

/-- Whether an operation is of the MMA family. -/
def Instr.isMma : Instr → Bool
  | .mma _ | .mmaSp _ | .mmaChk _ => true
  | _ => false

/-- The epilogue block as its fields (Table 15-5). -/
structure Epi where
  bmode : Nat
  act : Nat
  smode : Nat
  rm : Nat
  sat : Bool
  mx : Bool
  biasaddr : Nat
  scaleaddr : Nat
  sval : Nat
  slope : Nat
  lo : Nat
  hi : Nat
  mxaddr : Nat
deriving DecidableEq, Repr

/-- An epilogue block read. -/
def epiOf (w : Vector W64 8) : Epi :=
  ⟨fld w[0] 63 60, fld w[0] 59 56, fld w[0] 55 52, fld w[0] 51 50, bitAt w[0] 49, bitAt w[0] 48, fld w[1] 63 32, fld w[1] 31 0,
    fld w[2] 63 32, fld w[2] 31 0, fld w[3] 63 32, fld w[3] 31 0, fld w[4] 31 0⟩

/-- A block that breaks Table 15-5. -/
def epiBad (w : Vector W64 8) : Bool :=
  let e := epiOf w
  decide (2 < e.bmode) || decide (4 < e.act) || decide (3 < e.smode) || e.rm == 3 || fld w[0] 47 0 != 0 || e.biasaddr % 4 != 0
    || e.scaleaddr % 4 != 0 || fld w[4] 63 32 != 0 || w[5] != 0 || w[6] != 0 || w[7] != 0

/-- The eight words at a launch-view address. -/
def State.padWords (s : State) (l cl a : Nat) : Vector W64 8 :=
  Vector.ofFn (fun i : Fin 8 => BitVec.ofNat 64 (s.padNum l cl (a + 8 * i.val) 8))

/-- Pairs below two bounds, row by row. -/
def grid (n m : Nat) : List (Nat × Nat) := ((List.range n).map (fun i => (List.range m).map (fun j => (i, j)))).flatten

/-- What an operation reads besides its tiles: for each operand the element width and the codes (R193). -/
def State.opReads (s : State) (m : MOp) : List (Nat × List Nat) :=
  let f := Instr.ef m.i
  let u := m.unit
  let el (d : Desc) (w c r p : Nat) : Nat := s.elem m d w c r p
  let pad (a n : Nat) : Nat := match m.spadAt (a % 2 ^ 32) n with | some h => leNat (s.bytesAt h n) | none => 0
  let mm := ctlM m.c
  let nn := ctlN m.c
  let kk := ctlK m.c
  if Instr.isMma m.i then
    let wa := tyBits f.ty
    let wb := tyBits f.tyb
    let ea := (grid mm m.ka).map (fun (i, k) => el m.da wa (k / 64) i (k % 64))
    let eb := (grid kk nn).map (fun (k, j) => el m.db wb (k / 64) (k % 64) j)
    let sa := if f.fn.getLsbD 0 then (grid mm (kk / 32)).map (fun (i, b) => pad (m.da.xaddr + 64 * i + b) 1) else []
    let sb := if f.fn.getLsbD 1 then (grid nn (kk / 32)).map (fun (j, b) => pad (m.db.xaddr + 64 * j + b) 1) else []
    let ex := match m.i with
      | .mmaSp _ => [(8, (grid mm (kk / 4)).map (fun (i, g) => pad (m.c2.toNat + 512 * i + g) 1))]
      | .mmaChk _ => [(32, (List.range kk).map (fun k => pad (fld m.c2 63 32 + 4 * k) 4)),
                      (32, (List.range kk).map (fun k => pad (fld m.c2 31 0 + 4 * k) 4))]
      | _ => []
    [(wa, ea), (8, sa), (wb, eb), (8, sb)] ++ ex
  else
    match m.i with
    | .ain _ => [(32, (grid mm nn).map (fun (i, j) => el m.da 32 0 i j))]
    | .aout _ | .aoutClr _ =>
      let e := epiOf (s.acc m.ctx u (EF.ctx f)).epi
      [(32, (List.range (match e.bmode with | 1 => nn | 2 => mm | _ => 0)).map (fun k => pad (e.biasaddr + 4 * k) 4)),
       (32, (List.range (match e.smode with | 2 => nn | 3 => mm | _ => 0)).map (fun k => pad (e.scaleaddr + 4 * k) 4))]
    | .kldAll _ => [(32, (List.range 8).map (fun k => pad (m.a.toNat % 2 ^ 32 + 4 * k) 4))]
    | .epi _ => [(64, (List.range 8).map (fun k => pad (m.a.toNat % 2 ^ 32 + 8 * k) 8))]
    | _ => []

/-- Tiles of a MITER control word: ta, tb, tc. -/
def miterTiles (c : W64) (mode : Nat) : List Nat :=
  [fld c 11 10, fld c 13 12] ++ (if mode = 2 then [fld c 15 14] else [])

/-- Causes found at issue (R189 and the rules of each instruction). -/
def State.opFaults (s : State) (m : MOp) : List (Nat × Nat) :=
  let f := Instr.ef m.i
  let u := m.unit
  let l := m.launch
  let cl := m.cluster
  let a := s.acc m.ctx u (EF.ctx f)
  let t := EF.tile f
  let mm := ctlM m.c
  let nn := ctlN m.c
  let kk := ctlK m.c
  let inv (b : Bool) : List (Nat × Nat) := if b then [(0x13, 0)] else []
  let kind (b : Bool) : List (Nat × Nat) := inv (a.isI t != b)
  let chunks (k : Nat) : Nat := (k + 63) / 64
  let len (k c : Nat) : Nat := min 64 (k - 64 * c)
  if Instr.isMma m.i then
    inv (ctlBad m.c true) ++ kind (EF.plainInt f)
    ++ s.descFaults l cl u m.da (tyBits f.ty) (chunks m.ka) (fun _ => mm) (len m.ka) false (f.fn.getLsbD 0) false
    ++ s.descFaults l cl u m.db (tyBits f.tyb) (chunks kk) (len kk) (fun _ => nn) false (f.fn.getLsbD 1) false
    ++ (if f.fn.getLsbD 0 then ((List.range mm).map (fun i => s.padFaults l cl ((m.da.xaddr + 64 * i) % 2 ^ 32) (kk / 32) 1)).flatten else [])
    ++ (if f.fn.getLsbD 1 then ((List.range nn).map (fun j => s.padFaults l cl ((m.db.xaddr + 64 * j) % 2 ^ 32) (kk / 32) 1)).flatten else [])
    ++ (match m.i with
        | .mmaSp _ =>
          inv (fld m.c2 63 32 != 0)
          ++ ((List.range mm).map (fun i => s.padFaults l cl ((fld m.c2 31 0 + 512 * i) % 2 ^ 32) (kk / 4) 1)).flatten
          ++ inv ((grid mm (kk / 4)).any (fun (i, g) =>
              let b := s.padNum l cl ((fld m.c2 31 0 + 512 * i + g) % 2 ^ 32) 1
              b % 4 ≥ b / 4 % 4 || b / 16 != 0))
        | .mmaChk _ => s.padFaults l cl (fld m.c2 63 32) (4 * kk) 4 ++ s.padFaults l cl (fld m.c2 31 0) (4 * kk) 4
        | _ => [])
  else
    match m.i with
    | .ain _ =>
      inv (ctlBad m.c false) ++ (if mm = 64 ∧ nn = 64 then [] else kind (f.ty == .i32))
      ++ s.descFaults l cl u m.da 32 1 (fun _ => mm) (fun _ => nn) false false true
    | .aout _ | .aoutClr _ =>
      let e := epiOf a.epi
      let w := tyBits f.ty
      inv (ctlBad m.c false || (e.mx && !((f.ty == .e4m3 || f.ty == .e5m2 || f.ty == .e2m1 || f.ty == .i8) && (nn == 32 || nn == 64))))
      ++ s.descFaults l cl u (descOf m.d m.d2) w 1 (fun _ => mm) (fun _ => nn) true false true
      ++ (match e.bmode with | 1 => s.padFaults l cl e.biasaddr (4 * nn) 4 | 2 => s.padFaults l cl e.biasaddr (4 * mm) 4 | _ => [])
      ++ (match e.smode with | 2 => s.padFaults l cl e.scaleaddr (4 * nn) 4 | 3 => s.padFaults l cl e.scaleaddr (4 * mm) 4 | _ => [])
      ++ (if e.mx then ((List.range mm).map (fun i => s.padFaults l cl ((e.mxaddr + 2 * i) % 2 ^ 32) (nn / 32) 1)).flatten else [])
    | .epi _ =>
      let p := s.padFaults l cl (m.a.toNat % 2 ^ 32) 64 64
      if p = [] then inv (epiBad (s.padWords l cl (m.a.toNat % 2 ^ 32))) else p
    | .kldAll _ => s.padFaults l cl (m.a.toNat % 2 ^ 32) 32 4
    | .miter _ | .miterCont _ =>
      let mode := f.fn.toNat % 4
      let ts := miterTiles m.c mode
      let cont := match m.i with | .miterCont _ => true | _ => false
      let lp := a.loop
      inv (fld m.c 63 16 != 0 || fld m.c 9 8 != 0 || (mode != 2 && fld m.c 15 14 != 0) || (mode == 0 && decide (7 < fld m.c 7 0))
        || !(decide ((t :: ts).Nodup)) || (t :: ts).any (fun k => a.isI k)
        || (cont && !(lp.active && lp.mode == mode && lp.ft == Ty.code f.ty && lp.xtile == t && lp.ctl.toNat == m.c.toNat)))
    | _ => []

/-! ### MITER (R200 to R202) -/

/-- A tile element as a value. -/
def Acc.fv (a : Acc) (t i j : Nat) : FV := (ffmt .f32).value (a.at t i j).toNat

/-- Feed: an element rounded to the feed type. -/
def feed (ft : Ty) (x : FV) : FV := (ffmt ft).value ((ffmt ft).round .even false x).1

/-- Element (i, j) of a 64 by 64 product under R81. -/
def prodAt (x y : Nat → Nat → FV) (i j : Nat) : W32 :=
  accumulate 0 [(List.range 32).map (fun k => (x i k, y k j)), (List.range 32).map (fun k => (x i (32 + k), y (32 + k) j))]

/-- FP32 of a value rounded to nearest even. -/
def toF32 (x : FV) : W32 := BitVec.ofNat 32 ((ffmt .f32).round .even false x).1

/-- The whole of a tile. -/
def allElems (_ _ : Nat) : Bool := true

/-- Coefficient kn as a value. -/
def Acc.kv (a : Acc) (n : Nat) : FV := (ffmt .f32).value (a.k.toList.getD n 0).toNat

/-- One iteration of a MITER: the context after it, and `out` where the run stops. -/
def miterIterate (a : Acc) : Acc × Option Nat :=
  let lp := a.loop
  let c : W64 := lp.ctl.zeroExtend 64
  let ft := (Ty.ofCode lp.ft).getD .bf16
  let x := lp.xtile
  let cap := fld c 7 0
  let ta := fld c 11 10
  let tb := fld c 13 12
  let tc := fld c 15 14
  let fd (t : Nat) (i j : Nat) : FV := feed ft (a.fv t i j)
  if lp.mode = 0 then
    let n := lp.iters + 1
    let p := prodAt (fd ta) (fd x)
    let kn := a.kv (cap - n)
    let y (i j : Nat) : W32 := if i = j then toF32 (((ffmt .f32).value (p i j).toNat).add kn).1 else p i j
    (({ a with loop := { lp with iters := n } }.put tb allElems p).put ta allElems y, if n = cap then some 2 else none)
  else
    let r := if lp.mode = 1 then prodAt (fd x) (fun k j => fd x j k) else prodAt (fd ta) (fd x)
    let a1 := if lp.mode = 1 then a.put ta allElems r else a.put tb allElems r
    let diff (i j : Nat) : FV := (((ffmt .f32).value (r i j).toNat).add (if i = j then .fin true 1 0 else .fin false 0 0)).1
    let mx := (grid 64 64).foldl (fun m e => FV.maxAbs m (diff e.1 e.2)) (.fin false 0 0)
    let rho := toF32 mx
    let rv := (ffmt .f32).value rho.toNat
    let a2 := { a1 with loop := { lp with rho := rho } }
    if rv.isNan || (a.kv 7).lt rv then (a2, some 4)
    else if rv.lt (a.kv 6) || rv.eq (a.kv 6) then (a2, some 0)
    else
      let fr (i j : Nat) : FV := feed ft ((ffmt .f32).value (r i j).toNat)
      let p := if lp.mode = 1 then prodAt fr (fd x) else prodAt (fd x) fr
      let tp := if lp.mode = 1 then tb else tc
      let nx (i j : Nat) : W32 := toF32 (((a.kv 0).mul (a.fv x i j)).1.add ((a.kv 1).mul ((ffmt .f32).value (p i j).toNat)).1).1
      let n := lp.iters + 1
      (({ a2 with loop := { a2.loop with iters := n } }.put tp allElems p).put x allElems nx, if n = cap then some 1 else none)

/-- The start of a MITER without CONT: the loop state, and POLY's first Y; `out` where a cap of 0 ends it at once. -/
def miterStart (a : Acc) (mode : Nat) (ft : Ty) (x : Nat) (c : W64) : Acc × Option Nat :=
  let cap := fld c 7 0
  let a1 := { a with loop := ⟨true, mode, Ty.code ft, x, 0, c.truncate 32, 0⟩ }
  if mode = 0 then
    (a1.put (fld c 11 10) allElems (fun i j => if i = j then a.k.toList.getD cap 0 else 0), if cap = 0 then some 2 else none)
  else (a1, if cap = 0 then some 1 else none)

/-- A run divided by stops goes on (R202); a run whose count is already at its cap stops as before. -/
def miterResume (a : Acc) : Acc × Option Nat := (a, none)

/-- The loop state becomes inactive when `out` is not 3. -/
def Acc.loopEnd (a : Acc) (out : Nat) : Acc := if out = 3 then a else { a with loop := { a.loop with active := false } }

/-- The status word of Table 15-7. -/
def miterStatus (a : Acc) (out : Nat) : Nat := a.loop.rho.toNat * 2 ^ 32 + a.loop.iters % 256 * 2 ^ 16 + out

/-- A write of tiles or coefficients ends an active loop that names one of them (R202). -/
def Acc.touch (a : Acc) (tiles ks : List Nat) : Acc :=
  let lp := a.loop
  let c : W64 := lp.ctl.zeroExtend 64
  let named := lp.xtile :: miterTiles c lp.mode
  let kn := if lp.mode = 0 then List.range (fld c 7 0 + 1) else [0, 1, 6, 7]
  if lp.active && (tiles.any (fun t => named.contains t) || ks.any (fun k => kn.contains k)) then { a with loop := { lp with active := false } }
  else a

/-! ### What operations do -/

/-- Codes read under a race take free values of their width (R193). -/
def mergeCodes (w : Nat) : List Nat → List Nat → Nat → List Nat × Nat
  | a :: r, b :: q, n =>
    let x := mergeCodes w r q (if a = b then n else n + 1)
    ((if a = b then a else (Config.freeWord n).toNat % 2 ^ w) :: x.1, x.2)
  | _, _, n => ([], n)

/-- What an operation reads as it completes: an operand in registers of a wave that is gone reads as it stood at issue, since no one
has written it. -/
def State.opNow (s : State) (m : MOp) : List (Nat × List Nat) :=
  let gone (d : Desc) : Bool := d.src == 1 && (s.opWave m d).isNone
  (s.opReads m).mapIdx (fun i e =>
    if (i == 0 && gone m.da) || (i == 2 && Instr.isMma m.i && gone m.db) then m.snap.getD i e else e)

/-- All operands merged. -/
def mergeReads : List (Nat × List Nat) → List (Nat × List Nat) → Nat → List (Array Nat) × Nat
  | (w, a) :: r, (_, b) :: q, n =>
    let x := mergeCodes w a b n
    let y := mergeReads r q x.2
    (x.1.toArray :: y.1, y.2)
  | _, _, n => ([], n)

/-- Values of the A and B elements of an MMA, from its operand codes. -/
def MOp.values (m : MOp) (rd : List (Array Nat)) : (Nat → Nat → FV) × (Nat → Nat → FV) :=
  let f := Instr.ef m.i
  let g (i : Nat) : Array Nat := rd.getD i #[]
  let kk := ctlK m.c
  let nn := ctlN m.c
  let fa := numFmt f.ty false
  let fb := numFmt f.tyb false
  let sa (i k : Nat) : Option Nat := if f.fn.getLsbD 0 then some ((g 1).getD (i * (kk / 32) + k / 32) 0) else none
  let sb (k j : Nat) : Option Nat := if f.fn.getLsbD 1 then some ((g 3).getD (j * (kk / 32) + k / 32) 0) else none
  let ca (i k : Nat) : Nat := match m.i with
    | .mmaSp _ =>
      let b := (g 4).getD (i * (kk / 4) + k / 4) 0
      if k % 4 = b % 4 then (g 0).getD (i * (kk / 2) + k / 4 * 2) 0
      else if k % 4 = b / 4 % 4 then (g 0).getD (i * (kk / 2) + k / 4 * 2 + 1) 0 else 0
    | _ => (g 0).getD (i * kk + k) 0
  (fun i k => mxValue fa (ca i k) (sa i k), fun k j => mxValue fb ((g 2).getD (k * nn + j) 0) (sb k j))

/-- Exact sum of values. -/
def sumFV (l : List FV) : FV := l.foldl (fun a x => (a.add x).1) (.fin false 0 0)

/-- One row or column of the check of R195 mismatches. -/
def checkBad (x y w : FV) (t : Nat) : Bool :=
  match x, y, w with
  | .fin _ _ _, .fin _ _ _, .fin _ _ _ => (w.scale (-(t : Int))).lt ((x.add y.negate).1).abs
  | _, _, _ => false

/-- The checksum test of MMA.CHK. -/
def MOp.mismatch (m : MOp) (rd : List (Array Nat)) : Bool :=
  let f := Instr.ef m.i
  let v := m.values rd
  let mm := ctlM m.c
  let nn := ctlN m.c
  let kk := ctlK m.c
  let t := 8 + f.aux.toNat / 16
  let p32 (i k : Nat) : FV := (ffmt .f32).value ((rd.getD i #[]).getD k 0)
  let ks := List.range kk
  (List.range mm).any (fun i => checkBad
    (sumFV ((grid nn kk).map (fun (j, k) => ((v.1 i k).mul (v.2 k j)).1)))
    (sumFV (ks.map (fun k => ((v.1 i k).mul (p32 5 k)).1)))
    (sumFV (ks.map (fun k => ((v.1 i k).abs.mul (sumFV ((List.range nn).map (fun j => (v.2 k j).abs)))).1))) t)
  || (List.range nn).any (fun j => checkBad
    (sumFV ((grid mm kk).map (fun (i, k) => ((v.1 i k).mul (v.2 k j)).1)))
    (sumFV (ks.map (fun k => ((p32 4 k).mul (v.2 k j)).1)))
    (sumFV (ks.map (fun k => (sumFV ((List.range mm).map (fun i => ((v.1 i k).abs.mul (v.2 k j).abs).1))))) ) t)

/-- The product added into the tile (R194). -/
def MOp.product (m : MOp) (a : Acc) (rd : List (Array Nat)) : Acc :=
  let f := Instr.ef m.i
  let v := m.values rd
  let t := EF.tile f
  let blocks (i j : Nat) : List (List (FV × FV)) :=
    (List.range (ctlK m.c / 32)).map (fun b => (List.range 32).map (fun k => (v.1 i (32 * b + k), v.2 (32 * b + k) j)))
  (a.put t (fun i j => decide (i < ctlM m.c) && decide (j < ctlN m.c))
    (fun i j => if EF.plainInt f then accumulateInt (a.at t i j) (blocks i j) else accumulate (a.at t i j) (blocks i j))).touch [t] []

/-! ### Epilogue and drain (R198, R199) -/

/-- VFMIN and VFMAX on values. -/
def FV.minMax (wantMax : Bool) (x y : FV) : FV :=
  if x.isNan then y
  else if y.isNan then x
  else
    let less := x.lt y || (x.eq y && x.isNeg && !y.isNeg)
    if less != wantMax then x else y

/-- Act of R199. -/
def Epi.apply (e : Epi) (x : FV) : FV :=
  let g := ffmt .f32
  match e.act with
  | 1 => if x.isNan then .nan else if (FV.fin false 0 0).lt x then x else .fin false 0 0
  | 2 => if x.lt (.fin false 0 0) then g.value (g.round .even false (x.mul (g.value e.slope)).1).1 else x
  | 3 => FV.minMax false (FV.minMax true x (g.value e.lo)) (g.value e.hi)
  | 4 => g.value (g.round .even false (fTanh x).1).1
  | _ => x

/-- Codes of a row of values, rounded one by one; stochastic rounding groups eight neighbours (R76, R77). -/
def rowCodes (dt : NumFmt) (rm : Nat) (sat : Bool) (xs : List FV) : List Nat :=
  let ds := (xs.map dt.dropped).toArray
  xs.mapIdx (fun j x =>
    let d (k : Nat) : Nat := ds.getD k 0
    (dt.round (dt.mode rm (hashH (d (j / 8 * 8 + (j + 7) % 8)) (d (j / 8 * 8 + (j + 1) % 8)) (j % 8))) sat x).1)

/-- The largest exponent of an MX element format (R80). -/
def mxEmax (n : NumFmt) : Int :=
  match n with
  | .int _ _ => 0
  | .fl f => if f.width = 4 then 2 else if f.nanTop then 8 else 15

/-- Quantisation of a block of 32 values: scale and codes (R80). -/
def quantise (n : NumFmt) (rm : Nat) (xs : List FV) : Nat × List Nat :=
  if xs.any (fun x => match x with | .fin _ _ _ => false | _ => true) then (0xFF, xs.map (fun _ => 0))
  else
    let tops := xs.filterMap (fun x => match x with | .fin _ m e => if m = 0 then none else some (e + (log2 m : Nat)) | _ => none)
    match tops with
    | [] => (0x7F, rowCodes n rm false xs)
    | t :: r =>
      let e := min (max (r.foldl max t - mxEmax n) (-127)) 127
      ((e + 127).toNat, rowCodes n rm true (xs.map (fun x => x.scale (-e + (match n with | .int _ _ => 6 | .fl _ => 0)))))

/-- An element of a destination written (R191, R199). -/
def State.putElem (s : State) (m : MOp) (d : Desc) (w r p code : Nat) : State :=
  let o := p * w / 8
  let n := if w < 8 then 1 else w / 8
  if d.src = 0 then
    match m.spadAt (d.place w 0 r o) n with
    | some h =>
      let old := leNat (s.bytesAt h n)
      let x := if w < 8 then (if p % 2 = 0 then old / 16 * 16 + code % 16 else old % 16 + code % 16 * 16) else code
      s.putAt h (leBytes n x)
    | none => s
  else
    match s.opWave m d with
    | some (i, v) =>
      let k := d.vplace 0 o
      let old := (v.lane k.1 r).toNat
      let sh := 8 * k.2 + (if w < 8 then 4 * (p % 2) else 0)
      let x := old - old / 2 ^ sh % 2 ^ w * 2 ^ sh + code % 2 ^ w * 2 ^ sh
      s.setWave i (v.putLane k.1 r (BitVec.ofNat 32 x))
    | none => s

/-- AOUT (R199). -/
def State.drainTile (s : State) (m : MOp) (rd : List (Array Nat)) (clr : Bool) : State :=
  let f := Instr.ef m.i
  let u := m.unit
  let a := s.acc m.ctx u (EF.ctx f)
  let t := EF.tile f
  let e := epiOf a.epi
  let d := descOf m.d m.d2
  let dt := numFmt f.ty false
  let mm := ctlM m.c
  let nn := ctlN m.c
  let g := ffmt .f32
  let vecAt (i k : Nat) : FV := g.value ((rd.getD i #[]).getD k 0)
  let x (i j : Nat) : FV :=
    let x0 := if a.isI t then (NumFmt.int 32 true).value (a.at t i j).toNat else a.fv t i j
    let x1 := if e.bmode = 0 then x0 else g.value (g.round .even false (x0.add (vecAt 0 (if e.bmode = 1 then j else i))).1).1
    let sc := match e.smode with | 1 => g.value e.sval | 2 => vecAt 1 j | _ => vecAt 1 i
    e.apply (if e.smode = 0 then x1 else g.value (g.round .even false (x1.mul sc).1).1)
  let row (s1 : State) (i : Nat) : State :=
    let xs := (List.range nn).map (fun j => x i j)
    if e.mx then
      (List.range (nn / 32)).foldl (fun s2 b =>
        let q := quantise dt e.rm ((xs.drop (32 * b)).take 32)
        let s3 := q.2.zipIdx.foldl (fun z c => z.putElem m d dt.width i (32 * b + c.2) c.1) s2
        match m.spadAt ((e.mxaddr + 2 * i + b) % 2 ^ 32) 1 with
        | some h => s3.putAt h [BitVec.ofNat 8 q.1]
        | none => s3) s1
    else (rowCodes dt e.rm e.sat xs).zipIdx.foldl (fun z c => z.putElem m d dt.width i c.2 c.1) s1
  let s1 := (List.range mm).foldl row s
  if clr then
    s1.setAcc m.ctx u (EF.ctx f) ((a.put t (fun i j => decide (i < mm) && decide (j < nn)) (fun _ _ => 0)).touch [t] [])
  else s1

/-- The effect of an operation that completes: the state, the status for `dst`, and a trap cause (R194 to R202). -/
def State.matrixEffect (s : State) (m : MOp) (rd : List (Array Nat)) : State × Nat × Option Nat :=
  let f := Instr.ef m.i
  let u := m.unit
  let x := m.ctx
  let c := EF.ctx f
  let a := s.acc x u c
  let t := EF.tile f
  match m.i with
  | .mma _ | .mmaSp _ => (s.setAcc x u c (m.product a rd), 0, none)
  | .mmaChk _ =>
    if m.mismatch rd then (s, 1, if f.fn.getLsbD 2 then some 0x14 else none) else (s.setAcc x u c (m.product a rd), 0, none)
  | .miter _ | .miterCont _ => (s.setAcc x u c (a.loopEnd m.out), miterStatus a m.out, if m.out = 4 then some 0x15 else none)
  | .aclr _ =>
    let ts := if f.fn = 0 then [t] else [0, 1, 2, 3]
    (s.setAcc x u c (ts.foldl (fun b k => ((b.put k allElems (fun _ _ => 0)).setKind k (f.ty == .i32)).touch [k] []) a), 0, none)
  | .ain _ =>
    let e (i j : Nat) : W32 := BitVec.ofNat 32 ((rd.getD 0 #[]).getD (i * ctlN m.c + j) 0)
    let b := a.put t (fun i j => decide (i < ctlM m.c) && decide (j < ctlN m.c)) (fun i j => if f.ty = .f32 then canon32 (e i j) else e i j)
    (s.setAcc x u c ((if ctlM m.c = 64 ∧ ctlN m.c = 64 then b.setKind t (f.ty == .i32) else b).touch [t] []), 0, none)
  | .aout _ => (s.drainTile m rd false, 0, none)
  | .aoutClr _ => (s.drainTile m rd true, 0, none)
  | .epi _ => (s.setAcc x u c { a with epi := Vector.ofFn (fun i : Fin 8 => BitVec.ofNat 64 ((rd.getD 0 #[]).getD i.val 0)) }, 0, none)
  | .kld _ =>
    let n := f.aux.toNat / 16 % 8
    (s.setAcc x u c ({ a with k := a.k.setIfInBounds n (canon32 (m.a.truncate 32)) }.touch [] [n]), 0, none)
  | .kldAll _ =>
    let k := Vector.ofFn (fun i : Fin 8 => canon32 (BitVec.ofNat 32 ((rd.getD 0 #[]).getD i.val 0)))
    (s.setAcc x u c ({ a with k := k }.touch [] [0, 1, 2, 3, 4, 5, 6, 7]), 0, none)
  | .actxSwap _ =>
    let p := s.acc x u 0
    let q := s.acc x u 1
    let q' := if q.claimed then q else Acc.fresh true
    ((s.setAcc x u 0 { q' with claimed := true }).setAcc x u 1 { p with claimed := true }, 0, none)
  | .actxRel _ =>
    let b := s.banksOf u
    let drop (k : AccBank) : AccBank := if k.owner = some (x, 1) then ⟨none, k.age⟩ else k
    if !(s.claims x u 1) then (s, 0, none)
    else
    let s1 := { s with mx := { s.mx with accs := Map.del s.mx.accs (accKey x u 1), banks := Map.put s.mx.banks u (drop b.1, drop b.2) } }
    (s1.physWords (u / 160) x (s1.accAt x u 1 + 0x10000) [0], 0, none)
  | _ => (s, 0, none)

/-! ### Issue (R187, R188) -/

/-- The core of unit u of cluster cl (R186). -/
def unitCore (cl u : Nat) : Nat := 4 * cl + u / 4

/-- A q register pair as two words. -/
def State.qPairOf (s : State) (ag : Agent) (o : Opnd) : W64 × W64 := (s.reg ag o true, s.reg ag (Opnd.plus o 1) true)

/-- The operation of an instruction of a thread, with the registers it captures. -/
def State.mopOf (s : State) (i : Instr) (c t : Nat) : MOp :=
  let f := Instr.ef i
  let ag : Agent := .thread c t
  let one (o : Opnd) : W64 := match o with | .lit w => w | o => s.reg ag o true
  let pr (o : Opnd) : W64 × W64 := match o with | .lit w => (w, 0) | o => s.qPairOf ag o
  let u := f.aux.toNat % 16
  { num := 0, i := i, cluster := c, thread := t, seat := s.seat ag, ctx := s.ctxOf ag, launch := s.launchOf ag, dst := f.dst,
    a := (pr f.sa).1, a2 := (pr f.sa).2, b := (pr f.sb).1, b2 := (pr f.sb).2, c := one f.sc, c2 := (pr f.sc).2,
    d := (pr f.dst).1, d2 := (pr f.dst).2, flag := s.flagFor ag f.fs, more := false, out := 0,
    trec := s.trapRec ag 0 (s.pcOf ag).2.1 none u 0, snap := [], view := s.threadView (s.launchOf ag) c,
    res := (s.waves.filter (fun e => e.2.part == 16 * c + u && e.2.launch == s.launchOf ag && e.2.bank == .active && !e.2.ended)).map
      (fun e => (e.2.rslot, e.1)) }

/-- A matrix instruction at issue: it waits for its unit, for its workgroup, while its core stops for a pre-emption, and for an
earlier acquire of its thread; then it is checked, takes its number and starts (R187 to R190, R193, R324). An unowned unit is
reported where no check that can be made has a lower code (R310). -/
def matrixIssue (i : Instr) (s : State) : Host.Outcome State Fault Refusal :=
  issued s (fun ag =>
    match ag with
    | .wave _ => s.stall
    | .thread c t =>
      let f := Instr.ef i
      let u := 16 * c + f.aux.toNat % 16
      let k := unitCore c (f.aux.toNat % 16)
      let m := s.mopOf i c t
      let mine := s.sch.wgs.filter (fun e => e.2.launch == m.launch && e.2.core == k)
      if !mine.isEmpty && ((Map.find s.mx.mops u).isSome || mine.all (fun e => e.2.out) || (s.core k).active != some m.ctx
          || (s.core k).req.isSome || s.acquiring ag) then s.stall
      else
        match pickCause (s.opFaults m ++ (if mine.isEmpty then [(0x12, 0)] else [])) with
        | some (cause, a) => s.trap ag cause none 0 a
        | none =>
          if !(s.countRoom ag m.flag false false) then s.stall
          else
            let n := EF.ctx f
            let s3 := match i with
              | .actxRel _ => s
              | .actxSwap _ => (s.needBank m.ctx u 0 1).needBank m.ctx u 1 0
              | _ =>
                let t := s.needBank m.ctx u n n
                if n = 1 then t.setAcc m.ctx u 1 { t.acc m.ctx u 1 with claimed := true } else t
            let key := unitKey m.ctx c (f.aux.toNat % 16)
            let cnt := Map.at s3.mx.counts key (0, 0)
            let st := match i with
              | .miter _ => miterStart (s3.acc m.ctx u n) (f.fn.toNat % 4) f.ty (EF.tile f) m.c
              | .miterCont _ => miterResume (s3.acc m.ctx u n)
              | _ => (s3.acc m.ctx u n, some 0)
            let m1 := { m with num := cnt.1 + 1, more := st.2.isNone, out := st.2.getD 0, snap := s3.opReads m,
                               trec := { m.trec with w2 := BitVec.ofNat 64 (cnt.1 + 1) } }
            let s4 := match i with | .miter _ => s3.setAcc m.ctx u n st.1 | _ => s3
            let s5 := { s4 with mx := { s4.mx with mops := Map.put s4.mx.mops u m1, counts := Map.put s4.mx.counts key (cnt.1 + 1, cnt.2) } }
            (s5.raise ag m.flag false false).retire (nSlots [f.sa, f.sc]) .none)

/-- R194, MMA. -/
def execMma (f : EF) (s : State) : Host.Outcome State Fault Refusal := matrixIssue (.mma f) s
/-- R195, MMA.SP. -/
def execMmaSp (f : EF) (s : State) : Host.Outcome State Fault Refusal := matrixIssue (.mmaSp f) s
/-- R195, MMA.CHK. -/
def execMmaChk (f : EF) (s : State) : Host.Outcome State Fault Refusal := matrixIssue (.mmaChk f) s
/-- R200, MITER. -/
def execMiter (f : EF) (s : State) : Host.Outcome State Fault Refusal := matrixIssue (.miter f) s
/-- R202, MITER with CONT. -/
def execMiterCont (f : EF) (s : State) : Host.Outcome State Fault Refusal := matrixIssue (.miterCont f) s
/-- R196, ACLR. -/
def execAclr (f : EF) (s : State) : Host.Outcome State Fault Refusal := matrixIssue (.aclr f) s
/-- R196, AIN. -/
def execAin (f : EF) (s : State) : Host.Outcome State Fault Refusal := matrixIssue (.ain f) s
/-- R199, AOUT. -/
def execAout (f : EF) (s : State) : Host.Outcome State Fault Refusal := matrixIssue (.aout f) s
/-- R199, AOUT.CLR. -/
def execAoutClr (f : EF) (s : State) : Host.Outcome State Fault Refusal := matrixIssue (.aoutClr f) s
/-- R198, EPI. -/
def execEpi (f : EF) (s : State) : Host.Outcome State Fault Refusal := matrixIssue (.epi f) s
/-- R197, KLD. -/
def execKld (f : EF) (s : State) : Host.Outcome State Fault Refusal := matrixIssue (.kld f) s
/-- R197, KLD.ALL. -/
def execKldAll (f : EF) (s : State) : Host.Outcome State Fault Refusal := matrixIssue (.kldAll f) s
/-- R197, ACTX.SWAP. -/
def execActxSwap (f : EF) (s : State) : Host.Outcome State Fault Refusal := matrixIssue (.actxSwap f) s
/-- R197, ACTX.REL. -/
def execActxRel (f : EF) (s : State) : Host.Outcome State Fault Refusal := matrixIssue (.actxRel f) s

/-! ### The unit at work -/

/-- R201: one iteration of the MITER on unit u; a pre-emption request for its core stops the run after it (R202). -/
def execMiterIteration (u : Nat) (s : State) : Host.Outcome State Fault Refusal :=
  .next (match Map.find s.mx.mops u with
    | none => s
    | some m =>
      if m.more then
        let n := EF.ctx (Instr.ef m.i)
        let r := miterIterate (s.acc m.ctx u n)
        let out := match r.2 with
          | some k => some k
          | none => if (s.core (u / 4)).req.isSome then some 3 else none
        let s1 := s.setAcc m.ctx u n r.1
        { s1 with mx := { s1.mx with mops := Map.put s1.mx.mops u { m with more := out.isNone, out := out.getD 0 } } }
      else s)

/-- A matrix-unit trap reaches the thread that issued the operation (R189); one in its handler state it stops at tier 3 (R218).
Where the thread is gone it reaches the host. -/
def State.matrixTrap (s : State) (m : MOp) (cause : Nat) : State :=
  let t : TRec := { m.trec with w0 := withFld m.trec.w0 63 56 cause }
  let h := s.liveThread m.cluster m.thread
  let ag : Agent := .thread m.cluster m.thread
  if s.here ag m.seat then
    if h.inh then (s.putThread m.cluster m.thread h.halt).tier3 ag 1 t
    else s.putThread m.cluster m.thread { h with queue := h.queue ++ [⟨none, 0x80000000, t⟩] }
  else s.sendRecord (s.boxOf m.ctx) 1 (faultWords 1 cause m.ctx (s.seqOf m.launch) t 0xFFFF m.cluster 0xFF s.selfDev)

/-- R187: the operation on unit u has its effect and completes: its number is reached, its status written, its flag
lowered, and a matrix-unit trap follows where one arises. -/
def execMatrixOpComplete (u : Nat) (s : State) : Host.Outcome State Fault Refusal :=
  .next (match Map.find s.mx.mops u with
    | none => s
    | some m =>
      if m.more then s
      else
        let rd := mergeReads m.snap (s.opNow m) s.free
        let e := ({ s with free := rd.2 }).matrixEffect m rd.1
        let key := unitKey m.ctx m.cluster (u % 16)
        let cnt := Map.at e.1.mx.counts key (0, 0)
        let s1 := { e.1 with mx := { e.1.mx with mops := Map.del e.1.mx.mops u, counts := Map.put e.1.mx.counts key (cnt.1, cnt.2 + 1) } }
        let ag : Agent := .thread m.cluster m.thread
        let hasDst : Bool := match m.i with | .mmaChk _ | .miter _ | .miterCont _ => m.dst != .none | _ => false
        let s2 := if hasDst then s1.lateAt ag m.seat false m.dst 0 true false (BitVec.ofNat 64 e.2.1) else s1
        let s3 := s2.lowerAt ag m.seat m.flag false false
        match e.2.2 with
        | some c => s3.matrixTrap m c
        | none => s3)

end Sys2Proof.Machine
end

