-- ==== Sys2Proof/Machine/Txf.lean ====
section
/-! DEFINITION. The tensor engine streams: layout records (spec/18_memory_hierarchy.md R242 to R244), TXF, TXFC and TXFS,
and the engine at work (spec/16_engine_system_instructions.md R203 to R212). -/

namespace Sys2Proof.Machine

open Sys2Proof

/-! ### Layout records (Table 18-5) -/

/-- A dimension: stored extent, byte stride, padding before, logical extent. -/
structure Dim where
  ext : Nat
  stride : Int
  lo : Nat
  size : Nat
deriving DecidableEq, Repr

/-- A tensor layout record. -/
structure Layout where
  ty : Ty
  fmt : NumFmt
  mx : Bool
  spc : Bool
  base : Nat
  sbase : Nat
  pad : Nat
  d0 : Dim
  more : List Dim
deriving DecidableEq, Repr

/-- Bytes of one element; 1 for a 4-bit format. -/
def Layout.bytes (l : Layout) : Nat := if l.fmt.width < 8 then 1 else l.fmt.width / 8

/-- Dimension d as its fields give it. -/
def dimOf (w : List W64) (d : Nat) : Dim :=
  let e := wordAt w (4 + d)
  let p := wordAt w (20 + d / 2)
  let h := 32 * (d % 2)
  let ext := fld e 63 40
  let lo := fld p (h + 15) h
  ⟨ext, signed 40 (fld e 39 0), lo, lo + ext + fld p (h + 31) (h + 16)⟩

/-- A record read; an absent stride of dimension 0 is the element size. -/
def layoutOf (w : List W64) : Layout :=
  let w0 := wordAt w 0
  let ty := (Ty.ofCode (fld w0 59 56)).getD .i32
  let spc := bitAt w0 53
  let fmt := numFmt ty (bitAt w0 55)
  let a (x : W64) : Nat := if spc then fld x 31 0 else x.toNat
  let d := dimOf w 0
  { ty := ty, fmt := fmt, mx := bitAt w0 54, spc := spc, base := a (wordAt w 1), sbase := a (wordAt w 2),
    pad := fld (wordAt w 3) 31 0,
    d0 := { d with stride := if d.stride = 0 then (if fmt.width < 8 then 1 else ((fmt.width / 8 : Nat) : Int)) else d.stride },
    more := (List.range (fld w0 63 60)).map (fun k => dimOf w (k + 1)) }

/-- A record breaks a rule of Table 18-5 that its own words show. -/
def layoutBad (w : List W64) : Bool :=
  let w0 := wordAt w 0
  let ef := fld w0 59 56
  let l := layoutOf w
  let n := fld w0 63 60
  let small := decide (l.fmt.width < 8)
  let ds := (List.range 16).map (fun d => (d, dimOf w d))
  decide (0xE ≤ ef) || fld w0 52 0 != 0 || (bitAt w0 55 && l.ty != .i8)
    || (l.mx && (bitAt w0 55 || !(l.ty == .e4m3 || l.ty == .e5m2 || l.ty == .e2m1 || l.ty == .i8) || l.d0.ext % 32 != 0))
    || l.base % l.bytes != 0 || (!l.mx && wordAt w 2 != 0) || fld (wordAt w 3) 63 32 != 0
    || decide (2 ^ l.fmt.width ≤ l.pad)
    || ds.any (fun (d, k) =>
        if n < d then k.ext != 0 || k.stride != 0 || k.size != 0
        else k.ext == 0 || k.stride % ((if small then 1 else l.bytes : Nat) : Int) != 0 || (l.mx && k.size != k.ext)
          || (d == 0 && small && (k.stride != 0 || k.ext % 2 != 0)))
    || (List.range 4).any (fun i => wordAt w (28 + i) != 0)

/-- Logical extents, dimension 0 first. -/
def Layout.sizes (l : Layout) : List Nat := l.d0.size :: l.more.map (·.size)

/-- Elements over the logical extents. -/
def Layout.count (l : Layout) : Nat := l.sizes.foldl (· * ·) 1

/-- Number of dimensions. -/
def Layout.dims (l : Layout) : Nat := l.more.length + 1

/-- Elements of one row, and rows. -/
def Layout.rows (l : Layout) : Nat := l.more.foldl (fun a d => a * d.size) 1

/-- The same format (R207). -/
def Layout.same (a b : Layout) : Bool := a.fmt == b.fmt && a.mx == b.mx

/-- The byte offset that higher indices give; `none` for padding. -/
def offsetOf : List Dim → Nat → Option Int
  | [], _ => some 0
  | d :: r, n =>
    let i := n % d.size
    if d.lo ≤ i ∧ i < d.lo + d.ext then
      (match offsetOf r (n / d.size) with | some o => some (((i - d.lo : Nat) : Int) * d.stride + o) | none => none)
    else none

/-- Byte address and nibble of element n in enumeration order (R243); `none` for padding. -/
def Layout.at (l : Layout) (n : Nat) : Option (Int × Nat) :=
  let i := n % l.d0.size
  if l.d0.lo ≤ i ∧ i < l.d0.lo + l.d0.ext then
    let j := i - l.d0.lo
    match offsetOf l.more (n / l.d0.size) with
    | some o =>
      if l.fmt.width < 8 then some ((l.base : Int) + ((j / 2 : Nat) : Int) + o, j % 2)
      else some ((l.base : Int) + (j : Int) * l.d0.stride + o, 0)
    | none => none
  else none

/-- Addresses of the stored elements. -/
def Layout.stored (l : Layout) : List Int := (List.range l.count).filterMap (fun n => (l.at n).map (·.1))

/-- The first address of each 4 KiB page, in order. -/
def firstInPages (l : List Nat) : List Nat :=
  (l.foldl (fun a x => if a.any (fun y => y / 4096 == x / 4096) then a else x :: a) []).reverse

/-! ### A command's addresses -/

/-- Transform, item n, as a destination element and the source element it takes; `none` is +0 (Table 16-3). -/
def txfItem (fn : Nat) (dst : Layout) (idx : List W32) (n : Nat) : Nat × Option Nat :=
  match fn with
  | 1 =>
    let a := dst.d0.size
    let b := match dst.more with | d :: _ => d.size | [] => 1
    (n, some (n / (a * b) * (a * b) + n % a * b + n / a % b))
  | 4 =>
    let w := dst.d0.size
    let k := idx.getD (n / w) 0
    (n, if k = 0xFFFFFFFF then none else some (k.toNat * w + n % w))
  | 5 =>
    let w := dst.d0.size
    let kept := (List.range idx.length).filter (fun j => idx.getD j 0 != 0xFFFFFFFF)
    let j := kept.getD (n / w) 0
    ((idx.getD j 0).toNat * w + n % w, some (j * w + n % w))
  | _ => (n, some n)

/-- Items of a transform. -/
def txfItems (fn : Nat) (dst : Layout) (idx : List W32) : Nat :=
  if fn = 5 then (idx.filter (fun k => k != 0xFFFFFFFF)).length * dst.d0.size else dst.count

/-- The shape rule of a transform is broken (Table 16-3, R207). A CONVERT to an MX layout is among those: DESIGN CHOICE (log entry 30), no
rule says how the scales of such a destination are set. -/
def shapeBad (fn : Nat) (sums : Bool) (a b : Layout) : Bool :=
  let two (l : Layout) : Bool := l.dims == 2
  let cvt (l : Layout) : Bool := (match l.ty with | .f32 | .bf16 | .f16 | .e5m2 | .e4m3 | .e2m1 | .i8 => true | _ => false)
  (match fn with
    | 0 => !(a.count == b.count && a.same b)
    | 1 => !(decide (2 ≤ a.dims) && a.same b
        && b.sizes == (match a.sizes with | x :: y :: r => y :: x :: r | l => l))
    | 2 => !(a.count == b.count && cvt a && cvt b && !b.mx)
    | 3 => !(a.count == b.count && b.mx && b.d0.size % 32 == 0)
    | _ => !(two a && two b && a.same b && a.d0.size == b.d0.size))
  || (sums && !(two b && b.spc))

/-- Virtual addresses of a tensor that a command reaches, for its elements `ns` and their scales where `sc`. -/
def Layout.reach (l : Layout) (ns : List Nat) (sc : Bool) : List Nat :=
  firstInPages ((ns.filterMap (fun n => (l.at n).map (fun p => p.1.toNat)))
    ++ (if l.mx && sc then ns.map (fun n => l.sbase + n / 32) else []))

/-- Whether a transform uses the scales of its source. -/
def usesScales (fn : Nat) : Bool := fn == 2 || fn == 3

/-- A launch-view address of an agent that a command names: its page with the place of that page. -/
def State.padPage (s : State) (ag : Agent) (a : Nat) : Option (Nat × Nat) :=
  match s.viewOf ag (a / 4096 * 4096) 1 with
  | some (.spad _ o) => some (a / 4096, o)
  | _ => none

/-- Pages of the first byte and of the last of a launch-view range. -/
def State.padPages (s : State) (ag : Agent) (a n : Nat) : List (Nat × Nat) :=
  ((List.range ((a + n - 1) / 4096 - a / 4096 + 1)).filterMap (fun k => s.padPage ag (a / 4096 * 4096 + 4096 * k)))

/-- What the translation of a command's addresses gives: the faults, as causes with addresses; the 4 KiB pages with the frames
they reach; those that no L2 holds; and the pages of the page table that they lie in, as numbers and sizes. -/
structure Pins where
  errs : List (Nat × Nat)
  pages : List (Nat × Home)
  bypass : List Nat
  dist : List (Nat × Nat)
deriving DecidableEq, Repr

/-- The TLB of a cluster's tensor engine, which walks ahead (R17, R206). -/
def engTlb (c : Nat) : Nat := 200 + c

/-- Translations of addresses, each with whether it is written, by a unit's TLB (R206 item 5). -/
def State.pinAll (s : State) (u x : Nat) (l : List (Nat × Bool)) : Pins :=
  l.foldl (fun a e =>
    match s.xlate u x e.1 (!e.2) e.2 with
    | .error c => { a with errs := a.errs ++ [(c, e.1)] }
    | .ok (pa, leaf) =>
      let sz := pageBytes (fld leaf 11 9)
      { a with pages := a.pages ++ [(e.1 / 4096, s.home (pa / 4096 * 4096))],
               bypass := if s.l2Holds leaf then a.bypass else a.bypass ++ [e.1 / 4096],
               dist := (a.dist ++ [(e.1 / sz, sz)]).eraseDups }) ⟨[], [], [], []⟩

/-- The pages of addresses, each once, with whether they are written. -/
def vaPages (l : List (Nat × Bool)) : List (Nat × Bool) := (l.map (fun e => (e.1 / 4096 * 4096, e.2))).eraseDups

/-- The walks that pinning takes wait for the budgets (R33, R339). -/
def State.pinHeld (s : State) (u x : Nat) (l : List (Nat × Bool)) : Bool :=
  s.readsHeld x ((vaPages l).flatMap (fun e => s.walkReads u x e.1))

/-- The translations of addresses kept by a unit's TLB. -/
def State.keepAll (s : State) (u x : Nat) (l : List (Nat × Bool)) : State :=
  (vaPages l).foldl (fun t e => match t.xlate u x e.1 (!e.2) e.2 with | .ok (_, leaf) => t.keepTlb u x e.1 leaf | .error _ => t) s

/-! ### Issue (R205, R206, R210) -/

/-- What reading a record gives: it is not read, its read faults at an address, or its words. -/
inductive RecRead where
  | skip
  | fault (cause va : Nat)
  | words (w : List W64)
deriving DecidableEq, Repr

/-- The parts of a record in one page: addresses and lengths. -/
def recordParts (va : Nat) : List (Nat × Nat) :=
  let lo := 4096 - va % 4096
  if lo < 256 then [(va, lo), (va + lo, 256 - lo)] else [(va, 256)]

/-- The parts of a record with what they reach and the leaves of their pages, or the first fault. -/
def State.recordPages (s : State) (ag : Agent) (va : Nat) : Except (Nat × Nat) (List (Home × W64 × Nat × Nat)) :=
  (recordParts va).foldr (fun p r =>
    match s.xlate (s.tlbOf ag) (s.ctxOf ag) p.1 true false with
    | .error c => .error (c, p.1)
    | .ok (pa, e) => (match r with | .error k => .error k | .ok l => .ok ((s.home pa, e, p.1, p.2) :: l))) (.ok [])

/-- The 256 bytes of a record, as a load of the agent, and the state after it. -/
def State.readRecord (s : State) (ag : Agent) (va : Nat) : RecRead × State :=
  if va % 64 ≠ 0 then (.skip, s)
  else
    match s.recordPages ag va with
    | .error (c, a) => (.fault c a, s)
    | .ok l =>
      let r := l.foldl (fun (a : List Byte × State) p =>
        let g := a.2.agentLoad ag .wave p.2.1 p.1 p.2.2.2
        (a.1 ++ g.1, g.2.keepTlb (s.tlbOf ag) (s.ctxOf ag) p.2.2.1 p.2.1)) ([], s)
      (.words ((List.range 32).map (fun i => BitVec.ofNat 64 (leNat ((r.1.drop (8 * i)).take 8)))), r.2)

/-- A record must wait to be read: for an earlier access of the agent to it, or an acquire, or for the budgets (R149, R249, R33, R339). -/
def State.recordHeld (s : State) (ag : Agent) (va : Nat) : Bool :=
  match s.recordPages ag va with
  | .ok l => l.any (fun p => s.held ag p.1 p.2.2.2)
    || s.readsHeld (s.ctxOf ag) (l.flatMap (fun p => s.walkReads (s.tlbOf ag) (s.ctxOf ag) p.2.2.1))
  | .error _ => false

/-- What is wrong with a record that has been read: Table 18-5, R244 and, for its scales, R153. -/
def State.recordFaults (s : State) (ag : Agent) (r : RecRead) : List (Nat × Nat) :=
  match r with
  | .skip => [(0x16, 0)]
  | .fault _ _ => []
  | .words w =>
    if layoutBad w then [(0x16, 0)]
    else
      let l := layoutOf w
      let bad := l.stored.any (fun a => decide (a < 0) || (if l.spc then decide (2 ^ 32 ≤ a) || (s.viewOf ag a.toNat l.bytes).isNone
        else decide ((2 ^ 57 : Int) < a + (l.bytes : Int))))
      (if bad then [(0x16, 0)] else [])
      ++ (if l.mx && l.spc && (s.viewOf ag l.sbase (l.count / 32)).isNone then [(0x04, l.sbase)] else [])

/-- The layout of a record that has been read and is whole. -/
def RecRead.layout (r : RecRead) : Option Layout :=
  match r with
  | .words w => if layoutBad w then none else some (layoutOf w)
  | _ => none

/-- The cause of a fault on reading a record, with its address. -/
def RecRead.faults (r : RecRead) : List (Nat × Nat) := match r with | .fault c a => [(c, a)] | _ => []

/-- Bytes of a launch-view range of an agent, as a number; 0 where they meet an uncorrectable error (R342). -/
def State.viewNum (s : State) (ag : Agent) (a n : Nat) : Nat :=
  match s.viewOf ag a n with
  | some h => if s.badBytes h n then 0 else leNat (s.bytesAt h n)
  | none => 0

/-- Entries of an index list that meet an uncorrectable error are reported (R342). -/
def State.listItems (s : State) (ag : Agent) (xaddr n : Nat) : State :=
  (List.range n).foldl (fun t k => match t.viewOf ag (xaddr + 4 * k) 4 with
    | some h => if t.badBytes h 4 then t.agentItem ag 0x32 (xaddr + 4 * k) 0 else t
    | none => t) s

/-- The rows that an index list names, and the rows it may name. -/
def listRows (fn : Nat) (src dst : Option Layout) : Option Nat × Option Nat :=
  let n (l : Option Layout) : Option Nat := l.map (·.rows)
  if fn = 4 then (n dst, n src) else (n src, n dst)

/-- The index list of GATHER and PERMUTE as it reads at issue; empty for the other transforms. -/
def State.indexList (s : State) (ag : Agent) (fn xaddr : Nat) (rows : Option Nat) : List W32 :=
  match rows with
  | some n => if 4 ≤ fn then (List.range n).map (fun k => BitVec.ofNat 32 (s.viewNum ag (xaddr + 4 * k) 4)) else []
  | none => []

/-- The conditions of group 3 on a TXF, each tested where what it depends on could be read (R205, R206). -/
def State.txfFaults (s : State) (ag : Agent) (fn : Nat) (sums : Bool) (par : W64) (ra rb : RecRead) : List (Nat × Nat) :=
  let xaddr := fld par 63 32
  let lists := decide (4 ≤ fn)
  let uses := lists || sums
  let a := ra.layout
  let b := rb.layout
  let rows := listRows fn a b
  let bad (c : Bool) : List (Nat × Nat) := if c then [(0x16, 0)] else []
  bad (fld par 3 1 != 0 || (!uses && xaddr != 0))
  ++ (if uses && xaddr % 4 != 0 then [(0x03, xaddr)] else [])
  ++ (if bitAt par 0 && (s.viewOf ag (fld par 31 4 * 16) 16).isNone then [(0x04, fld par 31 4 * 16)] else [])
  ++ s.recordFaults ag ra ++ s.recordFaults ag rb
  ++ (match a, b with | some x, some y => bad (shapeBad fn sums x y) | _, _ => [])
  ++ (match lists, rows.1 with
      | true, some n =>
        let window := (s.viewOf ag xaddr (4 * n)).isNone
        bad (decide (4096 < n)) ++ (if window then [(0x04, xaddr)] else [])
        ++ (match decide (n ≤ 4096) && !window, rows.2 with
          | true, some m => bad ((s.indexList ag fn xaddr rows.1).any (fun k => k != 0xFFFFFFFF && decide (m ≤ k.toNat)))
          | _, _ => [])
      | _, _ => [])
  ++ (match sums, b with
      | true, some y => if (s.viewOf ag xaddr (4 * (y.d0.size + y.rows))).isNone then [(0x04, xaddr)] else []
      | _, _ => [])

/-- The stream that an instruction of an agent names. -/
def State.streamOf (s : State) (ag : Agent) (f : EF) : Nat := streamKey (s.ctxOf ag) (s.clusterOf ag) (EF.tile f)

/-- A stream. -/
def State.stream (s : State) (k : Nat) : Stream := Map.at s.eng.streams k ⟨0, 0, 0, [], false, []⟩

/-- A stream replaced. -/
def State.setStream (s : State) (k : Nat) (t : Stream) : State := { s with eng := { s.eng with streams := Map.put s.eng.streams k t } }

/-- A command is accepted: it takes the next number, which `dst` receives, and its flag rises (R203, R204). -/
def State.acceptTxf (s0 : State) (ag : Agent) (f : EF) (c : TxfCmd) : State :=
  let s := s0.passes ag false
  let k := s.streamOf ag f
  let t := s.stream k
  let c' := { c with num := t.last + 1, n := s.fresh }
  let s1 := ({ s with fresh := s.fresh + 1 }).setStream k { t with last := t.last + 1, cmds := t.cmds ++ [c'] }
  ((s1.put64 ag f.dst (t.last + 1)).raise ag c.flag false false).retire (nSlots [f.sc]) .none

/-- A command of the issuing agent with nothing but its fields. -/
def State.txfBase (s : State) (ag : Agent) (f : EF) (txfc : Bool) : TxfCmd :=
  { num := 0, txfc := txfc, fn := f.fn.toNat, rm := f.aux.toNat % 4, sat := f.aux.getLsbD 2, sums := f.aux.getLsbD 3, par := 0,
    cursor := 0, cbaddr := 0, idx := [], srec := [], drec := [], ag := ag, seat := s.seat ag, n := 0, launch := s.launchOf ag,
    flag := s.flagFor ag f.fs, pages := [], pads := [], bypass := [], total := 0, piece := 256 }

/-- The pages of a launch-view tensor. -/
def State.tensorPads (s : State) (ag : Agent) (l : Layout) (ns : List Nat) (sc : Bool) : List (Nat × Nat) :=
  if l.spc then (l.reach ns sc).filterMap (fun a => s.padPage ag a) else []

/-- Addresses of a virtual tensor with the right they need. -/
def vaddrs (l : Layout) (ns : List Nat) (sc wr : Bool) : List (Nat × Bool) := if l.spc then [] else (l.reach ns sc).map (fun a => (a, wr))

/-- R203 to R206, TXF. -/
def execTxf (f : EF) (s : State) : Host.Outcome State Fault Refusal :=
  issued s (fun ag =>
    let x := s.ctxOf ag
    let u := engTlb (s.clusterOf ag)
    let fn := f.fn.toNat
    let sums := f.aux.getLsbD 3
    let flag := s.flagFor ag f.fs
    let par : W64 := match f.sc with | .lit w => w | o => s.reg ag o true
    let sva := (s.reg ag f.sa true).toNat
    let dva := (s.reg ag f.sb true).toNat
    if 16 ≤ (s.stream (s.streamOf ag f)).cmds.length then s.stall
    else if s.recordHeld ag sva || s.recordHeld ag dva || !(s.countRoom ag flag false false) then s.stall
    else
      let r1 := s.readRecord ag sva
      let r2 := r1.2.readRecord ag dva
      let t := r2.2
      match pickCause (s.txfFaults ag fn sums par r1.1 r2.1) with
      | some (c, a) => t.trap ag c none 0 a
      | none =>
        match pickCause (r1.1.faults ++ r2.1.faults) with
        | some (c, a) => t.faultHere ag c none a 0
        | none =>
          match r1.1, r2.1 with
          | .words w, .words v =>
            let a := layoutOf w
            let b := layoutOf v
            let xaddr := fld par 63 32
            let idx := s.indexList ag fn xaddr (listRows fn (some a) (some b)).1
            let its := (List.range (txfItems fn b idx)).map (txfItem fn b idx)
            let sn := its.filterMap (·.2)
            let dn := its.map (·.1)
            let vas := vaddrs a sn (usesScales fn) false ++ vaddrs b dn (decide (fn = 3)) true
            let pin := s.pinAll u x vas
            match pickCause pin.errs with
            | some (c, va) => t.faultHere ag c none va 0
            | none =>
              if 1024 < pin.dist.length then t.trap ag 0x16 none 0 0
              else if s.pinHeld u x vas then s.stall
              else
                let pads := s.tensorPads ag a sn (usesScales fn) ++ s.tensorPads ag b dn (decide (fn = 3) || sums)
                  ++ (if bitAt par 0 then s.padPages ag (fld par 31 4 * 16) 16 else [])
                  ++ (if sums then s.padPages ag xaddr (4 * (b.d0.size + b.rows)) else [])
                  ++ (if 4 ≤ fn then s.padPages ag xaddr (4 * idx.length) else [])
                ((t.listItems ag xaddr idx.length).keepAll u x vas).acceptTxf ag f { s.txfBase ag f false with
                  par := par, idx := idx, srec := w, drec := v, pages := pin.pages, pads := pads.eraseDups, bypass := pin.bypass,
                  total := (txfItems fn b idx * b.fmt.width + 7) / 8 }
          | _, _ => t.trap ag 0x16 none 0 0)

/-- The descriptor of a TXFC at issue: causes, or its contents (R210, R241). -/
def State.txfcFaults (s : State) (ag : Agent) (cb : Nat) : List (Nat × Nat) :=
  (if cb % 32 ≠ 0 then [(0x03, cb)] else [])
  ++ (match s.viewOf ag cb 32 with
      | none => [(0x04, cb)]
      | some h =>
        match s.cirBuf h with
        | none => if cb % 32 = 0 then [(0x0E, cb)] else []
        | some c =>
          match (List.range c.slots).find? (fun i => (s.viewOf ag ((c.base + i * c.ssize) % 2 ^ 32) c.ssize).isNone) with
          | some i => [(0x04, (c.base + i * c.ssize) % 2 ^ 32)]
          | none => [])

/-- TXFC at issue (R210). -/
def txfcIssue (f : EF) (s : State) (prod : Bool) : Host.Outcome State Fault Refusal :=
  issued s (fun ag =>
    let va := (s.reg ag f.sa true).toNat
    let cb := (s.reg ag f.sb false).toNat
    let flag := s.flagFor ag f.fs
    if 16 ≤ (s.stream (s.streamOf ag f)).cmds.length then s.stall
    else if s.recordHeld ag va || !(s.countRoom ag flag false false) then s.stall
    else
      let r := s.readRecord ag va
      match pickCause (s.txfcFaults ag cb ++ s.recordFaults ag r.1) with
      | some (c, a) => r.2.trap ag c none 0 a
      | none =>
        match r.1 with
        | .fault c a => r.2.faultHere ag c none a 0
        | .skip => r.2.trap ag 0x16 none 0 0
        | .words w =>
          let l := layoutOf w
          let ns := List.range l.count
          let u := engTlb (s.clusterOf ag)
          let vas := vaddrs l ns false (!prod)
          let pin := s.pinAll u (s.ctxOf ag) vas
          match pickCause pin.errs with
          | some (c, a) => r.2.faultHere ag c none a 0
          | none =>
            if 1024 < pin.dist.length then r.2.trap ag 0x16 none 0 0
            else if s.pinHeld u (s.ctxOf ag) vas then s.stall
            else
              let cbuf := match s.viewOf ag cb 32 with | some h => s.cirBuf h | none => none
              let slots := match cbuf with
                | some c => ((List.range c.slots).map (fun i => s.padPages ag ((c.base + i * c.ssize) % 2 ^ 32) c.ssize)).flatten
                | none => []
              (r.2.keepAll u (s.ctxOf ag) vas).acceptTxf ag f { s.txfBase ag f true with
                cbaddr := BitVec.ofNat 32 cb, srec := if prod then w else [], drec := if prod then [] else w, pages := pin.pages,
                pads := (s.padPages ag cb 32 ++ slots ++ s.tensorPads ag l ns false).eraseDups, bypass := pin.bypass,
                total := (l.count * l.fmt.width + 7) / 8, piece := match cbuf with | some c => c.ssize | none => 1 })

/-- R210, TXFC.PROD. -/
def execTxfcProd (f : EF) (s : State) : Host.Outcome State Fault Refusal := txfcIssue f s true
/-- R210, TXFC.CONS. -/
def execTxfcCons (f : EF) (s : State) : Host.Outcome State Fault Refusal := txfcIssue f s false

/-- R211, TXFS.RD. -/
def execTxfsRd (f : EF) (s : State) : Host.Outcome State Fault Refusal :=
  issued s (fun ag => (s.put64 ag f.dst (s.stream (s.streamOf ag f)).status.toNat).retire 1 .none)

/-- R211, TXFS.CLR. -/
def execTxfsClr (f : EF) (s : State) : Host.Outcome State Fault Refusal :=
  issued s (fun ag =>
    let k := s.streamOf ag f
    let t := s.stream k
    ((s.setStream k { t with status := 0 }).put64 ag f.dst t.status.toNat).retire 1 .none)

/-! ### The engine at work (R209) -/

/-- What an address of a command reaches: a launch-view address on its cluster, or a pinned virtual one. -/
def TxfCmd.home (c : TxfCmd) (cl : Nat) (spc : Bool) (a : Int) : Option Home :=
  let n := a.toNat
  if spc then (c.pads.find? (fun p => p.1 == n / 4096)).map (fun p => .spad cl (p.2 + n % 4096))
  else (c.pages.find? (fun p => p.1 == n / 4096)).map (fun p => p.2.plus (n % 4096))

/-- Home and nibble of element n of a tensor of the command. -/
def TxfCmd.cell (c : TxfCmd) (cl : Nat) (l : Layout) (n : Nat) : Option (Home × Nat) :=
  match l.at n with
  | some (a, k) => (c.home cl l.spc a).map (fun h => (h, k))
  | none => none

/-- Why a cluster's engine cannot reach a place (R21, R291, R294). While a lease is being revoked its lender may serve the
window or refuse (log entry 18). -/
def State.reachFault (s : State) (cl : Nat) (h : Home) : Option Nat :=
  if s.severed cl h then some 0x35
  else
    match h with
    | .down _ => some 0x35
    | .dev n _ w =>
      match w with
      | some k =>
        if (s.lease k).state = 1 then none
        else if (s.lease k).state = 2 then (if bitAt (Config.freeWord s.free) 0 then some 0x24 else none)
        else some 0x24
      | none => if s.fab.members.contains n then none else some 0x35
    | _ => none

/-- An access belongs to the binding of the agent that issued a command. -/
def Access.ofCmd (a : Access) (c : TxfCmd) : Bool := a.ag == c.ag && a.seat.bind == c.seat.bind

/-- An incomplete write of an agent other than the command's meets a range. -/
def State.racing (s : State) (c : TxfCmd) (h : Home) (n : Nat) : Bool :=
  s.path.acc.any (fun a => !a.ofCmd c && (match a.op with | .load => false | _ => true) && a.touches h n)

/-- n bytes that a command reads at an address; `k` numbers the free value that stands for bytes which another write races
(R209), and for bytes of another device that no home L2 serves (R289; log entries 6, 10). -/
def State.srcBytes (s : State) (c : TxfCmd) (cl : Nat) (spc : Bool) (a : Int) (n k : Nat) : List Byte :=
  let any := leBytes n (Config.freeWord k).toNat
  match c.home cl spc a with
  | none => any
  | some h =>
    if s.racing c h n then any
    else
      match h with
      | .dev d pa _ =>
        match s.farCopy d pa n with
        | some bs => if !(c.bypass.contains (a.toNat / 4096)) && Config.l2Holds k then bs else any
        | none => any
      | .down _ => any
      | _ => s.bytesAt h n

/-- The code of element n as a source: padding, or what stands there. -/
def State.srcCode (s : State) (c : TxfCmd) (cl : Nat) (l : Layout) (n k : Nat) : Nat :=
  match l.at n with
  | none => l.pad
  | some (a, nib) =>
    let x := leNat (s.srcBytes c cl l.spc a l.bytes k)
    if l.fmt.width < 8 then x / 16 ^ nib % 16 else x % 2 ^ l.fmt.width

/-- Address of the scale of element n of an MX tensor. -/
def Layout.scaleAt (l : Layout) (n : Nat) : Int := ((l.sbase + n / 32 : Nat) : Int)

/-- The scale of element n of an MX tensor. -/
def State.srcScale (s : State) (c : TxfCmd) (cl : Nat) (l : Layout) (n k : Nat) : Option Nat :=
  if l.mx then some (leNat (s.srcBytes c cl l.spc (l.scaleAt n) 1 k)) else none

/-- Bytes written by a command at device scope; a request goes to another device on the cluster's queue, and the home L2's copy
follows its acknowledgement, but for a page that no L2 holds (R237, R289). -/
def State.txfPut (s : State) (x cl key : Nat) (c : TxfCmd) (h : Home) (l2 : Bool) (bs : List Byte) : State :=
  match h with
  | .dev n pa w =>
    let r := s.send x cl n pa (.write bs) w c.launch (some (c.ag, c.seat.bind)) l2
    { r.2 with fab := { r.2.fab with out := r.2.fab.out.map (fun (q : FabReq) => if q.n == r.1 then { q with txf := some (key, c.num) } else q) } }
  | _ => s.softPut h bs

/-- Bytes written by a command at one of its addresses. -/
def State.txfPutAt (s : State) (x cl key : Nat) (c : TxfCmd) (spc : Bool) (a : Int) (bs : List Byte) : State :=
  match c.home cl spc a with
  | some h => s.txfPut x cl key c h (!(c.bypass.contains (a.toNat / 4096))) bs
  | none => s

/-- The byte that the last unanswered write to an address of another device carries there. -/
def State.pendingByte (s : State) (dev pa : Nat) : Option Byte :=
  s.fab.out.reverse.findSome? (fun r => match r.kind with
    | .write d => if r.dev = dev ∧ r.pa ≤ pa then d[pa - r.pa]? else none
    | _ => none)

/-- The byte that a 4-bit element shares, and the state after it is read: at another device that of the write which still stands
before it, or one read there, which is charged and a free value (R33, R289; log entry 10). -/
def State.shared (s : State) (x : Nat) (h : Home) : Nat × State :=
  match h with
  | .dev d pa _ =>
    (match s.pendingByte d pa with
    | some b => (b.toNat, s)
    | none => (((Config.freeWord s.free).truncate 8 : Byte).toNat, (s.bumpFree 1).chargeFab x 4))
  | _ => (leNat (s.bytesAt h 1), s)

/-- An element of a tensor written whole. -/
def State.putCode (s : State) (x cl key : Nat) (c : TxfCmd) (l : Layout) (n code : Nat) : State :=
  match l.at n with
  | some (a, k) =>
    let r := match c.home cl l.spc a with
      | some h => if l.fmt.width < 8 then s.shared x h else (0, s)
      | none => (0, s)
    let v := if l.fmt.width < 8 then (if k = 0 then r.1 / 16 * 16 + code % 16 else r.1 % 16 + code % 16 * 16) else code
    r.2.txfPutAt x cl key c l.spc a (leBytes l.bytes v)
  | none => s

/-- Two elements of tensors share a byte, or a nibble where both hold nibbles (R244). -/
def cellsMeet (a : Home × Nat) (n : Nat) (b : Home × Nat) (m : Nat) (nib : Bool) : Bool :=
  a.1.meets n b.1 m && (!nib || a.2 == b.2)

/-- A destination element of a command shares a byte with another destination element, or with a range that the command reads
(R244). -/
def TxfCmd.clash (c : TxfCmd) (cl : Nat) (dst : Layout) (dn : List Nat) (reads : List (Home × Nat)) (d : Nat) : Bool :=
  match c.cell cl dst d with
  | none => false
  | some h =>
    dn.any (fun m => m != d && (match c.cell cl dst m with | some g => cellsMeet h dst.bytes g dst.bytes (decide (dst.fmt.width < 8)) | none => false))
    || reads.any (fun r => h.1.meets dst.bytes r.1 r.2)

/-- A place that a command reads or writes: its address, what it reaches, its bytes. -/
abbrev Place := Int × Option Home × Nat

/-- The place of an element, if it is stored. -/
def TxfCmd.place (c : TxfCmd) (cl : Nat) (l : Layout) (n : Nat) : Option Place :=
  match l.at n with | some (p, _) => some (p, c.home cl l.spc p, l.bytes) | none => none

/-- The places of the scales of some elements. -/
def TxfCmd.scales (c : TxfCmd) (cl : Nat) (l : Layout) (ns : List Nat) : List Place :=
  (ns.map l.scaleAt).eraseDups.map (fun a => (a, c.home cl l.spc a, 1))

/-- An access of the command's agent, issued before the command, is still to reach one of some places (R193, R209). -/
def State.before (s : State) (c : TxfCmd) (l : List Place) : Bool :=
  l.any (fun e => match e.2.1 with
    | some h => s.path.acc.any (fun a => a.before c.ag c.seat c.n && a.touches h e.2.2)
    | none => false)

/-- The head command of a stream at work. -/
def State.txfHead (s : State) (x cl st : Nat) : Option TxfCmd :=
  let t := s.stream (streamKey x cl st)
  if t.saved then none else t.cmds.head?

/-- The head command of a stream replaced. -/
def Stream.setHead (t : Stream) (c : TxfCmd) : Stream := { t with cmds := c :: t.cmds.drop 1 }

/-- A failure of a command: counted in the stream's status and reported (R209, R211). -/
def State.txfFail (s : State) (x key : Nat) (c : TxfCmd) (cause addr idx : Nat) : State :=
  let t := s.stream key
  (s.setStream key (t.fail c.num cause 1)).itemFailed x c.launch cause addr c.num idx (key / 4 % 40) 0xFF

/-- The first failure among places, with its address: one that cannot be reached, or an uncorrectable error. -/
def State.placesFail (s : State) (cl : Nat) (l : List Place) : Option (Nat × Int) :=
  l.findSome? (fun (a, h, n) => match h with
    | some g =>
      (match s.reachFault cl g with
        | some k => some (k, a)
        | none => if 0 < n && s.badBytes g n then some (0x32, a) else none)
    | none => none)

/-- Places written, with 0 bytes where whole words are: only a write to part of a word meets an uncorrectable error (R342). -/
def partWrites (l : List Place) : List Place := l.map (fun e => (e.1, e.2.1, if e.2.2 < 4 then e.2.2 else 0))

/-- Bytes that the reads at other devices carry, in words. -/
def farBytes (l : List Place) : Nat :=
  4 * (l.map (fun e => match e.2.1 with
    | some (.dev d pa _) => (List.range ((pa + e.2.2 - 1) / 4 - pa / 4 + 1)).map (fun k => (d, pa / 4 + k))
    | _ => [])).flatten.eraseDups.length

/-- Bytes of some places on a stack. -/
def stackBytes (l : List Place) (st : Nat) : Nat :=
  l.foldl (fun k e => match e.2.1 with | some (.mem pa) => if pa / 2 ^ 36 = st then k + e.2.2 else k | _ => k) 0

/-- A burst or piece waits: for the budgets of the HBM controllers whose stacks it reaches (R339), for room for its reads at other
devices, and for unanswered writes of what it reads there (R33, R254). -/
def State.placesHeld (s : State) (x : Nat) (reads writes : List Place) : Bool :=
  s.fabWaits x (farBytes reads)
    || (reads ++ writes).any (fun e => match e.2.1 with | some (.mem pa) => s.hbmFull pa (stackBytes (reads ++ writes) (pa / 2 ^ 36)) | _ => false)
    || reads.any (fun e => match e.2.1 with | some (.dev d pa _) => s.farClash d pa e.2.2 | _ => false)

/-- The bytes of a burst or piece counted against the budgets (R33, R339). -/
def State.usePlaces (s : State) (x : Nat) (reads writes : List Place) : State :=
  (reads ++ writes).foldl (fun t e => match e.2.1 with | some (.mem pa) => t.useHbm pa e.2.2 | _ => t) (s.chargeFab x (farBytes reads))

/-- A write of a command to another device was lost: its agent's later releases are (R264). -/
def State.breakCmd (s : State) (c : TxfCmd) (writes : List Place) : State :=
  if writes.any (fun e => match e.2.1 with
      | some (.dev n pa w) => s.reachFault c.seat.cluster (.dev n pa w) == some 0x35
      | _ => false)
  then s.breakAgent c.ag c.seat.bind c.launch else s

/-- Reads at other devices get no answer, which a free value decides (R291). -/
def State.readLost (s : State) (reads : List Place) : Bool := farBytes reads != 0 && bitAt (Config.freeWord s.free) 1

/-- What stops a burst or piece that reads and writes some places, with the address. -/
def State.moveFault (s : State) (cl : Nat) (reads writes : List Place) : Option (Nat × Int) :=
  match s.placesFail cl (reads ++ partWrites writes) with
  | some e => some e
  | none => if s.readLost reads then (reads.find? (fun e => match e.2.1 with | some (.dev _ _ _) => true | _ => false)).map (fun e => (0x35, e.1)) else none

/-- Codes of the destination elements of a run of items (Table 16-3). -/
def txfCodes (c : TxfCmd) (src dst : Layout) (l : List (Option (Nat × Option Nat))) : List Nat × List Nat :=
  let val (e : Option (Nat × Option Nat)) : FV := match e with
    | some (b, sc) => if src.mx then mxValue src.fmt b sc else src.fmt.value b
    | none => .fin false 0 0
  match c.fn with
  | 2 =>
    if src.fmt = dst.fmt ∧ !src.mx then
      (l.map (fun e => match e with | some (b, _) => (convert dst.fmt src.fmt c.rm 0 c.sat b).1 | none => 0), [])
    else (rowCodes dst.fmt c.rm c.sat (l.map val), [])
  | 3 =>
    let q := (List.range (l.length / 32)).map (fun b => quantise dst.fmt c.rm (((l.drop (32 * b)).take 32).map val))
    ((q.map (·.2)).flatten, q.map (·.1))
  | _ => (l.map (fun e => match e with | some (b, _) => b | none => 0), [])

/-- The items of a TXF, each a destination element with the source element it takes. -/
def TxfCmd.items (c : TxfCmd) : List (Nat × Option Nat) :=
  let b := layoutOf c.drec
  (List.range (txfItems c.fn b c.idx)).map (txfItem c.fn b c.idx)

/-- The items of the next burst of a TXF. -/
def TxfCmd.burst (c : TxfCmd) : List (Nat × Option Nat) :=
  let w := (layoutOf c.drec).fmt.width
  (c.items.drop (c.cursor * 8 / w)).take (2048 / w)

/-- The places that items of a TXF read: source elements, and their scales where the transform takes them. -/
def TxfCmd.readPlaces (c : TxfCmd) (cl : Nat) (its : List (Nat × Option Nat)) : List Place :=
  let a := layoutOf c.srec
  let ns := its.filterMap (·.2)
  ns.filterMap (c.place cl a) ++ (if a.mx && usesScales c.fn then c.scales cl a ns else [])

/-- The places that items of a TXF write: destination elements, and the scales that MXQUANT gives them. -/
def TxfCmd.writePlaces (c : TxfCmd) (cl : Nat) (its : List (Nat × Option Nat)) : List Place :=
  let b := layoutOf c.drec
  let ns := its.map (·.1)
  ns.filterMap (c.place cl b) ++ (if c.fn = 3 then c.scales cl b ns else [])

/-- Every range that a TXF reads: its sources with their scales, and its index list (R244). -/
def TxfCmd.readRanges (c : TxfCmd) (cl : Nat) : List (Home × Nat) :=
  (c.readPlaces cl c.items).filterMap (fun e => e.2.1.map (fun h => (h, e.2.2)))
    ++ (if 4 ≤ c.fn then (List.range c.idx.length).filterMap (fun k =>
        (c.home cl true ((fld c.par 63 32 + 4 * k : Nat) : Int)).map (fun h => (h, 4))) else [])

/-- Bytes that a run of items writes. -/
def TxfCmd.bytesOf (c : TxfCmd) (its : List (Nat × Option Nat)) : Nat := (its.length * (layoutOf c.drec).fmt.width + 7) / 8

/-- What the sources of a burst give, item by item; free values count on from `k`. -/
def State.burstGot (s : State) (c : TxfCmd) (cl : Nat) (its : List (Nat × Option Nat)) (k : Nat) : List (Option (Nat × Option Nat)) :=
  let a := layoutOf c.srec
  its.mapIdx (fun j e => e.2.map (fun n => (s.srcCode c cl a n (k + 2 * j), s.srcScale c cl a n (k + 2 * j + 1))))

/-- R209: one burst of 256 destination bytes of a TXF. -/
def execTxfBurst (ctx c st : Nat) (s : State) : Host.Outcome State Fault Refusal :=
  .next (match s.txfHead ctx c st with
    | none => s
    | some m =>
      let key := streamKey ctx c st
      let b := layoutOf m.drec
      let its := m.burst
      let reads := m.readPlaces c its
      let writes := m.writePlaces c its
      if m.txfc || its.isEmpty then s
      else if s.before m (reads ++ writes) || s.placesHeld ctx reads writes then s
      else
        let s0 := s.l1SyncAt m.seat
        let s1 := (s0.setStream key ((s0.stream key).setHead { m with cursor := m.cursor + m.bytesOf its })).usePlaces ctx reads writes
        match s0.moveFault c reads writes with
        | some (cause, p) => ((s1.breakCmd m writes).txfFail ctx key m cause p.toNat (m.cursor / 256)).bumpFree 1
        | none =>
          let codes := txfCodes m (layoutOf m.srec) b (s0.burstGot m c its (s.free + 1))
          let n := its.length
          let dn := m.items.map (·.1)
          let ranges := m.readRanges c
          let s2 := (its.mapIdx (fun k e => (k, e.1))).foldl (fun t e =>
            let code := if m.clash c b dn ranges e.2 then (Config.freeWord (s.free + 1 + 2 * n + e.1)).toNat % 2 ^ b.fmt.width
              else codes.1.getD e.1 0
            t.putCode ctx c key m b e.2 code) (s1.bumpFree (1 + 3 * n))
          (codes.2.zipIdx).foldl (fun t e =>
            t.txfPutAt ctx c key m b.spc (b.scaleAt ((its.getD (32 * e.2) (0, none)).1)) [BitVec.ofNat 8 e.1]) s2)

/-- The value of a destination element as it stands, by its scale in an MX layout (R80); 0 for padding, which is not written. -/
def State.writtenValue (s : State) (c : TxfCmd) (cl : Nat) (b : Layout) (n k : Nat) : FV :=
  match b.at n with
  | some _ => mxValue b.fmt (s.srcCode c cl b n k) (s.srcScale c cl b n (k + 1))
  | none => .fin false 0 0

/-- Row sums, then column sums, of the destination as it stands (R207); free values count on from `k`. -/
def State.sumsOf (s : State) (cl : Nat) (c : TxfCmd) (b : Layout) (k : Nat) : List Nat :=
  let g := ffmt .f32
  let n0 := b.d0.size
  let n1 := b.rows
  let sum (l : List Nat) : Nat := (g.round .even false (sumFV (l.map (fun n => s.writtenValue c cl b n (k + 2 * n))))).1
  (List.range n1).map (fun j => sum ((List.range n0).map (fun i => n0 * j + i)))
    ++ (List.range n0).map (fun i => sum ((List.range n1).map (fun j => n0 * j + i)))

/-- The sums of a command written at its `xaddr` (R207). -/
def State.writeSums (s : State) (x cl key : Nat) (c : TxfCmd) (b : Layout) : State :=
  ((s.sumsOf cl c b s.free).zipIdx).foldl (fun t e =>
    t.txfPutAt x cl key c true ((fld c.par 63 32 + 4 * e.2 : Nat) : Int) (leBytes 4 e.1)) (s.bumpFree (2 * b.count))

/-- A write of the command to another device is unanswered. -/
def State.txfFar (s : State) (key : Nat) (c : TxfCmd) : Bool := s.fab.out.any (fun r => r.txf == some (key, c.num))

/-- R209: the command at the head of a stream completes: its sums, its arrival, then its number and its flag. -/
def execTxfCommandComplete (ctx c st : Nat) (s : State) : Host.Outcome State Fault Refusal :=
  .next (match s.txfHead ctx c st with
    | none => s
    | some m =>
      let key := streamKey ctx c st
      if m.cursor < m.total || s.txfFar key m then s
      else
        let s1 := if m.sums && !m.txfc then s.writeSums ctx c key m (layoutOf m.drec) else s
        let s2 :=
          if bitAt m.par 0 then
            let a := fld m.par 31 4 * 16
            match m.home c true (a : Int) with
            | some h =>
              (match s1.barObj h with
                | some o => s1.putBarObj h (o.arrive 1)
                | none => s1.txfFail ctx key m 0x0D a 0)
            | none => s1.txfFail ctx key m 0x0D a 0
          else s1
        let t := s2.stream key
        (s2.setStream key { t with done := max t.done m.num, cmds := t.cmds.drop 1 }).lowerAt m.ag m.seat m.flag false false)

/-- Codes of a run of bytes, little-endian. -/
def codesOf (w : Nat) (bs : List Byte) : List Nat := (List.range (bs.length * 8 / w)).map (fun k => leNat bs / 2 ^ (w * k) % 2 ^ w)

/-- The layout of the tensor of a TXFC. -/
def TxfCmd.tensor (c : TxfCmd) : Layout := layoutOf (if c.fn = 0 then c.srec else c.drec)

/-- The elements of the next `len` bytes of a TXFC's tensor. -/
def TxfCmd.pieceElems (c : TxfCmd) (len : Nat) : List Nat :=
  let w := c.tensor.fmt.width
  let from_ := c.cursor * 8 / w
  (List.range (min c.tensor.count ((c.cursor + len) * 8 / w) - from_)).map (fun k => from_ + k)

/-- The words of a slot that begins at an address, as places. -/
def TxfCmd.slotPlaces (c : TxfCmd) (cl base len : Nat) : List Place :=
  (List.range ((len + 3) / 4)).map (fun k => (((base + 4 * k : Nat) : Int), c.home cl true ((base + 4 * k : Nat) : Int), min 4 (len - 4 * k)))

/-- The ranges of the slots of a buffer. -/
def TxfCmd.slotRanges (c : TxfCmd) (cl : Nat) (cb : CirBuf) : List (Home × Nat) :=
  (List.range cb.slots).filterMap (fun i => (c.home cl true (((cb.base + i * cb.ssize) % 2 ^ 32 : Nat) : Int)).map (fun h => (h, cb.ssize)))

/-- The ranges of the elements of a TXFC's tensor. -/
def TxfCmd.tensorRanges (c : TxfCmd) (cl : Nat) : List (Home × Nat) :=
  (List.range c.tensor.count).filterMap (fun n => (c.cell cl c.tensor n).map (fun h => (h.1, c.tensor.bytes)))

/-- R210: the bytes that a PROD piece writes into a slot that begins at an address; an element whose place in the slot meets
the tensor is unspecified (R244). Free values count on from `k`. -/
def State.prodBytes (s : State) (c : TxfCmd) (cl base len k : Nat) : List Byte :=
  let w := c.tensor.fmt.width
  let ns := c.pieceElems len
  let ranges := c.tensorRanges cl
  leBytes len (ofElems w (ns.mapIdx (fun j n =>
    let met := match c.home cl true ((base + w * j / 8 : Nat) : Int) with
      | some h => ranges.any (fun r => h.meets c.tensor.bytes r.1 r.2)
      | none => false
    if met then (Config.freeWord (k + 2 * j + 1)).toNat % 2 ^ w else s.srcCode c cl c.tensor n (k + 2 * j))))

/-- Bytes of a slot that begins at an address. -/
def State.slotBytes (s : State) (c : TxfCmd) (cl base len : Nat) : List Byte :=
  (List.range len).map (fun k => match c.home cl true ((base + k : Nat) : Int) with
    | some h => (s.bytesAt h 1).headD 0
    | none => 0)

/-- R210: one piece of a TXFC. -/
def execTxfcPiece (ctx c st : Nat) (s : State) : Host.Outcome State Fault Refusal :=
  .next (match s.txfHead ctx c st with
    | none => s
    | some m =>
      let key := streamKey ctx c st
      let prod := decide (m.fn = 0)
      let l := m.tensor
      let cut (k : Nat) : State := s.setStream key ((s.stream key).setHead { m with cursor := k })
      if !m.txfc || m.total ≤ m.cursor then s
      else
        let bad := (cut m.total).txfFail ctx key m 0x3A m.cbaddr.toNat 0
        match m.home c true (m.cbaddr.toNat : Int) with
        | none => bad
        | some hd =>
          match s.cirBuf hd with
          | none => bad
          | some cb =>
            match cb.acquire prod with
            | none => s
            | some (slot, c1) =>
              let len := min cb.ssize (m.total - m.cursor)
              let base := (cb.base + slot * cb.ssize) % 2 ^ 32
              let ns := m.pieceElems len
              let elems := ns.filterMap (m.place c l)
              let cells := m.slotPlaces c base len
              let reads := if prod then elems else cells
              let writes := if prod then cells else elems
              if s.before m (reads ++ writes) || s.placesHeld ctx reads writes then s
              else
                let s0 := s.l1SyncAt m.seat
                let s1 := (s0.setStream key ((s0.stream key).setHead { m with cursor := m.cursor + len })).usePlaces ctx reads writes
                let done (t : State) : State := match c1.release prod with | some c2 => t.putCirBuf hd c2 | none => t.putCirBuf hd c1
                match s0.moveFault c reads writes with
                | some (cause, p) => done (((s1.breakCmd m writes).txfFail ctx key m cause p.toNat (m.cursor / cb.ssize)).bumpFree 1)
                | none =>
                  let n := ns.length
                  if prod then
                    let bytes := s0.prodBytes m c base len (s.free + 1)
                    done (cells.zipIdx.foldl (fun t e => t.txfPutAt ctx c key m true e.1.1 ((bytes.drop (4 * e.2)).take 4)) (s1.bumpFree (1 + 2 * n)))
                  else
                    let codes := codesOf l.fmt.width (s0.slotBytes m c base len)
                    let all := List.range l.count
                    let ranges := m.slotRanges c cb
                    done ((ns.zip codes).zipIdx.foldl (fun t e =>
                      let code := if m.clash c l all ranges e.1.1 then (Config.freeWord (s.free + 1 + e.2)).toNat % 2 ^ l.fmt.width else e.1.2
                      t.putCode ctx c key m l e.1.1 code) (s1.bumpFree (1 + n))))

end Sys2Proof.Machine
end

