-- ==== Sys2Proof/Machine/Expert.lean ====
section
/-! DEFINITION. Experts, tapes and tile queues: TNEXT, TQADD, PARK, ERQ, ERPIN and ERUNPIN
(spec/16_engine_system_instructions.md R213 to R216), fetches and evictions (spec/25_experts.md R296 to R306). -/

namespace Sys2Proof.Machine

open Sys2Proof

/-! ### Residency entries (Table 25-2) -/

/-- The first 256 bytes of an entry break R297. -/
def ertBad (w : List W64) : Bool :=
  fld (wordAt w 0) 55 32 != 0 || fld (wordAt w 1) 61 52 != 0 || fld (wordAt w 1) 63 62 == 3 || fld (wordAt w 3) 63 57 != 0
    || fld (wordAt w 3) 11 0 != 0 || fld (wordAt w 4) 31 0 != 0 || fld (wordAt w 5) 61 32 != 0 || fld (wordAt w 6) 61 32 != 0
    || (List.range 24).any (fun i => wordAt w (8 + i) != 0)

/-- The entry that an expert id names: its physical address and words; `none` where R213, R296 or R297 is broken. -/
def State.expert (s : State) (x id : Nat) : Option (Nat × List W64) :=
  match s.ertAddr x id with
  | none => none
  | some a =>
    let w := Memory.words s.mem a 32
    if ertBad w then none else some (a, w)

/-- The range of a resident copy: base and length. -/
def ertRange (w : List W64) : Nat × Nat := ((wordAt w 3).toNat, (wordAt w 2).toNat)

/-! ### Fetches (R299) -/

/-- The backing of an entry is whole: within one expander range, or within one lease window that its lease covers. -/
def State.backingOk (s : State) (bkind bpa blen : Nat) : Bool :=
  let last := bpa + blen - 1
  bpa % 4096 == 0 && blen % 4096 == 0 && decide (4096 ≤ blen) && decide (blen ≤ 2 ^ 34)
    && (match bkind with
      | 1 => decide (2 ^ 41 ≤ bpa) && decide (last < 2 ^ 43) && bpa / 2 ^ 41 == last / 2 ^ 41
      | 2 => decide (2 ^ 44 ≤ bpa) && decide (last < 2 ^ 45) && bpa / 2 ^ 36 == last / 2 ^ 36
          && (let l := s.lease ((bpa - 2 ^ 44) / 2 ^ 36); l.state != 0 && l.rd && decide (bpa % 2 ^ 36 + blen ≤ l.len.toNat))
      | _ => false)

/-- The pages of the resident range, translated with write rights by an engine's TLB; or `ferr` and the address at which the
check failed. -/
def State.fetchPages (s : State) (u x bpa : Nat) : List Nat → Except (Nat × Nat) (List (Nat × Home))
  | [] => .ok []
  | va :: r =>
    match s.xlate u x va false true with
    | .error _ => .error (1, va)
    | .ok (pa, e) =>
      if bitAt e 53 then .error (5, bpa)
      else match s.fetchPages u x bpa r with | .error b => .error b | .ok l => .ok ((va / 4096, s.home pa) :: l)

/-- Fetches that run for a context. -/
def State.fetchesOf (s : State) (x : Nat) : Nat := (s.eng.fetches.filter (fun f => f.ctx == x && f.running)).length

/-- A fetch begins: the entry becomes fetching, the software fields are read and checked, the translations that this takes are
counted against the budgets, and the fetch runs where fewer than 16 do. R297 names an outcome of a reserved bit set in the entry for the
instructions of R215 and R216 only: for EXPFETCH, EXPEVICT and the fetch that an eviction begins the bits are ignored and stay as
they are (DESIGN CHOICE, log entry 31; R7). -/
def State.beginFetch (s : State) (x id cl : Nat) : State :=
  match s.ertAddr x id with
  | none => s
  | some a =>
    let w := Memory.words s.mem a 8
    let bkind := fld (wordAt w 1) 63 62
    let bpa := fld (wordAt w 1) 51 0
    let r := ertRange w
    let base : Fetch := ⟨x, id, cl, decide (s.fetchesOf x < 16), bkind, bpa, r.2, r.1, [], none, 0⟩
    let vas := if s.backingOk bkind bpa r.2 then (List.range (r.2 / 4096)).map (fun k => r.1 + 4096 * k) else []
    let f : Fetch :=
      if s.backingOk bkind bpa r.2 then
        match s.fetchPages (engTlb cl) x bpa vas with
        | .ok l => { base with pages := l }
        | .error e => { base with bad := some e }
      else { base with bad := some (5, bpa) }
    let s1 := (s.readsMade x (vas.flatMap (s.walkReads (engTlb cl) x))).putErt a 0 (withFld (wordAt w 0) 63 61 1)
    { s1 with eng := { s1.eng with fetches := s1.eng.fetches ++ [f] } }

/-- The name of a fetch among the writers of requests to other devices. -/
def fetchKey (f : Fetch) : Nat × Nat := (2 ^ 32 + f.ctx, f.x)

/-- Bytes that a fetch writes at device scope: in this device, as requests of at most 256 bytes to another, and not at all
across a failed link or to a device that is no member, which is reported (R21, R288, R290, R299). -/
def State.fetchPut (s : State) (f : Fetch) (h : Home) (bs : List Byte) : State :=
  let lost := s.itemFailed f.ctx 0 0x35 (s.addrOf h) 0 0 f.cluster 0xFF
  if s.severed f.cluster h then lost
  else
    match h with
    | .down _ => lost
    | .dev n pa w =>
      (pieces (bs.length / 256 + 1) 0 bs).foldl (fun t e =>
        let r := t.send f.ctx f.cluster n (pa + e.1) (.write e.2) w 0 none false
        { r.2 with fab := { r.2.fab with out := r.2.fab.out.map (fun (q : FabReq) => if q.n == r.1 then { q with txf := some (fetchKey f) } else q) } }) s
    | _ => s.softPut h bs

/-- The backing address of the next byte that a fetch copies. -/
def State.fetchSrc (s : State) (f : Fetch) : Home := (s.home f.bpa).plus f.copied

/-- Where the next byte that a fetch copies goes. -/
def Fetch.dest (f : Fetch) : Option Home := (f.pages[f.copied / 4096]?).map (·.2)

/-- The lease of a fetch's backing has ended. -/
def State.fetchRevoked (s : State) (f : Fetch) : Bool := f.kind == 2 && (s.lease ((f.bpa - 2 ^ 44) / 2 ^ 36)).state != 1

/-- The next n bytes of a fetch wait: for the budgets of its context and of the HBM controllers, and for unanswered writes of what
they read (R33, R254, R339). -/
def State.copyHeld (s : State) (f : Fetch) (n : Nat) : Bool :=
  s.devHeld f.ctx (s.fetchSrc f) n || (f.kind == 2 && s.fabWaits f.ctx n)
    || (match f.dest with | some (.mem pa) => s.hbmFull pa n | _ => false)

/-- A fetch replaced. -/
def State.setFetch (s : State) (f g : Fetch) : State :=
  { s with eng := { s.eng with fetches := s.eng.fetches.map (fun h => if h = f then g else h) } }

/-- The next n bytes of a fetch copied, of one page; those read from another device are free values (log entry 10). Bytes through
a lease window count against `fabbud` (R33, R299). -/
def State.copyFetch (s : State) (f : Fetch) (n : Nat) : State :=
  let src := s.fetchSrc f
  let bs := s.bytesAt src n
  let s0 := match src with | .dev _ _ _ => s.bumpFree n | _ => s
  let s1 := if f.kind = 2 then s0.chargeFab f.ctx n else s0
  let s2 := match f.dest with
    | some (.mem pa) => (s1.useHbm pa n).fetchPut f (.mem pa) bs
    | some h => s1.fetchPut f h bs
    | none => s1
  s2.setFetch f { f with copied := f.copied + n }

/-- A write of a fetch to another device is unanswered. -/
def State.fetchFar (s : State) (f : Fetch) : Bool := s.fab.out.any (fun r => r.txf == some (fetchKey f))

/-- The running fetch of an entry. -/
def State.fetchOf (s : State) (x id : Nat) : Option Fetch := s.eng.fetches.find? (fun f => f.ctx == x && f.x == id)

/-- A fetch no longer runs or waits. -/
def State.dropFetch (s : State) (f : Fetch) : State := { s with eng := { s.eng with fetches := s.eng.fetches.erase f } }

/-! ### Tape entries (Table 25-4) -/

/-- Sixteen bytes at a launch-view address of a thread's launch, as two words. -/
def State.entryAt (s : State) (l c a : Nat) : W64 × W64 := (BitVec.ofNat 64 (s.padNum l c a 8), BitVec.ofNat 64 (s.padNum l c (a + 8) 8))

/-- A tape entry breaks Table 25-4 or R303; `cls` is the class asked for: shared or routed. -/
def tapeBad (q : TileQ) (e : W64 × W64) (routed : Bool) : Bool :=
  let op := fld e.1 63 56
  op == 0 || op == 0xFF || fld e.1 55 48 == 0 || fld e.1 47 40 == 0 || fld e.1 39 32 == 0 || decide (q.nctr ≤ fld e.1 31 20)
    || fld e.2 63 57 != 0 || fld e.2 5 0 != 0 || (decide (0x80 ≤ op) != routed) || (!routed && fld e.1 19 8 != 0)

/-! ### Parking (R301) -/

/-- A place for a parked entry of a thread of cluster c: a free hardware slot, else the lowest free spill record. -/
def State.parkPlace (s : State) (x c : Nat) : Option W64 :=
  match (List.range 64).find? (fun k => (Map.find s.eng.hwq (64 * c + k)).isNone) with
  | some k => some (linkWord 1 (64 * c + k))
  | none =>
    match Map.find s.eng.tables x with
    | none => none
    | some t =>
      match (List.range t.spcnt).find? (fun i => (Map.find s.eng.spills (x * 2 ^ 20 + i)).isNone) with
      | some i => some (linkWord 2 i)
      | none => none

/-- An entry put in a place. -/
def State.fillPlace (s : State) (x l c t b : Nat) (p : W64) (e : W64 × W64) : State :=
  let i := fld p 31 0
  if fld p 63 62 = 1 then
    { s with eng := { s.eng with hwq := Map.put s.eng.hwq i ⟨x, e.1, e.2, BitVec.ofNat 32 b, t, l, 0⟩ } }
  else
    let s1 := { s with eng := { s.eng with spills := Map.put s.eng.spills (x * 2 ^ 20 + i) (l, c) } }
    match s1.spillAddr x i with
    | some a => s1.writeMem a (wordBytes [e.1, e.2, BitVec.ofNat 64 (b + c * 2 ^ 32), 0])
    | none => s1

/-- An entry joins the tail of an expert's wait queue, and its block counts it. -/
def State.parkEntry (s : State) (x l c t b a : Nat) (h : Home) (q : TileQ) (p : W64) (e : W64 × W64) : State :=
  let w4 := Memory.w64 s.mem (a + 32)
  let head := Memory.w64 s.mem (a + 40)
  let tail := Memory.w64 s.mem (a + 48)
  let s1 := s.fillPlace x l c t b p e
  let s2 := if fld head 63 62 = 0 then s1.putErt a 5 p else s1.setLink x tail p
  ((s2.putErt a 4 (withFld w4 63 32 (fld w4 63 32 + 1))).putErt a 6 p).putBlock h { q with npark := q.npark + 1 }

/-! ### Instructions -/

/-- An expert id as an operand: 64 bits, those above bit 11 zero (R213). -/
def State.expertId (s : State) (ag : Agent) (o : Opnd) : Nat := match o with | .lit w => w.toNat | o => (s.reg ag o true).toNat

/-- The word of Table 16-6. -/
def ertReport (w0 : W64) (acq : Bool) : Nat :=
  fld w0 63 61 * 2 ^ 29 + acq.toNat * 2 ^ 28 + fld w0 60 60 * 2 ^ 27 + min (fld w0 31 0) 65535

/-- An instruction on the entry of an expert must wait for an earlier acquire of its thread, or an earlier access of it to the
entry (R149, R249). -/
def State.expertHeld (s : State) (ag : Agent) (id : Nat) : Bool :=
  match s.ertAddr (s.ctxOf ag) id with
  | some a => s.held ag (.mem a) 512
  | none => s.acquiring ag

/-- An instruction of R215 on one entry, which acts as an acquire (R300): `op` gives the state after it and whether a use was
taken. -/
def expertOp (f : EF) (s0 : State) (op : State → Agent → Nat → Nat → W64 → State × Bool) : Host.Outcome State Fault Refusal :=
  issued s0 (fun ag =>
    let id := s0.expertId ag f.sa
    let s := s0.l1Sync ag
    let x := s.ctxOf ag
    if s.expertHeld ag id then s0.stall
    else match (if id < 4096 then s.expert x id else none) with
    | none => s.trap ag 0x17 none 0 0
    | some (a, w) =>
      let r := op s ag id a (wordAt w 0)
      let t := r.1.settleEvicts
      (t.put64 ag f.dst (ertReport (Memory.w64 t.mem a) r.2)).retire (nSlots [f.sa]) .none)

/-- R215, ERQ.QRY. -/
def execErqQry (f : EF) (s : State) : Host.Outcome State Fault Refusal := expertOp f s (fun t _ _ _ _ => (t, false))

/-- Uses that a launch holds of an expert, changed. -/
def State.modUses (s : State) (l id : Nat) (g : Nat → Nat) : State :=
  match s.launch l with
  | some v => s.setLaunch l { v with uses := Map.put v.uses id (g (Map.at v.uses id 0)) }
  | none => s

/-- R215, ERQ.ACQ. -/
def execErqAcq (f : EF) (s : State) : Host.Outcome State Fault Refusal :=
  expertOp f s (fun t ag id a w0 =>
    match fld w0 63 61 with
    | 2 | 3 => ((t.putErt a 0 (withFld w0 31 0 (fld w0 31 0 + 1))).modUses (t.launchOf ag) id (· + 1), true)
    | 0 => (t.beginFetch (t.ctxOf ag) id (t.clusterOf ag), false)
    | _ => (t, false))

/-- R215, ERQ.REL. -/
def execErqRel (f : EF) (s : State) : Host.Outcome State Fault Refusal :=
  expertOp f s (fun t ag id a w0 =>
    if fld w0 31 0 = 0 then (t, false)
    else ((t.putErt a 0 (withFld w0 31 0 (fld w0 31 0 - 1))).modUses (t.launchOf ag) id (· - 1), false))

/-- R215, ERPIN. -/
def execErpin (f : EF) (s : State) : Host.Outcome State Fault Refusal :=
  expertOp f s (fun t ag id a w0 =>
    match fld w0 63 61 with
    | 2 => (t.putErt a 0 (withFld w0 63 61 3), false)
    | 1 => (t.putErt a 0 (withFld w0 60 60 1), false)
    | 0 => ((t.putErt a 0 (withFld w0 60 60 1)).beginFetch (t.ctxOf ag) id (t.clusterOf ag), false)
    | _ => (t, false))

/-- R215, ERUNPIN. -/
def execErunpin (f : EF) (s : State) : Host.Outcome State Fault Refusal :=
  expertOp f s (fun t _ _ a w0 => (if fld w0 63 61 = 3 then t.putErt a 0 (withFld w0 63 61 2) else t, false))

/-- The block that an instruction of a thread names. -/
def State.blockOf (s : State) (ag : Agent) (o : Opnd) : Except (Nat × Nat) (Home × TileQ) :=
  s.blockAt (s.launchOf ag) (s.clusterOf ag) (s.reg ag o false).toNat

/-- The status of a queueing instruction written where `dst` names a register. -/
def State.putStatus (s : State) (ag : Agent) (o : Opnd) (x : Nat) : State := s.put64 ag o x

/-- TQADD (R214). -/
def tqadd (f : EF) (s : State) (routed : Bool) : Host.Outcome State Fault Refusal :=
  issued s (fun ag =>
    let e := s.qPairOf ag f.sb
    if s.acquiring ag then s.stall
    else match s.blockOf ag f.sa with
    | .error (c, a) => s.trap ag c none 0 a
    | .ok (h, q) =>
      let r := if routed then q.rt else q.sh
      if tapeBad q e routed then s.trap ag 0x17 none 0 0
      else if r.cnt = r.cap then (s.putStatus ag f.dst 0).retire 1 .none
      else ((s.append (s.launchOf ag) (s.clusterOf ag) h q routed e).putStatus ag f.dst 1).retire 1 .none)

/-- R214, TQADD.SH. -/
def execTqaddSh (f : EF) (s : State) : Host.Outcome State Fault Refusal := tqadd f s false
/-- R214, TQADD.RT. -/
def execTqaddRt (f : EF) (s : State) : Host.Outcome State Fault Refusal := tqadd f s true

/-- Eligibility of a queued entry (R305); `none` where its counter object is invalid. -/
def State.eligible (s : State) (l c : Nat) (q : TileQ) (e : W64 × W64) : Option Bool :=
  match s.view none l c (q.ctrbase + 16 * fld e.1 31 20) 16 with
  | none => none
  | some h => match s.barObj h with | none => none | some o => some (decide ((o.phase + 256 - fld e.1 7 0) % 256 < 128))

/-- What TNEXT finds: an invalid counter, the ring and place of the entry to take, the end of the tape, or nothing. -/
inductive Tape where
  | bad
  | take (routed : Bool) (k : Nat)
  | ended
  | wait
deriving DecidableEq, Repr

/-- The condition of TNEXT (R214, R305). -/
def State.tape (s : State) (l c : Nat) (q : TileQ) : Tape :=
  let look (r : Ring) : List (Option Bool) := (List.range r.cnt).map (fun k => s.eligible l c q (s.entryAt l c (r.at k)))
  let a := look q.sh
  let b := look q.rt
  if (a ++ b).any (·.isNone) then .bad
  else
    match a.findIdx? (· == some true), b.findIdx? (· == some true) with
    | some k, _ => .take false k
    | none, some k => .take true k
    | none, none => if q.sh.cnt = 0 ∧ q.rt.cnt = 0 ∧ q.closed ∧ q.npark = 0 then .ended else .wait

/-- The clause of a TNEXT is ready (R160, R214). -/
def State.tnextReady (s : State) (ag : Agent) (f : EF) : Bool :=
  match s.blockOf ag f.sa with
  | .error _ => true
  | .ok (_, q) => s.tape (s.launchOf ag) (s.clusterOf ag) q != .wait

/-- Entry k leaves its ring: at the head the head moves, elsewhere the younger entries do (R305). -/
def State.takeEntry (s : State) (l c : Nat) (h : Home) (q : TileQ) (routed : Bool) (k : Nat) : State :=
  let r := if routed then q.rt else q.sh
  let s1 := if k = 0 then s
    else (List.range (r.cnt - 1 - k)).foldl (fun t i => t.putEntry l c (r.at (k + i)) (s.entryAt l c (r.at (k + i + 1)))) s
  let r' := { r with head := if k = 0 then (r.head + 1) % r.cap else r.head, cnt := r.cnt - 1 }
  s1.putBlock h (if routed then { q with rt := r' } else { q with sh := r' })

/-- R214, TNEXT. -/
def execTnext (f : EF) (s : State) : Host.Outcome State Fault Refusal :=
  issued s (fun ag =>
    let l := s.launchOf ag
    let c := s.clusterOf ag
    let put (t : State) (e : W64 × W64) : State := (t.put64 ag f.dst e.1.toNat).put64 ag (Opnd.plus f.dst 1) e.2.toNat
    if s.acquiring ag then s.stall
    else match s.blockOf ag f.sa with
    | .error (k, a) => s.trap ag k none 0 a
    | .ok (h, q) =>
      match s.tape l c q with
      | .bad => s.trap ag 0x0D none 0 0
      | .wait => s.stall
      | .ended => (put (s.l1Sync ag) (0, 0)).retire 1 .none
      | .take routed k =>
        let r := if routed then q.rt else q.sh
        let e := s.entryAt l c (r.at k)
        let s1 := (s.l1Sync ag).takeEntry l c h q routed k
        (put (if routed then s1.releaseAll (s.ctxOf ag) else s1) e).retire 1 .none)

/-- R216, PARK. -/
def execPark (f : EF) (s' : State) : Host.Outcome State Fault Refusal :=
  issued s' (fun ag =>
    let s := s'.l1Sync ag
    let l := s.launchOf ag
    let c := s.clusterOf ag
    let x := s.ctxOf ag
    let e := s.qPairOf ag f.sb
    let b := (s.reg ag f.sa false).toNat
    let id := fld e.1 19 8
    let t := match ag with | .thread _ t => t | .wave _ => 0
    if s.expertHeld ag id then s'.stall
    else match s.blockOf ag f.sa with
    | .error (k, a) => s.trap ag k none 0 a
    | .ok (h, q) =>
      if tapeBad q e true then s.trap ag 0x17 none 0 0
      else
        match s.expert x id with
        | none => s.trap ag 0x17 none 0 0
        | some (a, w) =>
          let st := ertState w
          if (st = 2 ∨ st = 3) ∧ q.rt.cnt < q.rt.cap then
            ((s.append l c h q true e).putStatus ag f.dst 1).retire 1 .none
          else
            match s.parkPlace x c with
            | none => s'.stall
            | some p =>
              let s1 := s.parkEntry x l c t b a h q p e
              ((if st = 0 then s1.beginFetch x id c else s1).putStatus ag f.dst 0).retire 1 .none)

/-! ### Steps of fetches and evictions -/

/-- R298, R299: a running fetch goes on. It copies its next page where the budgets let it and no read of the page fails; once every byte
is copied and no write of it to another device is unanswered (R300), the entry becomes resident or pinned and its parked
entries are released. -/
def execExpertFetchComplete (ctx x : Nat) (s : State) : Host.Outcome State Fault Refusal :=
  .next (match s.fetchOf ctx x, s.ertAddr ctx x with
    | some f, some a =>
      let n := min 4096 (f.blen - f.copied)
      if !f.running || f.bad.isSome then s
      else if f.copied < f.blen then
        (if s.fetchRevoked f || s.badBytes (s.fetchSrc f) n || s.severed f.cluster (s.fetchSrc f) || s.copyHeld f n then s
         else s.copyFetch f n)
      else if s.fetchFar f then s
      else
        let s1 := s.dropFetch f
        let w := Memory.words s1.mem a 8
        let w0 := withFld (withFld (withFld (wordAt w 0) 63 61 (if bitAt (wordAt w 0) 60 then 3 else 2)) 60 60 0) 59 56 0
        let s2 := (s1.putErt a 0 w0).putErt a 7 (wordAt w 7 + 1)
        s2.release ctx x (fld (wordAt w 4) 63 32)
    | _, _ => s)

/-- `ferr` of a cause (Table 25-2). -/
def FetchErr.code : FetchErr → Nat
  | .translation => 1
  | .uncorrectable => 2
  | .leaseRevoked => 3
  | .linkFailed => 4
  | .backingInvalid => 5

/-- The failed fetch leaves its entry absent, keeps `pinq`, and is reported (R298, R299). -/
def State.failFetch (s : State) (f : Fetch) (a ferr addr : Nat) : State :=
  let s1 := s.dropFetch f
  let w0 := Memory.w64 s1.mem a
  (s1.putErt a 0 (withFld (withFld w0 63 61 0) 59 56 ferr)).sendRecord (s1.boxOf f.ctx) 2
    (faultWords 2 0x36 f.ctx 0 ⟨BitVec.ofNat 64 addr, BitVec.ofNat 64 f.x, BitVec.ofNat 64 ferr, 0⟩ 0xFFFF f.cluster 0xFF s1.selfDev)

/-- R299: the fetch fails, in its checks or after `done` bytes, of which those of its last page are copied first. -/
def execExpertFetchFail (ctx x done : Nat) (cause : FetchErr) (s : State) : Host.Outcome State Fault Refusal :=
  .next (match s.fetchOf ctx x, s.ertAddr ctx x with
    | some f, some a =>
      if !f.running then s
      else
        match f.bad with
        | some (e, addr) => s.failFetch f a e addr
        | none =>
          let n := done - f.copied
          let can := match cause with
            | .uncorrectable => s.badBytes ((s.fetchSrc f).plus n) 1 && !s.badBytes (s.fetchSrc f) n
            | .leaseRevoked => s.fetchRevoked f && n == 0
            | .linkFailed => n == 0 || !s.severed f.cluster (s.fetchSrc f)
            | _ => false
          if can && decide (f.copied ≤ done) && decide (done < f.blen) && decide (n < 4096) && (n == 0 || !s.copyHeld f n) then
            let g : Fetch := { f with copied := done }
            (if n = 0 then s else s.copyFetch f n).failFetch (if n = 0 then f else g) a (FetchErr.code cause) (f.bpa + done)
          else s
    | _, _ => s)

/-- R299: a waiting fetch starts where fewer than 16 run. -/
def execExpertFetchStart (ctx x : Nat) (s : State) : Host.Outcome State Fault Refusal :=
  .next (match s.fetchOf ctx x with
    | some f =>
      if !f.running && decide (s.fetchesOf ctx < 16) then
        { s with eng := { s.eng with fetches := s.eng.fetches.map (fun g => if g = f then { g with running := true } else g) } }
      else s
    | none => s)

/-- A translation of a page of [base, base + len) of a context is pinned (R296, R302, R322). -/
def State.pinned (s : State) (x base len : Nat) : Bool :=
  let hit (va : Nat) : Bool := decide (base ≤ va) && decide (va < base + len)
  let page (p : Nat) : Bool := decide (base < p * 4096 + 4096) && decide (p * 4096 < base + len)
  s.path.acc.any (fun a => a.ctx == x && (a.lanes.any (fun l => hit l.va) || a.sent.any (fun l => hit l.2.va) || a.recs.any (fun r => hit r.va)))
    || s.eng.streams.any (fun e => e.1 / 160 == x && e.2.cmds.any (fun c => c.pages.any (fun p => page p.1)))
    || s.eng.fetches.any (fun f => f.ctx == x && f.pages.any (fun p => page p.1))
    || (match Map.find s.eng.tables x with | some t => t.frames.any (fun p => page p.1) | none => false)

/-- No TLB holds a translation of a range any more (R322). -/
def State.dropTlb (s : State) (x base len : Nat) : State :=
  { s with path := { s.path with tlb := s.path.tlb.filter (fun t => t.ctx != x || decide (t.vpn * 4096 + 4096 ≤ base) || decide (base + len ≤ t.vpn * 4096)) } }

/-- The cluster of a parked entry. -/
def State.linkCluster (s : State) (x : Nat) (l : W64) : Nat := match s.linkEntry x l with | some e => e.2.1 | none => 0

/-- R298, R302: an evicting entry without uses, whose range no translation holds, becomes absent; a fetch begins where
entries are parked. -/
def execExpertEvictComplete (ctx x : Nat) (s : State) : Host.Outcome State Fault Refusal :=
  .next (match s.ertAddr ctx x with
    | none => s
    | some a =>
      let w := Memory.words s.mem a 8
      let r := ertRange w
      if ertState w = 4 ∧ fld (wordAt w 0) 31 0 = 0 ∧ !(s.pinned ctx r.1 r.2) then
        let s1 := (s.dropTlb ctx r.1 r.2).putErt a 0 (withFld (wordAt w 0) 63 61 0)
        if fld (wordAt w 4) 63 32 = 0 then s1 else s1.beginFetch ctx x (s1.linkCluster ctx (wordAt w 5))
      else s)

end Sys2Proof.Machine
end

