-- ==== Sys2Proof/Machine/Load.lean ====
section
/-! DEFINITION. The command a mailbox entry names (Table 29-1), and placing one instruction word before the machine
(log entry 12). -/

namespace Sys2Proof.Machine

open Sys2Proof

/-- The firmware command whose block stands at an address, from the words w0 to w6 that firmware reads there. -/
def State.commandAt (s : State) (a : Nat) : Instr :=
  let w := s.fwWords (s.ownWindow a) 7
  decodeCommand (wordAt w 0) (wordAt w 1) (wordAt w 6)

/-- A wave of workgroup g at slot 1 of a clause, every register zero, as R36 leaves what it does not name. -/
def freshWave (g l x : Nat) (code : List W64) : Wave :=
  let p : Path := ⟨.running, 0, 1, 0, BitVec.allOnes 96, some code, .none, false⟩
  { wg := g, launch := l, ctx := x, ix := 0, part := 0, rslot := 0, allot := 128, sreg := Vector.replicate 61 0,
    vreg := Vector.replicate 128 (Vector.replicate 96 0), p0 := p, p1 := Path.none, alt := false,
    fcnt := Vector.replicate 12 0, ldcnt := 0, stcnt := 0, fpstat := 0, repctl := 0, dstkbase := 0, dstklen := 0,
    dstkdepth := 0, stop := .run, inh := none, touched := [], hreg := ⟨0, 0, 0, 0, Vector.replicate 4 0⟩, trec := ⟨0, 0, 0, 0⟩,
    dlv := false, step := false, age := 0, bank := .active }

/-- Parameters of the launch that carries a placed word. -/
def placeParams : Params :=
  { l1mode := 2, serial := false, cond := false, brcount := 0, wpg := 1, allot := 16, gridx := 1, gridy := 1, gridz := 1,
    wgspad := 1, seqspad := 1, stksz := 0, wentry := 64, sentry := 0, argptr := 0, stkbase := 0, cpladdr := 0, resaddr := 0,
    skips := [] }

/-- An instruction word, with its literal, in slot 1 of a clause of an agent that may issue it, and the agent latched. The
launch, workgroup and agent it needs are those of a launch of one wave with 4 KiB windows. -/
def State.placeWord (s : State) (nbits w : Nat) : State :=
  let v := w % 2 ^ nbits
  let word : W64 := BitVec.ofNat 64 v
  let lit : W64 := BitVec.ofNat 64 (v / 2 ^ 64)
  let i := decodeWord word lit
  let kind : ClauseKind := match i with
    | .ok j => if legal .wave j then .wave else if legal .seq j then .seq else .handler
    | .error _ => .wave
  let n := match i with | .ok j => j.slots | .error _ => 1
  let code : List W64 := [BitVec.ofNat 64 (n * 256 + (match kind with | .wave => 0 | .seq => 1 | .handler => 2)), word, lit, 0, 0, 0, 0, 0]
  let l : Launch := { q := 0, k := 0, ctx := 0, par := placeParams, next := 1, win := [(0, 4096)], uses := [], phase := .run,
                      dead := none, failed := 0, snap := s.mem }
  let g : WG := ⟨0, 0, 0, 0, 0, 0, 0, false, 0, 4096, 1, false⟩
  let wave := { freshWave 0 0 0 code with inh := if kind = .handler then some false else none }
  let th : Thread := { Thread.idle with st := .running, code := if kind = .seq then some code else none, used := true }
  { s with
    issue := some ⟨if kind = .seq then .thread 0 0 else .wave 0, false⟩
    waves := Map.put s.waves 0 wave
    threads := Map.put s.threads 0 th
    sch := { s.sch with launches := Map.put s.sch.launches 0 l, wgs := Map.put s.sch.wgs 0 g } }

end Sys2Proof.Machine
end

