-- ==== Sys2Proof/Machine/System.lean ====
section
/-! DEFINITION. The debug window, TRAP, RETT, YIELD, SLEEP, HALT and PGMAP (spec/16_engine_system_instructions.md R217 to
R226; spec/27_faults_preemption.md R316, R317), and the delivery of traps (R218). -/

namespace Sys2Proof.Machine

open Sys2Proof

/-! ### Stopped waves -/

/-- The wave of launch l on cluster c that a handle names (Table 16-8). -/
def State.byHandle (s : State) (l c h : Nat) : Option (Nat × Wave) :=
  s.waves.find? (fun e => e.2.launch == l && e.2.part == 16 * c + h / 2 ^ 14 % 4 * 4 + h / 2 ^ 12 % 4 && e.2.rslot == h / 2 ^ 8 % 16
    && !e.2.ended)

/-- The wave stopped for a thread that a handle operand names (R220). -/
def State.stoppedWave (s : State) (ag : Agent) (h : W64) : Option (Nat × Wave) :=
  if h.toNat / 2 ^ 16 ≠ 0 ∨ h.toNat % 256 ≠ 0 then none
  else
    match s.byHandle (s.launchOf ag) (s.clusterOf ag) h.toNat with
    | some (i, v) => if v.stop = .seq then some (i, v) else none
    | none => none

/-- The workgroup of a wave is switched out. -/
def State.waveOut (s : State) (v : Wave) : Bool := match s.wg v.wg with | some g => g.out | none => false

/-- A debug-window instruction: the stopped wave it names, a wait for a switched-out workgroup (R317), or the trap. -/
def debugWindow (f : SF) (s : State) (k : Agent → Nat → Wave → Option State) : Host.Outcome State Fault Refusal :=
  issued s (fun ag =>
    match s.stoppedWave ag (s.reg ag f.sa true) with
    | none => s.trap ag 0x18 none 0 0
    | some (i, v) =>
      if s.waveOut v then s.stall
      else match k ag i v with | some t => t | none => s.trap ag 0x18 none 0 0)

/-- A lane operand. -/
def State.laneOp (s : State) (ag : Agent) (f : SF) : Nat := s.srcBits ag 64 f.imm f.sb

/-- The value that DWRD reads; `none` where the selector names nothing (R220). -/
def State.debugRead (s : State) (i : Nat) (v : Wave) (cls sel lane : Nat) : Option Nat :=
  match cls with
  | 0 => if sel < 61 then some (v.getS sel).toNat else none
  | 1 => if sel % 4 < 3 then some (maskWord (v.slotAt (decide (256 ≤ sel))).mask (sel % 4)).toNat else none
  | 2 => if sel < v.allot ∧ lane < 96 then some (v.lane sel lane).toNat else none
  | 3 => if (sprWidth .handler sel).isSome then some (s.spr (.wave i) sel).toNat else none
  | _ => some (pcsWord (v.slotAt (decide (256 ≤ sel)))).toNat

/-- R220, DWRD. -/
def execDwrd (f : SF) (s : State) : Host.Outcome State Fault Refusal :=
  debugWindow f s (fun ag i v =>
    match s.debugRead i v f.fn.toNat f.imm.toNat (s.laneOp ag f) with
    | some x => some ((s.put64 ag f.dst x).retire (nSlots [f.sb]) .none)
    | none => none)

/-- One word of a mask replaced. -/
def putMaskWord (m : Mask) (k : Nat) (w : W32) : Mask :=
  let g (i : Nat) : Nat := if k = i then w.toNat else (maskWord m i).toNat
  maskOf (g 0) (g 1) (g 2)

/-- A value that sets a reserved bit of a wave special register (R118, Table 09-8, Table 07-3). -/
def sprReserved (n : Nat) (x : W64) : Bool :=
  match n with
  | 0x002 => fld x 63 57 != 0 || fld x 4 0 != 0
  | 0x005 => fld x 29 24 != 0
  | 0x006 => fld x 31 21 != 0 || fld x 15 5 != 0
  | _ => false

/-- A PC slot state that sets a reserved bit or value (Table 16-9). -/
def pcsBad (x : W64) : Bool := bitAt x 57 || bitAt x 0 || fld x 5 3 == 0 || fld x 2 1 == 3

/-- A wave after DWWR; `none` where the selector names nothing or a reserved bit is set. -/
def debugWrite (v : Wave) (cls sel lane : Nat) (x : W64) : Option Wave :=
  match cls with
  | 0 => if sel < 61 then some (v.putS sel (x.truncate 32)) else none
  | 1 =>
    let p := v.slotAt (decide (256 ≤ sel))
    if sel % 4 < 3 then some (v.setSlotAt (decide (256 ≤ sel)) { p with mask := putMaskWord p.mask (sel % 4) (x.truncate 32) }) else none
  | 2 => if sel < v.allot ∧ lane < 96 then some (v.putLane sel lane (x.truncate 32)) else none
  | 3 =>
    if (sprWidth .handler sel).isSome && !(sprReserved sel x) then
      some (if sel = 0x005 then { v with repctl := x.truncate 32 } else v.putSpr sel x)
    else none
  | _ =>
    if pcsBad x then none
    else some (v.setSlotAt (decide (256 ≤ sel)) (setPcs (v.slotAt (decide (256 ≤ sel))) x))

/-- The PC slot that a change of a wave has made Empty while its stack holds entries. -/
def Wave.newlyEmpty (v u : Wave) : Option Bool :=
  if u.dstkdepth = 0 then none
  else [false, true].find? (fun alt => (u.slotAt alt).st == .empty && (v.slotAt alt).st != .empty)

/-- A stopped wave after a debug write: a slot that the write makes Empty takes the top entry of the stack (R43), and a wave left
with both slots Empty and no entry has ended (R38). Where the pop cannot be made the slot stays Empty: DESIGN CHOICE (log entry
46). `none` while the pop must wait. -/
def State.debugPut (s : State) (i : Nat) (v u : Wave) : Option State :=
  let put (t : State) (x : Wave) : State :=
    if x.ended then ((t.setWave i { x with stop := .run, dlv := false, step := false }).dropReserve i).reap x.wg else t.setWave i x
  match v.newlyEmpty u with
  | none => some (put s u)
  | some alt =>
    match s.popInto i u alt 3 with
    | .stop _ _ => some (put s u)
    | .wait => none
    | .ok (t, x) => some (put t x)

/-- R220, DWWR. -/
def execDwwr (f : SF) (s : State) : Host.Outcome State Fault Refusal :=
  debugWindow f s (fun ag i v =>
    match debugWrite v f.fn.toNat f.imm.toNat (s.laneOp ag f) (BitVec.ofNat 64 (s.srcBits ag 64 f.imm f.sc)) with
    | some u => some (match s.debugPut i v u with | some t => t.retire (nSlots [f.sb, f.sc]) .none | none => s.stall)
    | none => none)

/-- A stopped wave issues again; one that was left with nothing to run has ended. -/
def State.letGo (s : State) (i : Nat) (v : Wave) (step : Bool) : State :=
  let s1 := s.setWave i { v with stop := .run, dlv := false, step := step }
  if v.ended then (s1.dropReserve i).reap v.wg else s1

/-- R221, DWRES.RESUME. -/
def execDwresResume (f : SF) (s : State) : Host.Outcome State Fault Refusal :=
  debugWindow f s (fun _ i v => some ((s.letGo i v false).retire 1 .none))

/-- R221, DWRES.KILL. -/
def execDwresKill (f : SF) (s : State) : Host.Outcome State Fault Refusal :=
  debugWindow f s (fun _ i _ => some ((s.killWave i).retire 1 .none))

/-- R221, DWSTEP. -/
def execDwstep (f : SF) (s : State) : Host.Outcome State Fault Refusal :=
  debugWindow f s (fun _ i v => some ((s.letGo i v true).retire 1 .none))

/-! ### TRAP, RETT, YIELD, SLEEP, HALT -/

/-- The wave stands at the clause after its TRAP, stopped. -/
def Wave.trapped (v : Wave) (st : Stop) (t : TRec) : Wave :=
  (v.setPath { v.path with pc := v.path.pc + 64, slot := 1, code := none, named := false, wait := .none }).halt st t

/-- The thread stands at the clause after its TRAP. -/
def Thread.pastTrap (h : Thread) : Thread := { h with pc := h.pc + 64, slot := 1, code := none, named := false, wait := .none, waits := false }

/-- R223, TRAP.SEQ. -/
def execTrapSeq (f : SF) (s : State) : Host.Outcome State Fault Refusal :=
  issued s (fun ag =>
    let t := s.trapRec ag 0x1A (s.pcOf ag).2.1 none f.imm.toNat 0
    match ag with
    | .wave w =>
      match s.wave w with
      | some v => ((s.setWave w (v.trapped .seq t)).queueTrap v.launch v.cluster ⟨some w, BitVec.ofNat 32 v.handle, t⟩).unlatch
      | none => s.stall
    | .thread c i =>
      let h := (s.thread c i).pastTrap
      if h.inh ∨ h.tvec = 0 then ((s.setThread c i h.halt).tier3 ag 1 t).unlatch
      else (s.setThread c i { h with queue := h.queue ++ [⟨none, 0x40000000, t⟩] }).unlatch)

/-- R223, TRAP.HOST; with n = 0xFFFF in a handler clause the wave parks with pool-exhausted (R316). -/
def execTrapHost (f : SF) (s : State) : Host.Outcome State Fault Refusal :=
  issued s (fun ag =>
    let dry := headerKind (wordAt (s.codeOf ag) 0) == .handler && f.imm == 0xFFFF
    let t := s.trapRec ag (if dry then 0x26 else 0x1A) (s.pcOf ag).2.1 none f.imm.toNat 0
    match ag with
    | .wave w =>
      match s.wave w with
      | some v => (((s.setWave w (v.trapped (if dry then .parked else .host) t)).dropReserve w).tier3 ag 1 t).unlatch
      | none => s.stall
    | .thread c i => ((s.setThread c i (s.thread c i).pastTrap.halt).tier3 ag 1 t).unlatch)

/-- A trap that its thread's handler has not released is forwarded: its record goes to the host and its stop becomes a
tier-3 stop (R317). -/
def State.forwardTrap (s : State) (i : Nat) (v : Wave) : State :=
  ((s.putWave i { v with stop := .host, dlv := false }).dropReserve i).tier3 (.wave i) 0 v.trec

/-- The wave whose trap a thread is handling, while it is stopped for it. -/
def State.handled (s : State) (c t : Nat) : Option (Nat × Wave) :=
  let h := s.thread c t
  if h.tsrc.toNat / 2 ^ 16 ≠ 0 then none
  else
    match s.byHandle h.launch c h.tsrc.toNat with
    | some (i, _) => (match s.liveWave i with | some v => if v.stop = .seq ∧ v.dlv then some (i, v) else none | none => none)
    | none => none

/-- R224, RETT. -/
def execRett (_ : SF) (s : State) : Host.Outcome State Fault Refusal :=
  issued s (fun ag =>
    match ag with
    | .wave w => (s.leaveHandler w).stepped ag
    | .thread c t =>
      if (s.thread c t).inh then
        let s1 := match s.handled c t with | some (i, v) => s.forwardTrap i v | none => s
        if (s1.thread c t).inh then s1.leaveTrap c t else s1.unlatch
      else s.trap ag 0x01 none 0 0)

/-- R225, YIELD: the selection of R64 passes over the wave until the others have been selected. -/
def execYield (_ : SF) (s : State) : Host.Outcome State Fault Refusal := issued s (fun _ => s.retire 1 .none)

/-- An agent's own clock (R62). -/
def State.clockOf (s : State) (ag : Agent) : Nat :=
  match ag with
  | .wave w => match s.wave w with | some v => (s.core v.core).cyc.toNat | none => 0
  | .thread c _ => (Map.at s.sch.clk c 0).toNat

/-- R225, SLEEP. -/
def execSleep (f : SF) (s : State) : Host.Outcome State Fault Refusal :=
  issued s (fun ag =>
    let n := s.srcBits ag 32 f.imm f.sa
    s.jump ag (s.nextPc ag) (if n = 0 then .none else .sleep (s.clockOf ag + n)))

/-- R225: a sleep ends once the agent's clock has passed its n cycles. -/
def execSleepExpire (a : Agent) (alt : Bool) (s : State) : Host.Outcome State Fault Refusal :=
  .next (match a with
    | .wave w =>
      match s.wave w with
      | some v =>
        (match (v.slotAt alt).wait with
          | .sleep n =>
            let k := s.core v.core
            (s.setWave w (v.setSlotAt alt { v.slotAt alt with wait := .none })).setCore v.core
              { k with cyc := BitVec.ofNat 64 (max k.cyc.toNat n) }
          | _ => s)
      | none => s
    | .thread c t =>
      match (s.thread c t).wait with
      | .sleep n =>
        let s1 := s.setThread c t { s.thread c t with wait := .none }
        { s1 with sch := { s1.sch with clk := Map.put s1.sch.clk c (BitVec.ofNat 64 (max (Map.at s1.sch.clk c 0).toNat n)) } }
      | _ => s)

/-- R225, HALT. A thread's next point is then the clause that follows (R218). One that halts in its trap handler stays in the
handler state, so that later traps wait for a RETT that never comes: DESIGN CHOICE (log entry 45). -/
def execHalt (_ : SF) (s : State) : Host.Outcome State Fault Refusal :=
  issued s (fun ag =>
    match ag with
    | .wave w =>
      match s.wave w with
      | some v =>
        let v1 := v.setPath Path.none
        s.stackEnd ag (s.emptied w { v1 with inh := if v.inh = some v.alt then none else v.inh } v.alt)
      | none => s.stall
    | .thread c t =>
      ((s.setThread c t { (s.thread c t).pastTrap with st := .halted }).freeThread c t).unlatch)

/-! ### PGMAP (R226, R316) -/

/-- Frames that a pool keeps in reserve (R316). -/
def poolReserve : Nat := 1024

/-- Free frames of a pool. -/
def Pool.count (p : Pool) : Nat := p.free.foldl (fun a e => a + e.2) 0

/-- The first free frame of a pool of pages of n bytes, and the pool without it. -/
def Pool.take (p : Pool) (n : Nat) : Option (Nat × Pool) :=
  match p.free with
  | [] => none
  | (a, k) :: r => if k ≤ 1 then some (a, { p with free := r }) else some (a, { p with free := (a + n, k - 1) :: r })

/-- Key of a pool. -/
def poolKey (x pool psz : Nat) : Nat := x * 128 + pool * 8 + psz

/-- A frame of n bytes fits the HBM budgets of a context and its ancestors (R33). -/
def State.hbmRoom (s : State) (x n : Nat) : Bool :=
  match s.ctxNode x with
  | some a => (s.ancestry a).all (fun e => decide (e.2.hbmuse + n / 4096 ≤ s.effHbm e.1 * 512))
  | none => true

/-- A leaf made present with a frame: one entry, or the sixteen of a group page, in one step (R231); a write of the handler at
device scope, to another device where the table stands there (R289). -/
def State.writeLeaf (s : State) (w ea : Nat) (e : W64) (frame : Nat) : State :=
  let n := withFld (withFld e 51 12 (frame / 4096)) 0 0 1
  let ws := if fld e 11 9 % 2 = 0 then [n] else List.replicate 16 n
  let a := if fld e 11 9 % 2 = 0 then ea else ea / 128 * 128
  s.agentPut (.wave w) .device lostLeaf (s.home a) (wordBytes ws)

/-- n bytes from a frame made zero: in this device's memory, with every copy of them that an L1 holds, or by writes to another
device (R226, R289). -/
def State.zeroFrame (s : State) (u x frame n : Nat) : State :=
  match s.home frame with
  | .mem a => { s with
      mem := Memory.clear s.mem a n
      uncorr := restOf s.uncorr a n
      path := { s.path with l1 := s.path.l1.filter (fun l => decide (l.line * 128 + 128 ≤ a) || decide (a + n ≤ l.line * 128)) } }
  | h => s.devWrite (tlbDie u) x h (List.replicate n 0)

/-- A frame of zeros taken from a pool and mapped. -/
def State.mapFrame (s : State) (w x key ea : Nat) (e : W64) (frame : Nat) (p : Pool) : State :=
  let n := pageBytes (fld e 11 9)
  let s0 := s.zeroFrame (s.tlbOf (.wave w)) x frame n
  let s1 := { s0 with flt := { s0.flt with pools := Map.put s0.flt.pools key p } }
  let s2 := s1.writeLeaf w ea e frame
  match s2.ctxNode x with
  | some a => s2.modNodes (s2.anc a) (fun m => { m with hbmuse := m.hbmuse + n / 4096 })
  | none => s2

/-- The first-touch whose handler a wave runs has taken a pool's reserve (R316). -/
def State.noteReserve (s : State) (w : Nat) : State :=
  match s.wave w with
  | some v => s.setWave w { v with touched := v.touched.map (fun e => if v.inh = some e.1 then (e.1, e.2.1, e.2.2.1, true) else e) }
  | none => s

/-- A wave waits for no pool's reserve any more. -/
def State.leaveReserve (s : State) (w : Nat) : State :=
  { s with flt := { s.flt with pools := Map.each s.flt.pools (fun _ p => { p with waiters := p.waiters.filter (· != w) }) } }

/-- PGMAP on a leaf that is marked first-touch and not present: a status, or a wait for the reserve (R316). -/
def State.firstTouch (s : State) (w x ea : Nat) (e : W64) : Option (Nat × State) :=
  let key := poolKey x (fld e 63 60) (fld e 11 9)
  let n := pageBytes (fld e 11 9)
  let p := Map.at s.flt.pools key ⟨[], none, []⟩
  match p.take n with
  | none => some (2, s)
  | some (frame, p1) =>
    if !(s.hbmRoom x n) then some (2, s)
    else if poolReserve < p.count then
      some (0, s.mapFrame w x key ea e frame { p1 with waiters := p1.waiters.filter (· != w) })
    else if p.holder = none ∨ p.holder = some w then
      some (0, (s.mapFrame w x key ea e frame { p1 with holder := some w, waiters := p1.waiters.filter (· != w) }).noteReserve w)
    else none

/-- The wave waits for the reserve of a pool. -/
def State.joinReserve (s : State) (w x : Nat) (e : W64) : State :=
  let key := poolKey x (fld e 63 60) (fld e 11 9)
  let p := Map.at s.flt.pools key ⟨[], none, []⟩
  if p.waiters.contains w then s
  else { s with flt := { s.flt with pools := Map.put s.flt.pools key { p with waiters := p.waiters ++ [w] } } }

/-- R226, PGMAP. Its walk reads entries as loads of the handler: it waits for the wave's incomplete accesses, and the wave's L1 is
written back before it (R249; log entry 28). An entry that cannot be read is a failed load, whose zero names no table (R291). -/
def execPgmap (f : SF) (s : State) : Host.Outcome State Fault Refusal :=
  issued s (fun ag =>
    match ag with
    | .thread _ _ => s.stall
    | .wave w =>
      let x := s.ctxOf ag
      let va := s.srcBits ag 64 0 f.sa
      let u := s.tlbOf ag
      let reads := s.walkPath u 4 (s.ptroot x) va
      let done (t : State) (st : Nat) : State := (t.put32 ag f.dst st).retire 1 .none
      if 2 ^ 57 ≤ va then (s.leaveReserve w).faultHere ag 0x23 none va 0
      else if !s.drained ag || s.readsHeld x reads then s.stall
      else
        let here := (s.l1Sync ag).readsMade x reads
        let bad := (here.leaveReserve w).trap ag 0x19 none 0 0
        match here.walk u x va with
        | .err _ => bad
        | .lost ea => ((here.leaveReserve w).agentItem ag 0x35 ea 0).trap ag 0x19 none 0 0
        | .leaf ea _ e =>
          if bitAt e 0 then (if s.leafFault x va e false false = some 0x21 then bad else done (here.leaveReserve w) 1)
          else if !bitAt e 52 then bad
          else
            match here.firstTouch w x ea e with
            | some (st, t) => done (t.leaveReserve w) st
            | none => (here.joinReserve w x e).stall)

/-! ### Delivery of traps (R218) -/

/-- A trap can reach its thread: a record of a wave that is switched out waits for its resumption (R327). -/
def State.reaches (s : State) (q : Queued) : Bool :=
  match q.wave with
  | some w => (match s.wave w with | some v => !(s.waveOut v) | none => true)
  | none => true

/-- A trap leaves the queue of its thread. -/
def Thread.popTrap (h : Thread) (q : Queued) : Thread := { h with queue := h.queue.erase q }

/-- A thread takes a trap: its next point, the record and the handler state. -/
def Thread.enterTrap (h : Thread) (q : Queued) : Thread :=
  { h with tret := BitVec.ofNat 64 (h.pc.toNat + h.slot * 8), tsrc := q.src, trec := q.trec, inh := true,
           pc := BitVec.ofNat 57 (fld h.tvec 56 6 * 64), slot := 1, code := none, named := false, waits := false,
           wasHalted := h.st == .halted, wasWait := h.wait, wait := .none, st := .running }

/-- A thread outside its handler that traps reach. -/
def Thread.hears (h : Thread) : Bool := h.st != .free && !h.inh && h.bank == .active

/-- A thread may take a trap: halted, between clauses, or waiting at issue. -/
def Thread.mayTake (h : Thread) : Bool := h.hears && !h.stop && (h.st == .halted || h.code.isNone || h.waits)

/-- The wave of a trap has taken note that its record was delivered. -/
def State.noteDelivery (s : State) (q : Queued) : State :=
  match q.wave with
  | some w => (match s.wave w with | some v => s.setWave w { v with dlv := true } | none => s)
  | none => s

/-- A trap of a wave is forwarded, while the wave still stands stopped for it. -/
def State.forwardQueued (s : State) (w : Nat) : State :=
  match s.wave w with
  | some v => if v.stop == Stop.seq then s.forwardTrap w v else s
  | none => s

/-- R218: the oldest trap that can reach its thread does. One that finds `tvec` zero waits for nothing but the end of a handler:
a wave's trap is forwarded, and one of the thread's own stops it. -/
def execTrapDelivery (c t : Nat) (s : State) : Host.Outcome State Fault Refusal :=
  .next (
    let h := s.thread c t
    match h.queue.find? s.reaches with
    | none => s
    | some q =>
      if h.tvec = 0 then
        if !h.hears then s
        else
          match q.wave with
          | some w => ((s.setThread c t (h.popTrap q)).forwardQueued w).freeThread c t
          | none => if h.stop then s else (s.setThread c t (h.popTrap q).halt).tier3 (.thread c t) 1 q.trec
      else if h.mayTake then (s.noteDelivery q).setThread c t ((h.popTrap q).enterTrap q)
      else s)

/-- R221: the wave that ran one instruction for DWSTEP reports its step trap. -/
def execStepTrap (w : Nat) (s : State) : Host.Outcome State Fault Refusal :=
  .next (match s.wave w with
    | some v =>
      if v.step ∧ v.stop = .seq then
        let p := v.path
        let t : TRec := { w0 := BitVec.ofNat 64 (0x1B * 2 ^ 56 + p.slot % 8 * 2 ^ 53 + v.alt.toNat * 2 ^ 52 + 0x1FF * 2 ^ 32 + v.handle),
                          w1 := p.pc.zeroExtend 64, w2 := 0, w3 := BitVec.ofNat 64 (v.repctl.toNat * 2 ^ 32) }
        (s.setWave w { v with step := false, trec := t }).queueTrap v.launch v.cluster ⟨some w, BitVec.ofNat 32 v.handle, t⟩
      else s
    | none => s)

end Sys2Proof.Machine
end

