-- ==== Sys2Proof/Machine/Select.lean ====
section
/-! DEFINITION. Selection of the next instruction (spec/03_execution_model.md R46, R50; spec/05_scheduling.md R64), the
fetch of clauses and the check of their headers (spec/09_instruction_formats.md R88 to R93), and barriers (R47). -/

namespace Sys2Proof.Machine

open Sys2Proof

/-! ### Clauses -/

/-- A header that R89 rejects whatever the agent. -/
def headerBad (h : W64) : Bool :=
  fld h 63 48 != 0 || fld h 35 32 != 0 || fld h 30 28 != 0 || fld h 22 20 != 0 || fld h 15 11 != 0 || fld h 7 2 != 0
    || decide (12 ≤ fld h 27 24) || decide (12 ≤ fld h 19 16) || (!bitAt h 31 && fld h 27 24 != 0)
    || (!bitAt h 23 && fld h 19 16 != 0) || (bitAt h 31 && bitAt h 23 && fld h 27 24 == fld h 19 16)
    || fld h 10 8 == 0 || fld h 1 0 == 3

/-- The clause kind suits the agent (R89): in the first-touch handler kinds 0 and 2, and kind 2 at its entry (R315). -/
def kindOk (h : W64) (thread handler entry : Bool) : Bool :=
  match fld h 1 0 with
  | 0 => !thread && !entry
  | 1 => thread
  | _ => handler

/-- The words of a clause, each as its launch's memory held it at the start or as a load reads it now (R93). -/
def freshOrOld (n : Nat) (old now : List W64) : List W64 := now.mapIdx (fun i w => if Config.oldCode (n + i) then wordAt old i else w)

/-- A clause fetched: its eight words and the state after the read, or the cause of a translation fault (R93, R342). -/
def State.fetch (s : State) (ag : Agent) (pc : Nat) : Except Nat (List W64 × State) :=
  let x := s.ctxOf ag
  let u := s.tlbOf ag
  match s.xlate u x pc true false with
  | .error c => .error c
  | .ok (pa, e) =>
    let h := s.home pa
    let r := (s.keepTlb u x pc e).agentGet ag .wave e h 64
    let now := (List.range 8).map (fun i => BitVec.ofNat 64 (leNat ((r.1.drop (8 * i)).take 8)))
    let old := match s.launch (s.launchOf ag), h with | some l, .mem a => Memory.words l.snap a 8 | _, _ => now
    let ws := freshOrOld r.2.free old now
    let bad (i : Nat) : Bool := s.badBytes (h.plus (8 * i)) 8
    let ws' := ws.mapIdx (fun i w => if bad i then 0 else w)
    let s1 := { r.2 with free := r.2.free + 8 }
    .ok (ws', match (List.range 8).find? bad with
      | some i => s1.agentItem ag 0x32 (leafPa e pc + 8 * i) 0
      | none => s1)

/-- The fetch of a clause waits: its walk, or its read, has no room in a budget (R33, R339). -/
def State.fetchHeld (s : State) (ag : Agent) (pc : Nat) : Bool :=
  let x := s.ctxOf ag
  let u := s.tlbOf ag
  s.walkHeld u x pc || (match s.xlate u x pc true false with | .error _ => false | .ok (pa, _) => s.devHeld x (s.home pa) 64)

/-- An occupied slot from k on holds a REP; `fuel` counts the slots left. -/
def hasRep (code : List W64) (n : Nat) : Nat → Nat → Bool
  | 0, _ => false
  | fuel + 1, k =>
    if n < k then false
    else
      match decodeWord (wordAt code k) (wordAt code (k + 1)) with
      | .ok (.rep _) => true
      | .ok i => hasRep code n fuel (k + i.slots)
      | .error _ => false

/-- An instruction that gates its clause is ready; any other is (R160, R214). -/
def State.gateReady (s : State) (ag : Agent) (i : Instr) : Bool :=
  match i with
  | .waitc f => s.waitcReady ag f
  | .waittl f => s.waittlReady ag f
  | .bowait f => s.bowaitReady ag f
  | .cbacqProd f => s.cbacqReady ag f true
  | .cbacqCons f => s.cbacqReady ag f false
  | .tnext f => s.tnextReady ag f
  | _ => true

/-- The instruction in slot 1 of a clause lets it start: it is ready, or it is illegal there and traps (R99, R160). -/
def State.gateOpen (s : State) (ag : Agent) (code : List W64) : Bool :=
  let h := wordAt code 0
  match decodeWord (wordAt code 1) (wordAt code 2) with
  | .ok i => !(legal (headerKind h) i && placeOk i 1 (fld h 10 8)) || s.gateReady ag i
  | .error _ => true

/-- The flags that a header waits for are clear (R91). -/
def flagsClear (h : W64) (f : Vector Nat 12) : Bool := (List.range 12).all (fun n => !bitAt h (36 + n) || f.toList.getD n 0 == 0)

/-- A fetched clause may start at slot k: its header is to trap, or nothing holds it (R89, R91, R101, R160). `sweep` is set
while another PC slot's sweep is in progress. -/
def State.clauseReady (s : State) (ag : Agent) (code : List W64) (ok named sweep : Bool) (k : Nat) : Bool :=
  let h := wordAt code 0
  headerBad h || !ok || ((named || flagsClear h (s.countsOf ag).1) && (k != 1 || s.gateOpen ag code)
    && !(sweep && hasRep code (fld h 10 8) 7 k))

/-! ### Waves -/

/-- A sweep of a PC slot is in progress in `repctl`. -/
def sweepOf (r : W32) (alt : Bool) : Bool := r.toNat.testBit 31 && r.toNat.testBit 30 == alt

/-- A wave may issue: registers in the active bank, no stop, its workgroup on the core, its context active there (R60), and a
slice that does not wait for full service (R338). -/
def State.waveRuns (s : State) (v : Wave) : Bool :=
  v.bank == .active && v.stop == .run && !(s.waveOut v) && (s.core v.core).active == some v.ctx && !(s.core v.core).hold

/-- A PC slot of a wave is allowed to issue: the one inside a clause, in the handler, or stepped, where there is one
(R46, R221, R315). -/
def Wave.slotMay (v : Wave) (alt : Bool) : Bool :=
  let p := v.slotAt alt
  p.st == .running && p.wait == .none && (v.slotAt (!alt)).code.isNone
    && (match v.inh with | some b => b == alt | none => true) && (!v.step || v.alt == alt)

/-- Header of a wave's clause suits it. -/
def State.waveKind (s : State) (v : Wave) (alt : Bool) (h : W64) : Bool :=
  let inh := v.inh == some alt
  kindOk h false inh (inh && (v.slotAt alt).pc.toNat == s.hentry v.ctx)

/-- A PC slot of a wave is ready. -/
def State.slotReady (s : State) (w : Nat) (v : Wave) (alt : Bool) : Bool :=
  let p := v.slotAt alt
  v.slotMay alt &&
    (match p.code with
    | some _ => true
    | none => !s.fetchHeld (.wave w) p.pc.toNat &&
      match s.fetch (.wave w) p.pc.toNat with
      | .error _ => true
      | .ok (ws, _) => (s.setWave w { v with alt := alt }).clauseReady (.wave w) ws (s.waveKind v alt (wordAt ws 0)) p.named
          (sweepOf v.repctl (!alt)) p.slot)

/-- The PC slot that a wave issues next: the two alternate where both are ready (R46). -/
def State.pickSlot (s : State) (w : Nat) (v : Wave) : Option Bool :=
  if s.slotReady w v (!v.alt) then some (!v.alt) else if s.slotReady w v v.alt then some v.alt else none

/-- A wave may be selected. -/
def State.waveReady (s : State) (w : Nat) (v : Wave) : Bool := s.waveRuns v && (s.pickSlot w v).isSome

/-- The wave selected least recently among some. -/
def oldest {V : Type} (age : V → Nat) : List (Nat × V) → Option (Nat × V)
  | [] => none
  | e :: r => match oldest age r with | some d => if age d.2 < age e.2 then some d else some e | none => some e

/-- The core's cycle counter at an issue (R118, R62; log entry 8). -/
def State.tickCore (s : State) (c : Nat) : State :=
  let k := s.core c
  ({ s with tick := s.tick + 1 }).setCore c { k with cyc := k.cyc + 1 + BitVec.ofNat 64 (Config.stall s.tick), begun := true }

/-- The word at a slot is no REP. -/
def noRep (ws : List W64) (k : Nat) : Bool := match decodeWord (wordAt ws k) (wordAt ws (k + 1)) with | .ok (.rep _) => false | _ => true

/-- A clause starts in the issuing slot of a wave: a fetch fault or a header trap at slot 0, or the instruction at the
path's slot is next. A sweep that stands in `repctl` is over where the slot goes on at another instruction, but not while it
runs its handler, from which it returns to the sweep (R89, R93, R101, R316). -/
def State.startWave (s : State) (w : Nat) (v : Wave) : State :=
  let p := v.path
  match s.fetch (.wave w) p.pc.toNat with
  | .error c => s.faultAt (.wave w) c 0 none p.pc.toNat 0
  | .ok (ws, s1) =>
    let h := wordAt ws 0
    if headerBad h || !(s.waveKind v v.alt h) then s1.trapAt (.wave w) 0x01 0 none 0 0
    else
      let r := if v.inh.isNone && sweepOf v.repctl v.alt && (noRep ws p.slot || fld h 10 8 < p.slot) then 0 else v.repctl
      let v1 := { v.setPath { p with code := some ws, named := false } with repctl := r }
      let s2 := (s1.setWave w v1).passes (.wave w) true
      if fld h 10 8 < p.slot then s2.goto (.wave w) (p.pc + 64) .none
      else { s2 with issue := some ⟨.wave w, false⟩ }

/-- R50, R64: an issue partition selects the ready wave that was selected least recently. -/
def execWaveSelect (p : Nat) (s : State) : Host.Outcome State Fault Refusal :=
  .next (match oldest (·.age) (s.waves.filter (fun e => e.2.part == p && s.waveReady e.1 e.2)) with
    | none => s
    | some (w, v) =>
      let alt := (s.pickSlot w v).getD v.alt
      let v1 := { v with alt := alt, age := s.tick + 1 }
      let s1 := (s.setWave w v1).tickCore v.core
      if s1.badAgents.contains (.wave w) then
        ({ s1 with badAgents := s1.badAgents.erase (.wave w) }).hostStop (.wave w) (s1.trapRec (.wave w) 0x32 v1.path.slot none 0 0)
      else if v1.path.code.isSome then { s1 with issue := some ⟨.wave w, false⟩ }
      else s1.startWave w v1)

/-! ### Sequencer threads -/

/-- A thread may be selected: a clause does not start while a trap waits for it (R218). -/
def State.threadReady (s : State) (c t : Nat) : Bool :=
  let h := s.thread c t
  h.st == .running && h.bank == .active && !h.stop && h.wait == .none &&
    (match h.code with
    | some _ => true
    | none => (h.inh || !(h.queue.any s.reaches)) && !s.fetchHeld (.thread c t) h.pc.toNat &&
      (match s.fetch (.thread c t) h.pc.toNat with
      | .error _ => true
      | .ok (ws, _) => s.clauseReady (.thread c t) ws (kindOk (wordAt ws 0) true false false) h.named false h.slot))

/-- A clause starts in a thread. -/
def State.startThread (s : State) (c t : Nat) : State :=
  let h := s.thread c t
  match s.fetch (.thread c t) h.pc.toNat with
  | .error e => s.faultAt (.thread c t) e 0 none h.pc.toNat 0
  | .ok (ws, s1) =>
    if headerBad (wordAt ws 0) || !(kindOk (wordAt ws 0) true false false) then s1.trapAt (.thread c t) 0x01 0 none 0 0
    else
      let r := if !h.inh && sweepOf h.repctl false && (noRep ws h.slot || fld (wordAt ws 0) 10 8 < h.slot) then 0 else h.repctl
      let h1 := { h with code := some ws, named := false, repctl := r }
      if fld (wordAt ws 0) 10 8 < h.slot then (s1.setThread c t h1).goto (.thread c t) (h.pc + 64) .none
      else { s1.setThread c t h1 with issue := some ⟨.thread c t, false⟩ }

/-- R50: a cluster selects the ready sequencer thread that was selected least recently. -/
def execSequencerSelect (c : Nat) (s : State) : Host.Outcome State Fault Refusal :=
  .next (match oldest (·.age) (((List.range 4).map (fun t => (t, s.thread c t))).filter (fun e => s.threadReady c e.1)) with
    | none => s
    | some (t, h) =>
      let s0 := s.setThread c t { h with age := s.tick + 1 }
      let clk := Map.at s.sch.clk c 0 + 1 + BitVec.ofNat 64 (Config.stall s.tick)
      let s1 := { s0 with tick := s.tick + 1, sch := { s0.sch with clk := Map.put s0.sch.clk c clk } }
      if s1.badAgents.contains (.thread c t) then
        ({ s1 with badAgents := s1.badAgents.erase (.thread c t) }).hostStop (.thread c t) (s1.trapRec (.thread c t) 0x32 h.slot none 0 0)
      else if h.code.isSome then { s1 with issue := some ⟨.thread c t, false⟩ }
      else s1.startThread c t)

/-! ### Barriers -/

/-- A wave has arrived at barrier b: each Running slot has executed BAR b (R47). -/
def Wave.arrived (v : Wave) (b : Nat) : Bool :=
  let ok (p : Path) : Bool := p.st != .running || p.wait == .bar b
  !v.ended && ok v.p0 && ok v.p1 && (v.p0.wait == .bar b || v.p1.wait == .bar b)

/-- A slot that waited at barrier b goes on, with what every wave of the workgroup released (R163). -/
def Path.pass (p : Path) (b : Nat) : Path := if p.wait = .bar b then { p with wait := .none } else p

/-- R47, R163: barrier b of workgroup w completes once every wave that has not ended has arrived. -/
def execBarrierComplete (w b : Nat) (s : State) : Host.Outcome State Fault Refusal :=
  .next (
    let mine := s.waves.filter (fun e => e.2.wg == w && !e.2.ended)
    if !mine.isEmpty && mine.all (fun e => e.2.arrived b) && mine.all (fun e => e.2.bank == .active) then
      mine.foldl (fun t e =>
        (t.setWave e.1 { e.2 with p0 := e.2.p0.pass b, p1 := e.2.p1.pass b }).l1Sync (.wave e.1)) s
    else s)

end Sys2Proof.Machine
end

