-- ==== Sys2Proof/Machine/Queue.lean ====
section
/-! DEFINITION. Queue rings, launch packets, placement and the end of launches (spec/05_scheduling.md R52 to R59, R65, R66;
spec/03_execution_model.md R34 to R37, R49; spec/19_consistency.md R260). -/

namespace Sys2Proof.Machine

open Sys2Proof

/-! ### The write-index line (R53, R54) -/

/-- A branch of the queue has passed over packet k (R65). -/
def Node.skips (n : Node) (k : Nat) : Bool := n.skip.any (fun e => decide (e.1 < k) && decide (k ≤ e.1 + e.2))

/-- Packets from a number up become visible; those that are visible already, have run or run stay as they are, those that a branch
passed over are skipped, and on a faulted node all others are cancelled (R54, R65, R319). No rule says which status a packet has
that is both: DESIGN CHOICE (log entry 33), skipped. -/
def State.makeVisible (s : State) (q : Nat) : Nat → Nat → State
  | 0, _ => s
  | n + 1, k =>
    let known := (match Map.find s.sch.nodes q with | some m => decide (k < m.c) | none => false) || (Map.find (s.packetsOf q) k).isSome
    let s1 := s.setPacket q k .visible
    let skip := match Map.find s.sch.nodes q with | some m => m.skips k | none => false
    let s2 := if known then s
      else if skip then s1.dropPacket q k 4
      else if (s1.ancestry q).any (fun e => e.2.state == 3) then s1.dropPacket q k 6 else s1
    s2.makeVisible q n (k + 1)

/-- The write index of a queue, as its line holds it, and the state after the read. -/
def State.writeIndex (s : State) (q : Nat) : Nat × State :=
  match Map.find s.sch.nodes q with
  | some n => let r := s.devRead (s.queueCtx q) (n.f 11 51 6 * 64) 8; (leNat r.1, r.2)
  | none => (0, s)

/-- The table of R54 applied to a write index. -/
def State.takeIndex (s : State) (q w : Nat) : State :=
  match s.node q with
  | none => s
  | some n =>
    if w = n.wprev then s
    else if w < n.wprev then (s.modNode q (fun m => { m with wprev := w })).queueFault q 0x38 w
    else if n.c + 2 ^ n.f 10 4 0 < w then (s.modNode q (fun m => { m with wprev := w })).queueFault q 0x39 w
    else (s.modNode q (fun m => { m with wprev := w })).makeVisible q (w - n.wprev) n.wprev

/-- R54: the write-index line of a queue, invalidated before, is read again; one at another device waits for room in the budget of
its context (R33). -/
def execWriteIndexReread (q : Nat) (s : State) : Host.Outcome State Fault Refusal :=
  .next (match s.node q with
    | some n =>
      if n.stale && n.level == 3 && !s.devHeld (s.queueCtx q) (s.home (n.f 11 51 6 * 64)) 8 then
        let w := s.writeIndex q
        (w.2.modNode q (fun m => { m with stale := false })).takeIndex q w.1
      else s
    | none => s)

/-! ### Launch packets (Table 05-1) -/

/-- A reserved field of a launch packet is set. -/
def packetReserved (w : List W64) : Bool :=
  let f (i hi lo : Nat) : Bool := fld (wordAt w i) hi lo != 0
  f 0 52 50 || f 0 39 0 || f 2 63 43 || f 2 31 27 || f 2 15 12 || f 3 63 57 || f 3 5 0 || f 4 63 57 || f 4 5 0 || f 6 63 57
    || f 6 4 0 || f 7 63 57 || f 7 3 0 || f 8 63 57 || f 8 1 0 || (List.range 6).any (fun i => f (10 + i) 63 0)

/-- The parameters of a launch packet. -/
def packetParams (w : List W64) : Params :=
  let f (i hi lo : Nat) : Nat := fld (wordAt w i) hi lo
  { l1mode := f 0 59 58, serial := f 0 57 57 == 1, cond := f 0 56 56 == 1, brcount := f 0 55 53, wpg := f 0 49 45,
    allot := f 0 44 40, gridx := f 1 63 32, gridy := f 1 31 16, gridz := f 1 15 0, wgspad := f 2 42 32, seqspad := f 2 26 16,
    stksz := f 2 11 0, wentry := f 3 56 6 * 64, sentry := f 4 56 6 * 64, argptr := wordAt w 5,
    stkbase := BitVec.ofNat 64 (f 6 56 5 * 32), cpladdr := f 7 56 4 * 16, resaddr := f 8 56 2 * 4,
    skips := [f 9 15 0, f 9 31 16, f 9 47 32, f 9 63 48] }

/-- A parameter is outside its range (Table 03-2, Table 05-1). -/
def Params.bad (p : Params) : Bool :=
  p.l1mode == 3 || (if p.cond then p.brcount == 0 || decide (4 < p.brcount) else p.brcount != 0)
    || p.wpg == 0 || decide (16 < p.wpg) || p.allot == 0 || decide (16 < p.allot) || p.gridx == 0 || p.gridy == 0 || p.gridz == 0
    || decide (1024 < p.wgspad) || decide (1024 < p.seqspad) || decide (1024 < p.wgspad + p.seqspad) || decide (2048 < p.stksz)
    || p.wentry == 0

/-- No core could ever hold a workgroup of the queue (R34). -/
def State.unplaceable (s : State) (q : Nat) : Bool := s.effClmask q == 0 || (s.anc q).any (fun a => s.effCores a == 0)

/-- The status with which a launch packet is rejected, in the order of R58. -/
def State.packetStatus (s : State) (q : Nat) (w : List W64) : Option Nat :=
  if packetReserved w then some 3 else if (packetParams w).bad then some 1 else if s.unplaceable q then some 2 else none

/-- A launch with none of its workgroups placed. -/
def newLaunch (q k x : Nat) (p : Params) (m : Mem) : Launch :=
  { q := q, k := k, ctx := x, par := p, next := 0, win := [], uses := [], phase := .run, dead := none, failed := 0, snap := m }

/-- R56: a visible packet is read and checked; a launch may then place workgroups, any other packet completes. One at another
device waits for room in the budget of its context (R33). -/
def execLaunchPacketRead (q k : Nat) (s : State) : Host.Outcome State Fault Refusal :=
  .next (
    let wait := match Map.find s.sch.nodes q, Map.find (s.packetsOf q) k with
      | some n, some .visible => s.devHeld (s.queueCtx q) (s.home (n.ringAt k)) 128
      | _, _ => false
    if wait then s else
    let s1 := s.readPacket q k
    match Map.find (s1.packetsOf q) k with
    | some (.read w) =>
      (match fld (wordAt w 0) 63 60 with
      | 0 =>
        if fld (wordAt w 7) 63 57 ≠ 0 ∨ fld (wordAt w 7) 3 0 ≠ 0 then s1.complete q k 3 0
        else if bitAt (wordAt w 0) 57 && k != 0 && !s1.packetOver q (k - 1) then s1
        else s1.complete q k 0 0
      | 1 =>
        match s1.packetStatus q w with
        | some st => s1.complete q k st 0
        | none =>
          let x := s1.queueCtx q
          ((s1.setPacket q k (.launched w)).setLaunch (launchKey q k) (newLaunch q k x (packetParams w) s1.mem)).refreshReady
      | _ => s1.complete q k 3 0)
    | _ => s1)

/-! ### Placement (R35 to R37, R49, R66) -/

/-- A core could hold the next workgroup of a launch now: its slot (R66). -/
def State.couldHold (s : State) (i : Nat) (l : Launch) (core : Nat) : Option Nat :=
  let idle := !(s.sch.wgs.any (fun e => e.2.core == core))
  let mine := if idle then (match s.choose core with | some q => s.queueCtx q == l.ctx | none => false)
    else (s.core core).active == some l.ctx
  if mine then s.fits i l core else none

/-- The eligible cores of a queue from its pointer on, cyclically (R66). -/
def State.eligibleCores (s : State) (q : Nat) : List Nat :=
  let m := s.effClmask q
  let el := (List.range 160).filter (fun c => m.testBit (c / 4))
  let p := match Map.find s.sch.nodes q with | some n => n.ptr.getD 0 | none => 0
  el.filter (fun c => decide (p ≤ c)) ++ el.filter (fun c => decide (c < p))

/-- The first core with the lowest penalty among candidates in window order. -/
def State.coolest (s : State) : List (Nat × Nat) → Option (Nat × Nat)
  | [] => none
  | e :: r =>
    match s.coolest r with
    | none => some e
    | some d => if Map.at s.dev.penalty d.1 0 < Map.at s.dev.penalty e.1 0 then some d else some e

/-- The core that takes the next workgroup of a launch, and the slot there (R66). -/
def State.pickCore (s : State) (i : Nat) (l : Launch) : Option (Nat × Nat) :=
  let rest := (s.eligibleCores l.q).dropWhile (fun c => (s.couldHold i l c).isNone)
  let before := (s.eligibleCores l.q).takeWhile (fun c => (s.couldHold i l c).isNone)
  let window := (rest ++ before).take 5
  s.coolest (window.filterMap (fun c => (s.couldHold i l c).map (fun j => (c, j))))

/-- A residence slot that no wave of the context holds on a partition. -/
def State.freeResidence (s : State) (x part : Nat) : Nat :=
  ((List.range 12).find? (fun r => !(s.waves.any (fun e => e.2.part == part && e.2.ctx == x && e.2.rslot == r && !e.2.ended)))).getD 0

/-- Wave `ix` of a workgroup as it starts (Table 03-3). -/
def entryWave (g : Nat) (w : WG) (l : Launch) (ix rslot : Nat) : Wave :=
  let v := freshWave g w.launch w.ctx []
  let arg := l.par.argptr.toNat
  let init := [w.x, w.y, w.z, ix, arg % 2 ^ 32, arg / 2 ^ 32, w.slot * 256 + w.core, l.k % 2 ^ 32]
  let linear := w.x + l.par.gridx * (w.y + l.par.gridy * w.z)
  { v with
    ix := ix, part := 4 * w.core + ix % 4, rslot := rslot, allot := 8 * l.par.allot,
    sreg := Vector.ofFn (fun i : Fin 61 => BitVec.ofNat 32 (init.getD i.val 0)),
    vreg := (Vector.replicate 128 (Vector.replicate 96 0)).setIfInBounds 0 (Vector.ofFn (fun i : Fin 96 => BitVec.ofNat 32 i.val)),
    p0 := { v.p0 with pc := BitVec.ofNat 57 l.par.wentry, code := none },
    dstkbase := BitVec.ofNat 64 (l.par.stkbase.toNat + (linear * l.par.wpg + ix) * (32 * l.par.stksz)),
    dstklen := BitVec.ofNat 32 l.par.stksz }

/-- The waves of a workgroup put on their partitions. -/
def State.addWaves (s : State) (g : Nat) (w : WG) (l : Launch) : State :=
  (List.range w.nw).foldl (fun t ix =>
    ({ t with fresh := t.fresh + 1 }).setWave t.fresh (entryWave g w l ix (t.freeResidence w.ctx (4 * w.core + ix % 4)))) s

/-- A thread as it is bound to a launch (R37); with no sequencer entry it runs the default program, which has halted. -/
def boundThread (h : Thread) (n i c : Nat) (l : Launch) : Thread :=
  let q := [l.par.argptr.toNat, c, l.k, 0x400000]
  { Thread.idle with
    st := if l.par.sentry = 0 then .halted else .running, launch := i, ctx := l.ctx,
    q := Vector.ofFn (fun n : Fin 32 => BitVec.ofNat 64 (q.getD n.val 0)), pc := BitVec.ofNat 57 l.par.sentry,
    epoch := h.nextEpoch, used := true, bind := n }

/-- The L1s of a cluster set to a mode; a change writes back and invalidates them first (R49). -/
def State.setL1Mode (s : State) (c : Nat) (fused : Bool) : State :=
  if s.sch.fused.contains c = fused then s
  else
    let s1 := [4 * c, 4 * c + 1, 4 * c + 2, 4 * c + 3, 160 + c].foldl (fun t o => t.l1Flush o (fun _ => true)) s
    { s1 with sch := { s1.sch with fused := if fused then s1.sch.fused ++ [c] else s1.sch.fused.filter (· != c) } }

/-- The L1 that a core's waves use. -/
def State.coreL1 (s : State) (core : Nat) : Nat := if s.sch.fused.contains (core / 4) then 160 + core / 4 else core

/-- A core without workgroups takes the context that its choice names, and a slice begins (R62, R66). -/
def State.takeCore (s : State) (x core : Nat) : State :=
  if s.sch.wgs.any (fun e => e.2.core == core) then s
  else
    let k := s.core core
    s.newSlice core { k with active := some x, queue := (s.choose core).getD 0, req := none, filled := false, slice := k.cyc }

/-- The next workgroup of a launch is placed on a core, in a slot, with its thread where the cluster has none yet. Failures
of earlier occupants of its tags count for the launch only; with the first workgroup the launch starts, and saved streams of
its context on the cluster run again (R93, R212). The pointer moves to the next core index, modulo 160, be it eligible or not, so that
a `clmask` widened by NODE-UPDATE before the next placement counts from there: DESIGN CHOICE (log entry 33), R66 says only the core
after the one chosen. -/
def State.place (s : State) (i : Nat) (l : Launch) (core slot : Nat) : State :=
  let c := core / 4
  let th := if (s.threadFor i c).isNone then s.freeThreadOf c else none
  let room := (s.roomFor l c th.isSome).getD (0, 0)
  let busy := s.sch.wgs.any (fun e => e.2.core / 4 == c)
  let first := !(s.sch.wgs.any (fun e => e.2.launch == i && e.2.core == core))
  let s0 := s.takeCore l.ctx core
  let s1 := if busy then s0 else s0.setL1Mode c (l.par.l1mode == 1)
  let s2 := if first then s1.l1Flush (s1.coreL1 core) (fun _ => true) else s1
  let pad0 := if th.isSome then Memory.clear s2.spad (spadAt c room.1) (l.par.seqspad * 4096) else s2.spad
  let w : WG := { launch := i, ctx := l.ctx, x := l.next % l.par.gridx, y := l.next / l.par.gridx % l.par.gridy,
                  z := l.next / (l.par.gridx * l.par.gridy), core := core, slot := slot,
                  epoch := (s.core core).epochs.toList.getD slot false, wbase := room.2, wsize := l.par.wgspad * 4096,
                  nw := l.par.wpg, out := false }
  let g := s2.fresh
  let s3 := { s2 with
    fresh := s2.fresh + 1
    spad := Memory.clear pad0 (spadAt c room.2) (l.par.wgspad * 4096)
    sch := { s2.sch with wgs := Map.put s2.sch.wgs g w } }
  let s4 := (s3.setLaunch i { l with next := l.next + 1, snap := if l.next = 0 then s.mem else l.snap, win := if th.isSome then Map.put l.win c room.1 else l.win }).addWaves g w l
  let s5 := match th with
    | some t => ({ s4 with fresh := s4.fresh + 1 }).setThread c t (boundThread (s4.thread c t) s4.fresh i c l)
    | none => s4
  let tags := s.slotTag core slot :: (match th with
    | some t => [BitVec.ofNat 12 ((160 + c) * 16 + t * 2 + ((s.thread c t).nextEpoch).toNat)]
    | none => [])
  let s6 := tags.foldl (fun t g => t.passTag g) s5
  ((((s6.syncCores l.q).modNode l.q (fun n => { n with ptr := some ((core + 1) % 160) })).moveStreams l.ctx c false).syncClus l.ctx c).refreshReady

/-- R35, R66: the next workgroup of launch k of queue q is placed, where a core can hold it. -/
def execWorkgroupPlace (q k : Nat) (s : State) : Host.Outcome State Fault Refusal :=
  .next (match s.nextLaunch q with
    | some (i, l) =>
      if i = launchKey q k then (match s.pickCore i l with | some (core, slot) => s.place i l core slot | none => s) else s
    | none => s)

/-! ### The end of a launch (R65, R260) -/

/-- Everything a launch issued has completed or failed (R260, step 1), its workgroups and threads have ended (R38), and its
writes to other devices are answered. -/
def State.launchDrained (s : State) (i : Nat) (l : Launch) : Bool :=
  decide (l.par.total ≤ l.next) && l.dead.isNone
    && !(s.sch.wgs.any (fun e => e.2.launch == i)) && !(s.threads.any (fun e => e.2.st != .free && e.2.launch == i))
    && !(s.eng.streams.any (fun e => e.2.cmds.any (fun c => c.launch == i))) && !(s.mx.mops.any (fun e => e.2.launch == i))
    && !(s.dfd.cmds.any (fun c => c.launch == i)) && !(s.dfd.offers.any (fun o => o.launch == i))
    && !(s.path.acc.any (fun a => a.launch == i))
    && !(s.fab.out.any (fun r => r.launch == i && (match r.kind with | .write _ | .atomic _ _ _ _ => true | _ => false)))

/-- The result word of a launch, read by the command processor (R65); `none` where the read fails. -/
def State.resultWord (s : State) (x va : Nat) : Option Nat × State :=
  match s.loadVa x va 4 with
  | .error _ => (none, s)
  | .ok (bs, bad) =>
    match s.xlate devTlb x va true false with
    | .ok (pa, _) =>
      (match s.home pa with
      | .down _ => (none, s)
      | .dev _ _ _ =>
        let r := s.farRead x 4 id
        (if bitAt (Config.freeWord s.free) 0 then none else some (leNat r.1), r.2)
      | h => (if bad || !s.reach 0 h then none else some (leNat bs), s))
    | .error _ => (none, s)

/-- Packets after k, in order, are skipped: those visible that have not started now, the rest as they become visible. -/
def State.skipAfter (s : State) (q k n : Nat) : State :=
  let s1 := s.modNode q (fun m => { m with skip := m.skip.filter (fun e => decide (m.c ≤ e.1 + e.2)) ++ [(k, n)] })
  ((s1.packetsOf q).filter (fun e => decide (k < e.1) && decide (e.1 ≤ k + n) && s1.unstarted q e.1 e.2)).foldl
    (fun t e => t.dropPacket q e.1 4) s1

/-- The launch-end release, the completion record and the branch of a conditional launch. -/
def State.closeLaunch (s : State) (i : Nat) (l : Launch) : State :=
  let s1 := (s.dropExperts i).l1FlushAll
  let drop (t : State) : State := { t with
    sch := { t.sch with launches := Map.del t.sch.launches i }
    dfd := { t.dfd with lost := t.dfd.lost.filter (fun k => k.launch != i || k.src.isSome) } }
  let s2 := if l.par.cond then
      (match s1.resultWord l.ctx l.par.resaddr with
      | (some v, t) =>
        (drop (t.complete l.q l.k 0 (BitVec.ofNat 32 v))).skipAfter l.q l.k (l.par.skips.getD (min v (l.par.brcount - 1)) 0)
      | (none, t) =>
        let a := t.takeFree
        let b := a.2.takeFree
        (drop (b.2.complete l.q l.k 7 0)).queueFault l.q (if bitAt a.1 0 then 0x38 else 0x39) b.1.toNat)
    else drop (s1.complete l.q l.k 0 0)
  s2.refreshReady

/-- The read of a launch's result word at another device waits for room in the budget of its context (R33). -/
def State.resultHeld (s : State) (l : Launch) : Bool :=
  l.par.cond && (match s.xlate devTlb l.ctx l.par.resaddr true false with | .ok (pa, _) => s.devHeld l.ctx (s.home pa) 4 | .error _ => false)

/-- R260: a launch whose work has drained commits its records; once they are applied it is released and completes. -/
def execLaunchEnd (q k : Nat) (s : State) : Host.Outcome State Fault Refusal :=
  .next (
    let i := launchKey q k
    match s.launch i with
    | none => s
    | some l =>
      match l.phase with
      | .run =>
        if s.launchDrained i l then
          let r := s.startCommit .launch i (s.tagsOf i) true
          if r.2.commitDone r.1 && !s.resultHeld l then (r.2.finishCommit r.1).closeLaunch i l else r.2.setLaunch i { l with phase := .commit r.1 }
        else s
      | .commit n =>
        if s.resultHeld l then s
        else if s.commitDone n || !(s.dfd.commits.any (fun c => c.n == n)) then (s.finishCommit n).closeLaunch i l
        else s)

end Sys2Proof.Machine
end

