-- ==== Sys2Proof/Machine/Sha3.lean ====
section
/-! DEFINITION. SHA3-512, which R340 and R341 name (FIPS 202: Keccak with a rate of 72 bytes and 24 rounds), and the device's
identity and firmware image (spec/29_system.md R340; log entry 9). -/

namespace Sys2Proof.Sha3

/-- Round constants of the iota step. -/
def rounds : List W64 :=
  [0x0000000000000001, 0x0000000000008082, 0x800000000000808A, 0x8000000080008000, 0x000000000000808B, 0x0000000080000001,
   0x8000000080008081, 0x8000000000008009, 0x000000000000008A, 0x0000000000000088, 0x0000000080008009, 0x000000008000000A]
  ++ [0x000000008000808B, 0x800000000000008B, 0x8000000000008089, 0x8000000000008003, 0x8000000000008002, 0x8000000000000080,
   0x000000000000800A, 0x800000008000000A, 0x8000000080008081, 0x8000000000008080, 0x0000000080000001, 0x8000000080008008]

/-- Rotations of the rho step, by lane x + 5 y. -/
def offsets : List Nat := [0, 1, 62, 28, 27, 36, 44, 6, 55, 20, 3, 10, 43, 25, 39, 41, 45, 15, 21, 8, 18, 2, 61, 56, 14]

/-- Lane x + 5 y of a state of 25 lanes. -/
def lane (a : List W64) (x y : Nat) : W64 := a.getD (x % 5 + 5 * (y % 5)) 0

/-- The theta step. -/
def theta (a : List W64) : List W64 :=
  let c := (List.range 5).map (fun x => lane a x 0 ^^^ lane a x 1 ^^^ lane a x 2 ^^^ lane a x 3 ^^^ lane a x 4)
  let d := (List.range 5).map (fun x => c.getD ((x + 4) % 5) 0 ^^^ (c.getD ((x + 1) % 5) 0).rotateLeft 1)
  (List.range 25).map (fun i => a.getD i 0 ^^^ d.getD (i % 5) 0)

/-- The rho and pi steps: lane (x, y) takes what rho makes of lane (x + 3 y, x). -/
def rhoPi (a : List W64) : List W64 :=
  (List.range 25).map (fun i =>
    let k := (i % 5 + 3 * (i / 5)) % 5 + 5 * (i % 5)
    (a.getD k 0).rotateLeft (offsets.getD k 0))

/-- The chi step. -/
def chi (a : List W64) : List W64 :=
  (List.range 25).map (fun i => lane a i (i / 5) ^^^ (~~~(lane a (i % 5 + 1) (i / 5)) &&& lane a (i % 5 + 2) (i / 5)))

/-- The permutation Keccak-f[1600]. -/
def permute (a : List W64) : List W64 :=
  rounds.foldl (fun b k => match chi (rhoPi (theta b)) with | x :: r => (x ^^^ k) :: r | [] => []) a

/-- A block of nine lanes absorbed. -/
def absorb (a : List W64) (b : List W64) : List W64 := permute (a.mapIdx (fun i x => x ^^^ b.getD i 0))

/-- The bytes of a message after its padding: 0x06, zeros, and 0x80 in the last byte of a block of 72. -/
def pad (m : List Byte) : List Byte :=
  let n := 72 - m.length % 72
  m ++ (if n = 1 then [0x86] else 0x06 :: List.replicate (n - 2) 0 ++ [0x80])

/-- Little-endian value of up to eight bytes. -/
def word (l : List Byte) : W64 := BitVec.ofNat 64 ((l.take 8).foldr (fun b n => b.toNat + 256 * n) 0)

/-- The k blocks of a padded message absorbed. -/
def run : Nat → List W64 → List Byte → List W64
  | 0, a, _ => a
  | k + 1, a, m => run k (absorb a ((List.range 9).map (fun i => word (m.drop (8 * i))))) (m.drop 72)

/-- SHA3-512 of a byte string: eight words, each the little-endian value of eight bytes of the digest. -/
def sha512 (m : List Byte) : List W64 := (run (m.length / 72 + 1) (List.replicate 25 0) (pad m)).take 8

end Sys2Proof.Sha3

namespace Sys2Proof

/-- SHA3-512 digest of the firmware image (R340, R341). -/
def firmwareDigest : List W64 := Sha3.sha512 Config.firmwareImage

/-- The bytes of some words, little-endian. -/
def bytesOfWords (l : List W64) : List Byte :=
  (l.map (fun w => (List.range 8).map (fun i => BitVec.ofNat 8 (w.toNat / 256 ^ i)))).flatten

/-- R340: the ROM's check of the firmware image: its signature over the image's SHA3-512 digest. -/
def romAccepts : Bool := Config.mldsaVerify Config.firmwareKey (bytesOfWords firmwareDigest) Config.firmwareSignature

/-- The device's public and private identity key, derived from its fused secret (R340). -/
def identityKey : List Byte × List Byte := Config.keyPair Config.fusedSecret

/-- R340: Jenler has signed the device's public key. -/
def identityCertified : Bool := Config.mldsaVerify Config.jenlerKey identityKey.1 Config.identitySignature

end Sys2Proof
end

