-- ==== Sys2Proof/Machine/Fabric.lean ====
section
/-! DEFINITION. Host, fabric, pod and device-wide steps (spec/23_fabric_pod.md R286 to R294; spec/19_consistency.md R262 to
R264; spec/29_system.md R338 to R344; spec/21 R279, R280; spec/27 R321, R322). -/

namespace Sys2Proof.Machine

open Sys2Proof

/-! ### The host (R53, R286, R344) -/

/-- The host has written n bytes from an address: a write-index line there must be read again, by whichever name its block has it
(R53, R288). -/
def State.hostWrote (s : State) (pa n : Nat) : State :=
  s.modNodes ((s.sch.nodes.filter (fun e =>
      let line := s.ownWindow (e.2.f 11 51 6 * 64)
      e.2.state != 0 && e.2.level == 3 && decide (line < pa + n) && decide (pa < line + 64))).map (·.1)) (fun m => { m with stale := true })

/-- R286: the host writes host memory: the device's copies of the lines are invalidated. -/
def execHostWriteInvalidate (pa : Nat) (data : List Byte) (s : State) : Host.Outcome State Fault Refusal :=
  .next (if 2 ^ 40 ≤ pa ∧ pa + data.length ≤ 2 ^ 41 then (s.softPut (.mem pa) data).hostWrote pa data.length else s)

/-- n bytes of local HBM that is assigned. -/
def State.inHbm (s : State) (pa n : Nat) : Bool :=
  decide (pa + n ≤ hbmSize) && s.assigned pa && (n == 0 || s.assigned (pa + n - 1))

/-- The host's path, from port 0 at die 0, needs a failed link to reach an address of HBM (R15, R21). -/
def State.hostCut (s : State) (pa : Nat) : Bool := s.cut 0 (homeDie pa)

/-- R286, R344: the host reads or writes device HBM, at device scope. One that is beyond the budget of its HBM controller waits
outside: the step that would bring it does nothing (R339; log entry 54). How a read that needs a failed link is answered is open, R21
only has it reported failed: zeros with the poison indication, and a root record with cause 0x35: DESIGN CHOICE (log entry 55). -/
def execHostMemAccess (pa n : Nat) (data : Option (List Byte)) (s : State) : Host.Outcome State Fault Refusal :=
  let say (t : State) (bs : List Byte) (poison : Bool) : State :=
    { t with fab := { t.fab with replies := t.fab.replies ++ [.hostData pa bs poison] } }
  .next (match data with
    | none =>
      if !(s.inHbm pa n) then (say s (List.replicate n 0) true).rootItem 0x23 pa s.selfDev
      else if s.hostCut pa then (say s (List.replicate n 0) true).rootItem 0x35 pa s.selfDev
      else if s.hbmFull pa n then s
      else if s.badBytes (.mem pa) n then (say (s.useHbm pa n) (List.replicate n 0) true).rootItem 0x32 pa s.selfDev
      else say (s.useHbm pa n) (Memory.read s.mem pa n) false
    | some bs =>
      if !(s.inHbm pa bs.length) then s.rootItem 0x23 pa s.selfDev
      else if s.hostCut pa then s.rootItem 0x35 pa s.selfDev
      else if s.hbmFull pa bs.length then s
      else if s.badPart pa bs.length then (s.useHbm pa bs.length).rootItem 0x32 pa s.selfDev
      else ((s.useHbm pa bs.length).softPut (.mem pa) bs).hostWrote pa bs.length)

/-! ### Requests of other devices (R263, R290, R291) -/

/-- A sequenced request was performed before. -/
def State.seenBefore (s : State) (f : RemoteFrom) : Option Seen := s.fab.seen.find? (fun k => k.f == f)

/-- A request is answered. -/
def State.say (s : State) (r : Reply) : State := { s with fab := { s.fab with replies := s.fab.replies ++ [r] } }

/-- A request of a device names memory that was lent to it, under a lease that this device no longer serves or one of an earlier
incarnation, and that has not been lent to it anew (R294; log entry 18). -/
def State.refuses (s : State) (dev pa : Nat) : Bool :=
  (s.fab.lent.any (fun l => l.dev == dev && l.state == 2
    && decide ((Config.lentRange dev l.lid).1 ≤ pa) && decide (pa < (Config.lentRange dev l.lid).1 + (Config.lentRange dev l.lid).2))
    || (s.dev.inc != 0 && Config.lentBefore dev s.dev.inc pa))
  && !Config.lentAnew dev pa s.free

/-- R263: a sequenced write arrives: performed the first time, discarded afterwards, acknowledged every time;
one through a lease that is no longer served is refused (R294). It waits outside for the budget of its HBM controller (R339; log
entry 54). -/
def execRemoteWriteReceive (f : RemoteFrom) (pa : Nat) (data : List Byte) (s : State) : Host.Outcome State Fault Refusal :=
  .next (match s.meet f.dev f.inc with
    | none => s
    | some s0 =>
      if (s0.seenBefore f).isSome then s0.say (.ack f)
      else if s0.refuses f.dev pa then s0.say (.refused f.dev pa)
      else if s0.inHbm pa data.length && s0.hbmFull pa data.length then s
      else
        let s1 := { s0 with fab := { s0.fab with seen := s0.fab.seen ++ [Seen.mk f 0] } }
        let s2 := if !(s1.inHbm pa data.length) then s1.rootItem 0x23 pa f.dev
          else if s1.badPart pa data.length then s1.rootItem 0x32 pa f.dev
          else (s1.useHbm pa data.length).softPut (.mem pa) data
        s2.say (.ack f))

/-- The operation of Table 13-3 that a request carries. -/
def AtomOp.mop : AtomOp → Nat
  | .add => 0 | .min => 1 | .max => 2 | .and => 3 | .or => 4 | .xor => 5 | .xchg => 6 | .fadd => 7 | .fmin => 8 | .fmax => 9
  | .cas _ => 10

/-- The compare value of a request. -/
def AtomOp.cmp : AtomOp → W64
  | .cas c => c
  | _ => 0

/-- R291: an atomic arrives, once the budget of its HBM controller has room (R339; log entry 54): performed the first time; a duplicate is answered with the first old value. -/
def execRemoteAtomicReceive (f : RemoteFrom) (pa : Nat) (op : AtomOp) (ty : Ty) (v : W64) (s : State) : Host.Outcome State Fault Refusal :=
  let n := tyBits ty / 8
  .next (match s.meet f.dev f.inc with
    | none => s
    | some s0 =>
      match s0.seenBefore f with
      | some k => s0.say (.atomicOld f k.old)
      | none =>
        if s0.refuses f.dev pa then s0.say (.refused f.dev pa)
        else if s0.inHbm pa n && s0.hbmFull pa n then s
        else
        let old := BitVec.ofNat 64 (Memory.num s0.mem pa n)
        let note (t : State) (o : W64) : State := ({ t with fab := { t.fab with seen := t.fab.seen ++ [Seen.mk f o] } }).say (.atomicOld f o)
        if !(s0.inHbm pa n) then note (s0.rootItem 0x23 pa f.dev) 0
        else if s0.badBytes (.mem pa) n then note (s0.rootItem 0x32 pa f.dev) 0
        else note ((s0.useHbm pa n).softPut (.mem pa) (leBytes n (atomNew (AtomOp.mop op) ty old v (AtomOp.cmp op)).toNat)) old)

/-- R290: a read arrives, once the budget of its HBM controller has room (R339; log entry 54). -/
def execRemoteReadReceive (src pa n : Nat) (s : State) : Host.Outcome State Fault Refusal :=
  .next (
    if s.refuses src pa then s.say (.refused src pa)
    else if s.inHbm pa n && s.hbmFull pa n then s
    else if !(s.inHbm pa n) then (s.rootItem 0x23 pa src).say (.readData src pa (List.replicate n 0))
    else if s.badBytes (.mem pa) n then (s.rootItem 0x32 pa src).say (.readData src pa (List.replicate n 0))
    else (s.useHbm pa n).say (.readData src pa (Memory.read s.mem pa n)))

/-! ### Answers to this device's requests (R262, R264, R289, R291, R292) -/

/-- The request of a number. -/
def State.req (s : State) (n : Nat) : Option FabReq := s.fab.out.find? (fun r => r.n == n)

/-- A request is over. -/
def State.dropReq (s : State) (n : Nat) : State := { s with fab := { s.fab with out := s.fab.out.filter (fun r => r.n != n) } }

/-- The access and lane that wait for a request. -/
def State.waiter (s : State) (n : Nat) : Option (Access × LaneAcc) :=
  s.path.acc.findSome? (fun a => (a.sent.find? (fun e => e.1 == n)).map (fun e => (a, e.2)))

/-- A lane waits for a request no more. -/
def State.answered (s : State) (a : Access) (n : Nat) : State :=
  (s.modAcc a.n (fun b => { b with sent := b.sent.filter (fun e => e.1 != n) })).closeAccess a.n

/-- A sequence number counts as acknowledged (R263). -/
def State.ackSeq (s : State) (r : FabReq) : State :=
  let k := r.ctx * 64 + r.queue
  let q := Map.at s.fab.queues k ⟨0, []⟩
  { s with fab := { s.fab with queues := Map.put s.fab.queues k { q with done := q.done ++ [r.seq] } } }

/-- Records that a notice covered on its device wait no more: those of bins sent before it (R270). -/
def State.farSettled (s : State) (dev n : Nat) (tags : List (BitVec 12)) : State :=
  { s with dfd := { s.dfd with farTags := s.dfd.farTags.filter (fun e => !(e.1 == dev && tags.contains e.2.1 && decide (e.2.2 < n))) } }

/-- Ports that reach a device: six at each die, those of dies that are not ready out of use (R15, R29). -/
def State.portsTo (s : State) (dev : Nat) : List Nat :=
  (List.range 24).filter (fun p => s.dieReady (p / 6) && !(s.fab.lostPorts.contains (p, dev)))

/-- The number of ports that reach a device. -/
def State.ports (s : State) (dev : Nat) : Nat := (s.portsTo dev).length

/-- The port of sending k of a request: the reaching ports in turn, from the one of its 256-byte block (R291). -/
def State.portFor (s : State) (r : FabReq) (k : Nat) : Option Nat := (s.portsTo r.dev)[(r.pa / 256 + k) % max 1 (s.ports r.dev)]?

/-- A sending of a request left the device: its port is at the die where the request waits, or at one that a link joins to it
(R15, R21). -/
def State.reached (s : State) (r : FabReq) : Bool :=
  (List.range r.sends).any (fun k => match s.portFor r k with | some p => !s.cut r.die (p / 6) | none => false)

/-- Failures of a notice beyond the records that this device knows of: every later commit that covers a tag of it counts them, or,
where its tags have passed to other holders, every later one of the whole launch (R170, R292; log entry 19). -/
def State.noteFar (s : State) (nt : Notice) (k : Nat) : State :=
  match s.dfd.commits.find? (fun c => c.n == nt.n) with
  | some c => { s with dfd := { s.dfd with lost := s.dfd.lost ++ List.replicate k ⟨none, c.launch, nt.tags.headD 0, nt.tags.isEmpty, true⟩ } }
  | none => s

/-- An acknowledged notice of a commit. -/
def State.noticeAcked (s : State) (r : FabReq) (nt : Notice) (k : Nat) : State :=
  (((s.farSettled r.dev r.n nt.tags).modCommit nt.n (fun c => { c with failed := c.failed + k })).noteFar nt k).noticeDone nt

/-- R262: request n, which a sending has carried to its device, is answered. -/
def execFabricAcknowledgement (n : Nat) (data : List Byte) (fails : Nat) (s : State) : Host.Outcome State Fault Refusal :=
  .next (match s.req n with
    | none => s
    | some r =>
      if !s.reached r then s else
      let s1 := s.dropReq n
      match r.kind with
      | .read _ =>
        let s2 := { s1 with free := s1.free + 1 }
        let s3 := if r.keep && Config.l2Holds s1.free then s2.farPut r.die r.dev r.pa data else s2
        (match s3.waiter n with
          | some (a, l) =>
            let off := match l.home with | .dev _ pa _ => pa - r.pa | _ => 0
            (s3.give a l (loadExt a.ty (leNat ((data.drop off).take a.size)))).answered a n
          | none => s3)
      | .write bs =>
        let s2 := if r.keep then (s1.ackSeq r).farPut r.die r.dev r.pa bs else s1.ackSeq r
        (match s2.waiter n with | some (a, _) => s2.answered a n | none => s2)
      | .atomic _ _ _ _ =>
        let s2 := s1.ackSeq r
        (match s2.waiter n with
          | some (a, l) => (if a.op.returns then s2.give a l (BitVec.ofNat 64 (leNat (data.take a.size))) else s2).answered a n
          | none => s2)
      | .bin _ _ => s1.ackSeq r
      | .notice nt => s1.noticeAcked r nt fails)

/-- R291: request n is sent again on the next reaching port, with the same sequence number. -/
def execFabricResend (n : Nat) (s : State) : Host.Outcome State Fault Refusal :=
  .next (match s.req n with
    | none => s
    | some r =>
      if 0 < r.sends ∧ r.sends < s.ports r.dev then
        { s with fab := { s.fab with out := s.fab.out.map (fun q => if q.n == n then { q with sends := q.sends + 1 } else q) } }
      else s)

/-- The cause with which a request fails: refused through a lease, or unanswered, which a free value decides (R291, R294; log entry
18). -/
def State.reqCause (s : State) (r : FabReq) : Nat :=
  match r.lease with
  | some _ => if bitAt (Config.freeWord s.free) 0 then 0x24 else 0x35
  | none => 0x35

/-- The failed items of a request, with a cause (R291). A lane is named by its own address; Table 27-6 has no field for the unknown
outcome of an atomic, whose record is that of any lane with its cause. -/
def State.failReq (s : State) (r : FabReq) (cause : Nat) : State :=
  let s0 := { s.dropReq r.n with free := s.free + 1 }
  let here := s.addrOf (.dev r.dev r.pa r.lease)
  let broken (t : State) : State := match r.who with
    | some (ag, bind) => if r.kind.writes then t.breakAgent ag bind r.launch else t
    | none => t
  match r.kind with
  | .read _ | .write _ | .atomic _ _ _ _ =>
    (match s0.waiter r.n with
      | some (a, l) =>
        (broken (s0.failLane a l cause (s.addrOf l.home))).answered a r.n
      | none =>
        let t0 := broken s0
        match r.txf with
        | some (key, num) =>
          (match Map.find t0.eng.streams key with
            | some t => { t0 with eng := { t0.eng with streams := Map.put t0.eng.streams key (t.fail num cause 1) } }
            | none => t0).itemFailed r.ctx r.launch cause here (if key < 2 ^ 32 then num else 0) 0 r.queue 0xFF
        | none => t0.itemFailed r.ctx r.launch cause here 0 0 (if r.queue < 40 then r.queue else 0xFF) 0xFF)
  | .bin b _ =>
    let s1 := s0.failRecs b.key b.srcdev b.inc b.dest b.recs cause
    { s1 with dfd := { s1.dfd with farTags := s1.dfd.farTags.filter (fun e => e.2.2 != r.n) } }
  | .notice nt =>
    let k := (Config.freeWord s0.free).toNat % 2 ^ 24
    (s0.bumpFree 1).noticeAcked r nt k

/-- R291: request n fails. How many records of an unanswered notice count as failed is open (log entry 19). -/
def execFabricItemFail (n : Nat) (s : State) : Host.Outcome State Fault Refusal :=
  .next (match s.req n with | some r => if r.sends = 0 then s else s.failReq r (s.reqCause r) | none => s)

/-- R33: the millisecond window of the fabric budgets ends, and held requests are sent. -/
def execFabricWindow (s : State) : Host.Outcome State Fault Refusal :=
  .next ({ s with sch := { s.sch with nodes := Map.each s.sch.nodes (fun _ m => { m with sent := 0 }) } }).sendHeld

/-- R291: a port stops reaching a device. -/
def execLossOfPorts (port dev : Nat) (s : State) : Host.Outcome State Fault Refusal :=
  .next (if port < 24 ∧ !(s.fab.lostPorts.contains (port, dev)) then
      { s with fab := { s.fab with lostPorts := s.fab.lostPorts ++ [(port, dev)] } } else s)

/-! ### Permits, incarnations, leases (R279, R280, R294) -/

/-- R279: permits of a receiver arrive; those beyond a staging budget go back (R33). -/
def execPermitGrant (ctx dev n : Nat) (h : W32) (s : State) : Host.Outcome State Fault Refusal :=
  .next (match s.ctxNode ctx with
    | none => s.say (.permit dev ctx n h)
    | some a =>
      let room := (s.ancestry a).foldl (fun m e => min m (s.effStg e.1 * 2 - e.2.permits)) n
      let k := ctx * 1024 + dev
      let s1 := s.modNodes (s.anc a) (fun m => { m with permits := m.permits + room })
      let s2 := { s1 with fab := { s1.fab with permits := Map.put s1.fab.permits k (Map.at s1.fab.permits k 0 + room),
                                               handles := Map.put s1.fab.handles k h } }
      if room < n then s2.say (.permit dev ctx (n - room) h) else s2)

/-- Leases of a lender that pass a test begin to be revoked. -/
def State.revokeLeases (s : State) (p : Lease → Bool) : State :=
  { s with fab := { s.fab with leases := Map.each s.fab.leases (fun _ l => if l.state = 1 && p l then { l with state := 2 } else l) } }

/-- R280, R294: a device announces an incarnation: the older ones of it as a sender are over, and its leases with an older
one are revoked. -/
def execIncarnationAnnounce (dev : Nat) (inc : BitVec 16) (s : State) : Host.Outcome State Fault Refusal :=
  .next (match s.meet dev inc with
    | none => s
    | some t => t.revokeLeases (fun l => l.lender == dev && l.linc != inc))

/-- R294: a lease revoke arrives. -/
def execLeaseRevoke (lender : Nat) (lid : W32) (s : State) : Host.Outcome State Fault Refusal :=
  .next (s.revokeLeases (fun l => l.lender == lender && l.lid == lid))

/-- Accesses, each counted once, and pinned commands in flight to lease window w (Table 23-3). -/
def State.inflight (s : State) (w : Nat) : Nat :=
  let at_ (h : Home) : Bool := match h with | .dev _ _ (some k) => k == w | _ => false
  (s.path.acc.filter (fun a => a.lanes.any (fun l => at_ l.home) || a.sent.any (fun l => at_ l.2.home))).length
    + (s.fab.out.filter (fun r => r.lease == some w && (s.waiter r.n).isNone && r.txf.isNone)).length
    + (s.eng.streams.map (fun e => (e.2.cmds.filter (fun c => c.pages.any (fun p => at_ p.2))).length)).sum
    + (s.eng.fetches.filter (fun f => f.pages.any (fun p => at_ p.2) || (f.kind == 2 && leaseWindow f.bpa == some w))).length

/-- R294: the accesses in flight to a revoking window have ended. -/
def execLeaseDrained (w : Nat) (s : State) : Host.Outcome State Fault Refusal :=
  .next (
    let l := s.lease w
    if l.state = 2 ∧ s.inflight w = 0 then
      ({ s with fab := { s.fab with leases := Map.put s.fab.leases w { l with state := 3 } } }).say (.leaseDrained l.lender l.lid)
    else s)

/-- R294: the borrower's lease drained has arrived, or 100 ms have passed since the revoke: the lender stops serving. -/
def execLeaseDrainTimeout (borrower : Nat) (lid : W32) (s : State) : Host.Outcome State Fault Refusal :=
  .next { s with fab := { s.fab with lent := s.fab.lent.map (fun l =>
    if l.dev == borrower && l.lid == lid && l.state == 1 then { l with state := 2 } else l) } }

/-! ### Power, training, reset, recovery (R21, R29, R280, R338, R339, R343) -/

/-- R339: the power arbiter divides the limit: it sets the clock and the HBM budgets of a new millisecond, and each core's
placement penalty, the larger of its thermal grade (bits 5:3 of its operand) and its droop grade (bits 2:0). In reduced service
the clock stays at 1.2 GHz (R29). The energies it reads, and how it divides the limit, are not stated: the operands are its
result (log entry 54). The corrected errors of the past millisecond are counted, by a free number (R342). -/
def execPowerArbiterTick (mhz : Nat) (hbm pen : List Nat) (s : State) : Host.Outcome State Fault Refusal :=
  .next (
    if 1200 ≤ mhz ∧ mhz ≤ 2400 ∧ mhz % 100 = 0 ∧ (s.dev.full ∨ mhz = 1200) ∧ hbm.length = 12 ∧ pen.length = 160 ∧ pen.all (· < 64) then
      { s with free := s.free + 1,
               dev := { s.dev with clockMHz := mhz, hbmBudget := hbm, hbmUsed := [], powerCap := s.dev.nextCap,
                                   corrected := s.dev.corrected + (Config.freeWord s.free).toNat,
                                   penalty := pen.mapIdx (fun i p => (i, max (p / 8) (p % 8))) } }
    else s)

/-- R29: a die finishes training. With the first one the ROM checks the firmware image and runs it, where it does not fail
(R340); with the last one reduced service ends, once every core that is in a slice has ended it (R338). -/
def execDieReady (d : Nat) (s : State) : Host.Outcome State Fault Refusal :=
  .next (
    if d < 4 ∧ !(s.dieReady d) then
      let r := s.dev.ready ||| (1 <<< d)
      let late := if r = 15 then (s.sch.cores.filter (fun e => e.2.inSlice && e.2.active.isSome)).map (·.1) else []
      let s1 := { s with dev := { s.dev with ready := r, full := false, late := late, fwRuns := if s.dev.ready = 0 then romAccepts else s.dev.fwRuns } }
      (if r = 15 ∧ late.isEmpty then s1.fullService else s1).refreshReady
    else s)

/-- R280: the device is reset: its incarnation advances and is announced. Memory outside and HBM keep their bytes (log
entry 4). -/
def execDeviceReset (s : State) : Host.Outcome State Fault Refusal :=
  .next { State.reset with
    agenda := s.agenda, free := s.free, fresh := s.fresh, tick := s.tick, mem := s.mem, uncorr := s.uncorr,
    dev := { State.reset.dev with form := s.dev.form, inc := s.dev.inc + 1, linksDown := s.dev.linksDown }
    fab := { State.reset.fab with replies := s.fab.replies ++ [.announce (s.dev.inc + 1)] } }

/-- R21: the Rinest link between two dies fails. -/
def execRinestLinkFail (a b : Nat) (s : State) : Host.Outcome State Fault Refusal :=
  .next (if a < 4 ∧ b < 4 ∧ a ≠ b ∧ !(s.cut a b) then { s with dev := { s.dev with linksDown := s.dev.linksDown ++ [(a, b)] } } else s)

/-- The phase that must have run before a phase of recovery. -/
def RecoveryPhase.prior : RecoveryPhase → Option RecoveryPhase
  | .announce => none
  | .failItems => some .announce
  | .drainLeases => some .failItems
  | .endDomains => some .drainLeases
  | .reroute => some .endDomains

/-- Requests that lost devices do not answer, and those that a failed link has kept on this device, fail with cause link-failed; the
launches they belong to are affected (Table 29-4). -/
def State.failTo (s : State) (lost : List Nat) : State :=
  let go := s.fab.out.filter (fun r => lost.contains r.dev || (r.sends != 0 && !s.reached r))
  let t := go.foldl (fun t r => match t.req r.n with | some q => t.failReq q 0x35 | none => t) s
  { t with fab := { t.fab with affected := (t.fab.affected ++ (go.filter (fun r => r.launch != 0)).map (·.launch)).eraseDups } }

/-- The fault domains of the launches of which recovery failed an item, and of agents of which a write has failed, are ended
(log entry 39). -/
def State.endBroken (s : State) : State :=
  let ls := (s.fab.affected ++ s.fab.broken.map (fun a => a.2.2)).eraseDups
  let s1 := ls.foldl (fun t l => match t.launch l with | some v => t.endDomain (t.domainOf v.q) 0x35 (some (v.ctx, v.k)) | none => t) s
  { s1 with fab := { s1.fab with broken := [], affected := [] } }

/-- R343: a phase of recovery runs, in the order of Table 29-4: the next incarnation and the membership without the lost
devices are announced, what they have not answered fails, leases with them are revoked, affected domains end, and no port is
taken to reach them any more (log entry 39). -/
def execPodRecovery (lost : List Nat) (ph : RecoveryPhase) (s : State) : Host.Outcome State Fault Refusal :=
  let ok := match RecoveryPhase.prior ph with | none => s.fab.recovery.isEmpty | some p => s.fab.recovery.getLast? == some p
  let mark (t : State) : State := { t with fab := { t.fab with recovery := t.fab.recovery ++ [ph] } }
  .next (
    if !ok then s
    else match ph with
      | .announce =>
        let m := s.fab.members.filter (fun m => !lost.contains m)
        mark ((({ s with fab := { s.fab with members := m, lent := s.fab.lent.map (fun (l : Lent) => { l with state := 2 }) }, dev := { s.dev with inc := s.dev.inc + 1 } }).say (.announce (s.dev.inc + 1))).say
          (.members m))
      | .failItems => mark (s.failTo lost)
      | .drainLeases =>
        let s1 := s.revokeLeases (fun l => lost.contains l.lender)
        mark { s1 with fab := { s1.fab with lent := s1.fab.lent.map (fun l => if lost.contains l.dev then { l with state := 2 } else l) } }
      | .endDomains => mark s.endBroken
      | .reroute =>
        { s with fab := { s.fab with
            recovery := []
            lostPorts := s.fab.lostPorts.filter (fun e => !lost.contains e.2)
              ++ (lost.map (fun d => (List.range 24).map (fun p => (p, d)))).flatten } })

/-! ### Fault records and invalidations (R321, R322) -/

/-- R321: the oldest held record of a buffer is written once it has space. -/
def execHeldFaultRecordWrite (b : FaultBox) (s : State) : Host.Outcome State Fault Refusal := .next (s.writeHeld b)

/-- An expert of a context whose resident range meets [va, va + len) is still evicting (R302). -/
def State.draining (s : State) (x va len : Nat) : Bool :=
  match Map.find s.eng.tables x with
  | none => false
  | some t => (List.range t.nent).any (fun e => match s.ertAddr x e with
    | some a =>
      let w := Memory.words s.mem a 8
      let r := ertRange w
      ertState w == 4 && decide (r.1 < va + len) && decide (va < r.1 + r.2)
    | none => false)

/-- R322: an invalidation completes: no translation of the range is held or pinned, and the expert drain has ended. -/
def execInvalComplete (n : Nat) (s : State) : Host.Outcome State Fault Refusal :=
  .next (match s.flt.invals.find? (fun v => v.n == n) with
    | none => s
    | some v =>
      if s.pinned v.ctx v.va v.len || s.draining v.ctx v.va v.len then s
      else
        let s1 := s.dropTlb v.ctx v.va v.len
        ({ s1 with flt := { s1.flt with invals := s1.flt.invals.filter (fun k => k.n != n) } }).reply v.a 0 0)

end Sys2Proof.Machine
end

