-- ==== Sys2Proof/Machine/Switch.lean ====
section
/-! DEFINITION. Slices, pre-emption requests and the switch of a core (spec/05_scheduling.md R60 to R62, R68, R69;
spec/27_faults_preemption.md R323 to R334; spec/16_engine_system_instructions.md R212). -/

namespace Sys2Proof.Machine

open Sys2Proof

/-! ### Requests (R62, R69) -/

/-- The highest priority among the ready queues of a context for a core; `none` where the context is not ready. -/
def State.ctxPrio (s : State) (x core : Nat) : Option Nat :=
  let qs := (s.sch.nodes.filter (fun e => e.2.state != 0 && e.2.level == 3 && s.queueCtx e.1 == x
    && (s.queueReady e.1 core || s.standsOn e.1 core false))).map (·.1)
  if qs.isEmpty then none else some (qs.foldl (fun m q => max m (s.effPrio q)) 0)

/-- A queue has a higher priority than a context has for a core. -/
def State.beats (s : State) (q x core : Nat) : Bool := match s.ctxPrio x core with | some p => decide (p < s.effPrio q) | none => true

/-- A pre-emption is requested; an earlier request is replaced, and its fill starts anew (R69). Where it names the active
context, that context goes on, with a new slice where the last one has ended (R62). -/
def State.request (s : State) (core x q : Nat) : State :=
  let old := (s.core core).req
  let s1 := s.unfill core
  let k := s1.core core
  let s2 :=
    if k.active = some x then
      (if k.inSlice then s1.setCore core { k with req := none, filled := false }
       else s1.newSlice core { k with req := none, filled := false, queue := q, slice := k.cyc })
    else s1.setCore core { k with req := some (x, q), filled := false, hold := false }
  let s3 := match old with | some r => s2.syncBusy r.1 | none => s2
  s3.syncBusy x

/-- R62: a context of higher priority is ready for a core, or the active one no longer is. -/
def execPreemptionRequest (core : Nat) (s : State) : Host.Outcome State Fault Refusal :=
  .next (
    let s1 := s.refreshReady
    let k := s1.core core
    match k.active, s1.choose core with
    | some x, some q =>
      let y := s1.queueCtx q
      (match k.req with
      | none => if y ≠ x ∧ s1.beats q x core then s1.request core y q else s1
      | some (z, p) => if y ≠ z ∧ s1.effPrio p < s1.effPrio q then s1.request core y q else s1)
    | _, _ => s1)

/-- R62: a slice of u = 32,768 cycles ends; it is charged and the choice made again. -/
def execSliceEnd (core u : Nat) (s : State) : Host.Outcome State Fault Refusal :=
  .next (
    let k := s.core core
    if u = 32768 ∧ k.inSlice ∧ k.active.isSome then
      let now := k.slice + BitVec.ofNat 64 u
      let s1 := (s.setCore core { k with cyc := if u ≤ k.run then k.cyc else now }).charge k.queue u |>.boundary core
      s1.rechoose core now
    else s)

/-! ### Fills and spills (R324, R328 to R330) -/

/-- Waves of a workgroup that have arrived at barrier b, as a mask. -/
def State.arrivedMask (s : State) (g b : Nat) : Nat :=
  (s.waves.filter (fun e => e.2.wg == g && e.2.arrived b)).foldl (fun m e => m ||| 2 ^ e.2.ix) 0

/-- The workgroup slot entry of a core region (Table 27-9). -/
def State.wgImage (s : State) (g : Nat) (w : WG) : List W64 :=
  let bars (i : Nat) : W64 := BitVec.ofNat 64 ((List.range 4).foldl (fun a j => a + s.arrivedMask g (4 * i + j) * 2 ^ (16 * j)) 0)
  [BitVec.ofNat 64 (2 ^ 63 + w.nw * 2 ^ 48), BitVec.ofNat 64 (s.seqOf w.launch), pair32 w.wsize w.wbase, 0, bars 0, bars 1, bars 2, bars 3]

/-- The eight workgroup slot entries of a context on a core written. -/
def State.storeWgs (s : State) (x core : Nat) : State :=
  (List.range 8).foldl (fun t j =>
    let a := t.coreRegion x core + 256 * j
    match s.sch.wgs.find? (fun e => e.2.core == core && e.2.slot == j && e.2.ctx == x && e.2.out) with
    | some e => t.physWords (core / 40) x a (s.wgImage e.1 e.2 ++ List.replicate 24 0)
    | none => t.physWords (core / 40) x a (List.replicate 32 0)) s

/-- Waves of a partition that go out with this one and stand before it in a total order. -/
def peersOf (l : List (Nat × Wave)) (v : Wave) (lt : Wave → Bool) : List (Nat × Wave) := l.filter (fun e => e.2.part == v.part && lt e.2)

/-- The waves of a context on a core written to the save area, their registers packed by residence slot and their selection
order counted (R330). -/
def State.storeWaves (s : State) (x core : Nat) : State :=
  let l := s.waves.filter (fun e => e.2.ctx == x && e.2.core == core && e.2.bank == .out)
  l.foldl (fun t e =>
    let v := e.2
    let vb := (peersOf l v (fun u => decide (u.rslot < v.rslot))).foldl (fun a u => a + u.2.allot / 8) 0
    let age := (peersOf l v (fun u => decide (u.age < v.age) || (u.age == v.age && decide (u.rslot < v.rslot)))).length
    let j := match s.wg v.wg with | some w => w.slot | none => 0
    (t.storeWave { v with bank := .saved } j vb age).setWave e.1 { v with bank := .saved }) s

/-- Permits that a context holds, written to its save area (R279). -/
def State.storePermits (s : State) (x : Nat) : State :=
  let ws := (List.range 512).map (fun i => pair32 (Map.at s.fab.permits (x * 1024 + 2 * i) 0) (Map.at s.fab.permits (x * 1024 + 2 * i + 1) 0))
  s.physWords 0 x (s.savea x + 0x1000) ws

/-- R324: the outgoing workgroups of a core have been spilled. -/
def execBankSpillComplete (core : Nat) (s : State) : Host.Outcome State Fault Refusal :=
  .next (match (s.core core).spill with
    | none => s
    | some x =>
      let s1 := ((s.storeWgs x core).storeWaves x core).storePermits x
      let a := s1.savea x + 8
      let s2 := s1.physWords (core / 40) x a [s1.physW64 (core / 40) a + 1]
      let s3 := (s2.syncCore x core).setCore core { s2.core core with spill := none }
      let s4 := s3.syncBusy x
      match (s4.core core).req with | some r => s4.syncBusy r.1 | none => s4)

/-- Barrier arrivals as the save area holds them; a wave whose bit differs from its own state takes the bit's (R330, R334). -/
def barFrom (v : Wave) (masks : Nat → Nat) : Wave :=
  (List.range 16).foldl (fun u b =>
    let bit := (masks b).testBit u.ix
    if bit = u.arrived b then u
    else
      let f (p : Path) : Path :=
        if bit then (if p.st = .running then { p with wait := .bar b } else p)
        else if p.wait = .bar b then { p with wait := .none } else p
      { u with p0 := f u.p0, p1 := f u.p1 }) v

/-- A wave filled into the shadow bank from the save area. -/
def State.fillWave (s : State) (v : Wave) : Wave :=
  let a := s.coreRegion v.ctx v.core + 256 * (match s.wg v.wg with | some w => w.slot | none => 0)
  { barFrom (s.loadWave v) (fun b => leNat (s.physGet (v.core / 40) (a + 32 + 2 * b) 2)) with bank := .filled }

/-- The slot entry of a saved workgroup says that the slot holds one (Table 27-9, w0 bit 63). -/
def State.wgThere (s : State) (w : WG) : Bool := bitAt (s.physW64 (w.core / 40) (s.coreRegion w.ctx w.core + 256 * w.slot)) 63

/-- A workgroup as its slot entry in the save area gives it: waves, launch and window (Table 27-9, R334). -/
def State.wgFrom (s : State) (w : WG) : WG :=
  let a := s.coreRegion w.ctx w.core + 256 * w.slot
  { w with nw := fld (s.physW64 (w.core / 40) a) 55 48, launch := s.launchBy w.ctx w.launch (s.physW64 (w.core / 40) (a + 8)),
           wbase := fld (s.physW64 (w.core / 40) (a + 16)) 63 32, wsize := fld (s.physW64 (w.core / 40) (a + 16)) 31 0 }

/-- What the reads of a fill do beside their values: the records of the saved waves and workgroups of a context on a core (R344). -/
def State.noteFill (s : State) (x core : Nat) : State :=
  let s1 := (s.waves.filter (fun e => e.2.ctx == x && e.2.core == core && e.2.bank == .saved)).foldl (fun t e =>
    (t.physNote (core / 40) x (t.waveAt e.2) 512).physNote (core / 40) x (t.bankAt e.2 + 384 * 8 * fld (t.physW64 (core / 40) (t.waveAt e.2 + 320)) 50 45) (384 * e.2.allot)) s
  (s1.sch.wgs.filter (fun e => e.2.ctx == x && e.2.core == core && e.2.out)).foldl (fun t e =>
    t.physNote (core / 40) x (t.coreRegion x core + 256 * e.2.slot) 256) s1

/-- R324: the saved workgroups of the requested context have been filled into the shadow bank, once the bank's last spill
has ended. One whose slot entry holds none any more is gone, as software has written (R334). -/
def execShadowFillComplete (core : Nat) (s : State) : Host.Outcome State Fault Refusal :=
  .next (
    let k := s.core core
    match k.req with
    | none => s
    | some (x, _) =>
      if k.filled || k.spill.isSome then s
      else
        let s1 := (s.waves.filter (fun e => e.2.ctx == x && e.2.core == core && e.2.bank == .saved)).foldl
          (fun t e => t.setWave e.1 (s.fillWave e.2)) { s with sch := { s.sch with
            wgs := Map.each s.sch.wgs (fun _ w => if w.ctx = x ∧ w.core = core ∧ w.out then s.wgFrom w else w) } }
        let gone := (s.sch.wgs.filter (fun e => e.2.ctx == x && e.2.core == core && e.2.out && !s.wgThere e.2)).map (·.1)
        let s2 := ((s1.noteFill x core).setCore core { k with filled := true }).syncBusy x
        ((s2.waves.filter (fun e => gone.contains e.2.wg)).map (·.1)).foldl (fun t w => t.killWave w) s2)

/-! ### Accumulator banks (R325) -/

/-- A logical context that an incoming context has claimed and that stands in no bank. -/
def State.missing (s : State) (x u : Nat) : Option Nat := [0, 1].find? (fun n => s.claims x u n && !s.inBank x u n)

/-- The operation on a unit works in a bank. -/
def State.bankBusy (s : State) (u : Nat) (second : Bool) : Bool :=
  match Map.find s.mx.mops u, (if second then (s.banksOf u).2 else (s.banksOf u).1).owner with
  | some m, some o => o == (m.ctx, EF.ctx (Instr.ef m.i))
  | _, _ => false

/-- R325: a bank of unit u is spilled, and filled with a logical context that the incoming context needs. -/
def execAccumulatorBankMove (u : Nat) (s : State) : Host.Outcome State Fault Refusal :=
  .next (
    let k := s.core (u / 4)
    match k.req with
    | none => s
    | some (x, _) =>
      match s.missing x u with
      | none => s
      | some n =>
        let v := s.victimBank u x (k.active.getD 1024) (1 - n)
        if s.bankBusy u v then s else s.moveBank u v x n)

/-- The banks of a context on a core's units are selected. -/
def State.selectBanks (s : State) (x core : Nat) : State :=
  (List.range 4).foldl (fun t k =>
    let b := t.banksOf (4 * core + k)
    let f (a : AccBank) : AccBank := match a.owner with | some o => if o.1 = x then { a with age := t.tick } else a | none => a
    { t with mx := { t.mx with banks := Map.put t.mx.banks (4 * core + k) (f b.1, f b.2) } }) s

/-! ### Sequencer threads and streams at a switch (R60, R212, R331, R332) -/

/-- A pre-emption ends a sleep (R225). -/
def awake (w : Wait) : Wait := match w with | .sleep _ => .none | x => x

/-- A thread saved with the last workgroup of its launch that leaves the cluster at a switch; or running again once that workgroup is
resident, or gone (R60). `core` is the core that switches. -/
def State.moveThread (s : State) (c t core : Nat) (leaves : Bool) : State :=
  let h := s.thread c t
  let mine := s.sch.wgs.filter (fun e => e.2.launch == h.launch && e.2.core / 4 == c)
  if h.st = .free then s
  else if h.bank = .active ∧ leaves then
    let g := match mine.find? (fun e => e.2.core == core) with | some e => e.1 | none => 0
    let h1 : Thread := { h with code := none, named := decide (1 < h.slot), waits := false, bank := .saved, kept := g,
                                wait := awake h.wait, wasWait := awake h.wasWait }
    ((s.setThread c t h1).storeThread c t h1)
  else if h.bank = .saved ∧ mine.all (fun e => e.1 != h.kept || !e.2.out) then (s.physNote (c / 10) h.ctx (s.threadAt h.ctx c t) 512).setThread c t { s.liveThread c t with bank := .active }
  else s

/-! ### The flip (R324) -/

/-- An access has reached its stopping point: what is left of it waits on other devices (R68). -/
def Access.parked (a : Access) : Bool := a.recs.isEmpty && a.lanes.all (fun l => match l.home with | .dev _ _ _ => true | _ => false)

/-- A thread that the flip of a core would save. -/
def State.threadLeaves (s : State) (c t core x : Nat) : Bool :=
  let h := s.thread c t
  h.st != .free && h.bank == .active
    && s.sch.wgs.any (fun e => e.2.launch == h.launch && e.2.core == core && e.2.ctx != x && !e.2.out)
    && s.sch.wgs.all (fun e => e.2.launch != h.launch || e.2.core / 4 != c || e.2.out || e.2.core == core)

/-- The flip of a core makes the last workgroup of a context leave the cluster (R212). -/
def State.ctxLeaves (s : State) (y c core : Nat) : Bool :=
  s.sch.wgs.any (fun e => e.2.ctx == y && e.2.core == core && !e.2.out)
    && s.sch.wgs.all (fun e => e.2.ctx != y || e.2.core / 4 != c || e.2.out || e.2.core == core)

/-- Every agent that would leave stands at a stopping point, and the accumulators that come in are in banks. -/
def State.flipReady (s : State) (core x : Nat) : Bool :=
  let k := s.core core
  k.filled && k.begun
    && (List.range 4).all (fun i => (Map.find s.mx.mops (4 * core + i)).isNone && (s.missing x (4 * core + i)).isNone)
    && s.path.acc.all (fun a => a.parked || (match a.ag with
        | .wave w => (match s.wave w with | some v => v.core != core || v.ctx == x | none => true)
        | .thread c t => !(c == core / 4 && s.threadLeaves c t core x)))

/-- A wave as it leaves a core: at a slot of its clause, no sleep left (R101, R225, R327). -/
def Wave.leave (v : Wave) : Wave :=
  let f (p : Path) : Path :=
    { p with code := none, named := p.named || (p.code.isSome && decide (1 < p.slot)),
             wait := (match p.wait with | .sleep _ => .none | w => w) }
  { v with p0 := f v.p0, p1 := f v.p1, bank := .out }

/-- R324: the banks of a core flip to the requested context; the outgoing workgroups wait for their spill. -/
def execBankFlip (core : Nat) (s : State) : Host.Outcome State Fault Refusal :=
  .next (match (s.core core).req with
    | none => s
    | some (x, q) =>
      if !s.flipReady core x then s
      else
        let out := (s.core core).active
        let s1 := s.chargeRun core
        let leaving := s1.waves.any (fun e => e.2.core == core && e.2.ctx != x && e.2.bank == .active && !e.2.ended)
        let waves := Map.each s1.waves (fun _ v =>
          if v.core = core ∧ !v.ended then
            (if v.ctx = x ∧ v.bank = .filled then { v with bank := .active } else if v.ctx ≠ x ∧ v.bank = .active then v.leave else v)
          else v)
        let wgs := Map.each s1.sch.wgs (fun _ g => if g.core = core then { g with out := g.ctx != x } else g)
        let k := s1.core core
        let s2 := ({ s1 with waves := waves, sch := { s1.sch with wgs := wgs } }).newSlice core
          { k with active := some x, queue := q, req := none, filled := false, begun := false, slice := k.cyc,
                   spill := if leaving then out else k.spill }
        let s3 := ((s2.headerBit (core / 40) x 16 core false).selectBanks x core)
        let c := core / 4
        let s4 := (List.range 4).foldl (fun t i => t.moveThread c i core (s1.threadLeaves c i core x)) s3
        let s5 := match out with | some y => ((s4.moveStreams y c (y != x && s1.ctxLeaves y c core)).syncClus y c).syncBusy y | none => s4
        ((s5.moveStreams x c false).syncClus x c).refreshReady)

end Sys2Proof.Machine
end

