-- ==== Sys2Proof/Machine/Firmware.lean ====
section
/-! DEFINITION. Firmware: mailboxes, the commands of Table 29-2 and their operands of Table 29-5
(spec/29_system.md R336, R337, R341, R345, R346; spec/03_execution_model.md R30 to R32). -/

namespace Sys2Proof.Machine

open Sys2Proof

/-! ### Acting on a command (R336, R346) -/

/-- Bits hi:lo of a word. -/
def bitsMask (hi lo : Nat) : Nat := 2 ^ (hi + 1) - 2 ^ lo

/-- A bit that Table 29-1 or 29-5 does not give is set; `m` holds the bits given of w1 to w6. -/
def cmdReserved (w : List W64) (m : List Nat) : Bool :=
  fld (wordAt w 0) 55 32 != 0 || (List.range 6).any (fun i => (wordAt w (i + 1)).toNat &&& (2 ^ 64 - 1 - m.getD i 0) != 0)

/-- A command waits: the mail goes behind the first entry of the agenda that may pass it. -/
def postponed (e : Act) (pass : Act → Bool) (l : List Act) : List Act :=
  match l.findIdx? pass with
  | some i => (l.drop i).take 1 ++ e :: l.take i ++ l.drop (i + 1)
  | none => e :: l

/-- A command waits for something other than a command of its own mailbox. -/
def State.waitMail (s : State) (b : MailBox) (a : Nat) : State :=
  { s with agenda := postponed (.mail b a) (fun e => match e with | .mail c _ => c != b | .event _ => true) s.agenda }

/-- n bytes from an address lie in one assigned range of Table 18-1. -/
def State.okRange (s : State) (a n : Nat) : Bool :=
  let z := a + n - 1
  if a < hbmSize then decide (z < hbmSize) && (List.range 4).all (fun d => s.dieReady d || decide (d < a / 2 ^ 36 / 3) || decide (z / 2 ^ 36 / 3 < d))
  else s.assigned a && s.assigned z && (decide (z < 2 ^ 43) || (decide (2 ^ 44 ≤ a) && decide (z < 2 ^ 45)) || a / 2 ^ 40 == z / 2 ^ 40)

/-- Words w0 to w6 of the command that the latch holds, after the checks that come before every command's own: reserved bits,
then authority (R336, R346). A command waits while no firmware runs, which is so until the first die is ready (R29, R340), and
one that is no debug command while a debug command has halted the firmware (log entry 5). One whose block cannot be read is reported
to the root buffer and has no other effect (R21, R288, R344; log entry 24). -/
def command (s : State) (debug root : Bool) (masks : List Nat) (act : State → MailBox → Nat → List W64 → State) :
    Host.Outcome State Fault Refusal :=
  match s.fw with
  | none => .next s
  | some (b, a0) =>
    let s0 := { s with fw := none }
    let a := s0.ownWindow a0
    if !s0.dev.fwRuns then .next (s0.waitMail b a0)
    else if !(s0.okRange a 64) then .next (s0.rootItem 0x23 a s0.selfDev)
    else
      let w := s0.fwWords a 7
      let s1 := s0.fwNote a 7
      if s0.dev.fwHalted && !debug then .next (s0.waitMail b a)
      else if s0.devLost 0 (s0.home a) then .next s1
      else if (debug && s0.dev.form != .e) || cmdReserved w masks then .next (s1.reply a 1 0)
      else if root && b != .root then .next (s1.reply a 4 0)
      else .next (act s1 b a w)

/-- A mailbox may name what belongs to a partition (R336). -/
def allows (b : MailBox) (p : Option Nat) : Bool :=
  match b with
  | .root => true
  | .part n => p == some n

/-- An operand word. -/
def arg (w : List W64) (i hi lo : Nat) : Nat := fld (wordAt w i) hi lo

/-- The bits given in w1 of the node commands. -/
def nodeMask : List Nat := [bitsMask 51 7]

/-- The block address that a node command names. -/
def State.namedNode (s : State) (w : List W64) : Nat := s.ownWindow (arg w 1 51 7 * 128)

/-- The partition of a node: none for the root. -/
def State.nodePart (s : State) (a : Nat) : Option Nat :=
  match s.node a with
  | some n => if n.level = 0 then none else some n.tenpart
  | none => none

/-! ### Region control blocks (R31, R32) -/

/-- A block stands in this device's memory (R30), in an assigned range. -/
def State.blockHere (s : State) (a : Nat) : Bool := s.assigned a && (match s.home a with | .mem _ => true | _ => false)

/-- The sixteen words of a block; the addresses of other blocks in w1 to w3 are given as what they stand for where they name the own
pod window (R288). -/
def State.blockWords (s : State) (a : Nat) : Vector W64 16 :=
  let ws := s.fwWords a 16
  let own (w : W64) : W64 := withFld w 51 7 (s.ownWindow (fld w 51 7 * 128) / 128)
  Vector.ofFn (fun i : Fin 16 => if 1 ≤ i.val ∧ i.val ≤ 3 then own (wordAt ws i.val) else wordAt ws i.val)

/-- A node as a block's words make it. -/
def Node.ofWords (w : Vector W64 16) : Node :=
  { w := w, state := 1, faults := 0, gen := 0, pass := 0, hbmuse := 0, sent := 0, permits := 0, ready := false, wprev := 0, c := 0,
    ptr := none, skip := [], stale := false }

/-- `ovr` bit of a group. -/
def Node.ovr (n : Node) (bit : Nat) : Bool := n.f 0 (44 + bit) (44 + bit) == 1

/-- An address field that is used is zero or assigned. -/
def State.addrOk (s : State) (a : Nat) : Bool := a == 0 || s.assigned a

/-- A block keeps Table 03-1 and R7, and its own address fields are assigned. -/
def State.blockOk (s : State) (n : Node) : Bool :=
  let z (i hi lo : Nat) : Bool := n.f i hi lo == 0
  decide (n.level ≤ 3) && z 0 59 52 && z 0 35 32 && z 0 15 12 && z 0 7 0
    && z 1 63 52 && z 1 6 0 && z 2 63 52 && z 2 6 0 && z 3 63 52 && z 3 6 0 && z 4 63 56 && z 5 20 0 && z 6 11 0 && z 7 9 0
    && (if n.level = 2 then z 8 63 52 && z 8 11 10 && z 9 63 52 && z 9 11 0 else z 8 63 0 && z 9 63 0)
    && (if n.level = 3 then z 10 63 52 && z 10 11 5 && z 11 63 52 && z 11 5 0 && decide (4 ≤ n.f 10 4 0) && decide (n.f 10 4 0 ≤ 16)
        else z 10 63 0 && z 11 63 0)
    && z 12 63 0 && z 13 63 0
    && (!(n.ovr 0) || decide (n.f 4 7 0 ≤ 160)) && (!(n.ovr 5) || n.f 0 31 16 != 0) && (!(n.ovr 6) || decide (n.f 0 38 36 ≤ 2))
    && (n.level != 0 || (n.f 0 51 44 == 0xFF && n.parent == 0))
    && s.addrOk n.parent && s.addrOk (n.f 2 51 7 * 128) && s.addrOk (n.f 3 51 7 * 128)
    && s.addrOk (n.f 8 51 12 * 4096) && s.addrOk (n.f 9 51 12 * 4096) && s.addrOk (n.f 10 51 12 * 4096) && s.addrOk (n.f 11 51 6 * 64)

/-- A block stands under its parent: level, `tenpart`, and its own values within the parent's effective ones (R30, R32). -/
def State.underParent (s : State) (n : Node) : Bool :=
  n.level == 0
    || (match s.node n.parent with
      | none => false
      | some p =>
        let a := n.parent
        let le (bit own eff : Nat) : Bool := !(n.ovr bit) || decide (own ≤ eff)
        let sub (bit own eff : Nat) : Bool := !(n.ovr bit) || own &&& eff == own
        p.level + 1 == n.level && (n.level == 1 || n.tenpart == p.tenpart)
          && le 0 (n.f 4 7 0) (s.effCores a) && sub 0 (n.f 4 47 8) (s.effClmask a) && le 1 (n.f 5 63 21) (s.effHbm a)
          && le 2 (n.f 6 63 12) (s.effStg a) && le 3 (n.f 7 63 10) (s.effFab a) && le 4 (n.f 0 43 40) (s.effPrio a)
          && sub 7 (n.f 4 55 48) (s.effWays a))

/-- The attached nodes of a level. -/
def State.atLevel (s : State) (k : Nat) : List (Nat × Node) := s.sch.nodes.filter (fun e => e.2.state != 0 && e.2.level == k)

/-- A block that is offered would break the counts of R30 and R345. -/
def State.countsBad (s : State) (n : Node) : Bool :=
  match n.level with
  | 0 => !(s.atLevel 0).isEmpty
  | 1 => (s.partNode n.tenpart).isSome
  | 2 => (s.ctxNode n.ctxid).isSome
  | _ => decide (16 ≤ ((s.atLevel 3).filter (fun e => e.2.parent == n.parent)).length)

/-- A tenant offers a block of level 0 or 1, or of another partition (R336). -/
def foreignBlock (b : MailBox) (n : Node) : Bool :=
  match b with
  | .root => false
  | .part p => decide (n.level < 2) || n.tenpart != p

/-! ### NODE commands (R345) -/

/-- A context's twelve deferred entries (R277), each the lowest-numbered free one; `none` where a table is full. -/
def State.deferredEntries (s : State) (x : Nat) : Nat → Option State
  | 0 => some s
  | k + 1 =>
    match s.deferredEntries x k with
    | none => none
    | some t =>
      match t.freeCap k with
      | none => none
      | some e => some (t.setCap k e { t.cap k e with
          state := 1, wr := true, rd := false, kind := 1, owner := x, busy := 0, old := 0, base := k * 2 ^ 36, bound := BitVec.ofNat 64 (2 ^ 36) })

/-- What a context number held before is gone: streams, accumulators, timelines (R188, R211). -/
def State.freshCtx (s : State) (x : Nat) : State :=
  let bank (b : AccBank) : AccBank := match b.owner with | some o => if o.1 = x then ⟨none, b.age⟩ else b | none => b
  { s with
    eng := { s.eng with streams := s.eng.streams.filter (fun e => e.1 / 160 != x) }
    mx := { s.mx with accs := s.mx.accs.filter (fun e => e.1 / 1280 != x),
                      banks := Map.each s.mx.banks (fun _ b => (bank b.1, bank b.2)),
                      counts := s.mx.counts.filter (fun e => e.1 / 640 != x) }
    dfd := { s.dfd with counts := s.dfd.counts.filter (fun e => e.1 / 16 != x) } }

/-- The lowest `pass` of the attached siblings of a new node, or 0 (R61). -/
def State.entryPass (s : State) (n : Node) : W64 := if n.level = 0 then 0 else (s.lowest (s.kids n.parent)).getD 0

/-- A node attached (R319, R345). -/
def State.attach (s : State) (a : Nat) (n : Node) : State :=
  let g : W32 := BitVec.ofNat 32 (Memory.num s.mem (a + 112) 4 + 1)
  let s1 := s.setNode a { n with gen := g, pass := s.entryPass n } (s.coresOf a).length
  let s2 := if n.level = 2 then s1.freshCtx n.ctxid
    else if n.level = 3 then
      let t := ({ s1 with sch := { s1.sch with packets := Map.del s1.sch.packets a } }).modNode a (fun k => { k with ptr := (s1.eligibleCores a).head? })
      let r := t.writeIndex a
      r.2.takeIndex a r.1
    else s1
  s2.refreshReady

/-- The generation of a node. -/
def State.genOf (s : State) (a : Nat) : Nat := match Map.find s.sch.nodes a with | some n => n.gen.toNat | none => 0

/-- NODE-ATTACH (R32, R345). -/
def execNodeAttach (s : State) : Host.Outcome State Fault Refusal :=
  command s false false nodeMask (fun s b m w =>
    let a := s.namedNode w
    let n := Node.ofWords (s.blockWords a)
    let s := if s.blockHere a then s.fwNote a 16 else s
    if !(s.blockHere a) then s.reply m 3 0
    else if foreignBlock b n || ((s.node a).isSome && !(allows b (s.nodePart a))) then s.reply m 4 0
    else if (s.node a).isSome || !(s.blockOk n) || !(s.underParent n) || s.countsBad n then s.reply m 2 0
    else if n.level = 2 then
      (if s.flt.root.isNone || (Map.find s.flt.parts n.tenpart).isNone then s.reply m 6 0
      else match s.deferredEntries n.ctxid 12 with
        | none => s.reply m 6 0
        | some t => let u := t.attach a n; u.reply m 0 (u.genOf a))
    else if n.level = 3 ∧ 4096 ≤ (s.atLevel 3).length then s.reply m 6 0
    else let u := s.attach a n; u.reply m 0 (u.genOf a))

/-- An attached node takes the contents of its block; a faulted one is attached again, a queue from the write index that is
read now (R319). -/
def State.update (s : State) (a : Nat) (o : Node) (w : Vector W64 16) : State :=
  let back := decide (o.state = 3)
  let s1 := s.modNode a (fun n => { n with w := w, state := if back then 1 else n.state })
  let s2 := if back && o.level == 3 then
      let k := s1.writeIndex a
      let t := k.2.modNode a (fun n => { n with wprev := k.1, c := k.1, stale := false, skip := [] })
      let going := (Map.at t.sch.packets a []).filter (fun e => match e.2 with | .launched _ => true | _ => false)
      { t with sch := { t.sch with packets := Map.put t.sch.packets a going } }
    else s1
  s2.refreshReady

/-- NODE-UPDATE (R32, R345). -/
def execNodeUpdate (s : State) : Host.Outcome State Fault Refusal :=
  command s false false nodeMask (fun s b m w =>
    let a := s.namedNode w
    let ws := s.blockWords a
    let n := Node.ofWords ws
    let s := if s.blockHere a then s.fwNote a 16 else s
    if s.blockHere a && foreignBlock b n then s.reply m 4 0
    else if !(allows b (s.nodePart a)) then s.reply m 4 0
    else match s.node a with
      | none => s.reply m 3 0
      | some o =>
        if !(s.blockOk n) || n.level != o.level || n.parent != o.parent || n.tenpart != o.tenpart
            || (n.level == 2 && n.ctxid != o.ctxid) || !(s.underParent n) then s.reply m 2 0
        else let u := s.update a o ws; u.reply m 0 (u.genOf a))

/-- A queue's launches are ended and its packets cancelled, without charge (R345). -/
def State.endQueue (s : State) (q : Nat) : State :=
  let ls := (s.sch.launches.filter (fun e => e.2.q == q && e.2.next != 0)).map (·.1)
  ((ls.foldl (fun t l => t.endLaunch l 0x3B) s).cancel q).domainRecord q 0x3B none ls

/-- A core's pending request for a queue that is detached is dropped; one whose slice has ended chooses again (R62, R345). -/
def State.dropRequest (s : State) (q core : Nat) : State :=
  let k := s.core core
  match k.req with
  | none => s
  | some r =>
    if r.2 = q then
      let s1 := ((s.unfill core).setCore core { k with req := none, filled := false }).syncBusy r.1
      if k.active.isSome && !k.inSlice && !k.hold then s1.rechoose core k.cyc else s1
    else s

/-- A context's table entries are freed, its expert table forgotten, its permits returned, and nothing of it stays in pools,
TLBs and accumulator banks (R233, R277, R279, R296, R337, R345). -/
def State.endCtx (s : State) (x a : Nat) : State :=
  let own := (s.dfd.caps.filter (fun e => e.2.state == 1 && e.2.owner == x && e.2.kind != 2)).map (·.1)
  let s1 := (own.foldl (fun t k => t.revokeCap (k / 2048) (k % 2048)) s).freshCtx x
  let held := s1.fab.permits.filter (fun e => e.1 / 1024 == x && e.2 != 0)
  let used := match Map.find s1.sch.nodes a with | some n => n.hbmuse | none => 0
  let n := held.foldl (fun k e => k + e.2) 0
  let s2 := s1.modNodes (s1.anc a) (fun m => { m with hbmuse := m.hbmuse - used, permits := m.permits - n })
  { s2 with
    eng := { s2.eng with tables := Map.del s2.eng.tables x, evicts := s2.eng.evicts.filter (fun w => w.ctx != x) }
    flt := { s2.flt with pools := s2.flt.pools.filter (fun e => e.1 / 128 != x) }
    path := { s2.path with tlb := s2.path.tlb.filter (fun t => t.ctx != x) }
    fab := { s2.fab with permits := s2.fab.permits.filter (fun e => e.1 / 1024 != x),
                         handles := s2.fab.handles.filter (fun e => e.1 / 1024 != x),
                         replies := s2.fab.replies ++ held.map (fun e => Reply.permit (e.1 % 1024) x e.2 (Map.at s2.fab.handles e.1 0)) } }

/-- NODE-DETACH (R296, R345). -/
def execNodeDetach (s : State) : Host.Outcome State Fault Refusal :=
  command s false false nodeMask (fun s b m w =>
    let a := s.namedNode w
    match s.node a with
    | none => s.reply m (if b = .root then 3 else 4) 0
    | some n =>
      if foreignBlock b n then s.reply m 4 0
      else if !(s.kids a).isEmpty then s.reply m 6 0
      else if n.level = 2 && s.eng.fetches.any (fun f => f.ctx == n.ctxid) then s.waitMail b m
      else
        let s1 := if n.level = 3 then s.endQueue a else if n.level = 2 then s.endCtx n.ctxid a else s
        let s2 := (s1.modNode a (fun k => { k with state := 0 })).refreshReady
        ((s2.sch.cores.map (·.1)).foldl (fun t c => t.dropRequest a c) s2).reply m 0 0)

/-! ### Fault buffers (R320, R321) -/

/-- The bits given of the fault-buffer commands. -/
def boxMask : Nat := bitsMask 63 63 + bitsMask 3 0

/-- The buffer that w1 names. -/
def namedBox (w : List W64) : FaultBox := if arg w 1 63 63 = 1 then .root else .part (arg w 1 3 0)

/-- A mailbox may name a fault buffer (R336). -/
def boxAllowed (b : MailBox) (x : FaultBox) : Bool :=
  match b, x with
  | .root, _ => true
  | .part n, .part p => n == p
  | .part _, .root => false

/-- FAULTBUF: every word of the header is written, the reserved ones zero (Table 27-5). -/
def execFaultbuf (s : State) : Host.Outcome State Fault Refusal :=
  command s false false [boxMask, bitsMask 51 6, bitsMask 4 0] (fun s b m w =>
    let x := namedBox w
    let h := s.ownWindow (arg w 2 51 6 * 64)
    let k := arg w 3 4 0
    if !(boxAllowed b x) then s.reply m 4 0
    else if k < 4 ∨ 16 < k ∨ !(s.okRange h (64 + 64 * 2 ^ k)) then s.reply m 3 0
    else
      let f : FBuf := match s.fbuf x with
        | some o => ⟨h, k, 0, o.gen + 1, 0⟩
        | none => ⟨h, k, 0, 0, match x with | .root => BitVec.ofNat 32 (min s.flt.lostEarly (2 ^ 32 - 1)) | .part _ => 0⟩
      let s1 := s.physWords 0 fwCtx h (List.replicate 8 0)
      (s1.setFbuf x f).reply m 0 0)

/-- FAULTFLUSH: the new `rd` lies from the present one to `wr`. A stop is reported by one record only, so none that is held
reports a stop that a written one reports. -/
def execFaultflush (s : State) : Host.Outcome State Fault Refusal :=
  command s false false [boxMask, 2 ^ 64 - 1] (fun s b m w =>
    let x := namedBox w
    let rd := (wordAt w 2).toNat
    if !(boxAllowed b x) then s.reply m 4 0
    else match s.fbuf x with
      | none => s.reply m 3 0
      | some f =>
        if rd < (wordAt (s.fwWords (f.header + 8) 1) 0).toNat ∨ f.wr < rd then (s.fwNote (f.header + 8) 1).reply m 3 0
        else
          let s1 := (s.fwNote (f.header + 8) 1).physPut 0 fwCtx (f.header + 8) (leBytes 8 rd)
          (s1.setFbuf x { f with gen := f.gen + 1 }).reply m 0 (f.gen + 1).toNat)

/-! ### Stopped agents and domains (R316, R318, R319) -/

/-- A stopped agent runs again. -/
def State.resumeAgent (s : State) (ag : Agent) : State :=
  match ag with
  | .wave w => match s.liveWave w with | some v => s.putWave w { v with stop := .run, dlv := false } | none => s
  | .thread c t => s.putThread c t { s.liveThread c t with stop := false }

/-- A suspended node with no stopped agent left in its extent is attached. -/
def State.unsuspend (s : State) : State :=
  s.modNodes ((s.sch.nodes.filter (fun e => e.2.state == 2 && !(s.flt.stops.any (fun t => s.domainOf t.node == e.1)))).map (·.1))
    (fun n => { n with state := 1 })

/-- RESUME. -/
def execResume (s : State) : Host.Outcome State Fault Refusal :=
  command s false false nodeMask (fun s b m w =>
    let a := s.namedNode w
    if !(allows b (s.nodePart a)) then s.reply m 4 0
    else if (s.node a).isNone then s.reply m 3 0
    else
      let go := s.flt.stops.filter (fun t => (s.anc t.node).contains a)
      let s1 := go.foldl (fun t k => (t.resumeAgent k.ag).modNodes (s.anc k.node) (fun n => { n with faults := n.faults - 1 })) s
      let s2 := { s1 with flt := { s1.flt with stops := s1.flt.stops.filter (fun t => !(s.anc t.node).contains a) } }
      (s2.unsuspend.refreshReady).reply m 0 0)

/-- END-DOMAIN: the domain of the node's extent ends with cause ended-by-command. -/
def execEndDomain (s : State) : Host.Outcome State Fault Refusal :=
  command s false false nodeMask (fun s b m w =>
    let a := s.namedNode w
    if !(allows b (s.nodePart a)) then s.reply m 4 0
    else if (s.node a).isNone then s.reply m 3 0
    else ((s.endDomain (s.domainOf a) 0x3B none).refreshReady).reply m 0 0)

/-! ### Contexts (R226, R322, R334) -/

/-- A mailbox may name a context (R336). -/
def State.ctxAllowed (s : State) (b : MailBox) (x : Nat) : Bool := allows b (s.partOf x)

/-- Pages of n bytes that meet [b, b + len) taken out of a frame list. -/
def carve (b len n : Nat) (l : List (Nat × Nat)) : List (Nat × Nat) :=
  ((l.map (fun e =>
    let lo := min e.2 ((b - e.1) / n)
    let hi := min e.2 ((b + len - e.1 + n - 1) / n)
    [(e.1, lo), (e.1 + hi * n, e.2 - hi)])).flatten).filter (fun e => e.2 != 0)

/-- The staging areas of R272: base address and bytes. -/
def State.stagingAreas (s : State) : List (Nat × Nat) := s.dfd.areas.map (fun e => (e.1 * 2 ^ 36 + e.2.1, (2 ^ 17 + 1024) * e.2.2))

/-- A frame range meets an entry of kind 0 that a CAPNEW made and that has not been freed (R337). -/
def State.covered (s : State) (a n : Nat) : Bool :=
  s.dfd.caps.any (fun e => e.2.state != 0 && e.2.kind == 0 && decide (e.2.base < a + n) && decide (a < e.2.base + e.2.bound.toNat))

/-- A frame range meets memory that this device has lent and whose lease has not ended, whether or not its revocation has been
commanded (R293, R294; log entry 18). -/
def State.lentMeets (s : State) (a n : Nat) : Bool :=
  s.fab.lent.any (fun l => l.state != 2 && (let r := Config.lentRange l.dev l.lid; decide (r.1 < a + n) && decide (a < r.1 + r.2)))
    || Config.lentOut a n s.free

/-- POOL: frames join a first-touch pool, but for those of a staging area (R272); lent memory is withheld from it (R293). -/
def execPool (s : State) : Host.Outcome State Fault Refusal :=
  command s false false [bitsMask 9 0 + bitsMask 19 16 + bitsMask 26 24, bitsMask 51 12, 2 ^ 64 - 1] (fun s b m w =>
    let x := arg w 1 9 0
    let psz := arg w 1 26 24
    let n := pageBytes psz
    let a := s.ownWindow (arg w 2 51 12 * 4096)
    let k := (wordAt w 3).toNat
    if !(s.ctxAllowed b x) then s.reply m 4 0
    else if (s.ctxNode x).isNone || decide (5 < psz) || a % n != 0 || k == 0 || decide (2 ^ 32 ≤ k) || !(s.okRange a (n * k)) then s.reply m 3 0
    else if s.covered a (n * k) then s.reply m 6 0
    else if s.lentMeets a (n * k) then (s.bumpFree 1).reply m 6 0
    else
      let key := poolKey x (arg w 1 19 16) psz
      let p := Map.at s.flt.pools key ⟨[], none, []⟩
      let new := s.stagingAreas.foldl (fun l e => carve e.1 e.2 n l) [(a, k)]
      ({ s with free := s.free + 1, flt := { s.flt with pools := Map.put s.flt.pools key { p with free := p.free ++ new } } }).reply m 0 0)

/-- Every bank that holds a logical context of a context, by unit; `true` is the second bank. -/
def State.banksFor (s : State) (x : Nat) : List (Nat × Bool) :=
  let mine (a : AccBank) : Bool := match a.owner with | some o => o.1 == x | none => false
  (s.mx.banks.map (fun e => (if mine e.2.1 then [(e.1, false)] else []) ++ (if mine e.2.2 then [(e.1, true)] else []))).flatten

/-- A bank is spilled and holds nothing (R334). -/
def State.emptyBank (s : State) (u : Nat) (second : Bool) : State :=
  let b := s.banksOf u
  let s1 := match (if second then b.2 else b.1).owner with | some (y, n) => s.spillAcc y u n | none => s
  let nb : AccBank := ⟨none, 0⟩
  { s1 with mx := { s1.mx with banks := Map.put s1.mx.banks u (if second then (b.1, nb) else (nb, b.2)) } }

/-- SAVE: it waits while an operation works in one of the banks. -/
def execSave (s : State) : Host.Outcome State Fault Refusal :=
  command s false false [bitsMask 9 0] (fun s b m w =>
    let x := arg w 1 9 0
    let l := s.banksFor x
    if !(s.ctxAllowed b x) then s.reply m 4 0
    else if (s.ctxNode x).isNone then s.reply m 3 0
    else if l.any (fun e => s.bankBusy e.1 e.2) then s.waitMail b m
    else (l.foldl (fun t e => t.emptyBank e.1 e.2) s).reply m 0 0)

/-- Resident and pinned experts whose range meets [va, va + len) begin to be evicted (R298). -/
def State.evictRange (s : State) (x va len : Nat) : State :=
  match Map.find s.eng.tables x with
  | none => s
  | some t =>
    ((List.range t.nent).foldl (fun u e => match u.ertAddr x e with
      | none => u
      | some a =>
        let w := Memory.words u.mem a 8
        let r := ertRange w
        if (ertState w = 2 ∨ ertState w = 3) ∧ r.1 < va + len ∧ va < r.1 + r.2 then
          let w0 := withFld (wordAt w 0) 63 61 4
          u.putErt a 0 (if ertState w = 3 then withFld w0 60 60 1 else w0)
        else u) s).settleEvicts

/-- INVAL: it is accepted, TLBs forget the range and its experts begin to drain; INVAL_COMPLETE completes it (R322). -/
def execInval (s : State) : Host.Outcome State Fault Refusal :=
  command s false false [bitsMask 9 0, bitsMask 56 12, 2 ^ 64 - 1] (fun s b m w =>
    let x := arg w 1 9 0
    let va := arg w 2 56 12 * 4096
    let len := (wordAt w 3).toNat
    if !(s.ctxAllowed b x) then s.reply m 4 0
    else if (s.ctxNode x).isNone || len == 0 || len % 4096 != 0 || decide (2 ^ 57 < va + len) then s.reply m 3 0
    else
      let s1 := (s.dropTlb x va len).evictRange x va len
      { s1 with fresh := s1.fresh + 1, flt := { s1.flt with invals := s1.flt.invals ++ [⟨s1.fresh, x, va, len, b, m⟩] } })

/-! ### Staging, caches, replicas (R237, R272, R278) -/

/-- STAGING: a stack of a die that is not ready is none to be named (R29, R338); an area that holds bins or notices is not moved; the
new one leaves every frame pool. -/
def execStaging (s : State) : Host.Outcome State Fault Refusal :=
  command s false true [bitsMask 3 0, 2 ^ 64 - 1, 2 ^ 64 - 1] (fun s _ m w =>
    let st := arg w 1 3 0
    let rb := (wordAt w 2).toNat
    let n := (wordAt w 3).toNat
    let size := (2 ^ 17 + 1024) * n
    if 12 ≤ st ∨ !(s.dieReady (st / 3)) ∨ rb % 2 ^ 17 ≠ 0 ∨ n < 16 ∨ 65536 < n ∨ n ≠ 2 ^ n.log2 ∨ 2 ^ 36 < rb + size then s.reply m 3 0
    else if s.dfd.staged.any (fun e => e.pch / 64 == st) || s.dfd.inb.any (fun e => e.pch / 64 == st) || s.dfd.inbox.any (fun e => e.1 / 64 == st && !e.2.isEmpty) then s.reply m 6 0
    else
      let base := st * 2 ^ 36 + rb
      ({ s with dfd := { s.dfd with areas := Map.put s.dfd.areas st (rb, n) },
                flt := { s.flt with pools := Map.each s.flt.pools (fun k p => { p with free := carve base size (pageBytes (k % 8)) p.free }) } }).reply m 0 0)

/-- L2WAYS. -/
def execL2ways (s : State) : Host.Outcome State Fault Refusal :=
  command s false true [bitsMask 2 0, bitsMask 15 0] (fun s _ m w =>
    ({ s with dev := { s.dev with l2ways := Map.put s.dev.l2ways (arg w 1 2 0) (BitVec.ofNat 16 (arg w 2 15 0)) } }).reply m 0 0)

/-- REPLICA. -/
def execReplica (s : State) : Host.Outcome State Fault Refusal :=
  command s false true [bitsMask 5 0, 2 ^ 64 - 1, 2 ^ 64 - 1] (fun s _ m w =>
    let i := arg w 1 5 0
    let o := (wordAt w 2).toNat
    let n := (wordAt w 3).toNat
    if o % 2 ^ 17 ≠ 0 ∨ n % 2 ^ 17 ≠ 0 ∨ 2 ^ 36 < o + n then s.reply m 3 0
    else
      ({ s with dfd := { s.dfd with replicas := if n = 0 then Map.del s.dfd.replicas i else Map.put s.dfd.replicas i (o, n) } }).reply m 0 0)

/-! ### Experts (R296, R298, R299) -/

/-- A reserved bit of a descriptor is set (Table 25-1). -/
def descReserved (w : List W64) : Bool :=
  arg w 1 63 57 != 0 || arg w 1 11 0 != 0 || arg w 2 63 48 != 0 || arg w 3 63 57 != 0 || arg w 3 4 0 != 0 || arg w 4 63 0 != 0

/-- The 4 KiB pages that [va, va + n) meets. -/
def pagesOf (va n : Nat) : List Nat := if n = 0 then [] else (List.range ((va % 4096 + n + 4095) / 4096)).map (fun k => va / 4096 * 4096 + 4096 * k)

/-- Every page of [va, va + n) of a context is present, writable, not deferred, and in local HBM. -/
def State.pagesOk (s : State) (x va n : Nat) : Bool :=
  (pagesOf va n).all (fun p => match s.xlate devTlb x p false true with
    | .ok (pa, e) => !(bitAt e 53) && decide (pa < hbmSize)
    | .error _ => false)

/-- The pages of [va, va + n) with the frames to which they are pinned. -/
def State.framesOf (s : State) (x va n : Nat) : List (Nat × Nat) :=
  (pagesOf va n).filterMap (fun p => match s.xlate devTlb x p false true with | .ok (pa, _) => some (p / 4096, pa) | .error _ => none)

/-- `nfetch` of the first k entries counts from registration (Table 25-2). -/
def State.clearFetches (s : State) (x k : Nat) : State :=
  (List.range k).foldl (fun t e => match t.ertAddr x e with | some a => t.putErt a 7 0 | none => t) s

/-- The bits given of EXPTABLE. -/
def tableMasks : List Nat := [2 ^ 64 - 1, 2 ^ 64 - 1, 2 ^ 64 - 1, 2 ^ 64 - 1, bitsMask 9 0, 1]

/-- EXPTABLE: a table is registered, and the translations of its two ranges are pinned (R296). -/
def execExptableRegister (s : State) : Host.Outcome State Fault Refusal :=
  command s false false tableMasks (fun s b m w =>
    let x := arg w 5 9 0
    let t : ExpTable := ⟨arg w 1 56 12 * 4096, arg w 2 47 32, arg w 2 31 0, arg w 3 56 5 * 32, []⟩
    if descReserved w then s.reply m 1 0
    else if !(s.ctxAllowed b x) then s.reply m 4 0
    else if (s.ctxNode x).isNone || t.nent == 0 || decide (4096 < t.nent) || decide (2 ^ 20 < t.spcnt)
        || !(s.pagesOk x t.ertbase (512 * t.nent)) || !(s.pagesOk x t.spbase (32 * t.spcnt)) then s.reply m 3 0
    else if (Map.find s.eng.tables x).isSome then s.reply m 6 0
    else
      let f := s.framesOf x t.ertbase (512 * t.nent) ++ s.framesOf x t.spbase (32 * t.spcnt)
      (({ s with eng := { s.eng with tables := Map.put s.eng.tables x { t with frames := f } } }).clearFetches x t.nent).reply m 0 0)

/-- An expert table is in use: a use, a parked entry, a fetch, an eviction or a pin (R296). -/
def State.tableBusy (s : State) (x : Nat) (t : ExpTable) : Bool :=
  s.eng.fetches.any (fun f => f.ctx == x) || s.eng.evicts.any (fun e => e.ctx == x)
    || (List.range t.nent).any (fun e => match s.ertAddr x e with
      | some a =>
        let w := Memory.words s.mem a 5
        fld (wordAt w 0) 31 0 != 0 || fld (wordAt w 4) 63 32 != 0 || ertState w == 3 || ertState w == 4
      | none => false)

/-- EXPTABLE with w6 bit 0: the table is forgotten. -/
def execExptableDeregister (s : State) : Host.Outcome State Fault Refusal :=
  command s false false [0, 0, 0, 0, bitsMask 9 0, 1] (fun s b m w =>
    let x := arg w 5 9 0
    if !(s.ctxAllowed b x) then s.reply m 4 0
    else if (s.ctxNode x).isNone then s.reply m 3 0
    else match Map.find s.eng.tables x with
      | none => s.reply m 0 0
      | some t =>
        if s.tableBusy x t then s.reply m 6 0
        else ({ s with eng := { s.eng with tables := Map.del s.eng.tables x } }).reply m 0 0)

/-- The bits given in w1 of EXPFETCH and EXPEVICT. -/
def expertMask : Nat := bitsMask 41 32 + bitsMask 11 0

/-- EXPFETCH: a fetch begins from the absent state alone. -/
def execExpfetch (s : State) : Host.Outcome State Fault Refusal :=
  command s false false [expertMask, bitsMask 5 0] (fun s b m w =>
    let x := arg w 1 41 32
    let id := arg w 1 11 0
    let c := arg w 2 5 0
    if !(s.ctxAllowed b x) then s.reply m 4 0
    else match s.ctxNode x, s.ertAddr x id with
      | some n, some a =>
        if 40 ≤ c ∨ !((s.effClmask n).testBit c) ∨ !(s.dieReady (c / 10)) then s.reply m 3 0
        else
          let st := ertState (Memory.words s.mem a 1)
          (if st = 0 then s.beginFetch x id c else s).reply m 0 st
      | _, _ => s.reply m 3 0)

/-- EXPEVICT: a resident entry becomes evicting, at once or when its uses have gone. -/
def execExpevict (s : State) : Host.Outcome State Fault Refusal :=
  command s false false [expertMask] (fun s b m w =>
    let x := arg w 1 41 32
    let id := arg w 1 11 0
    if !(s.ctxAllowed b x) then s.reply m 4 0
    else match s.ctxNode x, s.ertAddr x id with
      | some _, some a =>
        let w0 := Memory.w64 s.mem a
        (match fld w0 63 61 with
        | 2 =>
          if fld w0 31 0 = 0 then (s.putErt a 0 (withFld w0 63 61 4)).reply m 0 2
          else { s with eng := { s.eng with evicts := s.eng.evicts ++ [⟨x, id, b, m⟩] } }
        | 3 => s.reply m 5 3
        | st => s.reply m 0 st)
      | _, _ => s.reply m 3 0)

/-! ### The pod (R288, R292 to R294) -/

/-- POD-JOIN. -/
def execPodJoin (s : State) : Host.Outcome State Fault Refusal :=
  command s false true [bitsMask 9 0, bitsMask 51 7] (fun s _ m w =>
    let n := arg w 1 9 0
    let a := s.ownWindow (arg w 2 51 7 * 128)
    let bs := s.physGet 0 a 128
    let has (k : Nat) : Bool := (bs.getD (k / 8) 0).toNat.testBit (k % 8)
    let s := if s.okRange a 128 then s.fwNote a 16 else s
    if !(s.okRange a 128) || !(has n) then s.reply m 3 0
    else ({ s with fab := { s.fab with devno := some n, members := (List.range 1024).filter has } }).reply m 0 0)

/-- The twelve inbound entries of a sending context, stack by stack: base and length of each region; `none` where a table
is full. The map gives the handles. -/
def State.inboundEntries (s : State) (x : Nat) : List (Nat × Nat × Nat) → Option (State × Map W32)
  | [] => some (s, [])
  | (st, o, n) :: r =>
    match s.freeCap st with
    | none => none
    | some e =>
      let c : Cap := { s.cap st e with state := 1, wr := true, rd := false, kind := 2, owner := x, busy := 0, old := 0,
                                       base := st * 2 ^ 36 + o, bound := BitVec.ofNat 64 n }
      match (s.setCap st e c).inboundEntries x r with
      | none => none
      | some (t, h) => some (t, Map.put h st (BitVec.ofNat 32 (handleOf st e c.gen.toNat)))

/-- INBOUND. -/
def execInbound (s : State) : Host.Outcome State Fault Refusal :=
  command s false true [bitsMask 9 0 + bitsMask 25 16, bitsMask 51 8] (fun s _ m w =>
    let dev := arg w 1 9 0
    let x := arg w 1 25 16
    let a := s.ownWindow (arg w 2 51 8 * 256)
    let ws := s.fwWords a 24
    let l := (List.range 12).map (fun st => (st, (wordAt ws (2 * st)).toNat, (wordAt ws (2 * st + 1)).toNat))
    let s := if s.okRange a 192 then s.fwNote a 24 else s
    if !(s.okRange a 192) || l.any (fun e => e.2.1 == 0 || e.2.1 % 64 != 0 || e.2.2 == 0 || e.2.2 % 64 != 0 || decide (2 ^ 36 < e.2.1 + e.2.2)) then
      s.reply m 3 0
    else if (List.range 4).any (fun d => (Map.find s.dfd.areas (3 * d)).isNone) then s.reply m 6 0
    else match s.inboundEntries x l with
      | none => s.reply m 6 0
      | some (t, h) =>
        (({ t with fab := { t.fab with inbound := Map.put t.fab.inbound (dev * 1024 + x) h } }).grantPermits dev x).reply m 0 0)

/-- LEASE, grant, on the borrower: window w is live. -/
def execLeaseGrant (s : State) : Host.Outcome State Fault Refusal :=
  command s false true [bitsMask 15 8 + 3, 2 ^ 64 - 1 - bitsMask 49 48, bitsMask 51 21, 2 ^ 64 - 1] (fun s _ m w =>
    let k := arg w 1 15 8
    let len := (wordAt w 4).toNat
    let l : Lease := ⟨1, bitAt (wordAt w 2) 61, bitAt (wordAt w 2) 60, arg w 2 59 50, BitVec.ofNat 16 (arg w 2 47 32),
      BitVec.ofNat 32 (arg w 2 31 0), arg w 3 51 21 * 2 ^ 21, wordAt w 4⟩
    if len % 2 ^ 21 ≠ 0 ∨ 2 ^ 36 < len then s.reply m 3 0
    else if (s.lease k).state ≠ 0 then s.reply m 6 0
    else ({ s with fab := { s.fab with leases := Map.put s.fab.leases k l } }).reply m 0 0)

/-- LEASE, revoke, on the lender: the revoke is sent. -/
def execLeaseRevokeCommand (s : State) : Host.Outcome State Fault Refusal :=
  command s false true [bitsMask 15 8 + 3, bitsMask 9 0, bitsMask 31 0] (fun s _ m w =>
    let dev := arg w 2 9 0
    let lid : W32 := BitVec.ofNat 32 (arg w 3 31 0)
    let rest := s.fab.lent.filter (fun l => !(l.dev == dev && l.lid == lid))
    ({ s with fab := { s.fab with lent := rest ++ [Lent.mk dev lid 1],
                                  replies := s.fab.replies ++ [Reply.leaseRevoke dev lid] } }).reply m 0 0)

/-- LEASE, free: a revoked entry is free. -/
def execLeaseFree (s : State) : Host.Outcome State Fault Refusal :=
  command s false true [bitsMask 15 8 + 3] (fun s _ m w =>
    let k := arg w 1 15 8
    if (s.lease k).state ≠ 3 then s.reply m 6 0
    else ({ s with fab := { s.fab with leases := Map.del s.fab.leases k } }).reply m 0 0)

/-- The four words of a lease entry (Table 23-3). -/
def leaseImage (l : Lease) (infl : Nat) : List W64 :=
  [BitVec.ofNat 64 (l.state * 2 ^ 62 + l.rd.toNat * 2 ^ 61 + l.wr.toNat * 2 ^ 60 + l.lender % 1024 * 2 ^ 50 + l.linc.toNat * 2 ^ 32 + l.lid.toNat),
   BitVec.ofNat 64 l.lbase, l.len, BitVec.ofNat 64 (infl % 2 ^ 32 * 2 ^ 32)]

/-- LEASE, read: the entry is written to memory. -/
def execLeaseRead (s : State) : Host.Outcome State Fault Refusal :=
  command s false true [bitsMask 15 8 + 3, bitsMask 51 5] (fun s _ m w =>
    let k := arg w 1 15 8
    let a := s.ownWindow (arg w 2 51 5 * 32)
    if !(s.okRange a 32) then s.reply m 3 0
    else (s.fwPut a (wordBytes (leaseImage (s.lease k) (s.inflight k)))).reply m 0 0)

/-! ### The device (R337, R339, R341) -/

/-- POWERCAP: the limit holds from the next millisecond (R339). -/
def execPowercap (s : State) : Host.Outcome State Fault Refusal :=
  command s false true [bitsMask 15 0] (fun s _ m w =>
    let p := arg w 1 15 0
    if p < 600 ∨ 2800 < p then s.reply m 3 0
    else ({ s with dev := { s.dev with nextCap := p } }).reply m 0 0)

/-- The form field of Table 00-1. -/
def Form.code : Form → Nat
  | .p => 1 | .m => 2 | .e => 0xE

/-- The node blocks of a mailbox's partition, in address order; for the root mailbox, every block. -/
def State.partBlocks (s : State) (b : MailBox) : List Byte :=
  ((s.sch.nodes.filter (fun e => e.2.state != 0 && (match b with
    | .root => true
    | .part p => e.2.level != 0 && e.2.tenpart == p))).map (fun e => Memory.read s.mem e.1 128)).flatten

/-- The words w0 to w24 of an attestation report (Table 29-3). -/
def State.report (s : State) (b : MailBox) (nonce : List W64) : List W64 :=
  BitVec.ofNat 64 (Form.code s.dev.form * 2 ^ 60 + s.selfDev % 1024 * 2 ^ 50 + s.dev.inc.toNat * 2 ^ 34 + s.fab.devno.isSome.toNat * 2 ^ 33)
    :: firmwareDigest ++ nonce ++ Sha3.sha512 (s.partBlocks b)

/-- ATTEST: the report, signed with the identity key (R341; log entry 9). -/
def execAttest (s : State) : Host.Outcome State Fault Refusal :=
  command s false false [bitsMask 51 3, bitsMask 51 6] (fun s b m w =>
    let a := s.ownWindow (arg w 1 51 3 * 8)
    let n := s.ownWindow (arg w 2 51 6 * 64)
    if !(s.okRange a 4827) || !(s.okRange n 64) then s.reply m 3 0
    else
      let ws := s.report b (s.fwWords n 8)
      let body := (ws.map (fun x => leBytes 8 x.toNat)).flatten
      ((s.fwNote n 8).fwPut a (body ++ (List.range 4627).map (Config.mldsaSign identityKey.2 body))).reply m 0 0)

/-- STATUS. -/
def execStatus (s : State) : Host.Outcome State Fault Refusal :=
  command s false false [] (fun s _ m _ => s.reply m 0 ((if s.dev.full then 2 else 1) * 16 + s.dev.ready.toNat))

/-! ### Debug commands of a VBZ-40E (R2, R346) -/

/-- 0xE0: eight bytes of controller-core memory. What no debug command has written is free. -/
def execDebugRead (s : State) : Host.Outcome State Fault Refusal :=
  command s true true [2 ^ 64 - 1, bitsMask 51 3] (fun s _ m w =>
    let c := (wordAt w 1).toNat
    let a := s.ownWindow (arg w 2 51 3 * 8)
    if c % 8 ≠ 0 ∨ !(s.okRange a 8) then s.reply m 3 0
    else
      let f := s.takeFree
      (f.2.fwPut a (leBytes 8 ((Map.find s.dev.ctlMem (c / 8)).getD f.1).toNat)).reply m 0 0)

/-- 0xE1. -/
def execDebugWrite (s : State) : Host.Outcome State Fault Refusal :=
  command s true true [2 ^ 64 - 1, 2 ^ 64 - 1] (fun s _ m w =>
    let c := (wordAt w 1).toNat
    if c % 8 ≠ 0 then s.reply m 3 0
    else ({ s with dev := { s.dev with ctlMem := Map.put s.dev.ctlMem (c / 8) (wordAt w 2) } }).reply m 0 0)

/-- 0xE2: the firmware halts. -/
def execDebugHalt (s : State) : Host.Outcome State Fault Refusal :=
  command s true true [] (fun s _ m _ => ({ s with dev := { s.dev with fwHalted := true } }).reply m 0 0)

/-- 0xE3: one firmware instruction. -/
def execDebugStep (s : State) : Host.Outcome State Fault Refusal :=
  command s true true [] (fun s _ m _ => ({ s with dev := { s.dev with fwSteps := s.dev.fwSteps + 1 } }).reply m 0 0)

/-- 0xE4: the firmware goes on. -/
def execDebugContinue (s : State) : Host.Outcome State Fault Refusal :=
  command s true true [] (fun s _ m _ => ({ s with dev := { s.dev with fwHalted := false } }).reply m 0 0)

/-- Any other code: rejected-reserved (R337). -/
def execUnknownCommand (s : State) : Host.Outcome State Fault Refusal :=
  command s false false [] (fun s _ m _ => s.reply m 1 0)

end Sys2Proof.Machine
end

