-- ==== Sys2Proof/Machine/Rep.lean ====
section
/-! DEFINITION. The REP prefix (spec/09_instruction_formats.md R100 to R102). -/

namespace Sys2Proof.Machine

open Sys2Proof

/-- Every operand with a non-zero step is a vector register, or the address of LDSP and STSP, and the fields that the
target's format does not use are zero (R100, R101). -/
def stepsOk (p : PF) (i : Instr) : Bool :=
  let ok (st : BitVec 8) (o : Opnd) : Bool := st == 0 || isV o
  match i with
  | .ldsp f | .stsp f => ok p.stepd f.dst && ok p.stepb f.sb && p.stepc == 0
  | _ =>
    match i.view with
    | .v _ f => ok p.stepd f.dst && ok p.stepa f.sa && ok p.stepb f.sb && ok p.stepc f.sc && p.sshift == 0
    | _ => false

/-- The target of the REP at which an agent stands: a single-slot instruction of V format, LDSP or STSP that its clause
may hold, with steps that suit it. -/
def State.repTarget (s : State) (ag : Agent) (p : PF) : Option Instr :=
  let code := s.codeOf ag
  let k := (s.pcOf ag).2.1 + 1
  match decodeWord (wordAt code k) (wordAt code (k + 1)) with
  | .error _ => none
  | .ok i => if i.slots == 1 && legal (headerKind (wordAt code 0)) i && placeOk i k (s.nslot ag) && stepsOk p i then some i else none

/-- Vector register operands of a target, each with the number of registers used after it. -/
def targetRegs (i : Instr) : List (Opnd × Nat) :=
  match i with
  | .topk f => [(f.dst, 1), (f.sa, 0)]
  | .ldsp f | .stsp f => [(f.dst, more64 f.ty), (f.sb, 0)]
  | _ => match i.view with | .v _ f => [(f.dst, 0), (f.sa, 0), (f.sb, 0), (f.sc, 0)] | _ => []

/-- The scratchpad fault of iteration n of LDSP or STSP: lane, cause and address. -/
def State.targetPad (s : State) (ag : Agent) (p : PF) (i : Instr) (n : Nat) : Option (Nat × Nat × Nat) :=
  match i with
  | .ldsp f | .stsp f =>
    let size := tyBits f.ty / 8
    let step : Int := (n : Nat) * p.stepa.toInt * (2 ^ p.sshift.toNat : Nat)
    s.spadCheck ag size size (fun l => s.spadEa ag f false l step) (s.accLanes ag (spadVec ag))
  | _ => none

/-- The iterations of a target from number k on. -/
def repIters (p : PF) (i : Instr) (k : Nat) : List (Nat × Option Instr) :=
  ((List.range p.count.toNat).drop k).map (fun n => (n, Instr.iter i p n))

/-- The check of the form of iterations: legality, then registers (R40, R97). -/
def State.formFault (s : State) (ag : Agent) (its : List (Nat × Option Instr)) : Option Nat :=
  let kind := headerKind (wordAt (s.codeOf ag) 0)
  if its.any (fun e => match e.2 with | some j => !(legal kind j) | none => false) then some 0x01
  else if its.any (fun e => match e.2 with | some j => !(s.regsOk ag (targetRegs j)) | none => true) then some 0x02
  else none

/-- The check of every iteration before iteration 0, in the group order of R310: legality, registers, addresses. -/
def State.repFault (s : State) (ag : Agent) (p : PF) (i : Instr) : Option (Nat × Option Nat × Nat) :=
  match s.formFault ag (repIters p i 0) with
  | some c => some (c, none, 0)
  | none =>
    (repIters p i 0).findSome? (fun e => match e.2 with
      | some j => (match s.targetPad ag p j e.1 with | some (l, c, a) => some (c, laneOf (spadVec ag) l, a) | none => none)
      | none => none)

/-- The next instruction that issues is the target's present iteration. -/
def State.latchTarget (s : State) (ag : Agent) : State := { s with issue := some ⟨ag, true⟩ }

/-- Slots that a REP of no iterations skips: its own and the whole of I, which is not checked (R99, R101). -/
def State.skipSlots (s : State) (ag : Agent) : Nat :=
  let code := s.codeOf ag
  let k := (s.pcOf ag).2.1 + 1
  match decodeWord (wordAt code k) (wordAt code (k + 1)) with
  | .ok i => 1 + i.slots
  | .error _ => 2

/-- R101, REP: the sweep begins, or goes on where `repctl` stands, the form of the iterations to come checked again. A REP of count 0 at
the slot that an active `repctl` names skips I and leaves `repctl`, as the pseudocode has it; the prose would have it trap: DESIGN
CHOICE (log entry 26). -/
def execRep (f : PF) (s : State) : Host.Outcome State Fault Refusal :=
  issued s (fun ag =>
    let r := (s.repctlOf ag).toNat
    let sl := (s.pcOf ag).2.2
    if f.count = 0 then s.retire (s.skipSlots ag) .none
    else
      match s.repTarget ag f with
      | none => s.trap ag 0x01 none 0 0
      | some i =>
        if r.testBit 31 then
          if r.testBit 30 != sl then s.stall
          else if r % 4096 ≠ f.count.toNat ∨ f.count.toNat ≤ r / 4096 % 4096 then s.trap ag 0x01 none 0 0
          else
            match s.formFault ag (repIters f i (r / 4096 % 4096)) with
            | some c => s.trap ag c none 0 0
            | none => s.latchTarget ag
        else
          match s.repFault ag f i with
          | some (c, l, a) => s.trap ag c l 0 a
          | none => (s.setRepctl ag (repctlWord sl 0 f.count.toNat)).latchTarget ag)

end Sys2Proof.Machine
end

