-- ==== Sys2Proof/Machine/Dispatch.lean ====
section
/-! DEFINITION. One arm per constructor of Instr. -/

namespace Sys2Proof.Machine

open Sys2Proof

def exec (i : Instr) (s : State) : Host.Outcome State Fault Refusal :=
  match i with
  | .iadd f => Sys2Proof.Machine.execIadd f s
  | .isub f => Sys2Proof.Machine.execIsub f s
  | .imul f => Sys2Proof.Machine.execImul f s
  | .imulh f => Sys2Proof.Machine.execImulh f s
  | .imad f => Sys2Proof.Machine.execImad f s
  | .idiv f => Sys2Proof.Machine.execIdiv f s
  | .irem f => Sys2Proof.Machine.execIrem f s
  | .imin f => Sys2Proof.Machine.execImin f s
  | .imax f => Sys2Proof.Machine.execImax f s
  | .andS f => Sys2Proof.Machine.execAndS f s
  | .orS f => Sys2Proof.Machine.execOrS f s
  | .xorS f => Sys2Proof.Machine.execXorS f s
  | .notS f => Sys2Proof.Machine.execNotS f s
  | .shl f => Sys2Proof.Machine.execShl f s
  | .shr f => Sys2Proof.Machine.execShr f s
  | .sar f => Sys2Proof.Machine.execSar f s
  | .rot f => Sys2Proof.Machine.execRot f s
  | .clz f => Sys2Proof.Machine.execClz f s
  | .popc f => Sys2Proof.Machine.execPopc f s
  | .bfx f => Sys2Proof.Machine.execBfx f s
  | .bfi f => Sys2Proof.Machine.execBfi f s
  | .icmp f => Sys2Proof.Machine.execIcmp f s
  | .sel f => Sys2Proof.Machine.execSel f s
  | .mov f => Sys2Proof.Machine.execMov f s
  | .lea f => Sys2Proof.Machine.execLea f s
  | .sfadd f => Sys2Proof.Machine.execSfadd f s
  | .sfmul f => Sys2Proof.Machine.execSfmul f s
  | .sfma f => Sys2Proof.Machine.execSfma f s
  | .sfcmp f => Sys2Proof.Machine.execSfcmp f s
  | .scvt f => Sys2Proof.Machine.execScvt f s
  | .mfs f => Sys2Proof.Machine.execMfs f s
  | .mts f => Sys2Proof.Machine.execMts f s
  | .br f => Sys2Proof.Machine.execBr f s
  | .brc f => Sys2Proof.Machine.execBrc f s
  | .brx f => Sys2Proof.Machine.execBrx f s
  | .call f => Sys2Proof.Machine.execCall f s
  | .callx f => Sys2Proof.Machine.execCallx f s
  | .ret f => Sys2Proof.Machine.execRet f s
  | .bsplit f => Sys2Proof.Machine.execBsplit f s
  | .bjoin f => Sys2Proof.Machine.execBjoin f s
  | .dpush f => Sys2Proof.Machine.execDpush f s
  | .dpop f => Sys2Proof.Machine.execDpop f s
  | .msk f => Sys2Proof.Machine.execMsk f s
  | .mbcnt f => Sys2Proof.Machine.execMbcnt f s
  | .mfirst f => Sys2Proof.Machine.execMfirst f s
  | .nop f => Sys2Proof.Machine.execNop f s
  | .viadd f => Sys2Proof.Machine.execViadd f s
  | .visub f => Sys2Proof.Machine.execVisub f s
  | .vimul f => Sys2Proof.Machine.execVimul f s
  | .vimad f => Sys2Proof.Machine.execVimad f s
  | .vimin f => Sys2Proof.Machine.execVimin f s
  | .vimax f => Sys2Proof.Machine.execVimax f s
  | .viabs f => Sys2Proof.Machine.execViabs f s
  | .viadds f => Sys2Proof.Machine.execViadds f s
  | .visubs f => Sys2Proof.Machine.execVisubs f s
  | .vand f => Sys2Proof.Machine.execVand f s
  | .vor f => Sys2Proof.Machine.execVor f s
  | .vxor f => Sys2Proof.Machine.execVxor f s
  | .vnot f => Sys2Proof.Machine.execVnot f s
  | .vshl f => Sys2Proof.Machine.execVshl f s
  | .vshr f => Sys2Proof.Machine.execVshr f s
  | .vsar f => Sys2Proof.Machine.execVsar f s
  | .vbfx f => Sys2Proof.Machine.execVbfx f s
  | .vpopc f => Sys2Proof.Machine.execVpopc f s
  | .vicmp f => Sys2Proof.Machine.execVicmp f s
  | .vsel f => Sys2Proof.Machine.execVsel f s
  | .vmov f => Sys2Proof.Machine.execVmov f s
  | .vfadd f => Sys2Proof.Machine.execVfadd f s
  | .vfsub f => Sys2Proof.Machine.execVfsub f s
  | .vfmul f => Sys2Proof.Machine.execVfmul f s
  | .vfma f => Sys2Proof.Machine.execVfma f s
  | .vfmin f => Sys2Proof.Machine.execVfmin f s
  | .vfmax f => Sys2Proof.Machine.execVfmax f s
  | .vfcmp f => Sys2Proof.Machine.execVfcmp f s
  | .vfclass f => Sys2Proof.Machine.execVfclass f s
  | .vcvt f => Sys2Proof.Machine.execVcvt f s
  | .vpack f => Sys2Proof.Machine.execVpack f s
  | .vunpk f => Sys2Proof.Machine.execVunpk f s
  | .dot4 f => Sys2Proof.Machine.execDot4 f s
  | .dot8 f => Sys2Proof.Machine.execDot8 f s
  | .rcpF32 f => Sys2Proof.Machine.execRcpF32 f s
  | .rsqF32 f => Sys2Proof.Machine.execRsqF32 f s
  | .exp2 f => Sys2Proof.Machine.execExp2 f s
  | .log2 f => Sys2Proof.Machine.execLog2 f s
  | .sinPi f => Sys2Proof.Machine.execSinPi f s
  | .cosPi f => Sys2Proof.Machine.execCosPi f s
  | .tanh f => Sys2Proof.Machine.execTanh f s
  | .rcpa f => Sys2Proof.Machine.execRcpa f s
  | .shfl f => Sys2Proof.Machine.execShfl f s
  | .bcast f => Sys2Proof.Machine.execBcast f s
  | .vred f => Sys2Proof.Machine.execVred f s
  | .vscan f => Sys2Proof.Machine.execVscan f s
  | .topk f => Sys2Proof.Machine.execTopk f s
  | .ballot f => Sys2Proof.Machine.execBallot f s
  | .ld f => Sys2Proof.Machine.execLd f s
  | .st f => Sys2Proof.Machine.execSt f s
  | .sld f => Sys2Proof.Machine.execSld f s
  | .sst f => Sys2Proof.Machine.execSst f s
  | .ldsp f => Sys2Proof.Machine.execLdsp f s
  | .stsp f => Sys2Proof.Machine.execStsp f s
  | .ldx f => Sys2Proof.Machine.execLdx f s
  | .atom f => Sys2Proof.Machine.execAtom f s
  | .red f => Sys2Proof.Machine.execRed f s
  | .cas f => Sys2Proof.Machine.execCas f s
  | .satom f => Sys2Proof.Machine.execSatom f s
  | .waitc f => Sys2Proof.Machine.execWaitc f s
  | .waittl f => Sys2Proof.Machine.execWaittl f s
  | .bar f => Sys2Proof.Machine.execBar f s
  | .arrv f => Sys2Proof.Machine.execArrv f s
  | .bowait f => Sys2Proof.Machine.execBowait f s
  | .cbacqProd f => Sys2Proof.Machine.execCbacqProd f s
  | .cbacqCons f => Sys2Proof.Machine.execCbacqCons f s
  | .cbrelProd f => Sys2Proof.Machine.execCbrelProd f s
  | .cbrelCons f => Sys2Proof.Machine.execCbrelCons f s
  | .commitBlock f => Sys2Proof.Machine.execCommitBlock f s
  | .commitGrid f => Sys2Proof.Machine.execCommitGrid f s
  | .commitPod f => Sys2Proof.Machine.execCommitPod f s
  | .dflushGrid f => Sys2Proof.Machine.execDflushGrid f s
  | .dflushPod f => Sys2Proof.Machine.execDflushPod f s
  | .mred f => Sys2Proof.Machine.execMred f s
  | .mired f => Sys2Proof.Machine.execMired f s
  | .meval f => Sys2Proof.Machine.execMeval f s
  | .mfill f => Sys2Proof.Machine.execMfill f s
  | .capnew f => Sys2Proof.Machine.execCapnew f s
  | .capswap f => Sys2Proof.Machine.execCapswap f s
  | .caprev f => Sys2Proof.Machine.execCaprev f s
  | .capqry f => Sys2Proof.Machine.execCapqry f s
  | .mma f => Sys2Proof.Machine.execMma f s
  | .mmaSp f => Sys2Proof.Machine.execMmaSp f s
  | .mmaChk f => Sys2Proof.Machine.execMmaChk f s
  | .miter f => Sys2Proof.Machine.execMiter f s
  | .miterCont f => Sys2Proof.Machine.execMiterCont f s
  | .aclr f => Sys2Proof.Machine.execAclr f s
  | .ain f => Sys2Proof.Machine.execAin f s
  | .aout f => Sys2Proof.Machine.execAout f s
  | .aoutClr f => Sys2Proof.Machine.execAoutClr f s
  | .epi f => Sys2Proof.Machine.execEpi f s
  | .kld f => Sys2Proof.Machine.execKld f s
  | .kldAll f => Sys2Proof.Machine.execKldAll f s
  | .actxSwap f => Sys2Proof.Machine.execActxSwap f s
  | .actxRel f => Sys2Proof.Machine.execActxRel f s
  | .txf f => Sys2Proof.Machine.execTxf f s
  | .txfcProd f => Sys2Proof.Machine.execTxfcProd f s
  | .txfcCons f => Sys2Proof.Machine.execTxfcCons f s
  | .txfsRd f => Sys2Proof.Machine.execTxfsRd f s
  | .txfsClr f => Sys2Proof.Machine.execTxfsClr f s
  | .tnext f => Sys2Proof.Machine.execTnext f s
  | .tqaddSh f => Sys2Proof.Machine.execTqaddSh f s
  | .tqaddRt f => Sys2Proof.Machine.execTqaddRt f s
  | .park f => Sys2Proof.Machine.execPark f s
  | .erqQry f => Sys2Proof.Machine.execErqQry f s
  | .erqAcq f => Sys2Proof.Machine.execErqAcq f s
  | .erqRel f => Sys2Proof.Machine.execErqRel f s
  | .erpin f => Sys2Proof.Machine.execErpin f s
  | .erunpin f => Sys2Proof.Machine.execErunpin f s
  | .dwrd f => Sys2Proof.Machine.execDwrd f s
  | .dwwr f => Sys2Proof.Machine.execDwwr f s
  | .dwresResume f => Sys2Proof.Machine.execDwresResume f s
  | .dwresKill f => Sys2Proof.Machine.execDwresKill f s
  | .dwstep f => Sys2Proof.Machine.execDwstep f s
  | .trapSeq f => Sys2Proof.Machine.execTrapSeq f s
  | .trapHost f => Sys2Proof.Machine.execTrapHost f s
  | .rett f => Sys2Proof.Machine.execRett f s
  | .yield f => Sys2Proof.Machine.execYield f s
  | .sleep f => Sys2Proof.Machine.execSleep f s
  | .halt f => Sys2Proof.Machine.execHalt f s
  | .pgmap f => Sys2Proof.Machine.execPgmap f s
  | .rep f => Sys2Proof.Machine.execRep f s
  | .waveSelect p => Sys2Proof.Machine.execWaveSelect p s
  | .sequencerSelect c => Sys2Proof.Machine.execSequencerSelect c s
  | .trapDelivery c t => Sys2Proof.Machine.execTrapDelivery c t s
  | .stepTrap w => Sys2Proof.Machine.execStepTrap w s
  | .sleepExpire a alt => Sys2Proof.Machine.execSleepExpire a alt s
  | .accessComplete n => Sys2Proof.Machine.execAccessComplete n s
  | .barrierComplete w b => Sys2Proof.Machine.execBarrierComplete w b s
  | .commitComplete n => Sys2Proof.Machine.execCommitComplete n s
  | .hostWriteInvalidate pa data => Sys2Proof.Machine.execHostWriteInvalidate pa data s
  | .writeIndexReread q => Sys2Proof.Machine.execWriteIndexReread q s
  | .launchPacketRead q k => Sys2Proof.Machine.execLaunchPacketRead q k s
  | .workgroupPlace q k => Sys2Proof.Machine.execWorkgroupPlace q k s
  | .launchEnd q k => Sys2Proof.Machine.execLaunchEnd q k s
  | .sliceEnd core u => Sys2Proof.Machine.execSliceEnd core u s
  | .preemptionRequest core => Sys2Proof.Machine.execPreemptionRequest core s
  | .bankFlip core => Sys2Proof.Machine.execBankFlip core s
  | .bankSpillComplete core => Sys2Proof.Machine.execBankSpillComplete core s
  | .shadowFillComplete core => Sys2Proof.Machine.execShadowFillComplete core s
  | .accumulatorBankMove u => Sys2Proof.Machine.execAccumulatorBankMove u s
  | .matrixOpComplete u => Sys2Proof.Machine.execMatrixOpComplete u s
  | .miterIteration u => Sys2Proof.Machine.execMiterIteration u s
  | .txfBurst ctx c st => Sys2Proof.Machine.execTxfBurst ctx c st s
  | .txfCommandComplete ctx c st => Sys2Proof.Machine.execTxfCommandComplete ctx c st s
  | .txfcPiece ctx c st => Sys2Proof.Machine.execTxfcPiece ctx c st s
  | .cupolaItem ctx stack => Sys2Proof.Machine.execCupolaItem ctx stack s
  | .commandCompletionWord ctx stack => Sys2Proof.Machine.execCommandCompletionWord ctx stack s
  | .capEntryFree stack e => Sys2Proof.Machine.execCapEntryFree stack e s
  | .belfryDrain core => Sys2Proof.Machine.execBelfryDrain core s
  | .binShip die dest ctx => Sys2Proof.Machine.execBinShip die dest ctx s
  | .binStage die pch => Sys2Proof.Machine.execBinStage die pch s
  | .remoteBinReceive b => Sys2Proof.Machine.execRemoteBinReceive b s
  | .commitNoticeReplay pch => Sys2Proof.Machine.execCommitNoticeReplay pch s
  | .refresh pch => Sys2Proof.Machine.execRefresh pch s
  | .refreshHandover stack => Sys2Proof.Machine.execRefreshHandover stack s
  | .expertFetchComplete ctx x => Sys2Proof.Machine.execExpertFetchComplete ctx x s
  | .expertFetchFail ctx x done cause => Sys2Proof.Machine.execExpertFetchFail ctx x done cause s
  | .expertFetchStart ctx x => Sys2Proof.Machine.execExpertFetchStart ctx x s
  | .expertEvictComplete ctx x => Sys2Proof.Machine.execExpertEvictComplete ctx x s
  | .remoteWriteReceive f pa data => Sys2Proof.Machine.execRemoteWriteReceive f pa data s
  | .remoteAtomicReceive f pa op ty v => Sys2Proof.Machine.execRemoteAtomicReceive f pa op ty v s
  | .remoteReadReceive src pa n => Sys2Proof.Machine.execRemoteReadReceive src pa n s
  | .fabricAcknowledgement n data fails => Sys2Proof.Machine.execFabricAcknowledgement n data fails s
  | .fabricResend n => Sys2Proof.Machine.execFabricResend n s
  | .fabricItemFail n => Sys2Proof.Machine.execFabricItemFail n s
  | .fabricWindow => Sys2Proof.Machine.execFabricWindow s
  | .permitGrant ctx dev n h => Sys2Proof.Machine.execPermitGrant ctx dev n h s
  | .incarnationAnnounce dev inc => Sys2Proof.Machine.execIncarnationAnnounce dev inc s
  | .leaseRevoke lender lid => Sys2Proof.Machine.execLeaseRevoke lender lid s
  | .leaseDrained w => Sys2Proof.Machine.execLeaseDrained w s
  | .leaseDrainTimeout borrower lid => Sys2Proof.Machine.execLeaseDrainTimeout borrower lid s
  | .hostMemAccess pa n data => Sys2Proof.Machine.execHostMemAccess pa n data s
  | .powerArbiterTick mhz hbm pen => Sys2Proof.Machine.execPowerArbiterTick mhz hbm pen s
  | .dieReady d => Sys2Proof.Machine.execDieReady d s
  | .deviceReset => Sys2Proof.Machine.execDeviceReset s
  | .rinestLinkFail a b => Sys2Proof.Machine.execRinestLinkFail a b s
  | .podRecovery lost ph => Sys2Proof.Machine.execPodRecovery lost ph s
  | .heldFaultRecordWrite b => Sys2Proof.Machine.execHeldFaultRecordWrite b s
  | .invalComplete n => Sys2Proof.Machine.execInvalComplete n s
  | .nodeAttach => Sys2Proof.Machine.execNodeAttach s
  | .nodeUpdate => Sys2Proof.Machine.execNodeUpdate s
  | .nodeDetach => Sys2Proof.Machine.execNodeDetach s
  | .faultbuf => Sys2Proof.Machine.execFaultbuf s
  | .faultflush => Sys2Proof.Machine.execFaultflush s
  | .resume => Sys2Proof.Machine.execResume s
  | .endDomain => Sys2Proof.Machine.execEndDomain s
  | .pool => Sys2Proof.Machine.execPool s
  | .save => Sys2Proof.Machine.execSave s
  | .inval => Sys2Proof.Machine.execInval s
  | .staging => Sys2Proof.Machine.execStaging s
  | .exptableRegister => Sys2Proof.Machine.execExptableRegister s
  | .exptableDeregister => Sys2Proof.Machine.execExptableDeregister s
  | .expfetch => Sys2Proof.Machine.execExpfetch s
  | .expevict => Sys2Proof.Machine.execExpevict s
  | .l2ways => Sys2Proof.Machine.execL2ways s
  | .replica => Sys2Proof.Machine.execReplica s
  | .podJoin => Sys2Proof.Machine.execPodJoin s
  | .inbound => Sys2Proof.Machine.execInbound s
  | .leaseGrant => Sys2Proof.Machine.execLeaseGrant s
  | .leaseRevokeCommand => Sys2Proof.Machine.execLeaseRevokeCommand s
  | .leaseFree => Sys2Proof.Machine.execLeaseFree s
  | .leaseRead => Sys2Proof.Machine.execLeaseRead s
  | .powercap => Sys2Proof.Machine.execPowercap s
  | .attest => Sys2Proof.Machine.execAttest s
  | .status => Sys2Proof.Machine.execStatus s
  | .debugRead => Sys2Proof.Machine.execDebugRead s
  | .debugWrite => Sys2Proof.Machine.execDebugWrite s
  | .debugHalt => Sys2Proof.Machine.execDebugHalt s
  | .debugStep => Sys2Proof.Machine.execDebugStep s
  | .debugContinue => Sys2Proof.Machine.execDebugContinue s
  | .unknownCommand => Sys2Proof.Machine.execUnknownCommand s
  | .commandBlockAcceptance n => Sys2Proof.Machine.execCommandBlockAcceptance n s
  | .lossOfPorts port dev => Sys2Proof.Machine.execLossOfPorts port dev s

end Sys2Proof.Machine
end

