-- ==== Sys2Proof/Machine/Step.lean ====
section
/-! DEFINITION. One step of the machine: the instruction of the agent that the latch names, else the next entry of the
agenda (log entry 1). -/

namespace Sys2Proof.Machine

open Sys2Proof

/-- One step. An empty agenda leaves the machine as it stands. -/
def step (s : State) : Host.Outcome State Fault Refusal :=
  match s.issue with
  | some l =>
    match s.next l with
    | .run i => exec i s
    | .trapped t => .next t
  | none =>
    match s.agenda with
    | [] => .next s
    | .event i :: r => exec i { s with agenda := r }
    | .mail b a :: r => exec (s.commandAt a) { s with agenda := r, fw := some (b, a) }

/-- The state with an instruction placed in slot 1 of a fetched clause of an agent that issues next (log entry 12). -/
def State.withFetchWord (s : State) (nbits w : Nat) : State := s.placeWord nbits w

end Sys2Proof.Machine
end

