-- ==== Sys2Proof/Laws/Memory.lean ====
section
/-! SUPPORT. Laws of the finite maps and of memory: a read after a write, what a write leaves alone, and that every memory
operation keeps the canonical form. -/

namespace Sys2Proof.Machine

open Sys2Proof

/-! ### Finite maps -/

@[simp] theorem Map.find_put_same {V : Type} (m : Map V) (k : Nat) (v : V) : Map.find (Map.put m k v) k = some v := by
  induction m with
  | nil => simp [Map.put, Map.find]
  | cons e r ih =>
    obtain ⟨k', v'⟩ := e
    unfold Map.put
    split
    · simp [Map.find]
    · split
      · simp [Map.find]
      · simp_all [Map.find, eq_comm]

theorem Map.find_put_other {V : Type} (m : Map V) (k j : Nat) (v : V) (h : k ≠ j) :
    Map.find (Map.put m k v) j = Map.find m j := by
  induction m with
  | nil => simp [Map.put, Map.find, h]
  | cons e r ih =>
    obtain ⟨k', v'⟩ := e
    unfold Map.put
    split
    · simp [Map.find, h]
    · split
      · subst_vars; simp [Map.find, h]
      · simp_all [Map.find]

theorem Map.find_put {V : Type} (m : Map V) (k j : Nat) (v : V) :
    Map.find (Map.put m k v) j = if k = j then some v else Map.find m j := by
  by_cases h : k = j
  · subst h; simp
  · simp [h, Map.find_put_other]

@[simp] theorem Map.find_del_same {V : Type} (m : Map V) (k : Nat) : Map.find (Map.del m k) k = none := by
  induction m with
  | nil => rfl
  | cons e r ih =>
    obtain ⟨k', v'⟩ := e
    unfold Map.del
    split
    · exact ih
    · simp_all [Map.find]

theorem Map.find_del_other {V : Type} (m : Map V) (k j : Nat) (h : k ≠ j) : Map.find (Map.del m k) j = Map.find m j := by
  induction m with
  | nil => rfl
  | cons e r ih =>
    obtain ⟨k', v'⟩ := e
    unfold Map.del
    split
    · subst_vars; simp_all [Map.find]
    · simp_all [Map.find]

@[simp] theorem Map.at_put_same {V : Type} (m : Map V) (k : Nat) (v d : V) : Map.at (Map.put m k v) k d = v := by
  simp [Map.at]

theorem Map.at_put_other {V : Type} (m : Map V) (k j : Nat) (v d : V) (h : k ≠ j) :
    Map.at (Map.put m k v) j d = Map.at m j d := by
  simp [Map.at, Map.find_put_other, h]

/-! ### One byte -/

theorem Memory.get_of_above (m : Mem) (a k : Nat) (h : Memory.above k m = true) (ha : a ≤ k) : Memory.get m a = 0 := by
  induction m generalizing k with
  | nil => rfl
  | cons e r ih =>
    obtain ⟨j, b⟩ := e
    simp only [Memory.above, Bool.and_eq_true, decide_eq_true_eq] at h
    unfold Memory.get
    rw [if_neg (by omega)]
    exact ih j h.2 (by omega)

theorem Memory.wf_of_above (m : Mem) (k : Nat) (h : Memory.above k m = true) : Memory.wf m = true := by
  cases m with
  | nil => rfl
  | cons e r =>
    obtain ⟨j, b⟩ := e
    simp only [Memory.above, Bool.and_eq_true, decide_eq_true_eq] at h
    have hb := h.1.2
    simp only [Memory.wf, Bool.and_eq_true]
    exact ⟨hb, h.2⟩

theorem Memory.above_mono (m : Mem) (j k : Nat) (h : Memory.above k m = true) (hj : j ≤ k) : Memory.above j m = true := by
  cases m with
  | nil => rfl
  | cons e r =>
    obtain ⟨i, b⟩ := e
    simp only [Memory.above, Bool.and_eq_true, decide_eq_true_eq] at h ⊢
    exact ⟨⟨by omega, h.1.2⟩, h.2⟩

theorem Memory.above_clear0 (m : Mem) (k a : Nat) (b : Byte) (hb : b = 0) (h : Memory.above k m = true) :
    Memory.above k (Memory.set m a b) = true := by
  induction m generalizing k with
  | nil => simp [Memory.set, hb, Memory.above]
  | cons e r ih =>
    obtain ⟨j, c⟩ := e
    simp only [Memory.above, Bool.and_eq_true, decide_eq_true_eq] at h
    unfold Memory.set
    rw [if_pos hb]
    split
    · exact ih k (Memory.above_mono r k j h.2 (by omega))
    · simp only [Memory.above, Bool.and_eq_true, decide_eq_true_eq]
      exact ⟨h.1, ih j h.2⟩

theorem Memory.above_set (m : Mem) (k a : Nat) (b : Byte) (h : Memory.above k m = true) (ha : k < a) :
    Memory.above k (Memory.set m a b) = true := by
  induction m generalizing k with
  | nil =>
    unfold Memory.set
    split <;> simp_all [Memory.above]
  | cons e r ih =>
    obtain ⟨j, c⟩ := e
    simp only [Memory.above, Bool.and_eq_true, decide_eq_true_eq] at h
    unfold Memory.set
    split
    · split
      · exact ih k (Memory.above_mono r k j h.2 (by omega)) ha
      · by_cases hj : j < a
        · simp only [Memory.above, Bool.and_eq_true, decide_eq_true_eq]
          exact ⟨h.1, ih j h.2 hj⟩
        · simp only [Memory.above, Bool.and_eq_true, decide_eq_true_eq]
          exact ⟨h.1, Memory.above_clear0 r j a b (by assumption) h.2⟩
    · split
      · simp_all [Memory.above]
      · split
        · subst_vars; simp_all [Memory.above]
        · simp only [Memory.above, Bool.and_eq_true, decide_eq_true_eq]
          exact ⟨h.1, ih j h.2 (by omega)⟩

theorem Memory.wf_set (m : Mem) (a : Nat) (b : Byte) (h : Memory.wf m = true) : Memory.wf (Memory.set m a b) = true := by
  cases m with
  | nil =>
    unfold Memory.set
    split <;> simp_all [Memory.wf, Memory.above]
  | cons e r =>
    obtain ⟨j, c⟩ := e
    simp only [Memory.wf, Bool.and_eq_true] at h
    unfold Memory.set
    split
    · split
      · exact Memory.wf_of_above _ j (Memory.above_clear0 r j a b (by assumption) h.2)
      · simp only [Memory.wf, Bool.and_eq_true]
        exact ⟨h.1, Memory.above_clear0 r j a b (by assumption) h.2⟩
    · split
      · simp_all [Memory.wf, Memory.above]
      · split
        · subst_vars; simp_all [Memory.wf]
        · simp only [Memory.wf, Bool.and_eq_true]
          exact ⟨h.1, Memory.above_set r j a b h.2 (by omega)⟩

theorem Memory.get_set_same (m : Mem) (a : Nat) (b : Byte) : Memory.get (Memory.set m a b) a = b := by
  induction m with
  | nil =>
    unfold Memory.set
    split <;> simp_all [Memory.get]
  | cons e r ih =>
    obtain ⟨j, c⟩ := e
    unfold Memory.set
    split
    · split
      · exact ih
      · rename_i hj
        unfold Memory.get
        rw [if_neg hj]
        exact ih
    · split
      · simp [Memory.get]
      · split
        · simp [Memory.get]
        · unfold Memory.get
          rw [if_neg (by omega)]
          exact ih

theorem Memory.get_set_other (m : Mem) (a x : Nat) (b : Byte) (h : a ≠ x) : Memory.get (Memory.set m a b) x = Memory.get m x := by
  induction m with
  | nil =>
    unfold Memory.set
    split <;> simp [Memory.get, h]
  | cons e r ih =>
    obtain ⟨j, c⟩ := e
    unfold Memory.set
    split
    · split
      · subst_vars; simp only [Memory.get, if_neg h]; exact ih
      · simp [Memory.get, ih]
    · split
      · simp [Memory.get, h]
      · split
        · subst_vars; simp [Memory.get, h]
        · simp [Memory.get, ih]

/-! ### Bytes written -/

theorem Memory.wf_write (m : Mem) (a : Nat) (bs : List Byte) (h : Memory.wf m = true) : Memory.wf (Memory.write m a bs) = true := by
  induction bs generalizing m a with
  | nil => exact h
  | cons b r ih => exact ih (Memory.set m a b) (a + 1) (Memory.wf_set m a b h)

theorem Memory.get_write_outside (m : Mem) (a x : Nat) (bs : List Byte) (h : x < a ∨ a + bs.length ≤ x) :
    Memory.get (Memory.write m a bs) x = Memory.get m x := by
  induction bs generalizing m a with
  | nil => rfl
  | cons b r ih =>
    simp only [List.length_cons] at h
    rw [Memory.write, ih _ _ (by omega), Memory.get_set_other _ _ _ _ (by omega)]

theorem Memory.get_write_inside (m : Mem) (a i : Nat) (bs : List Byte) (hi : i < bs.length) :
    Memory.get (Memory.write m a bs) (a + i) = bs[i] := by
  induction bs generalizing m a i with
  | nil => simp at hi
  | cons b r ih =>
    rw [Memory.write]
    cases i with
    | zero =>
      rw [Memory.get_write_outside _ _ _ _ (by omega)]
      exact Memory.get_set_same m a b
    | succ n =>
      have := ih (Memory.set m a b) (a + 1) n (by simpa using hi)
      rw [show a + (n + 1) = a + 1 + n by omega]
      simpa using this

theorem Memory.wf_putW64 (m : Mem) (a : Nat) (w : W64) (h : Memory.wf m = true) : Memory.wf (Memory.putW64 m a w) = true :=
  Memory.wf_write m a _ h

theorem Memory.wf_putWords (m : Mem) (a : Nat) (ws : List W64) (h : Memory.wf m = true) : Memory.wf (Memory.putWords m a ws) = true := by
  induction ws generalizing m a with
  | nil => exact h
  | cons w r ih => exact ih _ _ (Memory.wf_putW64 m a w h)

@[simp] theorem length_leBytes (n v : Nat) : (leBytes n v).length = n := by simp [leBytes]

theorem Memory.get_putW64_outside (m : Mem) (a x : Nat) (w : W64) (h : x < a ∨ a + 8 ≤ x) :
    Memory.get (Memory.putW64 m a w) x = Memory.get m x :=
  Memory.get_write_outside m a x _ (by simpa using h)

theorem Memory.get_putWords_outside (m : Mem) (a x : Nat) (ws : List W64) (h : x < a ∨ a + 8 * ws.length ≤ x) :
    Memory.get (Memory.putWords m a ws) x = Memory.get m x := by
  induction ws generalizing m a with
  | nil => rfl
  | cons w r ih =>
    simp only [List.length_cons] at h
    rw [Memory.putWords, ih _ _ (by omega), Memory.get_putW64_outside _ _ _ _ (by omega)]

/-! ### Bytes cleared -/

theorem Memory.above_filter (m : Mem) (k : Nat) (p : Host.Cell → Bool) (h : Memory.above k m = true) :
    Memory.above k (m.filter p) = true := by
  induction m generalizing k with
  | nil => rfl
  | cons e r ih =>
    obtain ⟨j, c⟩ := e
    simp only [Memory.above, Bool.and_eq_true, decide_eq_true_eq] at h
    rw [List.filter_cons]
    split
    · simp only [Memory.above, Bool.and_eq_true, decide_eq_true_eq]
      exact ⟨h.1, ih j h.2⟩
    · exact ih k (Memory.above_mono r k j h.2 (by omega))

theorem Memory.wf_clear (m : Mem) (a n : Nat) (h : Memory.wf m = true) : Memory.wf (Memory.clear m a n) = true := by
  cases m with
  | nil => rfl
  | cons e r =>
    obtain ⟨j, c⟩ := e
    simp only [Memory.wf, Bool.and_eq_true] at h
    unfold Memory.clear
    rw [List.filter_cons]
    split
    · simp only [Memory.wf, Bool.and_eq_true]
      exact ⟨h.1, Memory.above_filter r j _ h.2⟩
    · exact Memory.wf_of_above _ j (Memory.above_filter r j _ h.2)

theorem Memory.get_clear (m : Mem) (a n x : Nat) :
    Memory.get (Memory.clear m a n) x = if a ≤ x ∧ x < a + n then 0 else Memory.get m x := by
  induction m with
  | nil => simp [Memory.clear, Memory.get]
  | cons e r ih =>
    obtain ⟨j, c⟩ := e
    unfold Memory.clear at ih ⊢
    rw [List.filter_cons]
    by_cases hj : a ≤ j ∧ j < a + n
    · rw [if_neg (by simpa using hj), ih]
      by_cases hx : a ≤ x ∧ x < a + n
      · simp [hx]
      · rw [if_neg hx, if_neg hx]
        conv_rhs => unfold Memory.get
        rw [if_neg (by rintro rfl; exact hx hj)]
    · rw [if_pos (by simp only [Bool.not_eq_true', Bool.and_eq_false_iff, decide_eq_false_iff_not]; omega)]
      unfold Memory.get
      by_cases hjx : j = x
      · subst hjx; simp [hj]
      · simp only [if_neg hjx]; exact ih

/-! ### Byte lists -/

theorem length_read (m : Mem) (a n : Nat) : (Memory.read m a n).length = n := by simp [Memory.read]

theorem leNat_lt (bs : List Byte) : leNat bs < 256 ^ bs.length := by
  induction bs with
  | nil => simp [leNat]
  | cons b r ih =>
    have := b.isLt
    simp only [leNat, List.length_cons, Nat.pow_succ]
    omega

theorem Memory.read_eq_of_get (m m' : Mem) (a n : Nat) (h : ∀ i < n, Memory.get m (a + i) = Memory.get m' (a + i)) :
    Memory.read m a n = Memory.read m' a n := by
  simp only [Memory.read]
  exact List.map_congr_left (fun i hi => h i (by simpa using hi))

end Sys2Proof.Machine
end

