-- ==== Sys2Proof/Laws/State.lean ====
section
/-! SUPPORT. One lemma per field of State for each update of one wave, thread, core, launch or table entry, and of the latch:
what the update leaves alone, and what it reads as after. -/

namespace Sys2Proof.Machine

open Sys2Proof

@[simp] theorem State.setWave_agenda (s : State) (w : Nat) (v : Wave) : (s.setWave w v).agenda = s.agenda := rfl
@[simp] theorem State.setWave_issue (s : State) (w : Nat) (v : Wave) : (s.setWave w v).issue = s.issue := rfl
@[simp] theorem State.setWave_fw (s : State) (w : Nat) (v : Wave) : (s.setWave w v).fw = s.fw := rfl
@[simp] theorem State.setWave_free (s : State) (w : Nat) (v : Wave) : (s.setWave w v).free = s.free := rfl
@[simp] theorem State.setWave_fresh (s : State) (w : Nat) (v : Wave) : (s.setWave w v).fresh = s.fresh := rfl
@[simp] theorem State.setWave_tick (s : State) (w : Nat) (v : Wave) : (s.setWave w v).tick = s.tick := rfl
@[simp] theorem State.setWave_mem (s : State) (w : Nat) (v : Wave) : (s.setWave w v).mem = s.mem := rfl
@[simp] theorem State.setWave_spad (s : State) (w : Nat) (v : Wave) : (s.setWave w v).spad = s.spad := rfl
@[simp] theorem State.setWave_uncorr (s : State) (w : Nat) (v : Wave) : (s.setWave w v).uncorr = s.uncorr := rfl
@[simp] theorem State.setWave_badAgents (s : State) (w : Nat) (v : Wave) : (s.setWave w v).badAgents = s.badAgents := rfl
@[simp] theorem State.setWave_spadBad (s : State) (w : Nat) (v : Wave) : (s.setWave w v).spadBad = s.spadBad := rfl
@[simp] theorem State.setWave_threads (s : State) (w : Nat) (v : Wave) : (s.setWave w v).threads = s.threads := rfl
@[simp] theorem State.setWave_dev (s : State) (w : Nat) (v : Wave) : (s.setWave w v).dev = s.dev := rfl
@[simp] theorem State.setWave_sch (s : State) (w : Nat) (v : Wave) : (s.setWave w v).sch = s.sch := rfl
@[simp] theorem State.setWave_path (s : State) (w : Nat) (v : Wave) : (s.setWave w v).path = s.path := rfl
@[simp] theorem State.setWave_dfd (s : State) (w : Nat) (v : Wave) : (s.setWave w v).dfd = s.dfd := rfl
@[simp] theorem State.setWave_mx (s : State) (w : Nat) (v : Wave) : (s.setWave w v).mx = s.mx := rfl
@[simp] theorem State.setWave_eng (s : State) (w : Nat) (v : Wave) : (s.setWave w v).eng = s.eng := rfl
@[simp] theorem State.setWave_flt (s : State) (w : Nat) (v : Wave) : (s.setWave w v).flt = s.flt := rfl
@[simp] theorem State.setWave_fab (s : State) (w : Nat) (v : Wave) : (s.setWave w v).fab = s.fab := rfl

@[simp] theorem State.setThread_agenda (s : State) (c t : Nat) (v : Thread) : (s.setThread c t v).agenda = s.agenda := rfl
@[simp] theorem State.setThread_issue (s : State) (c t : Nat) (v : Thread) : (s.setThread c t v).issue = s.issue := rfl
@[simp] theorem State.setThread_fw (s : State) (c t : Nat) (v : Thread) : (s.setThread c t v).fw = s.fw := rfl
@[simp] theorem State.setThread_free (s : State) (c t : Nat) (v : Thread) : (s.setThread c t v).free = s.free := rfl
@[simp] theorem State.setThread_fresh (s : State) (c t : Nat) (v : Thread) : (s.setThread c t v).fresh = s.fresh := rfl
@[simp] theorem State.setThread_tick (s : State) (c t : Nat) (v : Thread) : (s.setThread c t v).tick = s.tick := rfl
@[simp] theorem State.setThread_mem (s : State) (c t : Nat) (v : Thread) : (s.setThread c t v).mem = s.mem := rfl
@[simp] theorem State.setThread_spad (s : State) (c t : Nat) (v : Thread) : (s.setThread c t v).spad = s.spad := rfl
@[simp] theorem State.setThread_uncorr (s : State) (c t : Nat) (v : Thread) : (s.setThread c t v).uncorr = s.uncorr := rfl
@[simp] theorem State.setThread_badAgents (s : State) (c t : Nat) (v : Thread) : (s.setThread c t v).badAgents = s.badAgents := rfl
@[simp] theorem State.setThread_spadBad (s : State) (c t : Nat) (v : Thread) : (s.setThread c t v).spadBad = s.spadBad := rfl
@[simp] theorem State.setThread_waves (s : State) (c t : Nat) (v : Thread) : (s.setThread c t v).waves = s.waves := rfl
@[simp] theorem State.setThread_dev (s : State) (c t : Nat) (v : Thread) : (s.setThread c t v).dev = s.dev := rfl
@[simp] theorem State.setThread_sch (s : State) (c t : Nat) (v : Thread) : (s.setThread c t v).sch = s.sch := rfl
@[simp] theorem State.setThread_path (s : State) (c t : Nat) (v : Thread) : (s.setThread c t v).path = s.path := rfl
@[simp] theorem State.setThread_dfd (s : State) (c t : Nat) (v : Thread) : (s.setThread c t v).dfd = s.dfd := rfl
@[simp] theorem State.setThread_mx (s : State) (c t : Nat) (v : Thread) : (s.setThread c t v).mx = s.mx := rfl
@[simp] theorem State.setThread_eng (s : State) (c t : Nat) (v : Thread) : (s.setThread c t v).eng = s.eng := rfl
@[simp] theorem State.setThread_flt (s : State) (c t : Nat) (v : Thread) : (s.setThread c t v).flt = s.flt := rfl
@[simp] theorem State.setThread_fab (s : State) (c t : Nat) (v : Thread) : (s.setThread c t v).fab = s.fab := rfl

@[simp] theorem State.unlatch_agenda (s : State) : (s.unlatch).agenda = s.agenda := rfl
@[simp] theorem State.unlatch_fw (s : State) : (s.unlatch).fw = s.fw := rfl
@[simp] theorem State.unlatch_free (s : State) : (s.unlatch).free = s.free := rfl
@[simp] theorem State.unlatch_fresh (s : State) : (s.unlatch).fresh = s.fresh := rfl
@[simp] theorem State.unlatch_tick (s : State) : (s.unlatch).tick = s.tick := rfl
@[simp] theorem State.unlatch_mem (s : State) : (s.unlatch).mem = s.mem := rfl
@[simp] theorem State.unlatch_spad (s : State) : (s.unlatch).spad = s.spad := rfl
@[simp] theorem State.unlatch_uncorr (s : State) : (s.unlatch).uncorr = s.uncorr := rfl
@[simp] theorem State.unlatch_badAgents (s : State) : (s.unlatch).badAgents = s.badAgents := rfl
@[simp] theorem State.unlatch_spadBad (s : State) : (s.unlatch).spadBad = s.spadBad := rfl
@[simp] theorem State.unlatch_waves (s : State) : (s.unlatch).waves = s.waves := rfl
@[simp] theorem State.unlatch_threads (s : State) : (s.unlatch).threads = s.threads := rfl
@[simp] theorem State.unlatch_dev (s : State) : (s.unlatch).dev = s.dev := rfl
@[simp] theorem State.unlatch_sch (s : State) : (s.unlatch).sch = s.sch := rfl
@[simp] theorem State.unlatch_path (s : State) : (s.unlatch).path = s.path := rfl
@[simp] theorem State.unlatch_dfd (s : State) : (s.unlatch).dfd = s.dfd := rfl
@[simp] theorem State.unlatch_mx (s : State) : (s.unlatch).mx = s.mx := rfl
@[simp] theorem State.unlatch_eng (s : State) : (s.unlatch).eng = s.eng := rfl
@[simp] theorem State.unlatch_flt (s : State) : (s.unlatch).flt = s.flt := rfl
@[simp] theorem State.unlatch_fab (s : State) : (s.unlatch).fab = s.fab := rfl

@[simp] theorem State.latchTarget_agenda (s : State) (ag : Agent) : (s.latchTarget ag).agenda = s.agenda := rfl
@[simp] theorem State.latchTarget_fw (s : State) (ag : Agent) : (s.latchTarget ag).fw = s.fw := rfl
@[simp] theorem State.latchTarget_free (s : State) (ag : Agent) : (s.latchTarget ag).free = s.free := rfl
@[simp] theorem State.latchTarget_fresh (s : State) (ag : Agent) : (s.latchTarget ag).fresh = s.fresh := rfl
@[simp] theorem State.latchTarget_tick (s : State) (ag : Agent) : (s.latchTarget ag).tick = s.tick := rfl
@[simp] theorem State.latchTarget_mem (s : State) (ag : Agent) : (s.latchTarget ag).mem = s.mem := rfl
@[simp] theorem State.latchTarget_spad (s : State) (ag : Agent) : (s.latchTarget ag).spad = s.spad := rfl
@[simp] theorem State.latchTarget_uncorr (s : State) (ag : Agent) : (s.latchTarget ag).uncorr = s.uncorr := rfl
@[simp] theorem State.latchTarget_badAgents (s : State) (ag : Agent) : (s.latchTarget ag).badAgents = s.badAgents := rfl
@[simp] theorem State.latchTarget_spadBad (s : State) (ag : Agent) : (s.latchTarget ag).spadBad = s.spadBad := rfl
@[simp] theorem State.latchTarget_waves (s : State) (ag : Agent) : (s.latchTarget ag).waves = s.waves := rfl
@[simp] theorem State.latchTarget_threads (s : State) (ag : Agent) : (s.latchTarget ag).threads = s.threads := rfl
@[simp] theorem State.latchTarget_dev (s : State) (ag : Agent) : (s.latchTarget ag).dev = s.dev := rfl
@[simp] theorem State.latchTarget_sch (s : State) (ag : Agent) : (s.latchTarget ag).sch = s.sch := rfl
@[simp] theorem State.latchTarget_path (s : State) (ag : Agent) : (s.latchTarget ag).path = s.path := rfl
@[simp] theorem State.latchTarget_dfd (s : State) (ag : Agent) : (s.latchTarget ag).dfd = s.dfd := rfl
@[simp] theorem State.latchTarget_mx (s : State) (ag : Agent) : (s.latchTarget ag).mx = s.mx := rfl
@[simp] theorem State.latchTarget_eng (s : State) (ag : Agent) : (s.latchTarget ag).eng = s.eng := rfl
@[simp] theorem State.latchTarget_flt (s : State) (ag : Agent) : (s.latchTarget ag).flt = s.flt := rfl
@[simp] theorem State.latchTarget_fab (s : State) (ag : Agent) : (s.latchTarget ag).fab = s.fab := rfl

@[simp] theorem State.setCore_agenda (s : State) (n : Nat) (v : Core) : (s.setCore n v).agenda = s.agenda := rfl
@[simp] theorem State.setCore_issue (s : State) (n : Nat) (v : Core) : (s.setCore n v).issue = s.issue := rfl
@[simp] theorem State.setCore_fw (s : State) (n : Nat) (v : Core) : (s.setCore n v).fw = s.fw := rfl
@[simp] theorem State.setCore_free (s : State) (n : Nat) (v : Core) : (s.setCore n v).free = s.free := rfl
@[simp] theorem State.setCore_fresh (s : State) (n : Nat) (v : Core) : (s.setCore n v).fresh = s.fresh := rfl
@[simp] theorem State.setCore_tick (s : State) (n : Nat) (v : Core) : (s.setCore n v).tick = s.tick := rfl
@[simp] theorem State.setCore_mem (s : State) (n : Nat) (v : Core) : (s.setCore n v).mem = s.mem := rfl
@[simp] theorem State.setCore_spad (s : State) (n : Nat) (v : Core) : (s.setCore n v).spad = s.spad := rfl
@[simp] theorem State.setCore_uncorr (s : State) (n : Nat) (v : Core) : (s.setCore n v).uncorr = s.uncorr := rfl
@[simp] theorem State.setCore_badAgents (s : State) (n : Nat) (v : Core) : (s.setCore n v).badAgents = s.badAgents := rfl
@[simp] theorem State.setCore_spadBad (s : State) (n : Nat) (v : Core) : (s.setCore n v).spadBad = s.spadBad := rfl
@[simp] theorem State.setCore_waves (s : State) (n : Nat) (v : Core) : (s.setCore n v).waves = s.waves := rfl
@[simp] theorem State.setCore_threads (s : State) (n : Nat) (v : Core) : (s.setCore n v).threads = s.threads := rfl
@[simp] theorem State.setCore_dev (s : State) (n : Nat) (v : Core) : (s.setCore n v).dev = s.dev := rfl
@[simp] theorem State.setCore_path (s : State) (n : Nat) (v : Core) : (s.setCore n v).path = s.path := rfl
@[simp] theorem State.setCore_dfd (s : State) (n : Nat) (v : Core) : (s.setCore n v).dfd = s.dfd := rfl
@[simp] theorem State.setCore_mx (s : State) (n : Nat) (v : Core) : (s.setCore n v).mx = s.mx := rfl
@[simp] theorem State.setCore_eng (s : State) (n : Nat) (v : Core) : (s.setCore n v).eng = s.eng := rfl
@[simp] theorem State.setCore_flt (s : State) (n : Nat) (v : Core) : (s.setCore n v).flt = s.flt := rfl
@[simp] theorem State.setCore_fab (s : State) (n : Nat) (v : Core) : (s.setCore n v).fab = s.fab := rfl

@[simp] theorem State.setLaunch_agenda (s : State) (l : Nat) (v : Launch) : (s.setLaunch l v).agenda = s.agenda := rfl
@[simp] theorem State.setLaunch_issue (s : State) (l : Nat) (v : Launch) : (s.setLaunch l v).issue = s.issue := rfl
@[simp] theorem State.setLaunch_fw (s : State) (l : Nat) (v : Launch) : (s.setLaunch l v).fw = s.fw := rfl
@[simp] theorem State.setLaunch_free (s : State) (l : Nat) (v : Launch) : (s.setLaunch l v).free = s.free := rfl
@[simp] theorem State.setLaunch_fresh (s : State) (l : Nat) (v : Launch) : (s.setLaunch l v).fresh = s.fresh := rfl
@[simp] theorem State.setLaunch_tick (s : State) (l : Nat) (v : Launch) : (s.setLaunch l v).tick = s.tick := rfl
@[simp] theorem State.setLaunch_mem (s : State) (l : Nat) (v : Launch) : (s.setLaunch l v).mem = s.mem := rfl
@[simp] theorem State.setLaunch_spad (s : State) (l : Nat) (v : Launch) : (s.setLaunch l v).spad = s.spad := rfl
@[simp] theorem State.setLaunch_uncorr (s : State) (l : Nat) (v : Launch) : (s.setLaunch l v).uncorr = s.uncorr := rfl
@[simp] theorem State.setLaunch_badAgents (s : State) (l : Nat) (v : Launch) : (s.setLaunch l v).badAgents = s.badAgents := rfl
@[simp] theorem State.setLaunch_spadBad (s : State) (l : Nat) (v : Launch) : (s.setLaunch l v).spadBad = s.spadBad := rfl
@[simp] theorem State.setLaunch_waves (s : State) (l : Nat) (v : Launch) : (s.setLaunch l v).waves = s.waves := rfl
@[simp] theorem State.setLaunch_threads (s : State) (l : Nat) (v : Launch) : (s.setLaunch l v).threads = s.threads := rfl
@[simp] theorem State.setLaunch_dev (s : State) (l : Nat) (v : Launch) : (s.setLaunch l v).dev = s.dev := rfl
@[simp] theorem State.setLaunch_path (s : State) (l : Nat) (v : Launch) : (s.setLaunch l v).path = s.path := rfl
@[simp] theorem State.setLaunch_dfd (s : State) (l : Nat) (v : Launch) : (s.setLaunch l v).dfd = s.dfd := rfl
@[simp] theorem State.setLaunch_mx (s : State) (l : Nat) (v : Launch) : (s.setLaunch l v).mx = s.mx := rfl
@[simp] theorem State.setLaunch_eng (s : State) (l : Nat) (v : Launch) : (s.setLaunch l v).eng = s.eng := rfl
@[simp] theorem State.setLaunch_flt (s : State) (l : Nat) (v : Launch) : (s.setLaunch l v).flt = s.flt := rfl
@[simp] theorem State.setLaunch_fab (s : State) (l : Nat) (v : Launch) : (s.setLaunch l v).fab = s.fab := rfl

@[simp] theorem State.setCap_agenda (s : State) (k e : Nat) (c : Cap) : (s.setCap k e c).agenda = s.agenda := rfl
@[simp] theorem State.setCap_issue (s : State) (k e : Nat) (c : Cap) : (s.setCap k e c).issue = s.issue := rfl
@[simp] theorem State.setCap_fw (s : State) (k e : Nat) (c : Cap) : (s.setCap k e c).fw = s.fw := rfl
@[simp] theorem State.setCap_free (s : State) (k e : Nat) (c : Cap) : (s.setCap k e c).free = s.free := rfl
@[simp] theorem State.setCap_fresh (s : State) (k e : Nat) (c : Cap) : (s.setCap k e c).fresh = s.fresh := rfl
@[simp] theorem State.setCap_tick (s : State) (k e : Nat) (c : Cap) : (s.setCap k e c).tick = s.tick := rfl
@[simp] theorem State.setCap_mem (s : State) (k e : Nat) (c : Cap) : (s.setCap k e c).mem = s.mem := rfl
@[simp] theorem State.setCap_spad (s : State) (k e : Nat) (c : Cap) : (s.setCap k e c).spad = s.spad := rfl
@[simp] theorem State.setCap_uncorr (s : State) (k e : Nat) (c : Cap) : (s.setCap k e c).uncorr = s.uncorr := rfl
@[simp] theorem State.setCap_badAgents (s : State) (k e : Nat) (c : Cap) : (s.setCap k e c).badAgents = s.badAgents := rfl
@[simp] theorem State.setCap_spadBad (s : State) (k e : Nat) (c : Cap) : (s.setCap k e c).spadBad = s.spadBad := rfl
@[simp] theorem State.setCap_waves (s : State) (k e : Nat) (c : Cap) : (s.setCap k e c).waves = s.waves := rfl
@[simp] theorem State.setCap_threads (s : State) (k e : Nat) (c : Cap) : (s.setCap k e c).threads = s.threads := rfl
@[simp] theorem State.setCap_dev (s : State) (k e : Nat) (c : Cap) : (s.setCap k e c).dev = s.dev := rfl
@[simp] theorem State.setCap_sch (s : State) (k e : Nat) (c : Cap) : (s.setCap k e c).sch = s.sch := rfl
@[simp] theorem State.setCap_path (s : State) (k e : Nat) (c : Cap) : (s.setCap k e c).path = s.path := rfl
@[simp] theorem State.setCap_mx (s : State) (k e : Nat) (c : Cap) : (s.setCap k e c).mx = s.mx := rfl
@[simp] theorem State.setCap_eng (s : State) (k e : Nat) (c : Cap) : (s.setCap k e c).eng = s.eng := rfl
@[simp] theorem State.setCap_flt (s : State) (k e : Nat) (c : Cap) : (s.setCap k e c).flt = s.flt := rfl
@[simp] theorem State.setCap_fab (s : State) (k e : Nat) (c : Cap) : (s.setCap k e c).fab = s.fab := rfl

@[simp] theorem State.unlatch_issue (s : State) : s.unlatch.issue = none := rfl
@[simp] theorem State.latchTarget_issue (s : State) (ag : Agent) : (s.latchTarget ag).issue = some ⟨ag, true⟩ := rfl

@[simp] theorem State.unlatch_wave (s : State) (w : Nat) : s.unlatch.wave w = s.wave w := rfl
@[simp] theorem State.unlatch_thread (s : State) (c t : Nat) : s.unlatch.thread c t = s.thread c t := rfl
@[simp] theorem State.setThread_wave (s : State) (c t w : Nat) (h : Thread) : (s.setThread c t h).wave w = s.wave w := rfl
@[simp] theorem State.setWave_thread (s : State) (c t w : Nat) (v : Wave) : (s.setWave w v).thread c t = s.thread c t := rfl
@[simp] theorem State.setWave_wave_same (s : State) (w : Nat) (v : Wave) : (s.setWave w v).wave w = some v := by
  simp [State.wave, State.setWave]
theorem State.setWave_wave_other (s : State) (w i : Nat) (v : Wave) (h : w ≠ i) : (s.setWave w v).wave i = s.wave i := by
  simp [State.wave, State.setWave, Map.find_put_other, h]
@[simp] theorem State.setThread_thread_same (s : State) (c t : Nat) (h : Thread) : (s.setThread c t h).thread c t = h := by
  simp [State.thread, State.setThread]
theorem State.setThread_find_other (s : State) (c t k : Nat) (h : Thread) (hk : 4 * c + t ≠ k) :
    Map.find (s.setThread c t h).threads k = Map.find s.threads k := by
  simp [State.setThread, Map.find_put_other, hk]
theorem State.setThread_thread_other (s : State) (c t d u : Nat) (h : Thread) (hk : 4 * c + t ≠ 4 * d + u) :
    (s.setThread c t h).thread d u = s.thread d u := by
  simp [State.thread, Map.at, State.setThread_find_other, hk]

@[simp] theorem State.setCore_core_same (s : State) (n : Nat) (c : Core) : (s.setCore n c).core n = c := by
  simp [State.core, State.setCore]
theorem State.setCore_core_other (s : State) (n k : Nat) (c : Core) (h : n ≠ k) : (s.setCore n c).core k = s.core k := by
  simp [State.core, State.setCore, Map.at_put_other, h]
@[simp] theorem State.setWave_core (s : State) (w n : Nat) (v : Wave) : (s.setWave w v).core n = s.core n := rfl
@[simp] theorem State.setCore_wave (s : State) (w n : Nat) (c : Core) : (s.setCore n c).wave w = s.wave w := rfl
@[simp] theorem State.setLaunch_launch_same (s : State) (l : Nat) (v : Launch) : (s.setLaunch l v).launch l = some v := by
  simp [State.launch, State.setLaunch]

/-! ### PC slots -/

@[simp] theorem Wave.setPath_path (v : Wave) (p : Path) : (v.setPath p).path = p := by
  unfold Wave.setPath Wave.path; split <;> simp_all
@[simp] theorem Wave.setPath_other (v : Wave) (p : Path) : (v.setPath p).other = v.other := by
  unfold Wave.setPath Wave.other; split <;> simp_all
@[simp] theorem Wave.setPath_alt (v : Wave) (p : Path) : (v.setPath p).alt = v.alt := by unfold Wave.setPath; split <;> rfl
@[simp] theorem Wave.setPath_wg (v : Wave) (p : Path) : (v.setPath p).wg = v.wg := by unfold Wave.setPath; split <;> rfl
@[simp] theorem Wave.setPath_launch (v : Wave) (p : Path) : (v.setPath p).launch = v.launch := by unfold Wave.setPath; split <;> rfl
@[simp] theorem Wave.setPath_ctx (v : Wave) (p : Path) : (v.setPath p).ctx = v.ctx := by unfold Wave.setPath; split <;> rfl
@[simp] theorem Wave.setPath_ix (v : Wave) (p : Path) : (v.setPath p).ix = v.ix := by unfold Wave.setPath; split <;> rfl
@[simp] theorem Wave.setPath_part (v : Wave) (p : Path) : (v.setPath p).part = v.part := by unfold Wave.setPath; split <;> rfl
@[simp] theorem Wave.setPath_rslot (v : Wave) (p : Path) : (v.setPath p).rslot = v.rslot := by unfold Wave.setPath; split <;> rfl
@[simp] theorem Wave.setPath_allot (v : Wave) (p : Path) : (v.setPath p).allot = v.allot := by unfold Wave.setPath; split <;> rfl
@[simp] theorem Wave.setPath_sreg (v : Wave) (p : Path) : (v.setPath p).sreg = v.sreg := by unfold Wave.setPath; split <;> rfl
@[simp] theorem Wave.setPath_vreg (v : Wave) (p : Path) : (v.setPath p).vreg = v.vreg := by unfold Wave.setPath; split <;> rfl
@[simp] theorem Wave.setPath_fcnt (v : Wave) (p : Path) : (v.setPath p).fcnt = v.fcnt := by unfold Wave.setPath; split <;> rfl
@[simp] theorem Wave.setPath_ldcnt (v : Wave) (p : Path) : (v.setPath p).ldcnt = v.ldcnt := by unfold Wave.setPath; split <;> rfl
@[simp] theorem Wave.setPath_stcnt (v : Wave) (p : Path) : (v.setPath p).stcnt = v.stcnt := by unfold Wave.setPath; split <;> rfl
@[simp] theorem Wave.setPath_fpstat (v : Wave) (p : Path) : (v.setPath p).fpstat = v.fpstat := by unfold Wave.setPath; split <;> rfl
@[simp] theorem Wave.setPath_repctl (v : Wave) (p : Path) : (v.setPath p).repctl = v.repctl := by unfold Wave.setPath; split <;> rfl
@[simp] theorem Wave.setPath_dstkbase (v : Wave) (p : Path) : (v.setPath p).dstkbase = v.dstkbase := by unfold Wave.setPath; split <;> rfl
@[simp] theorem Wave.setPath_dstklen (v : Wave) (p : Path) : (v.setPath p).dstklen = v.dstklen := by unfold Wave.setPath; split <;> rfl
@[simp] theorem Wave.setPath_dstkdepth (v : Wave) (p : Path) : (v.setPath p).dstkdepth = v.dstkdepth := by unfold Wave.setPath; split <;> rfl
@[simp] theorem Wave.setPath_stop (v : Wave) (p : Path) : (v.setPath p).stop = v.stop := by unfold Wave.setPath; split <;> rfl
@[simp] theorem Wave.setPath_inh (v : Wave) (p : Path) : (v.setPath p).inh = v.inh := by unfold Wave.setPath; split <;> rfl
@[simp] theorem Wave.setPath_hreg (v : Wave) (p : Path) : (v.setPath p).hreg = v.hreg := by unfold Wave.setPath; split <;> rfl
@[simp] theorem Wave.setPath_trec (v : Wave) (p : Path) : (v.setPath p).trec = v.trec := by unfold Wave.setPath; split <;> rfl
@[simp] theorem Wave.setPath_dlv (v : Wave) (p : Path) : (v.setPath p).dlv = v.dlv := by unfold Wave.setPath; split <;> rfl
@[simp] theorem Wave.setPath_step (v : Wave) (p : Path) : (v.setPath p).step = v.step := by unfold Wave.setPath; split <;> rfl
@[simp] theorem Wave.setPath_age (v : Wave) (p : Path) : (v.setPath p).age = v.age := by unfold Wave.setPath; split <;> rfl
@[simp] theorem Wave.setPath_bank (v : Wave) (p : Path) : (v.setPath p).bank = v.bank := by unfold Wave.setPath; split <;> rfl

end Sys2Proof.Machine
end

