-- ==== Sys2Proof/Safety.lean ====
section
/-! DEFINITION. What counts as a safe run, and what a step leaves alone, in the terms the statements use. -/

namespace Sys2Proof

open Sys2Proof.Machine

/-- The memories of a state are in canonical form. -/
def MemoryInv (s : Machine.State) : Prop :=
  Memory.wf s.mem = true ∧ Memory.wf s.spad = true

/-- Every byte of memory and of the scratchpads reads as before. -/
def SameBytes (s t : Machine.State) : Prop :=
  ∀ a, Memory.get t.mem a = Memory.get s.mem a ∧ Memory.get t.spad a = Memory.get s.spad a

/-- A state without its waves, threads and latch: what is left is the rest of the machine. -/
def Machine.State.rest (s : Machine.State) : Machine.State := { s with waves := [], threads := [], issue := none }

/-- The key of a thread in `State.threads`. -/
def Agent.threadKey : Agent → Option Nat
  | .wave _ => none
  | .thread c t => some (4 * c + t)

/-- A clause of kind k can be that of agent ag: a wave runs wave and handler clauses, a thread sequencer clauses (R89). -/
def Agent.fits (ag : Agent) (k : ClauseKind) : Prop :=
  match ag with
  | .wave _ => k ≠ .seq
  | .thread _ _ => k = .seq

/-- The agent exists: a wave is one of the state's; every thread is. -/
def Agent.present (ag : Agent) (s : Machine.State) : Prop :=
  match ag with
  | .wave w => (s.wave w).isSome = true
  | .thread _ _ => True

/-- Agent ag is about to issue instruction i outside a sweep: it is latched, exists, and its clause may hold i. -/
def Ready (s : Machine.State) (ag : Agent) (i : Instr) : Prop :=
  s.issue = some ⟨ag, false⟩ ∧ ag.present s ∧ ∃ k, ag.fits k ∧ legal k i = true

/-- The same with r set where i is an iteration of a REP target. -/
def ReadyIn (s : Machine.State) (ag : Agent) (r : Bool) (i : Instr) : Prop :=
  s.issue = some ⟨ag, r⟩ ∧ ag.present s ∧ ∃ k, ag.fits k ∧ legal k i = true

/-- A wave without the parts that instructions on registers may change: registers, PC slots, stop, `fpstat`, `repctl`. -/
def Machine.Wave.bare (v : Wave) : Wave :=
  { v with sreg := Vector.replicate 61 0, vreg := Vector.replicate 128 (Vector.replicate 96 0), p0 := Path.none,
           p1 := Path.none, stop := .run, dlv := false, fpstat := 0, repctl := 0 }

/-- A thread without the parts that instructions on registers may change. -/
def Machine.Thread.bare (h : Thread) : Thread :=
  { h with q := Vector.replicate 32 0, pc := 0, slot := 1, code := none, wait := .none, named := false, waits := false,
           fpstat := 0, repctl := 0 }

/-- What becomes of a wave when one of its instructions ends in its clause: its scalar registers (the masks of the issuing
slot among them, R41) but `sregs`, its vector registers but `vregs`, its special registers, its other PC slot, and the state
and depth of the issuing one stay; `fpstat` stays unless `flags`, and `repctl` unless `swept`. A wave not released for one
instruction (R221) goes on. -/
structure WaveKept (v u : Wave) (sregs vregs : List Nat) (flags swept : Bool) : Prop where
  bare : u.bare = v.bare
  sreg : ∀ n, n < 64 → n ∉ sregs → u.getS n = v.getS n
  vreg : ∀ r, r ∉ vregs → u.vec r = v.vec r
  other : u.other = v.other
  st : u.path.st = v.path.st
  depth : u.path.depth = v.path.depth
  fpstat : flags = false → u.fpstat = v.fpstat
  repctl : swept = false → u.repctl = v.repctl
  stop : v.step = false → u.stop = v.stop ∧ u.dlv = v.dlv

/-- The same for a thread. -/
structure ThreadKept (h g : Thread) (qregs : List Nat) (flags swept : Bool) : Prop where
  bare : g.bare = h.bare
  q : ∀ n, n ∉ qregs → g.getQ n = h.getQ n
  fpstat : flags = false → g.fpstat = h.fpstat
  repctl : swept = false → g.repctl = h.repctl

/-- The frame of an instruction that works on registers of its agent only: every byte of memory, the rest of the machine and
the other agents stay, and of the agent only registers of the lists change, with its place. -/
structure Kept (ag : Agent) (s t : Machine.State) (regs vregs : List Nat) (flags swept : Bool) : Prop where
  bytes : SameBytes s t
  rest : t.rest = s.rest
  waves : ∀ w, ag ≠ .wave w → t.wave w = s.wave w
  threads : ∀ k, ag.threadKey ≠ some k → Map.find t.threads k = Map.find s.threads k
  wave : ∀ w v, ag = .wave w → s.wave w = some v → ∃ u, t.wave w = some u ∧ WaveKept v u regs vregs flags swept
  thread : ∀ c k, ag = .thread c k → ThreadKept (s.thread c k) (t.thread c k) regs flags swept

/-- Memory, the rest of the machine and the other agents stay: what changes is agent ag and the latch. -/
structure Apart (ag : Agent) (s t : Machine.State) : Prop where
  bytes : SameBytes s t
  rest : t.rest = s.rest
  waves : ∀ w, ag ≠ .wave w → t.wave w = s.wave w
  threads : ∀ k, ag.threadKey ≠ some k → Map.find t.threads k = Map.find s.threads k

/-- The same, but that a pool may have lost its reserve's holder or a waiter (R316). -/
structure Passing (ag : Agent) (s t : Machine.State) : Prop where
  bytes : SameBytes s t
  rest : { t.rest with flt := s.flt } = s.rest
  waves : ∀ w, ag ≠ .wave w → t.wave w = s.wave w
  threads : ∀ k, ag.threadKey ≠ some k → Map.find t.threads k = Map.find s.threads k

/-- A push of wave w finds room, a page that takes stores and is not deferred, no access of the wave to wait for, and room in the
budgets (R33, R44, R45, R339); pa and leaf are its translation. -/
structure Pushes (s : Machine.State) (w : Nat) (v : Wave) (pa : Nat) (leaf : W64) : Prop where
  room : v.dstkdepth ≠ v.dstklen
  page : s.xlate (s.tlbOf (.wave w)) v.ctx (v.entryVa v.dstkdepth.toNat) false true = .ok (pa, leaf)
  plain : bitAt leaf 53 = false
  alone : s.held (.wave w) (s.home pa) 32 = false
  walks : s.walkHeld (s.tlbOf (.wave w)) v.ctx (v.entryVa v.dstkdepth.toNat) = false

/-- A pop of wave w finds an entry on a page that it may load, no access of the wave to wait for, and room in the budgets (R33, R44,
R45, R339). -/
structure Pops (s : Machine.State) (w : Nat) (v : Wave) (pa : Nat) : Prop where
  some : v.dstkdepth ≠ 0
  page : ∃ leaf, s.xlate (s.tlbOf (.wave w)) v.ctx (v.entryVa (v.dstkdepth.toNat - 1)) true false = .ok (pa, leaf)
  alone : s.held (.wave w) (s.home pa) 32 = false
  walks : s.walkHeld (s.tlbOf (.wave w)) v.ctx (v.entryVa (v.dstkdepth.toNat - 1)) = false

/-- The 32 bytes of a pushed entry stand where its translation leads, in this device's memory where no L1 holds a line and
no rule bars software from writing (R9; log entry 43), and every other byte is as it was (R44). -/
def EntryStored (s t : Machine.State) (v : Wave) (pa : Nat) (e : List W64) : Prop :=
  ∀ a, s.home pa = .mem a → s.severed v.cluster (.mem a) = false → s.path.l1 = [] →
    ((∀ i, i < 32 → s.barred false (a + i) = false) → Memory.words t.mem a 4 = e) ∧ (∀ x, (x < a ∨ a + 32 ≤ x) → Memory.get t.mem x = Memory.get s.mem x) ∧
    ∀ x, Memory.get t.spad x = Memory.get s.spad x

/-- An entry of the stack is read from this device's memory as it stands there: no L1 holds a line, no word has an
uncorrectable error and the way is open. -/
structure EntryAt (s : Machine.State) (v : Wave) (pa : Nat) (e : List W64) : Prop where
  home : ∃ a, s.home pa = .mem a ∧ s.severed v.cluster (.mem a) = false ∧ s.badBytes (.mem a) 32 = false ∧
    e = Memory.words s.mem a 4
  noLines : s.path.l1 = []

/-- The agent stands after n slots: at the next slot of its clause, or in slot 1 of the clause that follows (R90). -/
def After (s t : Machine.State) (ag : Agent) (n : Nat) : Prop :=
  (t.pcOf ag).1 = (if (s.pcOf ag).2.1 + n ≤ s.nslot ag then (s.pcOf ag).1 else (s.pcOf ag).1 + 64) ∧
    (t.pcOf ag).2.1 = (if (s.pcOf ag).2.1 + n ≤ s.nslot ag then (s.pcOf ag).2.1 + n else 1)

/-- The numbers of the scalar or q registers that a result of 64 bits (`wide`) or 32 bits occupies (R97, R110). -/
def dstRegs (ag : Agent) (o : Opnd) (wide : Bool) : List Nat :=
  match ag, o with
  | .wave _, .s n => if wide then [n.val, n.val + 1] else [n.val]
  | .thread _ _, .q n => [n.val]
  | _, _ => []

/-- A value of W bits as its type reads it (R112). -/
def Ty.int (t : Ty) (a : Nat) : Int := if t.signed then (BitVec.ofNat t.bits a).toInt else (a % 2 ^ t.bits : Nat)

/-- Bits pos to pos + len - 1 of a value (R113). -/
def bitsOf (a pos len : Nat) : Nat := a / 2 ^ pos % 2 ^ len

/-- The fields of an integer or compare instruction and its result before it is taken modulo 2^W: Table 11-1, R113 and the
rows ICMP and MOV of Table 11-2, for the values a, b and c that its sources read. -/
def Instr.intResult (i : Instr) (a b c : Nat) : Option (SF × Int) :=
  match i with
  | .iadd f => some (f, a + b)
  | .isub f => some (f, (a : Int) - b)
  | .imul f => some (f, a * b)
  | .imulh f => some (f, f.ty.int a * f.ty.int b / (2 ^ f.ty.bits : Nat))
  | .imad f => some (f, a * b + c)
  | .idiv f => some (f, if b = 0 then -1 else (f.ty.int a).tdiv (f.ty.int b))
  | .irem f => some (f, if b = 0 then a else (f.ty.int a).tmod (f.ty.int b))
  | .imin f => some (f, min (f.ty.int a) (f.ty.int b))
  | .imax f => some (f, max (f.ty.int a) (f.ty.int b))
  | .andS f => some (f, (a &&& b : Nat))
  | .orS f => some (f, (a ||| b : Nat))
  | .xorS f => some (f, (a ^^^ b : Nat))
  | .notS f => some (f, -1 - (a : Int))
  | .shl f => some (f, (a <<< (b % f.ty.bits) : Nat))
  | .shr f => some (f, (a >>> (b % f.ty.bits) : Nat))
  | .sar f => some (f, (BitVec.ofNat f.ty.bits a).toInt >>> (b % f.ty.bits))
  | .rot f => some (f, (((BitVec.ofNat f.ty.bits a).rotateLeft (b % f.ty.bits)).toNat : Int))
  | .clz f => some (f, ((f.ty.bits - a.size : Nat) : Int))
  | .popc f => some (f, (((List.range f.ty.bits).countP (fun k => a.testBit k) : Nat) : Int))
  | .bfx f =>
    let pos := b % 64 % f.ty.bits
    let len := min (bitsOf b 8 7) (f.ty.bits - pos)
    some (f, if len = 0 then 0 else if f.ty.signed then (BitVec.ofNat len (bitsOf a pos len)).toInt else bitsOf a pos len)
  | .bfi f =>
    let pos := b % 64 % f.ty.bits
    let len := min (bitsOf b 8 7) (f.ty.bits - pos)
    let m : BitVec 64 := BitVec.ofNat 64 ((2 ^ len - 1) * 2 ^ pos)
    some (f, (((BitVec.ofNat 64 c &&& ~~~m) ||| (BitVec.ofNat 64 (a * 2 ^ pos) &&& m)).toNat : Int))
  | .icmp f =>
    let x := f.ty.int a
    let y := f.ty.int b
    let holds : Bool := match f.fn.toNat with
      | 0 => decide (x = y) | 1 => decide (x ≠ y) | 2 => decide (x < y) | 3 => decide (x ≤ y) | 4 => decide (y < x)
      | _ => decide (y ≤ x)
    some (f, if holds then 1 else 0)
  | .mov f => some (f, a)
  | _ => none

/-- What a q register holds after a result of a type: all 64 bits of a wide one, else sign- or zero-extended (R110). -/
def qValue (t : Ty) (x : W64) : W64 :=
  if t.bits = 64 then x else if t.signed then (x.truncate 32).signExtend 64 else (x.truncate 32).zeroExtend 64

/-- A scalar result stands where the instruction names it: in an s register or an even pair of the wave, or in a q register
extended as its type says (R97, R110). -/
def Holds (t : Machine.State) (ag : Agent) (o : Opnd) (ty : Ty) (x : W64) : Prop :=
  t.reg ag o (ty.bits == 64) = (if ty.bits = 64 then x else (x.truncate 32).zeroExtend 64) ∧
    ∀ c k n, ag = .thread c k → o = .q n → (t.thread c k).getQ n.val = qValue ty x

/-- A value at the nearest end of a type's range (R75). -/
def Ty.clamp (t : Ty) (x : Int) : Int :=
  if t.signed then max (-(2 ^ (t.bits - 1) : Nat)) (min x ((2 ^ (t.bits - 1) : Nat) - 1)) else max 0 (min x ((2 ^ t.bits : Nat) - 1))

/-- An exact value and its flags, rounded to FP32 (R84). -/
def roundedF32 (y : FV × FFlags) : Nat × FFlags :=
  let r := (ffmt .f32).round .even false y.1
  (r.1, y.2 ||| r.2)

/-- The lowest set lane of a mask, or 96. -/
def lowLane (m : Mask) : Nat := ((List.range 96).find? (fun i => m.getLsbD i)).getD 96

/-- The highest set lane of a mask, or 96. -/
def highLane (m : Mask) : Nat := ((List.range 96).reverse.find? (fun i => m.getLsbD i)).getD 96

/-- A scalar floating instruction: its fields, its result type and, for the values of its sources, the result's code and the
flags it raises (R115, Table 07-3). -/
def Instr.floatResult (i : Instr) (x y z : FV) : Option (SF × Nat × FFlags) :=
  match i with
  | .sfadd f => some (f, (ffmt .f32).addOp false x y)
  | .sfmul f => some (f, (ffmt .f32).mulOp false x y)
  | .sfma f => some (f, (ffmt .f32).fmaOp false x y z)
  | .sfcmp f => some (f, (floatCond f.fn.toNat x y).toNat, 0)
  | _ => none

/-- The FP32 value that a source of a scalar floating instruction reads (R115). -/
def Machine.State.f32 (s : Machine.State) (ag : Agent) (o : Opnd) : FV :=
  (ffmt .f32).value (s.src ag (.fl (ffmt .f32)) 0 o)

/-- The word at the slot where an agent stands. -/
def Machine.State.word (s : Machine.State) (ag : Agent) : W64 := wordAt (s.codeOf ag) (s.pcOf ag).2.1

/-- The integer that a code of an integer format stands for. -/
def Machine.NumFmt.intOf : NumFmt → Nat → Int
  | .int w true, b => (BitVec.ofNat w b).toInt
  | .int w false, b => (b % 2 ^ w : Nat)
  | .fl _, _ => 0

/-! ### Vector instructions -/

/-- The number of a vector register operand, in a list. -/
def vecRegs : Opnd → List Nat
  | .v r => [r.val]
  | _ => []

/-- A vector result (R39, R41, R101): each active lane of the destination holds the result of that lane and each other lane
what it held; nothing else changes but the place of the wave, which outside a sweep is n slots further. -/
structure LanesWritten (s t : Machine.State) (w : Nat) (v : Wave) (d : Opnd) (r flags : Bool) (n : Nat) (x : Nat → W32) :
    Prop where
  lanes : ∀ k u, d = .v k → t.wave w = some u →
    ∀ l, l < 96 → u.lane k.val l = if v.path.mask.getLsbD l then x l else v.lane k.val l
  kept : Kept (.wave w) s t [] (vecRegs d) flags r
  place : r = false → After s t (.wave w) n

/-- A vector integer or move instruction: its fields and, for elements a, b and c of its sources, the result before it is
taken modulo 2^W (Table 12-2). -/
def Instr.laneInt (i : Instr) (a b c : Nat) : Option (VF × Int) :=
  match i with
  | .viadd f => some (f, a + b)
  | .visub f => some (f, (a : Int) - b)
  | .vimul f => some (f, if f.fn = 0 then (a : Int) * b else f.ty.int a * f.ty.int b / (2 ^ f.ty.bits : Nat))
  | .vimad f => some (f, a * b + c)
  | .vimin f => some (f, min (f.ty.int a) (f.ty.int b))
  | .vimax f => some (f, max (f.ty.int a) (f.ty.int b))
  | .viabs f => some (f, |f.ty.int a|)
  | .viadds f => some (f, f.ty.clamp (f.ty.int a + f.ty.int b))
  | .visubs f => some (f, f.ty.clamp (f.ty.int a - f.ty.int b))
  | .vand f => some (f, (a &&& b : Nat))
  | .vor f => some (f, (a ||| b : Nat))
  | .vxor f => some (f, (a ^^^ b : Nat))
  | .vnot f => some (f, -1 - (a : Int))
  | .vshl f => some (f, (a <<< (b % f.ty.bits) : Nat))
  | .vshr f => some (f, (a >>> (b % f.ty.bits) : Nat))
  | .vsar f => some (f, (BitVec.ofNat f.ty.bits a).toInt >>> (b % f.ty.bits))
  | .vbfx f =>
    let pos := b % 64 % f.ty.bits
    let len := min (bitsOf b 8 7) (f.ty.bits - pos)
    some (f, if len = 0 then 0 else if f.ty.signed then (BitVec.ofNat len (bitsOf a pos len)).toInt else bitsOf a pos len)
  | .vpopc f => some (f, (((List.range f.ty.bits).countP (fun k => a.testBit k) : Nat) : Int))
  | .vicmp f =>
    let x := f.ty.int a
    let y := f.ty.int b
    let holds : Bool := match f.fn.toNat with
      | 0 => decide (x = y) | 1 => decide (x ≠ y) | 2 => decide (x < y) | 3 => decide (x ≤ y) | 4 => decide (y < x)
      | _ => decide (y ≤ x)
    some (f, if holds then 1 else 0)
  | .vsel f => some (f, if c ≠ 0 then a else b)
  | .vmov f => some (f, a)
  | _ => none

/-- A vector floating instruction: its fields and, for the modified codes a, b and c of an element, the result's code and the
flags it raises (R131 to R133, R139). -/
def Instr.laneFloat (i : Instr) (a b c : Nat) : Option (VF × Nat × FFlags) :=
  match i with
  | .vfadd f => let g := ffmt f.ty; some (f, g.addOp f.sat (g.value a) (g.value b))
  | .vfsub f => let g := ffmt f.ty; some (f, g.addOp f.sat (g.value a) (g.value b).negate)
  | .vfmul f => let g := ffmt f.ty; some (f, g.mulOp f.sat (g.value a) (g.value b))
  | .vfma f => let g := ffmt f.ty; some (f, g.fmaOp f.sat (g.value a) (g.value b) (g.value c))
  | .vfmin f => some (f, (ffmt f.ty).minMax false a b, 0)
  | .vfmax f => some (f, (ffmt f.ty).minMax true a b, 0)
  | .vfcmp f => let g := ffmt f.ty; some (f, (floatCond f.fn.toNat (g.value a) (g.value b)).toNat, 0)
  | .rcpF32 f => some (f, roundedF32 (fRcp ((ffmt .f32).value a)))
  | .rsqF32 f => some (f, roundedF32 (fRsq ((ffmt .f32).value a)))
  | .exp2 f => some (f, roundedF32 (fExp2 ((ffmt .f32).value a)))
  | .log2 f => some (f, roundedF32 (fLog2 ((ffmt .f32).value a)))
  | .sinPi f => some (f, roundedF32 (fSinPi ((ffmt .f32).value a)))
  | .cosPi f => some (f, roundedF32 (fCosPi ((ffmt .f32).value a)))
  | .tanh f => some (f, roundedF32 (fTanh ((ffmt .f32).value a)))
  | .rcpa f => some (f, rcpaSeed a, 0)
  | _ => none

/-- A vector instruction that forms one word per lane from its sources before it: its fields, the word of lane l of wave v
and the flags that the lane raises (R133 to R138, R140, R141). -/
def Instr.laneWord (i : Instr) (v : Wave) (l : Nat) : Option (VF × W32 × FFlags) :=
  match i with
  | .vfclass f => let g := ffmt f.ty; some (f, BitVec.ofNat 32 (g.classOf (elemOf (v.src (.fl g) f.sa l) g.width 0)), 0)
  | .vcvt f =>
    let x := laneConvert v (numFmt f.ty (f.aux.getLsbD 0)) (VF.st f (f.aux.getLsbD 1)) f.rm.toNat f.sat f.sa l
    some (f, BitVec.ofNat 32 x.1, x.2)
  | .vunpk f =>
    let st := VF.st f (f.aux.getLsbD 3)
    some (f, BitVec.ofNat 32 (convert (numFmt f.ty false) st 0 0 false (elemOf (v.src st f.sa l) st.width (f.aux.toNat % 8))).1, 0)
  | .shfl f =>
    let n := shflWidth (f.aux.toNat % 8)
    let g := l - l % n
    let p : Int := (l % n : Nat)
    let b : Int := ((v.src (.int 32 false) f.sb l).toNat : Nat)
    let q : Int := match f.fn.toNat with
      | 0 => b | 1 => p - b | 2 => p + b | _ => ((l % n ^^^ (v.src (.int 32 false) f.sb l).toNat : Nat) : Int)
    some (f, v.src (.int 32 false) f.sa (if 0 ≤ q ∧ q < n then g + q.toNat else l), 0)
  | .bcast f =>
    let b := (v.src (.int 32 false) f.sb l).toNat
    some (f, v.src (.int 32 false) f.sa (if b < 96 then b else l), 0)
  | _ => none

/-! ### Memory instructions -/

/-- The registers of an agent stand in the machine, not in a save area. -/
def Machine.State.banked (s : Machine.State) (ag : Agent) : Prop :=
  match ag with
  | .wave w => ∃ v, s.wave w = some v ∧ v.bank ≠ .saved
  | .thread c t => (s.thread c t).bank ≠ .saved

/-- A wave with the counts of another, and the place at which it last met first-touch. -/
def Machine.Wave.counts (v u : Wave) : Wave := { u with fcnt := v.fcnt, ldcnt := v.ldcnt, stcnt := v.stcnt, touched := v.touched }

/-- A thread with the counts of another. -/
def Machine.Thread.counts (h g : Thread) : Thread := { g with fcnt := h.fcnt, ldcnt := h.ldcnt, stcnt := h.stcnt }

/-- The frame of an instruction that puts an operation under way (R148): every byte of memory, the registers and the other
agents stay; besides what the instruction itself adds, only its agent's counts and place, the TLBs, the pools' waiters
(R316), what its walks count against the budgets (R33, R339) and the model's counters change, and of the registers those listed. -/
structure Underway (ag : Agent) (s t : Machine.State) (regs : List Nat) : Prop where
  bytes : SameBytes s t
  rest : { t.rest with path := s.path, fresh := s.fresh, free := s.free, flt := s.flt,
                       sch := { t.sch with nodes := s.sch.nodes }, dev := { t.dev with hbmUsed := s.dev.hbmUsed } } = s.rest
  nodes : (t.sch.nodes.map (fun e => (e.1, { e.2 with sent := 0 }))) = s.sch.nodes.map (fun e => (e.1, { e.2 with sent := 0 }))
  path : { t.path with acc := s.path.acc, tlb := s.path.tlb } = s.path
  waves : ∀ w, ag ≠ .wave w → t.wave w = s.wave w
  threads : ∀ k, ag.threadKey ≠ some k → Map.find t.threads k = Map.find s.threads k
  wave : ∀ w v, ag = .wave w → s.wave w = some v → ∃ u, t.wave w = some u ∧ WaveKept v (v.counts u) regs [] false false
  thread : ∀ c k, ag = .thread c k → ThreadKept (s.thread c k) ((s.thread c k).counts (t.thread c k)) regs false false

/-- A memory instruction as it issues: fields, what is asked of each lane, the vector registers that must lie below the
allotment, and for each lane its address, value and compare value (R146, R150, R155 to R158). -/
def Instr.accessOf (i : Instr) (s : Machine.State) (ag : Agent) :
    Option (MF × AccReq × List (Opnd × Nat) × (Nat → Nat) × (Nat → W64) × (Nat → W64)) :=
  match i with
  | .ld f => some (f, ⟨.load, true, true, false, none, none, true, false⟩, [(f.dst, more64 f.ty), (f.sb, 0)],
      fun l => s.ea ag f false l, fun _ => 0, fun _ => 0)
  | .ldx f => some (f, ⟨.load, true, true, false, none, none, true, false⟩, [(f.dst, 0), (f.sb, 0)],
      fun l => s.eaX ag f l, fun _ => 0, fun _ => 0)
  | .sld f => some (f, ⟨.load, false, true, false, none, none, true, false⟩, [], fun l => s.ea ag f false l, fun _ => 0, fun _ => 0)
  | .st f => some (f, ⟨.store, true, false, true, some 0x01, if f.ty.bits < 32 then some 0x05 else none, false, true⟩,
      [(f.dst, more64 f.ty), (f.sb, 0)], fun l => s.ea ag f false l, fun l => s.data ag true f.ty f.dst l, fun _ => 0)
  | .sst f => some (f, ⟨.store, false, false, true, some 0x01, if f.ty.bits < 32 then some 0x05 else none, false, true⟩, [],
      fun l => s.ea ag f false l, fun l => s.data ag false f.ty f.dst l, fun _ => 0)
  | .atom f => some (f, ⟨.rmw f.mop true, true, true, true, none, some 0x06, true, true⟩, [(f.dst, more64 f.ty), (f.sb, 0)],
      fun l => s.ea ag f true l, fun l => s.data ag true f.ty f.dst l, fun _ => 0)
  | .red f => some (f, ⟨.rmw f.mop false, true, false, true, some (recOpr f.mop f.ty.signed), none, false, true⟩,
      [(f.dst, more64 f.ty), (f.sb, 0)], fun l => s.ea ag f true l, fun l => s.data ag true f.ty f.dst l, fun _ => 0)
  | .cas f => some (f, ⟨.rmw 10 true, true, true, true, none, some 0x06, true, true⟩,
      [(f.dst, if f.ty.bits = 64 then 3 else 1), (f.sb, 0)], fun l => s.ea ag f false l,
      fun l => s.data ag true f.ty (Opnd.plus f.dst (if f.ty.bits = 64 then 2 else 1)) l, fun l => s.data ag true f.ty f.dst l)
  | .satom f => some (f, ⟨.rmw f.mop true, false, true, true, none, some 0x06, true, true⟩, [], fun l => s.ea ag f true l,
      fun l => s.data ag false f.ty (if f.mop = 10 then Opnd.plus f.dst (if f.ty.bits = 64 ∧ Agent.isThread ag = false then 2 else 1)
        else f.dst) l,
      fun l => if f.mop = 10 then s.data ag false f.ty f.dst l else 0)
  | _ => none

/-- A lane of an access as it issues is on a deferred page that takes records. -/
def Machine.AccReq.records (r : AccReq) (x : LaneTr) : Bool := r.opr.isSome && bitAt x.leaf 53

/-- What the destination of an access reads as in one lane, for a wave with its PC slot `alt` issuing (R150). -/
def Machine.State.destElem (s : Machine.State) (ag : Agent) (alt : Bool) (o : Opnd) (lane : Nat) (wide : Bool) : W64 :=
  match ag, o with
  | .wave w, .v r =>
    match s.wave w with
    | some v => if wide then pair32 (v.lane r.val lane).toNat (v.lane (r.val + 1) lane).toNat else (v.lane r.val lane).zeroExtend 64
    | none => 0
  | .wave w, .s n =>
    match s.wave w with
    | some v =>
      let u := { v with alt := alt }
      if wide then pair32 (u.getS n.val).toNat (u.getS (n.val + 1)).toNat else (u.getS n.val).zeroExtend 64
    | none => 0
  | .thread c t, .q n => (s.thread c t).getQ n.val
  | _, _ => 0

/-- A destination of an access that an instruction can name: lanes and registers exist, and 64 bits take two of them. -/
def destOk (ag : Agent) (o : Opnd) (lane : Nat) (wide : Bool) : Prop :=
  match ag, o with
  | .wave _, .v r => lane < 96 ∧ (wide = true → r.val + 1 < 128)
  | .wave _, .s n => wide = true → n.val % 2 = 0
  | .thread _ _, .q _ => True
  | _, _ => False

/-- What a destination reads as once it holds a value of a type. -/
def elemValue (ag : Agent) (t : Ty) (x : W64) : W64 :=
  match ag with
  | .wave _ => if t.bits = 64 then x else (x.truncate 32).zeroExtend 64
  | .thread _ _ => if t.bits = 64 then x else if t.signed then (x.truncate 32).signExtend 64 else (x.truncate 32).zeroExtend 64

/-- A byte of memory, or of the scratchpads where `pad`, is one of the n bytes at a place of this device. -/
def Machine.Home.holds (h : Home) (n : Nat) (pad : Bool) (x : Nat) : Prop :=
  match h with
  | .mem a => pad = false ∧ a ≤ x ∧ x < a + n
  | .spad c o => pad = true ∧ spadAt c o ≤ x ∧ x < spadAt c o + n
  | _ => False

/-- One byte of memory, or of the scratchpads. -/
def Machine.State.byte (s : Machine.State) (pad : Bool) (x : Nat) : Byte := Memory.get (if pad then s.spad else s.mem) x

/-- The code of a tensor element of w bits at its place: a whole element, or a nibble. -/
def Machine.State.codeAt (s : Machine.State) (l : Layout) (h : Home) (nib : Nat) : Nat :=
  let x := leNat (s.bytesAt h l.bytes)
  if l.fmt.width < 8 then x / 16 ^ nib % 16 else x

/-- The byte of `spad` at which a launch-view range of n bytes of an agent begins. -/
def Machine.State.padAddr (s : Machine.State) (ag : Agent) (a n : Nat) : Nat :=
  match s.spadHome ag a n with
  | .spad c o => spadAt c o
  | _ => 0

/-! ### Matrix results -/

/-- The value that AOUT drains for an element of a tile (R199): with its bias, its scale and Act, before the output rounding;
`rd` holds the bias and the scale vectors. -/
def Machine.Acc.drained (a : Acc) (k : Nat) (e : Epi) (rd : List (Array Nat)) (i j : Nat) : FV :=
  let g := ffmt .f32
  let r32 (x : FV) : FV := g.value (g.round .even false x).1
  let entry (n p : Nat) : FV := g.value ((rd.getD n #[]).getD p 0)
  let x := if a.isI k then (NumFmt.int 32 true).value (a.at k i j).toNat else a.fv k i j
  let y := if e.bmode = 0 then x else r32 (x.add (entry 0 (if e.bmode = 1 then j else i))).1
  let scale := match e.smode with | 1 => g.value e.sval | 2 => entry 1 j | _ => entry 1 i
  e.apply (if e.smode = 0 then y else r32 (y.mul scale).1)

/-- The code that AOUT writes for column j of a row of values (R199, R80), and the scale of a block of 32 columns. -/
def Machine.Epi.code (e : Epi) (dt : NumFmt) (n : Nat) (row : Nat → FV) (j : Nat) : Nat :=
  if e.mx then (quantise dt e.rm ((List.range 32).map (fun p => row (32 * (j / 32) + p)))).2.getD (j % 32) 0
  else (rowCodes dt e.rm e.sat ((List.range n).map row)).getD j 0

/-- The scratchpad bytes of element (i, j) that AOUT writes. -/
def Machine.MOp.cell (m : MOp) (w i j : Nat) : Option Home :=
  m.spadAt ((descOf m.d m.d2).place w 0 i (j * w / 8)) (if w < 8 then 1 else w / 8)

/-- The scratchpad byte of the scale of block b of row i. -/
def Machine.MOp.scaleCell (m : MOp) (e : Epi) (i b : Nat) : Option Home :=
  m.spadAt ((e.mxaddr + 2 * i + b) % 2 ^ 32) 1

/-! ### Firmware commands -/

/-- Of a firmware command: whether it is a debug command, whether only the root mailbox may send it, and the bits that
Tables 29-2 and 29-5 give in w1 to w6. -/
def Instr.commandRule : Instr → Option (Bool × Bool × List Nat)
  | .nodeAttach | .nodeUpdate | .nodeDetach | .resume | .endDomain => some (false, false, [bitsMask 51 7])
  | .faultbuf => some (false, false, [2 ^ 63 + 15, bitsMask 51 6, 31])
  | .faultflush => some (false, false, [2 ^ 63 + 15, 2 ^ 64 - 1])
  | .pool => some (false, false, [bitsMask 9 0 + bitsMask 19 16 + bitsMask 26 24, bitsMask 51 12, 2 ^ 64 - 1])
  | .save => some (false, false, [1023])
  | .inval => some (false, false, [1023, bitsMask 56 12, 2 ^ 64 - 1])
  | .staging => some (false, true, [15, 2 ^ 64 - 1, 2 ^ 64 - 1])
  | .exptableRegister => some (false, false, [2 ^ 64 - 1, 2 ^ 64 - 1, 2 ^ 64 - 1, 2 ^ 64 - 1, 1023, 1])
  | .exptableDeregister => some (false, false, [0, 0, 0, 0, 1023, 1])
  | .expfetch => some (false, false, [bitsMask 41 32 + 4095, 63])
  | .expevict => some (false, false, [bitsMask 41 32 + 4095])
  | .l2ways => some (false, true, [7, 65535])
  | .replica => some (false, true, [63, 2 ^ 64 - 1, 2 ^ 64 - 1])
  | .podJoin => some (false, true, [1023, bitsMask 51 7])
  | .inbound => some (false, true, [1023 + bitsMask 25 16, bitsMask 51 8])
  | .leaseGrant => some (false, true, [bitsMask 15 8 + 3, 2 ^ 64 - 1 - bitsMask 49 48, bitsMask 51 21, 2 ^ 64 - 1])
  | .leaseRevokeCommand => some (false, true, [bitsMask 15 8 + 3, 1023, 2 ^ 32 - 1])
  | .leaseFree => some (false, true, [bitsMask 15 8 + 3])
  | .leaseRead => some (false, true, [bitsMask 15 8 + 3, bitsMask 51 5])
  | .powercap => some (false, true, [65535])
  | .attest => some (false, false, [bitsMask 51 3, bitsMask 51 6])
  | .status | .unknownCommand => some (false, false, [])
  | .debugRead => some (true, true, [2 ^ 64 - 1, bitsMask 51 3])
  | .debugWrite => some (true, true, [2 ^ 64 - 1, 2 ^ 64 - 1])
  | .debugHalt | .debugStep | .debugContinue => some (true, true, [])
  | _ => none

/-- The state without the command that is being acted on. -/
def Machine.State.idle (s : Machine.State) : Machine.State := { s with fw := none }

/-- The command block that the firmware looks at: its mailbox, address and words w0 to w6 as it reads them, which are the block's
bytes where it stands in this device's memory without an uncorrectable error. -/
def Machine.State.takes (s : Machine.State) (b : MailBox) (m : Nat) (w : List W64) : Prop :=
  ∃ a, s.fw = some (b, a) ∧ m = s.ownWindow a ∧ s.okRange m 64 = true ∧ w = s.idle.fwWords m 7

/-- The firmware acts on command i: it runs, its block is read without failure, no reserved bit is set, its mailbox may send it, and neither a
halted firmware nor the form of the device keeps it back (R336, R346). -/
def Served (s : Machine.State) (i : Instr) (b : MailBox) (m : Nat) (w : List W64) : Prop :=
  s.takes b m w ∧ s.dev.fwRuns = true ∧ s.idle.devLost 0 (s.home m) = false ∧ ∃ d r l, i.commandRule = some (d, r, l) ∧ (s.dev.fwHalted = true → d = true) ∧ (d = true → s.dev.form = .e) ∧
    cmdReserved w l = false ∧ (r = true → b = .root)

/-- An L1 has nothing to write back or drop for an access of an order: no line stands, or the order is neither an acquire nor a
release. -/
def Machine.State.quiet (s : Machine.State) (o : Order) : Prop := s.path.l1 = [] ∨ (o ≠ .acquire ∧ o ≠ .release)

end Sys2Proof
end

