-- ==== Sys2Proof/Laws/Agent.lean ====
section
/-! SUPPORT. What the shared operations on the registers and the place of an agent leave alone (`Kept`), and what a register
reads as after it is written. -/

namespace Sys2Proof

open Sys2Proof.Machine

/-! ### Masks -/

theorem Machine.maskWord_maskOf (a b c i : Nat) (h : i < 3) :
    maskWord (maskOf a b c) i = BitVec.ofNat 32 (if i = 0 then a else if i = 1 then b else c) := by
  apply BitVec.eq_of_toNat_eq
  have h1 : a % 2 ^ 32 < 2 ^ 32 := Nat.mod_lt _ (by decide)
  have h2 : b % 2 ^ 32 < 2 ^ 32 := Nat.mod_lt _ (by decide)
  have h3 : c % 2 ^ 32 < 2 ^ 32 := Nat.mod_lt _ (by decide)
  have : i = 0 ∨ i = 1 ∨ i = 2 := by omega
  rcases this with rfl | rfl | rfl <;> simp only [maskWord, maskOf, BitVec.toNat_ofNat] <;> norm_num <;> omega

theorem Machine.maskOf_maskWord (m : Mask) : maskOf (maskWord m 0).toNat (maskWord m 1).toNat (maskWord m 2).toNat = m := by
  apply BitVec.eq_of_toNat_eq
  have := m.isLt
  simp only [maskWord, maskOf, BitVec.toNat_ofNat]
  norm_num at *
  omega

/-! ### Registers of a wave -/

theorem Machine.Wave.getS_putS_same (v : Wave) (n : Nat) (x : W32) (h : n < 64) : (v.putS n x).getS n = x := by
  by_cases hn : n < 61
  · simp [Wave.getS, Wave.putS, hn]
  · have h3 : n - 61 < 3 := by omega
    simp only [Wave.getS, Wave.putS, hn, if_false, Wave.setPath_path]
    rw [maskWord_maskOf _ _ _ _ h3]
    have : n - 61 = 0 ∨ n - 61 = 1 ∨ n - 61 = 2 := by omega
    rcases this with h | h | h <;> simp [h]

theorem Machine.Wave.getS_putS_other (v : Wave) (n k : Nat) (x : W32) (h : k < 64) (hne : n ≠ k) : (v.putS n x).getS k = v.getS k := by
  by_cases hn : n < 61
  · by_cases hk : k < 61
    · simp [Wave.getS, Wave.putS, hn, hk, hne]
    · simp only [Wave.getS, Wave.putS, hn, hk, if_true, if_false]
      rfl
  · by_cases hk : k < 61
    · simp [Wave.getS, Wave.putS, hn, hk]
    · have h3 : k - 61 < 3 := by omega
      simp only [Wave.getS, Wave.putS, hn, hk, if_false, Wave.setPath_path]
      rw [maskWord_maskOf _ _ _ _ h3]
      have : k - 61 = 0 ∨ k - 61 = 1 ∨ k - 61 = 2 := by omega
      rcases this with h | h | h
      · simp [h, show ¬(n - 61 = 0) by omega]
      · simp [h, show ¬(n - 61 = 1) by omega]
      · simp [h, show ¬(n - 61 = 2) by omega]

theorem Machine.Wave.putS_bare (v : Wave) (n : Nat) (x : W32) : (v.putS n x).bare = v.bare := by
  unfold Wave.putS; split
  · rfl
  · unfold Wave.setPath; split <;> rfl

theorem Machine.Wave.setPath_bare (v : Wave) (p : Path) : (v.setPath p).bare = v.bare := by
  unfold Wave.setPath; split <;> rfl

theorem Machine.Wave.putS_path (v : Wave) (n : Nat) (x : W32) : ∃ m, (v.putS n x).path = { v.path with mask := m } := by
  unfold Wave.putS; split
  · exact ⟨v.path.mask, rfl⟩
  · exact ⟨_, by rw [Wave.setPath_path]⟩

theorem Machine.Wave.putS_other (v : Wave) (n : Nat) (x : W32) : (v.putS n x).other = v.other := by
  unfold Wave.putS; split
  · rfl
  · simp

theorem Machine.Wave.bare_step (v u : Wave) (h : u.bare = v.bare) : u.step = v.step := by
  have := congrArg Wave.step h; exact this

/-! ### WaveKept and ThreadKept -/

theorem WaveKept.refl (v : Wave) (a b : List Nat) (f k : Bool) : WaveKept v v a b f k :=
  ⟨rfl, fun _ _ _ => rfl, fun _ _ => rfl, rfl, rfl, rfl, fun _ => rfl, fun _ => rfl, fun _ => ⟨rfl, rfl⟩⟩

theorem WaveKept.trans {v u w : Wave} {a b : List Nat} {f k : Bool} (h : WaveKept v u a b f k) (g : WaveKept u w a b f k) :
    WaveKept v w a b f k where
  bare := g.bare.trans h.bare
  sreg n hn ha := (g.sreg n hn ha).trans (h.sreg n hn ha)
  vreg r hr := (g.vreg r hr).trans (h.vreg r hr)
  other := g.other.trans h.other
  st := g.st.trans h.st
  depth := g.depth.trans h.depth
  fpstat e := (g.fpstat e).trans (h.fpstat e)
  repctl e := (g.repctl e).trans (h.repctl e)
  stop e := by
    have hs := Wave.bare_step v u h.bare
    have h1 := h.stop e
    have h2 := g.stop (hs.trans e)
    exact ⟨h2.1.trans h1.1, h2.2.trans h1.2⟩

theorem ThreadKept.refl (h : Thread) (a : List Nat) (f k : Bool) : ThreadKept h h a f k :=
  ⟨rfl, fun _ _ => rfl, fun _ => rfl, fun _ => rfl⟩

theorem ThreadKept.trans {h g e : Thread} {a : List Nat} {f k : Bool} (x : ThreadKept h g a f k) (y : ThreadKept g e a f k) :
    ThreadKept h e a f k :=
  ⟨y.bare.trans x.bare, fun n hn => (y.q n hn).trans (x.q n hn), fun d => (y.fpstat d).trans (x.fpstat d),
    fun d => (y.repctl d).trans (x.repctl d)⟩

/-- A wave whose issuing slot has moved to another place. -/
theorem WaveKept.ofPath (v : Wave) (p : Path) (a b : List Nat) (f k : Bool) (hm : p.mask = v.path.mask) (hs : p.st = v.path.st)
    (hd : p.depth = v.path.depth) : WaveKept v (v.setPath p) a b f k where
  bare := v.setPath_bare p
  sreg n _ _ := by unfold Wave.getS; simp [hm]
  vreg r _ := by simp [Wave.vec]
  other := by simp
  st := by simp [hs]
  depth := by simp [hd]
  fpstat _ := by simp
  repctl _ := by simp
  stop _ := by simp

theorem WaveKept.ofPutS (v : Wave) (n : Nat) (x : W32) (a b : List Nat) (f k : Bool) (ha : n ∈ a) :
    WaveKept v (v.putS n x) a b f k where
  bare := v.putS_bare n x
  sreg i hi hn := Wave.getS_putS_other v n i x hi (fun e => hn (e ▸ ha))
  vreg r _ := by
    unfold Wave.putS Wave.vec; split
    · rfl
    · simp
  other := v.putS_other n x
  st := by obtain ⟨m, hm⟩ := v.putS_path n x; simp [hm]
  depth := by obtain ⟨m, hm⟩ := v.putS_path n x; simp [hm]
  fpstat _ := by unfold Wave.putS; split <;> simp
  repctl _ := by unfold Wave.putS; split <;> simp
  stop _ := by unfold Wave.putS; split <;> simp

/-! ### Kept -/

theorem Kept.refl (ag : Agent) (s : Machine.State) (a b : List Nat) (f k : Bool) : Kept ag s s a b f k :=
  ⟨fun _ => ⟨rfl, rfl⟩, rfl, fun _ _ => rfl, fun _ _ => rfl, fun _ v _ h => ⟨v, h, WaveKept.refl v a b f k⟩,
    fun _ _ _ => ThreadKept.refl _ a f k⟩

theorem Kept.trans {ag : Agent} {s t u : Machine.State} {a b : List Nat} {f k : Bool} (h : Kept ag s t a b f k)
    (g : Kept ag t u a b f k) : Kept ag s u a b f k where
  bytes x := ⟨(g.bytes x).1.trans (h.bytes x).1, (g.bytes x).2.trans (h.bytes x).2⟩
  rest := g.rest.trans h.rest
  waves w hw := (g.waves w hw).trans (h.waves w hw)
  threads j hj := (g.threads j hj).trans (h.threads j hj)
  wave w v e hv := by
    obtain ⟨u1, h1, k1⟩ := h.wave w v e hv
    obtain ⟨u2, h2, k2⟩ := g.wave w u1 e h1
    exact ⟨u2, h2, k1.trans k2⟩
  thread c j e := (h.thread c j e).trans (g.thread c j e)

/-- Bytes and the other agents follow from the rest of the machine. -/
theorem SameBytes.ofRest {s t : Machine.State} (h : t.rest = s.rest) : SameBytes s t := fun a => by
  have h1 : t.mem = s.mem := by have := congrArg Machine.State.mem h; exact this
  have h2 : t.spad = s.spad := by have := congrArg Machine.State.spad h; exact this
  rw [h1, h2]; exact ⟨rfl, rfl⟩

theorem Kept.setWave {s : Machine.State} {w : Nat} {v u : Wave} {a b : List Nat} {f k : Bool} (hv : s.wave w = some v)
    (h : WaveKept v u a b f k) : Kept (.wave w) s (s.setWave w u) a b f k where
  bytes := SameBytes.ofRest rfl
  rest := rfl
  waves i hi := State.setWave_wave_other s w i u (fun e => hi (e ▸ rfl))
  threads _ _ := rfl
  wave i x e hx := by
    cases e
    rw [hv] at hx; cases hx
    exact ⟨u, by simp, h⟩
  thread c t e := by cases e

theorem Kept.setThread {s : Machine.State} {c t : Nat} {g : Thread} {a b : List Nat} {f k : Bool}
    (h : ThreadKept (s.thread c t) g a f k) : Kept (.thread c t) s (s.setThread c t g) a b f k where
  bytes := SameBytes.ofRest rfl
  rest := rfl
  waves _ _ := rfl
  threads j hj := State.setThread_find_other s c t j g (fun e => hj (e ▸ rfl))
  wave i x e := by cases e
  thread d j e := by cases e; simpa using h

theorem Kept.unlatch (ag : Agent) (s : Machine.State) (a b : List Nat) (f k : Bool) : Kept ag s s.unlatch a b f k :=
  ⟨SameBytes.ofRest rfl, rfl, fun _ _ => rfl, fun _ _ => rfl, fun _ v _ h => ⟨v, h, WaveKept.refl v a b f k⟩,
    fun _ _ _ => ThreadKept.refl _ a f k⟩

theorem Kept.goto (ag : Agent) (s : Machine.State) (pc : BitVec 57) (w : Wait) (a b : List Nat) (f k : Bool) :
    Kept ag s (s.goto ag pc w) a b f k := by
  unfold State.goto
  cases ag with
  | wave i =>
    simp only
    split
    · rename_i v hv
      exact Kept.setWave hv (WaveKept.ofPath v _ a b f k rfl rfl rfl)
    · exact Kept.refl _ _ _ _ _ _
  | thread c t => exact Kept.setThread ⟨rfl, fun _ _ => rfl, fun _ => rfl, fun _ => rfl⟩

theorem Kept.toSlot (ag : Agent) (s : Machine.State) (j : Nat) (a b : List Nat) (f k : Bool) :
    Kept ag s (s.toSlot ag j) a b f k := by
  unfold State.toSlot
  cases ag with
  | wave i =>
    simp only
    split
    · rename_i v hv
      exact Kept.setWave hv (WaveKept.ofPath v _ a b f k rfl rfl rfl)
    · exact Kept.refl _ _ _ _ _ _
  | thread c t => exact Kept.setThread ⟨rfl, fun _ _ => rfl, fun _ => rfl, fun _ => rfl⟩

theorem Kept.advance (ag : Agent) (s : Machine.State) (n : Nat) (w : Wait) (a b : List Nat) (f k : Bool) :
    Kept ag s (s.advance ag n w) a b f k := by
  unfold State.advance
  simp only
  split
  · exact Kept.toSlot _ _ _ _ _ _ _
  · exact Kept.goto _ _ _ _ _ _ _ _

theorem Kept.stepped (ag : Agent) (s : Machine.State) (a b : List Nat) (f k : Bool) : Kept ag s (s.stepped ag) a b f k := by
  unfold State.stepped
  cases ag with
  | wave i =>
    simp only
    split
    · rename_i v hv
      split
      · rename_i hs
        refine Kept.setWave hv ⟨?_, ?_, ?_, ?_, ?_, ?_, ?_, ?_, ?_⟩
        · cases hb : v.alt <;> simp [Wave.halt, Wave.setPath, Wave.bare, hb, hs]
        · intro n _ _
          cases hb : v.alt <;> simp [Wave.halt, Wave.setPath, Wave.getS, Wave.path, hb]
        · intro r _; cases hb : v.alt <;> simp [Wave.halt, Wave.setPath, Wave.vec, hb]
        · cases hb : v.alt <;> simp [Wave.halt, Wave.setPath, Wave.other, hb]
        · cases hb : v.alt <;> simp [Wave.halt, Wave.setPath, Wave.path, hb]
        · cases hb : v.alt <;> simp [Wave.halt, Wave.setPath, Wave.path, hb]
        · intro _; cases hb : v.alt <;> simp [Wave.halt, Wave.setPath, hb]
        · intro _; cases hb : v.alt <;> simp [Wave.halt, Wave.setPath, hb]
        · intro e; simp [e] at hs
      · exact Kept.refl _ _ _ _ _ _
    · exact Kept.refl _ _ _ _ _ _
  | thread c t => exact Kept.refl _ _ _ _ _ _

/-- Going on after an instruction outside a sweep changes the place of the agent only. -/
theorem Kept.retire (ag : Agent) (s : Machine.State) (n : Nat) (w : Wait) (a b : List Nat) (f k : Bool)
    (h : s.issue = some ⟨ag, false⟩) : Kept ag s (s.retire n w) a b f k := by
  simp only [State.retire, h, Bool.false_eq_true, if_false]
  exact ((Kept.advance ag s n w a b f k).trans (Kept.unlatch _ _ _ _ _ _)).trans (Kept.stepped _ _ _ _ _ _)

theorem Kept.jump (ag : Agent) (s : Machine.State) (pc : BitVec 57) (w : Wait) (a b : List Nat) (f k : Bool) :
    Kept ag s (s.jump ag pc w) a b f k :=
  ((Kept.goto ag s pc w a b f k).trans (Kept.unlatch _ _ _ _ _ _)).trans (Kept.stepped _ _ _ _ _ _)

theorem Kept.putReg (ag : Agent) (s : Machine.State) (o : Opnd) (wide sgn : Bool) (x : W64) (a b : List Nat) (f k : Bool)
    (ha : ∀ n ∈ dstRegs ag o wide, n ∈ a) : Kept ag s (s.putReg ag o wide sgn x) a b f k := by
  unfold State.putReg
  split
  · rename_i w n
    split
    · rename_i v hv
      split
      · rename_i hw
        exact Kept.setWave hv ((WaveKept.ofPutS v _ _ a b f k (ha _ (by simp [dstRegs, hw]))).trans
          (WaveKept.ofPutS _ _ _ a b f k (ha _ (by simp [dstRegs, hw]))))
      · rename_i hw
        exact Kept.setWave hv (WaveKept.ofPutS v _ _ a b f k (ha _ (by simp [dstRegs, hw])))
    · exact Kept.refl _ _ _ _ _ _
  · rename_i c t n
    refine Kept.setThread ⟨rfl, ?_, fun _ => rfl, fun _ => rfl⟩
    intro i hi
    have : n.val ≠ i := fun e => hi (e ▸ ha _ (by simp [dstRegs]))
    simp [Thread.getQ, Thread.putQ, this]
  · exact Kept.refl _ _ _ _ _ _

theorem Kept.setFpstat (ag : Agent) (s : Machine.State) (x : W32) (a b : List Nat) (k : Bool) :
    Kept ag s (s.setFpstat ag x) a b true k := by
  unfold State.setFpstat
  cases ag with
  | wave i =>
    simp only
    split
    · rename_i v hv
      exact Kept.setWave hv ⟨rfl, fun _ _ _ => rfl, fun _ _ => rfl, rfl, rfl, rfl, by simp, fun _ => rfl, fun _ => ⟨rfl, rfl⟩⟩
    · exact Kept.refl _ _ _ _ _ _
  | thread c t => exact Kept.setThread ⟨rfl, fun _ _ => rfl, by simp, fun _ => rfl⟩

theorem Kept.setRepctl (ag : Agent) (s : Machine.State) (x : W32) (a b : List Nat) (f : Bool) :
    Kept ag s (s.setRepctl ag x) a b f true := by
  unfold State.setRepctl
  cases ag with
  | wave i =>
    simp only
    split
    · rename_i v hv
      exact Kept.setWave hv ⟨rfl, fun _ _ _ => rfl, fun _ _ => rfl, rfl, rfl, rfl, fun _ => rfl, by simp, fun _ => ⟨rfl, rfl⟩⟩
    · exact Kept.refl _ _ _ _ _ _
  | thread c t => exact Kept.setThread ⟨rfl, fun _ _ => rfl, fun _ => rfl, by simp⟩

/-- The same inside a sweep, where `repctl` changes too. -/
theorem Kept.retireSwept (ag : Agent) (r : Bool) (s : Machine.State) (n : Nat) (w : Wait) (a b : List Nat) (f : Bool)
    (h : s.issue = some ⟨ag, r⟩) : Kept ag s (s.retire n w) a b f true := by
  cases r with
  | false => exact Kept.retire ag s n w a b f true h
  | true =>
    simp only [State.retire, h, if_true]
    split
    · exact ((Kept.setRepctl ag s _ a b f).trans (Kept.unlatch _ _ _ _ _ _)).trans (Kept.stepped _ _ _ _ _ _)
    · exact (((Kept.setRepctl ag s _ a b f).trans (Kept.advance _ _ _ _ _ _ _ _)).trans (Kept.unlatch _ _ _ _ _ _)).trans
        (Kept.stepped _ _ _ _ _ _)

/-! ### Latch -/

@[simp] theorem Machine.State.putReg_issue (s : Machine.State) (ag : Agent) (o : Opnd) (wide sgn : Bool) (x : W64) :
    (s.putReg ag o wide sgn x).issue = s.issue := by
  unfold State.putReg; split
  · split
    · split <;> rfl
    · rfl
  · rfl
  · rfl

@[simp] theorem Machine.State.setFpstat_issue (s : Machine.State) (ag : Agent) (x : W32) : (s.setFpstat ag x).issue = s.issue := by
  unfold State.setFpstat; split
  · split <;> rfl
  · rfl

/-! ### What a register reads as -/

/-- Scalar register n of an agent, as 64 bits. -/
def Machine.State.num (s : Machine.State) (ag : Agent) (n : Nat) : W64 :=
  match ag with
  | .wave w => match s.wave w with | some v => (v.getS n).zeroExtend 64 | none => 0
  | .thread c t => (s.thread c t).getQ n

theorem Kept.reg {ag : Agent} {s t : Machine.State} {b : List Nat} {f k : Bool} (h : Kept ag s t [] b f k) (o : Opnd) (wide : Bool)
    (hp : ag.present s) (ho : ∀ n, o = .s n → wide = true → n.val < 63) : t.reg ag o wide = s.reg ag o wide := by
  unfold State.reg
  cases ag with
  | wave w =>
    cases o with
    | s n =>
      simp only [Agent.present, Option.isSome_iff_exists] at hp
      obtain ⟨v, hv⟩ := hp
      obtain ⟨u, hu, hk⟩ := h.wave w v rfl hv
      simp only [hu, hv]
      have h1 := hk.sreg n.val n.isLt (by simp)
      cases wide with
      | false => simp [h1]
      | true =>
        have h2 := hk.sreg (n.val + 1) (by have := ho n rfl rfl; omega) (by simp)
        simp [h1, h2]
    | _ => rfl
  | thread c t =>
    cases o with
    | q n => have := (h.thread c t rfl).q n.val (by simp); simp [this]
    | _ => rfl

/-! ### Registers written and read -/

/-- The two spellings of the width of a type agree. -/
theorem tyBits_eq (t : Ty) : tyBits t = t.bits := by cases t <;> rfl

/-- The two spellings of the sign of a type agree. -/
theorem isSigned_eq (t : Ty) : isSigned t = t.signed := by cases t <;> rfl

/-- A register reads as what was written to it, a narrow one as its low half (R97, R110). -/
theorem reg_putReg (s : Machine.State) (ag : Agent) (k : ClauseKind) (o : Opnd) (wide sgn : Bool) (x : W64)
    (hp : ag.present s) (hf : ag.fits k) (ho : regOk k wide o = true) :
    (s.putReg ag o wide sgn x).reg ag o wide = if wide then x else (x.truncate 32).zeroExtend 64 := by
  cases ag with
  | wave w =>
    cases o with
    | s n =>
      simp only [Agent.present, Option.isSome_iff_exists] at hp
      obtain ⟨v, hv⟩ := hp
      simp only [State.putReg, State.reg, hv]
      simp only [regOk, Bool.and_eq_true, Bool.or_eq_true, Bool.not_eq_true', beq_iff_eq, bne_iff_ne] at ho
      cases wide with
      | false => simp [Wave.getS_putS_same]
      | true =>
        have : n.val % 2 = 0 := by simpa using ho.2
        have hn := n.isLt
        simp only [if_true, State.setWave_wave_same]
        rw [Wave.getS_putS_other _ _ _ _ (by omega) (by omega), Wave.getS_putS_same _ _ _ (by omega), Wave.getS_putS_same _ _ _ (by omega)]
        apply BitVec.eq_of_toNat_eq
        have := x.isLt
        simp [pair32, BitVec.toNat_setWidth, BitVec.toNat_ushiftRight, Nat.shiftRight_eq_div_pow]
        omega
    | q n => simp [regOk] at ho; exact absurd ho hf
    | _ => simp [regOk] at ho
  | thread c t =>
    cases o with
    | q n =>
      have hn := n.isLt
      simp only [State.putReg, State.reg, State.setThread_thread_same, Thread.getQ, Thread.putQ]
      have hs : ((x.truncate 32).signExtend 64).truncate 32 = x.truncate 32 := by
        apply BitVec.eq_of_getLsbD_eq
        intro i hi
        rw [BitVec.getLsbD_setWidth, BitVec.getLsbD_signExtend]
        simp [hi, show i < 64 by omega]
      cases wide <;> cases sgn <;> simp [hn]
      · have := congrArg BitVec.toNat hs
        apply BitVec.eq_of_toNat_eq
        simp at this ⊢
        omega
    | s n => simp [regOk] at ho; exact absurd hf ho.1
    | _ => simp [regOk] at ho

/-- Writing one register and going on keeps everything else. -/
theorem kept_scalar (s : Machine.State) (ag : Agent) (o : Opnd) (wide sgn : Bool) (x : W64) (n : Nat) (w : Wait)
    (h : s.issue = some ⟨ag, false⟩) : Kept ag s ((s.putReg ag o wide sgn x).retire n w) (dstRegs ag o wide) [] false false :=
  (Kept.putReg ag s o wide sgn x _ _ _ _ (fun _ h => h)).trans (Kept.retire ag _ n w _ _ _ _ (by simp [h]))

/-- A register reads as before once the agent has gone on. -/
theorem reg_retire (s : Machine.State) (ag : Agent) (k : ClauseKind) (o : Opnd) (wide : Bool) (n : Nat) (w : Wait)
    (h : s.issue = some ⟨ag, false⟩) (hp : ag.present s) (ho : regOk k wide o = true) :
    (s.retire n w).reg ag o wide = s.reg ag o wide := by
  refine Kept.reg (Kept.retire ag s n w [] [] false false h) o wide hp ?_
  rintro n rfl rfl
  simp [regOk] at ho
  have := n.isLt; omega

/-- A wave that stops keeps its registers and its other slot (R217). -/
theorem halt_kept (v : Wave) (st : Stop) (t : TRec) :
    WaveKept v { v.halt st t with trec := v.trec, step := v.step, stop := v.stop, dlv := v.dlv } [] [] false false := by
  constructor
  · cases h: v.alt <;> simp [Wave.halt, Wave.setPath, Wave.path, Wave.bare, h]
  · intro n _ _; cases h: v.alt <;> simp [Wave.halt, Wave.setPath, Wave.path, Wave.getS, h]
  · intro n _; cases h: v.alt <;> simp [Wave.halt, Wave.setPath, Wave.path, Wave.vec, h]
  all_goals (cases h: v.alt <;> simp [Wave.halt, Wave.setPath, Wave.path, Wave.other, h])

end Sys2Proof
end

