-- ==== Sys2Proof/Laws/Encoding.lean ====
section
/-! SUPPORT. Reading back the words that the encoder writes, format by format. -/

namespace Sys2Proof

/-- The value of the literal among some operands, 0 where there is none. -/
def litWord (l : List Opnd) : W64 := (litsOf l).getD 0 0

theorem Ty.ofCode_code (t : Ty) : Ty.ofCode t.code = some t := by cases t <;> rfl
theorem Ty.code_lt (t : Ty) : t.code < 16 := by cases t <;> decide
theorem Scope.ofCode_code (c : Scope) : Scope.ofCode c.code = some c := by cases c <;> rfl
theorem Scope.code_lt (c : Scope) : c.code < 8 := by cases c <;> decide
theorem Order.ofCode_code (o : Order) : Order.ofCode o.code = some o := by cases o <;> rfl
theorem Order.code_lt (o : Order) : o.code < 4 := by cases o <;> decide

theorem Opnd.code_lt (o : Opnd) : o.code < 256 := by
  cases o <;> simp only [Opnd.code] <;> omega

theorem fin_sub (b m : Nat) [NeZero m] (n : Fin m) : Fin.ofNat m (b + n.val - b) = n := by
  apply Fin.ext
  rw [Nat.add_sub_cancel_left]
  exact Nat.mod_eq_of_lt n.isLt

theorem Opnd.ofCode_code (o : Opnd) (lit : W64) (h : ∀ w, o = .lit w → w = lit) : Opnd.ofCode o.code lit = some o := by
  cases o with
  | v n => simp [Opnd.ofCode, Opnd.code]
  | s n =>
    have := n.isLt
    have e : (Opnd.s n).code = 0x80 + n.val := rfl
    rw [e]
    unfold Opnd.ofCode
    split_ifs <;> first | omega | exact congrArg (fun k => some (Opnd.s k)) (fin_sub 0x80 64 n)
  | q n =>
    have := n.isLt
    have e : (Opnd.q n).code = 0xC0 + n.val := rfl
    rw [e]
    unfold Opnd.ofCode
    split_ifs <;> first | omega | exact congrArg (fun k => some (Opnd.q k)) (fin_sub 0xC0 32 n)
  | inl n =>
    have := n.isLt
    have e : (Opnd.inl n).code = 0xE0 + n.val := rfl
    rw [e]
    unfold Opnd.ofCode
    split_ifs <;> first | omega | exact congrArg (fun k => some (Opnd.inl k)) (fin_sub 0xE0 16 n)
  | lit w => simp [Opnd.ofCode, Opnd.code, h w rfl]
  | imm => simp [Opnd.ofCode, Opnd.code]
  | none => simp [Opnd.ofCode, Opnd.code]

/-- With at most one literal, every literal operand is the one that the next slot holds. -/
theorem lit_eq (l : List Opnd) (h : litCount l ≤ 1) (o : Opnd) (ho : o ∈ l) (w : W64) (e : o = .lit w) : w = litWord l := by
  subst e
  induction l with
  | nil => simp at ho
  | cons a r ih =>
    cases a with
    | lit x =>
      have hr : litCount r = 0 := by simp [litCount, Opnd.isLit, List.filter_cons] at h ⊢; exact h
      rcases List.mem_cons.mp ho with e | e
      · cases e; rfl
      · exfalso
        have hm : Opnd.lit w ∈ r.filter Opnd.isLit := List.mem_filter.mpr ⟨e, rfl⟩
        simp only [litCount, List.length_eq_zero_iff] at hr
        rw [hr] at hm; simp at hm
    | _ =>
      rcases List.mem_cons.mp ho with e | e
      · cases e
      · exact ih (by simpa [litCount, Opnd.isLit, List.filter_cons] using h) e

theorem fld_ofNat (n hi lo : Nat) (h : n < 2 ^ 64) : fld (BitVec.ofNat 64 n) hi lo = n / 2 ^ lo % 2 ^ (hi + 1 - lo) := by
  unfold fld
  rw [BitVec.toNat_ofNat, Nat.mod_eq_of_lt h, Nat.shiftRight_eq_div_pow]

theorem bitAt_ofNat (n k : Nat) (b : Bool) (h : k < 64) (e : n / 2 ^ k % 2 ^ 1 = b.toNat) : bitAt (BitVec.ofNat 64 n) k = b := by
  unfold bitAt
  rw [BitVec.getLsbD_ofNat, Nat.testBit_eq_decide_div_mod_eq, show n / 2 ^ k % 2 = b.toNat by simpa using e]
  cases b <;> simp [h]

/-- A field of a word in the nested form of its fields, and what lies above it. -/
theorem peel (n X y m k : Nat) (h : n / 2 ^ k = X * 2 ^ m + y) (hy : y < 2 ^ m) :
    n / 2 ^ k % 2 ^ m = y ∧ n / 2 ^ (k + m) = X := by
  rw [Nat.pow_add, ← Nat.div_div_eq_div_mul, h]
  constructor
  · rw [Nat.mul_add_mod', Nat.mod_eq_of_lt hy]
  · rw [Nat.mul_comm, Nat.mul_add_div (Nat.two_pow_pos m), Nat.div_eq_of_lt hy, Nat.add_zero]

theorem rdOpnd_ok (w lit : W64) (hi lo : Nat) (o : Opnd) (h : fld w hi lo = o.code) (hl : ∀ x, o = .lit x → x = lit) :
    rdOpnd w hi lo lit = .ok o := by
  simp [rdOpnd, h, Opnd.ofCode_code o lit hl]

theorem rdTy_ok (w : W64) (hi lo : Nat) (t : Ty) (h : fld w hi lo = t.code) : rdTy w hi lo = .ok t := by
  simp [rdTy, h, Ty.ofCode_code]

/-- The upper half of formats S, V, M and E, nested. -/
def upperN (op : Nat) (d a b : Opnd) : Nat := ((op * 2 ^ 8 + d.code) * 2 ^ 8 + a.code) * 2 ^ 8 + b.code

theorem upperN_lt (op : Nat) (d a b : Opnd) (h : op < 256) : upperN op d a b < 2 ^ 32 := by
  have h1 := d.code_lt
  have h2 := a.code_lt
  have h3 := b.code_lt
  unfold upperN; omega

/-- The fields of the upper half of a word whose lower half has been peeled off. -/
theorem upper_fields (n op : Nat) (d a b : Opnd) (hn : n < 2 ^ 64) (h : n / 2 ^ 32 = upperN op d a b) (ho : op < 256) :
    fld (BitVec.ofNat 64 n) 39 32 = b.code ∧ fld (BitVec.ofNat 64 n) 47 40 = a.code ∧ fld (BitVec.ofNat 64 n) 55 48 = d.code
      ∧ fld (BitVec.ofNat 64 n) 63 56 = op := by
  have p1 := peel n _ _ 8 32 h b.code_lt
  have p2 := peel n _ _ 8 40 p1.2 a.code_lt
  have p3 := peel n _ _ 8 48 p2.2 d.code_lt
  have p4 := peel n 0 op 8 56 (by simpa using p3.2) ho
  exact ⟨(fld_ofNat n 39 32 hn).trans p1.1, (fld_ofNat n 47 40 hn).trans p2.1, (fld_ofNat n 55 48 hn).trans p3.1,
    (fld_ofNat n 63 56 hn).trans p4.1⟩

/-- The word of format S, nested. -/
def wordS (op : Nat) (f : SF) : Nat :=
  (((upperN op f.dst f.sa f.sb * 2 ^ 8 + f.sc.code) * 2 ^ 4 + f.ty.code) * 2 ^ 4 + f.fn.toNat) * 2 ^ 16 + f.imm.toNat

theorem encode_S (op : Nat) (f : SF) : encUpper op f.dst f.sa f.sb + f.sc.code * 2 ^ 24 + f.ty.code * 2 ^ 20
    + f.fn.toNat * 2 ^ 16 + f.imm.toNat = wordS op f := by
  unfold encUpper wordS upperN; ring

theorem readS_word (op : Nat) (f : SF) (lit : W64) (ho : op < 256)
    (hl : ∀ o ∈ [f.dst, f.sa, f.sb, f.sc], ∀ x, o = .lit x → x = lit) :
    fld (BitVec.ofNat 64 (wordS op f)) 63 56 = op ∧ readS (BitVec.ofNat 64 (wordS op f)) lit = .ok f := by
  have hn : wordS op f < 2 ^ 64 := by
    have h1 := upperN_lt op f.dst f.sa f.sb ho
    have h4 := f.sc.code_lt
    have h5 := f.ty.code_lt
    have h6 := f.fn.isLt
    have h7 := f.imm.isLt
    unfold wordS; omega
  have p0 := peel (wordS op f) _ _ 16 0 (by rw [Nat.pow_zero, Nat.div_one]; rfl) f.imm.isLt
  have p1 := peel (wordS op f) _ _ 4 16 p0.2 f.fn.isLt
  have p2 := peel (wordS op f) _ _ 4 20 p1.2 f.ty.code_lt
  have p3 := peel (wordS op f) _ _ 8 24 p2.2 f.sc.code_lt
  obtain ⟨q1, q2, q3, q4⟩ := upper_fields _ op f.dst f.sa f.sb hn p3.2 ho
  refine ⟨q4, ?_⟩
  have e0 : fld (BitVec.ofNat 64 (wordS op f)) 15 0 = f.imm.toNat := (fld_ofNat _ 15 0 hn).trans p0.1
  have e1 : fld (BitVec.ofNat 64 (wordS op f)) 19 16 = f.fn.toNat := (fld_ofNat _ 19 16 hn).trans p1.1
  have e2 : fld (BitVec.ofNat 64 (wordS op f)) 23 20 = f.ty.code := (fld_ofNat _ 23 20 hn).trans p2.1
  have e3 : fld (BitVec.ofNat 64 (wordS op f)) 31 24 = f.sc.code := (fld_ofNat _ 31 24 hn).trans p3.1
  unfold readS
  rw [rdOpnd_ok _ lit 55 48 f.dst q3 (hl _ (by simp)), rdOpnd_ok _ lit 47 40 f.sa q2 (hl _ (by simp)),
    rdOpnd_ok _ lit 39 32 f.sb q1 (hl _ (by simp)), rdOpnd_ok _ lit 31 24 f.sc e3 (hl _ (by simp)), rdTy_ok _ 23 20 f.ty e2, e0, e1]
  simp

/-- The word of format V, nested. -/
def wordV (op : Nat) (f : VF) : Nat :=
  ((((((((upperN op f.dst f.sa f.sb * 2 ^ 8 + f.sc.code) * 2 ^ 4 + f.ty.code) * 2 ^ 4 + f.fn.toNat) * 2 ^ 2 + f.rm.toNat)
    * 2 ^ 1 + f.sat.toNat) * 2 ^ 1 + f.fs.toNat) * 2 ^ 3 + f.neg.toNat) * 2 ^ 1 + f.abs.toNat) * 2 ^ 8 + f.aux.toNat

theorem encode_V (op : Nat) (f : VF) : encUpper op f.dst f.sa f.sb + f.sc.code * 2 ^ 24 + f.ty.code * 2 ^ 20
    + f.fn.toNat * 2 ^ 16 + f.rm.toNat * 2 ^ 14 + f.sat.toNat * 2 ^ 13 + f.fs.toNat * 2 ^ 12
    + f.neg.toNat * 2 ^ 9 + f.abs.toNat * 2 ^ 8 + f.aux.toNat = wordV op f := by
  unfold encUpper wordV upperN; ring

theorem readV_word (op : Nat) (f : VF) (lit : W64) (ho : op < 256)
    (hl : ∀ o ∈ [f.dst, f.sa, f.sb, f.sc], ∀ x, o = .lit x → x = lit) :
    fld (BitVec.ofNat 64 (wordV op f)) 63 56 = op ∧ readV (BitVec.ofNat 64 (wordV op f)) lit = .ok f := by
  have hn : wordV op f < 2 ^ 64 := by
    have h1 := upperN_lt op f.dst f.sa f.sb ho
    have h4 := f.sc.code_lt
    have h5 := f.ty.code_lt
    have h6 := f.fn.isLt
    have h7 := f.rm.isLt
    have h8 := f.sat.toNat_lt
    have h9 := f.fs.toNat_lt
    have h10 := f.neg.isLt
    have h11 := f.abs.toNat_lt
    have h12 := f.aux.isLt
    unfold wordV; omega
  have p0 := peel (wordV op f) _ _ 8 0 (by rw [Nat.pow_zero, Nat.div_one]; rfl) f.aux.isLt
  have p1 := peel (wordV op f) _ _ 1 8 p0.2 f.abs.toNat_lt
  have p2 := peel (wordV op f) _ _ 3 9 p1.2 f.neg.isLt
  have p3 := peel (wordV op f) _ _ 1 12 p2.2 f.fs.toNat_lt
  have p4 := peel (wordV op f) _ _ 1 13 p3.2 f.sat.toNat_lt
  have p5 := peel (wordV op f) _ _ 2 14 p4.2 f.rm.isLt
  have p6 := peel (wordV op f) _ _ 4 16 p5.2 f.fn.isLt
  have p7 := peel (wordV op f) _ _ 4 20 p6.2 f.ty.code_lt
  have p8 := peel (wordV op f) _ _ 8 24 p7.2 f.sc.code_lt
  obtain ⟨q1, q2, q3, q4⟩ := upper_fields _ op f.dst f.sa f.sb hn p8.2 ho
  refine ⟨q4, ?_⟩
  have e0 : fld (BitVec.ofNat 64 (wordV op f)) 7 0 = f.aux.toNat := (fld_ofNat _ 7 0 hn).trans p0.1
  have e1 := bitAt_ofNat (wordV op f) 8 f.abs (by decide) p1.1
  have e2 : fld (BitVec.ofNat 64 (wordV op f)) 11 9 = f.neg.toNat := (fld_ofNat _ 11 9 hn).trans p2.1
  have e3 := bitAt_ofNat (wordV op f) 12 f.fs (by decide) p3.1
  have e4 := bitAt_ofNat (wordV op f) 13 f.sat (by decide) p4.1
  have e5 : fld (BitVec.ofNat 64 (wordV op f)) 15 14 = f.rm.toNat := (fld_ofNat _ 15 14 hn).trans p5.1
  have e6 : fld (BitVec.ofNat 64 (wordV op f)) 19 16 = f.fn.toNat := (fld_ofNat _ 19 16 hn).trans p6.1
  have e7 : fld (BitVec.ofNat 64 (wordV op f)) 23 20 = f.ty.code := (fld_ofNat _ 23 20 hn).trans p7.1
  have e8 : fld (BitVec.ofNat 64 (wordV op f)) 31 24 = f.sc.code := (fld_ofNat _ 31 24 hn).trans p8.1
  unfold readV
  rw [rdOpnd_ok _ lit 55 48 f.dst q3 (hl _ (by simp)), rdOpnd_ok _ lit 47 40 f.sa q2 (hl _ (by simp)),
    rdOpnd_ok _ lit 39 32 f.sb q1 (hl _ (by simp)), rdOpnd_ok _ lit 31 24 f.sc e8 (hl _ (by simp)), rdTy_ok _ 23 20 f.ty e7,
    e0, e1, e2, e3, e4, e5, e6]
  simp

/-- The word of format M, nested. -/
def wordM (op : Nat) (f : MF) (z : Nat) : Nat :=
  (((((upperN op f.dst f.sa f.sb * 2 ^ 4 + f.ty.code) * 2 ^ 3 + f.scope.code) * 2 ^ 2 + f.ord.code) * 2 ^ 1 + f.fs.toNat)
    * 2 ^ 2 + z) * 2 ^ 20 + f.off.toNat

theorem encode_M (op : Nat) (f : MF) : encUpper op f.dst f.sa f.sb + f.ty.code * 2 ^ 28 + f.scope.code * 2 ^ 25
    + f.ord.code * 2 ^ 23 + f.fs.toNat * 2 ^ 22 + f.off.toNat = wordM op f 0 := by
  unfold encUpper wordM upperN; ring

theorem readM_ok (w lit : W64) (f : MF) (h1 : rdOpnd w 55 48 lit = .ok f.dst) (h2 : rdOpnd w 47 40 lit = .ok f.sa)
    (h3 : rdOpnd w 39 32 lit = .ok f.sb) (h4 : rdTy w 31 28 = .ok f.ty) (h5 : fld w 27 25 = f.scope.code)
    (h6 : fld w 24 23 = f.ord.code) (h7 : fld w 21 20 = 0) (h8 : bitAt w 22 = f.fs) (h9 : fld w 19 0 = f.off.toNat) :
    readM w lit = .ok f := by
  unfold readM
  rw [h1, h2, h3, h4, h5, h6, Scope.ofCode_code, Order.ofCode_code]
  simp only
  rw [if_pos h7, h8, h9]
  simp

theorem readM_word (op : Nat) (f : MF) (z : Nat) (hz : z = 0) (lit : W64) (ho : op < 256)
    (hl : ∀ o ∈ [f.dst, f.sa, f.sb], ∀ x, o = .lit x → x = lit) :
    fld (BitVec.ofNat 64 (wordM op f z)) 63 56 = op ∧ readM (BitVec.ofNat 64 (wordM op f z)) lit = .ok f := by
  have h5 : f.scope.code < 2 ^ 3 := f.scope.code_lt
  have h6 : f.ord.code < 2 ^ 2 := f.ord.code_lt
  have hn : wordM op f z < 2 ^ 64 := by
    have h1 := upperN_lt op f.dst f.sa f.sb ho
    have h4 := f.ty.code_lt
    have h7 := f.fs.toNat_lt
    have h8 := f.off.isLt
    unfold wordM; omega
  have p0 := peel (wordM op f z) _ _ 20 0 (by rw [Nat.pow_zero, Nat.div_one]; rfl) f.off.isLt
  have p1 := peel (wordM op f z) _ _ 2 20 p0.2 (by omega)
  have p2 := peel (wordM op f z) _ _ 1 22 p1.2 f.fs.toNat_lt
  have p3 := peel (wordM op f z) _ _ 2 23 p2.2 h6
  have p4 := peel (wordM op f z) _ _ 3 25 p3.2 h5
  have p5 := peel (wordM op f z) _ _ 4 28 p4.2 f.ty.code_lt
  obtain ⟨q1, q2, q3, q4⟩ := upper_fields _ op f.dst f.sa f.sb hn p5.2 ho
  refine ⟨q4, ?_⟩
  have e0 : fld (BitVec.ofNat 64 (wordM op f z)) 19 0 = f.off.toNat := (fld_ofNat _ 19 0 hn).trans p0.1
  have e1 : fld (BitVec.ofNat 64 (wordM op f z)) 21 20 = 0 := ((fld_ofNat _ 21 20 hn).trans p1.1).trans hz
  have e2 := bitAt_ofNat (wordM op f z) 22 f.fs (by decide) p2.1
  have e3 : fld (BitVec.ofNat 64 (wordM op f z)) 24 23 = f.ord.code := (fld_ofNat _ 24 23 hn).trans p3.1
  have e4 : fld (BitVec.ofNat 64 (wordM op f z)) 27 25 = f.scope.code := (fld_ofNat _ 27 25 hn).trans p4.1
  have e5 : fld (BitVec.ofNat 64 (wordM op f z)) 31 28 = f.ty.code := (fld_ofNat _ 31 28 hn).trans p5.1
  exact readM_ok _ lit f (rdOpnd_ok _ lit 55 48 f.dst q3 (hl _ (by simp))) (rdOpnd_ok _ lit 47 40 f.sa q2 (hl _ (by simp)))
    (rdOpnd_ok _ lit 39 32 f.sb q1 (hl _ (by simp))) (rdTy_ok _ 31 28 f.ty e5) e4 e3 e1 e2 e0

/-- The word of format E, nested. -/
def wordE (op : Nat) (f : EF) : Nat :=
  (((((((upperN op f.dst f.sa f.sb * 2 ^ 8 + f.sc.code) * 2 ^ 4 + f.ty.code) * 2 ^ 4 + f.tyb.code) * 2 ^ 4 + f.fn.toNat)
    * 2 ^ 1 + f.fs.toNat) * 2 ^ 1 + f.actx.toNat) * 2 ^ 2 + f.acc.toNat) * 2 ^ 8 + f.aux.toNat

theorem encode_E (op : Nat) (f : EF) : encUpper op f.dst f.sa f.sb + f.sc.code * 2 ^ 24 + f.ty.code * 2 ^ 20
    + f.tyb.code * 2 ^ 16 + f.fn.toNat * 2 ^ 12 + f.fs.toNat * 2 ^ 11 + f.actx.toNat * 2 ^ 10
    + f.acc.toNat * 2 ^ 8 + f.aux.toNat = wordE op f := by
  unfold encUpper wordE upperN; ring

theorem readE_word (op : Nat) (f : EF) (lit : W64) (ho : op < 256)
    (hl : ∀ o ∈ [f.dst, f.sa, f.sb, f.sc], ∀ x, o = .lit x → x = lit) :
    fld (BitVec.ofNat 64 (wordE op f)) 63 56 = op ∧ readE (BitVec.ofNat 64 (wordE op f)) lit = .ok f := by
  have hn : wordE op f < 2 ^ 64 := by
    have h1 := upperN_lt op f.dst f.sa f.sb ho
    have h4 := f.sc.code_lt
    have h5 := f.ty.code_lt
    have h6 := f.tyb.code_lt
    have h7 := f.fn.isLt
    have h8 := f.fs.toNat_lt
    have h9 := f.actx.toNat_lt
    have h10 := f.acc.isLt
    have h11 := f.aux.isLt
    unfold wordE; omega
  have p0 := peel (wordE op f) _ _ 8 0 (by rw [Nat.pow_zero, Nat.div_one]; rfl) f.aux.isLt
  have p1 := peel (wordE op f) _ _ 2 8 p0.2 f.acc.isLt
  have p2 := peel (wordE op f) _ _ 1 10 p1.2 f.actx.toNat_lt
  have p3 := peel (wordE op f) _ _ 1 11 p2.2 f.fs.toNat_lt
  have p4 := peel (wordE op f) _ _ 4 12 p3.2 f.fn.isLt
  have p5 := peel (wordE op f) _ _ 4 16 p4.2 f.tyb.code_lt
  have p6 := peel (wordE op f) _ _ 4 20 p5.2 f.ty.code_lt
  have p7 := peel (wordE op f) _ _ 8 24 p6.2 f.sc.code_lt
  obtain ⟨q1, q2, q3, q4⟩ := upper_fields _ op f.dst f.sa f.sb hn p7.2 ho
  refine ⟨q4, ?_⟩
  have e0 : fld (BitVec.ofNat 64 (wordE op f)) 7 0 = f.aux.toNat := (fld_ofNat _ 7 0 hn).trans p0.1
  have e1 : fld (BitVec.ofNat 64 (wordE op f)) 9 8 = f.acc.toNat := (fld_ofNat _ 9 8 hn).trans p1.1
  have e2 := bitAt_ofNat (wordE op f) 10 f.actx (by decide) p2.1
  have e3 := bitAt_ofNat (wordE op f) 11 f.fs (by decide) p3.1
  have e4 : fld (BitVec.ofNat 64 (wordE op f)) 15 12 = f.fn.toNat := (fld_ofNat _ 15 12 hn).trans p4.1
  have e5 : fld (BitVec.ofNat 64 (wordE op f)) 19 16 = f.tyb.code := (fld_ofNat _ 19 16 hn).trans p5.1
  have e6 : fld (BitVec.ofNat 64 (wordE op f)) 23 20 = f.ty.code := (fld_ofNat _ 23 20 hn).trans p6.1
  have e7 : fld (BitVec.ofNat 64 (wordE op f)) 31 24 = f.sc.code := (fld_ofNat _ 31 24 hn).trans p7.1
  unfold readE
  rw [rdOpnd_ok _ lit 55 48 f.dst q3 (hl _ (by simp)), rdOpnd_ok _ lit 47 40 f.sa q2 (hl _ (by simp)),
    rdOpnd_ok _ lit 39 32 f.sb q1 (hl _ (by simp)), rdOpnd_ok _ lit 31 24 f.sc e7 (hl _ (by simp)), rdTy_ok _ 23 20 f.ty e6,
    rdTy_ok _ 19 16 f.tyb e5, e0, e1, e2, e3, e4]
  simp

/-- The word of format P, nested. -/
def wordP (f : PF) : Nat :=
  ((((((0xE0 * 2 ^ 12 + f.count.toNat) * 2 ^ 8 + f.stepd.toNat) * 2 ^ 8 + f.stepa.toNat) * 2 ^ 8 + f.stepb.toNat) * 2 ^ 8
    + f.stepc.toNat) * 2 ^ 4 + f.sshift.toNat) * 2 ^ 8 + 0

theorem encode_P (f : PF) : 0xE0 * 2 ^ 56 + f.count.toNat * 2 ^ 44 + f.stepd.toNat * 2 ^ 36
      + f.stepa.toNat * 2 ^ 28 + f.stepb.toNat * 2 ^ 20 + f.stepc.toNat * 2 ^ 12 + f.sshift.toNat * 2 ^ 8 = wordP f := by
  unfold wordP; ring

theorem readP_word (f : PF) :
    fld (BitVec.ofNat 64 (wordP f)) 63 56 = 0xE0 ∧ readP (BitVec.ofNat 64 (wordP f)) = .ok f := by
  have hn : wordP f < 2 ^ 64 := by
    have h1 := f.count.isLt
    have h2 := f.stepd.isLt
    have h3 := f.stepa.isLt
    have h4 := f.stepb.isLt
    have h5 := f.stepc.isLt
    have h6 := f.sshift.isLt
    unfold wordP; omega
  have p0 := peel (wordP f) _ _ 8 0 (by rw [Nat.pow_zero, Nat.div_one]; rfl) (by decide)
  have p1 := peel (wordP f) _ _ 4 8 p0.2 f.sshift.isLt
  have p2 := peel (wordP f) _ _ 8 12 p1.2 f.stepc.isLt
  have p3 := peel (wordP f) _ _ 8 20 p2.2 f.stepb.isLt
  have p4 := peel (wordP f) _ _ 8 28 p3.2 f.stepa.isLt
  have p5 := peel (wordP f) _ _ 8 36 p4.2 f.stepd.isLt
  have p6 := peel (wordP f) _ _ 12 44 p5.2 f.count.isLt
  have p7 := peel (wordP f) 0 0xE0 8 56 (by simpa using p6.2) (by decide)
  refine ⟨(fld_ofNat _ 63 56 hn).trans p7.1, ?_⟩
  have e0 : fld (BitVec.ofNat 64 (wordP f)) 7 0 = 0 := (fld_ofNat _ 7 0 hn).trans p0.1
  have e1 : fld (BitVec.ofNat 64 (wordP f)) 11 8 = f.sshift.toNat := (fld_ofNat _ 11 8 hn).trans p1.1
  have e2 : fld (BitVec.ofNat 64 (wordP f)) 19 12 = f.stepc.toNat := (fld_ofNat _ 19 12 hn).trans p2.1
  have e3 : fld (BitVec.ofNat 64 (wordP f)) 27 20 = f.stepb.toNat := (fld_ofNat _ 27 20 hn).trans p3.1
  have e4 : fld (BitVec.ofNat 64 (wordP f)) 35 28 = f.stepa.toNat := (fld_ofNat _ 35 28 hn).trans p4.1
  have e5 : fld (BitVec.ofNat 64 (wordP f)) 43 36 = f.stepd.toNat := (fld_ofNat _ 43 36 hn).trans p5.1
  have e6 : fld (BitVec.ofNat 64 (wordP f)) 55 44 = f.count.toNat := (fld_ofNat _ 55 44 hn).trans p6.1
  unfold readP
  rw [if_pos e0, e1, e2, e3, e4, e5, e6]
  simp

/-! ### From a format to its instructions -/

theorem wordAt_lits (w : W64) (l : List Opnd) : Machine.wordAt (w :: litsOf l) 1 = litWord l := rfl

theorem wf_of_view {i : Instr} {v : View} (h : i.view = v) (hv : v ≠ .step) (hw : i.wf = true) :
    i.selectorOk = true ∧ litCount v.opnds ≤ 1 := by
  unfold Instr.wf at hw
  rw [h] at hw
  cases v with
  | step => exact absurd rfl hv
  | _ => simpa using hw

theorem decode_S (w lit : W64) (op : Nat) (f : SF) (i : Instr) (h1 : fld w 63 56 = op) (hf : fmtOf op = .s)
    (h2 : readS w lit = .ok f) (hl : litCount [f.dst, f.sa, f.sb, f.sc] ≤ 1) (hc : sCtor op f = some i) : decodeWord w lit = .ok i := by
  unfold decodeWord
  rw [h1, hf]
  simp only [h2, View.ctor, hl, if_true, hc]

theorem decode_V (w lit : W64) (op : Nat) (f : VF) (i : Instr) (h1 : fld w 63 56 = op) (hf : fmtOf op = .v)
    (h2 : readV w lit = .ok f) (hl : litCount [f.dst, f.sa, f.sb, f.sc] ≤ 1) (hc : vCtor op f = some i) : decodeWord w lit = .ok i := by
  unfold decodeWord
  rw [h1, hf]
  simp only [h2, View.ctor, hl, if_true, hc]

theorem decode_M (w lit : W64) (op : Nat) (f : MF) (i : Instr) (h1 : fld w 63 56 = op) (hf : fmtOf op = .m)
    (h2 : readM w lit = .ok f) (hl : litCount [f.dst, f.sa, f.sb] ≤ 1) (hc : mCtor op f = some i) : decodeWord w lit = .ok i := by
  unfold decodeWord
  rw [h1, hf]
  simp only [h2, View.ctor, hl, if_true, hc]

theorem decode_E (w lit : W64) (op : Nat) (f : EF) (i : Instr) (h1 : fld w 63 56 = op) (hf : fmtOf op = .e)
    (h2 : readE w lit = .ok f) (hl : litCount [f.dst, f.sa, f.sb, f.sc] ≤ 1) (hc : eCtor op f = some i) : decodeWord w lit = .ok i := by
  unfold decodeWord
  rw [h1, hf]
  simp only [h2, View.ctor, hl, if_true, hc]

theorem roundS (op : Nat) (f : SF) (i : Instr) (h : i.view = .s op f) (ho : op < 256) (hf : fmtOf op = .s)
    (hc : i.selectorOk = true → sCtor op f = some i) (hw : i.wf = true) :
    decodeWord (Machine.wordAt (encode i) 0) (Machine.wordAt (encode i) 1) = .ok i := by
  obtain ⟨hs, hl⟩ := wf_of_view h (by simp) hw
  have he : encode i = BitVec.ofNat 64 (wordS op f) :: litsOf [f.dst, f.sa, f.sb, f.sc] := by
    unfold encode; rw [h, ← encode_S]
  rw [he, wordAt_lits]
  show decodeWord (BitVec.ofNat 64 (wordS op f)) _ = _
  obtain ⟨h1, h2⟩ := readS_word op f (litWord [f.dst, f.sa, f.sb, f.sc]) ho (fun o ho x e => (lit_eq _ hl o ho x e).symm ▸ rfl)
  exact decode_S _ _ op f i h1 hf h2 hl (hc hs)

theorem roundV (op : Nat) (f : VF) (i : Instr) (h : i.view = .v op f) (ho : op < 256) (hf : fmtOf op = .v)
    (hc : i.selectorOk = true → vCtor op f = some i) (hw : i.wf = true) :
    decodeWord (Machine.wordAt (encode i) 0) (Machine.wordAt (encode i) 1) = .ok i := by
  obtain ⟨hs, hl⟩ := wf_of_view h (by simp) hw
  have he : encode i = BitVec.ofNat 64 (wordV op f) :: litsOf [f.dst, f.sa, f.sb, f.sc] := by
    unfold encode; rw [h, ← encode_V]
  rw [he, wordAt_lits]
  show decodeWord (BitVec.ofNat 64 (wordV op f)) _ = _
  obtain ⟨h1, h2⟩ := readV_word op f (litWord [f.dst, f.sa, f.sb, f.sc]) ho (fun o ho x e => (lit_eq _ hl o ho x e).symm ▸ rfl)
  exact decode_V _ _ op f i h1 hf h2 hl (hc hs)

theorem roundM (op : Nat) (f : MF) (i : Instr) (h : i.view = .m op f) (ho : op < 256) (hf : fmtOf op = .m)
    (hc : i.selectorOk = true → mCtor op f = some i) (hw : i.wf = true) :
    decodeWord (Machine.wordAt (encode i) 0) (Machine.wordAt (encode i) 1) = .ok i := by
  obtain ⟨hs, hl⟩ := wf_of_view h (by simp) hw
  have he : encode i = BitVec.ofNat 64 (wordM op f 0) :: litsOf [f.dst, f.sa, f.sb] := by
    unfold encode; rw [h, ← encode_M]
  rw [he, wordAt_lits]
  show decodeWord (BitVec.ofNat 64 (wordM op f 0)) _ = _
  obtain ⟨h1, h2⟩ := readM_word op f 0 rfl (litWord [f.dst, f.sa, f.sb]) ho (fun o ho x e => (lit_eq _ hl o ho x e).symm ▸ rfl)
  exact decode_M _ _ op f i h1 hf h2 hl (hc hs)

theorem roundE (op : Nat) (f : EF) (i : Instr) (h : i.view = .e op f) (ho : op < 256) (hf : fmtOf op = .e)
    (hc : i.selectorOk = true → eCtor op f = some i) (hw : i.wf = true) :
    decodeWord (Machine.wordAt (encode i) 0) (Machine.wordAt (encode i) 1) = .ok i := by
  obtain ⟨hs, hl⟩ := wf_of_view h (by simp) hw
  have he : encode i = BitVec.ofNat 64 (wordE op f) :: litsOf [f.dst, f.sa, f.sb, f.sc] := by
    unfold encode; rw [h, ← encode_E]
  rw [he, wordAt_lits]
  show decodeWord (BitVec.ofNat 64 (wordE op f)) _ = _
  obtain ⟨h1, h2⟩ := readE_word op f (litWord [f.dst, f.sa, f.sb, f.sc]) ho (fun o ho x e => (lit_eq _ hl o ho x e).symm ▸ rfl)
  exact decode_E _ _ op f i h1 hf h2 hl (hc hs)

theorem roundP (f : PF) :
    decodeWord (Machine.wordAt (encode (.rep f)) 0) (Machine.wordAt (encode (.rep f)) 1) = .ok (.rep f) := by
  have he : encode (.rep f) = [BitVec.ofNat 64 (wordP f)] := by
    show [_] = _
    rw [encode_P]
  rw [he]
  show decodeWord (BitVec.ofNat 64 (wordP f)) _ = _
  obtain ⟨h1, h2⟩ := readP_word f
  unfold decodeWord
  rw [h1]
  simp only [show fmtOf 0xE0 = .p from rfl, h2]

end Sys2Proof
end

