-- ==== Sys2Proof/Laws/PerInstr.lean ====
section
/-! SUPPORT. Statements about every instruction as syntax, one lemma for each constructor. -/

namespace Sys2Proof

/-- The words of a well-formed instruction decode to it. -/
def Laws.RoundTrip.Statement (i : Instr) : Prop :=
  i.wf = true → decodeWord (Machine.wordAt (encode i) 0) (Machine.wordAt (encode i) 1) = .ok i

/-- A device step has no word. -/
theorem noWord (i : Instr) (h : i.view = .step) : Laws.RoundTrip.Statement i := fun hw => by
  unfold Instr.wf at hw
  rw [h] at hw
  cases hw

/-! ### Rows that share an opcode -/

theorem selected_actxRel (f : EF) (h : (Instr.actxRel f).selectorOk = true) : eCtor 0xB9 f = some (.actxRel f) := 
  congrArg (fun n => (match n with | 0 => some (.actxSwap f) | 1 => some (.actxRel f) | _ => none : Option Instr)) (show f.fn.toNat = 1 from congrArg BitVec.toNat (eq_of_beq h))

theorem selected_actxSwap (f : EF) (h : (Instr.actxSwap f).selectorOk = true) : eCtor 0xB9 f = some (.actxSwap f) := 
  congrArg (fun n => (match n with | 0 => some (.actxSwap f) | 1 => some (.actxRel f) | _ => none : Option Instr)) (show f.fn.toNat = 0 from congrArg BitVec.toNat (eq_of_beq h))

theorem selected_aout (f : EF) (h : (Instr.aout f).selectorOk = true) : eCtor 0xB5 f = some (.aout f) := 
  congrArg (fun n => (match n with | 0 => some (.aout f) | 1 => some (.aoutClr f) | _ => none : Option Instr)) (show f.fn.toNat = 0 from congrArg BitVec.toNat (eq_of_beq h))

theorem selected_aoutClr (f : EF) (h : (Instr.aoutClr f).selectorOk = true) : eCtor 0xB5 f = some (.aoutClr f) := 
  congrArg (fun n => (match n with | 0 => some (.aout f) | 1 => some (.aoutClr f) | _ => none : Option Instr)) (show f.fn.toNat = 1 from congrArg BitVec.toNat (eq_of_beq h))

theorem selected_cbacqCons (f : MF) (h : (Instr.cbacqCons f).selectorOk = true) : mCtor 0x95 f = some (.cbacqCons f) := 
  congrArg (fun n => (match n with | 0 => some (.cbacqProd f) | 1 => some (.cbacqCons f) | _ => none : Option Instr)) (show f.mop = 1 from eq_of_beq h)

theorem selected_cbacqProd (f : MF) (h : (Instr.cbacqProd f).selectorOk = true) : mCtor 0x95 f = some (.cbacqProd f) := 
  congrArg (fun n => (match n with | 0 => some (.cbacqProd f) | 1 => some (.cbacqCons f) | _ => none : Option Instr)) (show f.mop = 0 from eq_of_beq h)

theorem selected_cbrelCons (f : MF) (h : (Instr.cbrelCons f).selectorOk = true) : mCtor 0x96 f = some (.cbrelCons f) := 
  congrArg (fun n => (match n with | 0 => some (.cbrelProd f) | 1 => some (.cbrelCons f) | _ => none : Option Instr)) (show f.mop = 1 from eq_of_beq h)

theorem selected_cbrelProd (f : MF) (h : (Instr.cbrelProd f).selectorOk = true) : mCtor 0x96 f = some (.cbrelProd f) := 
  congrArg (fun n => (match n with | 0 => some (.cbrelProd f) | 1 => some (.cbrelCons f) | _ => none : Option Instr)) (show f.mop = 0 from eq_of_beq h)

theorem selected_commitBlock (f : SF) (h : (Instr.commitBlock f).selectorOk = true) : sCtor 0xA0 f = some (.commitBlock f) := 
  congrArg (fun n => (match n with | 0 => some (.commitBlock f) | 1 => some (.commitGrid f) | 2 => some (.commitPod f) | _ => none : Option Instr)) (show f.fn.toNat = 0 from congrArg BitVec.toNat (eq_of_beq h))

theorem selected_commitGrid (f : SF) (h : (Instr.commitGrid f).selectorOk = true) : sCtor 0xA0 f = some (.commitGrid f) := 
  congrArg (fun n => (match n with | 0 => some (.commitBlock f) | 1 => some (.commitGrid f) | 2 => some (.commitPod f) | _ => none : Option Instr)) (show f.fn.toNat = 1 from congrArg BitVec.toNat (eq_of_beq h))

theorem selected_commitPod (f : SF) (h : (Instr.commitPod f).selectorOk = true) : sCtor 0xA0 f = some (.commitPod f) := 
  congrArg (fun n => (match n with | 0 => some (.commitBlock f) | 1 => some (.commitGrid f) | 2 => some (.commitPod f) | _ => none : Option Instr)) (show f.fn.toNat = 2 from congrArg BitVec.toNat (eq_of_beq h))

theorem selected_dflushGrid (f : SF) (h : (Instr.dflushGrid f).selectorOk = true) : sCtor 0xA1 f = some (.dflushGrid f) := 
  congrArg (fun n => (match n with | 0 => some (.dflushGrid f) | 1 => some (.dflushPod f) | _ => none : Option Instr)) (show f.fn.toNat = 0 from congrArg BitVec.toNat (eq_of_beq h))

theorem selected_dflushPod (f : SF) (h : (Instr.dflushPod f).selectorOk = true) : sCtor 0xA1 f = some (.dflushPod f) := 
  congrArg (fun n => (match n with | 0 => some (.dflushGrid f) | 1 => some (.dflushPod f) | _ => none : Option Instr)) (show f.fn.toNat = 1 from congrArg BitVec.toNat (eq_of_beq h))

theorem selected_dwresKill (f : SF) (h : (Instr.dwresKill f).selectorOk = true) : sCtor 0xCE f = some (.dwresKill f) := 
  congrArg (fun n => (match n with | 0 => some (.dwresResume f) | 1 => some (.dwresKill f) | _ => none : Option Instr)) (show f.fn.toNat = 1 from congrArg BitVec.toNat (eq_of_beq h))

theorem selected_dwresResume (f : SF) (h : (Instr.dwresResume f).selectorOk = true) : sCtor 0xCE f = some (.dwresResume f) := 
  congrArg (fun n => (match n with | 0 => some (.dwresResume f) | 1 => some (.dwresKill f) | _ => none : Option Instr)) (show f.fn.toNat = 0 from congrArg BitVec.toNat (eq_of_beq h))

theorem selected_erqAcq (f : EF) (h : (Instr.erqAcq f).selectorOk = true) : eCtor 0xC6 f = some (.erqAcq f) := 
  congrArg (fun n => (match n with | 0 => some (.erqQry f) | 1 => some (.erqAcq f) | 2 => some (.erqRel f) | _ => none : Option Instr)) (show f.fn.toNat = 1 from congrArg BitVec.toNat (eq_of_beq h))

theorem selected_erqQry (f : EF) (h : (Instr.erqQry f).selectorOk = true) : eCtor 0xC6 f = some (.erqQry f) := 
  congrArg (fun n => (match n with | 0 => some (.erqQry f) | 1 => some (.erqAcq f) | 2 => some (.erqRel f) | _ => none : Option Instr)) (show f.fn.toNat = 0 from congrArg BitVec.toNat (eq_of_beq h))

theorem selected_erqRel (f : EF) (h : (Instr.erqRel f).selectorOk = true) : eCtor 0xC6 f = some (.erqRel f) := 
  congrArg (fun n => (match n with | 0 => some (.erqQry f) | 1 => some (.erqAcq f) | 2 => some (.erqRel f) | _ => none : Option Instr)) (show f.fn.toNat = 2 from congrArg BitVec.toNat (eq_of_beq h))

theorem selected_kld (f : EF) (h : (Instr.kld f).selectorOk = true) : eCtor 0xB8 f = some (.kld f) := 
  congrArg (fun n => (match n with | 0 => some (.kld f) | 1 => some (.kldAll f) | _ => none : Option Instr)) (show f.fn.toNat = 0 from congrArg BitVec.toNat (eq_of_beq h))

theorem selected_kldAll (f : EF) (h : (Instr.kldAll f).selectorOk = true) : eCtor 0xB8 f = some (.kldAll f) := 
  congrArg (fun n => (match n with | 0 => some (.kld f) | 1 => some (.kldAll f) | _ => none : Option Instr)) (show f.fn.toNat = 1 from congrArg BitVec.toNat (eq_of_beq h))

theorem selected_miter (f : EF) (h : (Instr.miter f).selectorOk = true) : eCtor 0xB3 f = some (.miter f) := by
  have h : f.fn.toNat ≤ 2 := of_decide_eq_true h
  have h : f.fn.toNat = 0 ∨ f.fn.toNat = 1 ∨ f.fn.toNat = 2 := by omega
  rcases h with h | h | h <;>
    exact congrArg (fun n => (match n with | 0 => some (.miter f) | 1 => some (.miter f) | 2 => some (.miter f) | 8 => some (.miterCont f) | 9 => some (.miterCont f) | 10 => some (.miterCont f) | _ => none : Option Instr)) h

theorem selected_miterCont (f : EF) (h : (Instr.miterCont f).selectorOk = true) : eCtor 0xB3 f = some (.miterCont f) := by
  have h : (decide (8 ≤ f.fn.toNat) && decide (f.fn.toNat ≤ 10)) = true := h
  have h := Bool.and_eq_true_iff.mp h
  have h := And.intro (of_decide_eq_true h.1) (of_decide_eq_true h.2)
  have h : f.fn.toNat = 8 ∨ f.fn.toNat = 9 ∨ f.fn.toNat = 10 := by omega
  rcases h with h | h | h <;>
    exact congrArg (fun n => (match n with | 0 => some (.miter f) | 1 => some (.miter f) | 2 => some (.miter f) | 8 => some (.miterCont f) | 9 => some (.miterCont f) | 10 => some (.miterCont f) | _ => none : Option Instr)) h

theorem selected_tqaddRt (f : EF) (h : (Instr.tqaddRt f).selectorOk = true) : eCtor 0xC9 f = some (.tqaddRt f) := 
  congrArg (fun n => (match n with | 0 => some (.tqaddSh f) | 1 => some (.tqaddRt f) | _ => none : Option Instr)) (show f.fn.toNat = 1 from congrArg BitVec.toNat (eq_of_beq h))

theorem selected_tqaddSh (f : EF) (h : (Instr.tqaddSh f).selectorOk = true) : eCtor 0xC9 f = some (.tqaddSh f) := 
  congrArg (fun n => (match n with | 0 => some (.tqaddSh f) | 1 => some (.tqaddRt f) | _ => none : Option Instr)) (show f.fn.toNat = 0 from congrArg BitVec.toNat (eq_of_beq h))

theorem selected_trapHost (f : SF) (h : (Instr.trapHost f).selectorOk = true) : sCtor 0xD0 f = some (.trapHost f) := 
  congrArg (fun n => (match n with | 0 => some (.trapSeq f) | 1 => some (.trapHost f) | _ => none : Option Instr)) (show f.fn.toNat = 1 from congrArg BitVec.toNat (eq_of_beq h))

theorem selected_trapSeq (f : SF) (h : (Instr.trapSeq f).selectorOk = true) : sCtor 0xD0 f = some (.trapSeq f) := 
  congrArg (fun n => (match n with | 0 => some (.trapSeq f) | 1 => some (.trapHost f) | _ => none : Option Instr)) (show f.fn.toNat = 0 from congrArg BitVec.toNat (eq_of_beq h))

theorem selected_txfcCons (f : EF) (h : (Instr.txfcCons f).selectorOk = true) : eCtor 0xC1 f = some (.txfcCons f) := 
  congrArg (fun n => (match n with | 0 => some (.txfcProd f) | 1 => some (.txfcCons f) | _ => none : Option Instr)) (show f.fn.toNat = 1 from congrArg BitVec.toNat (eq_of_beq h))

theorem selected_txfcProd (f : EF) (h : (Instr.txfcProd f).selectorOk = true) : eCtor 0xC1 f = some (.txfcProd f) := 
  congrArg (fun n => (match n with | 0 => some (.txfcProd f) | 1 => some (.txfcCons f) | _ => none : Option Instr)) (show f.fn.toNat = 0 from congrArg BitVec.toNat (eq_of_beq h))

theorem selected_txfsClr (f : EF) (h : (Instr.txfsClr f).selectorOk = true) : eCtor 0xC2 f = some (.txfsClr f) := 
  congrArg (fun n => (match n with | 0 => some (.txfsRd f) | 1 => some (.txfsClr f) | _ => none : Option Instr)) (show f.fn.toNat = 1 from congrArg BitVec.toNat (eq_of_beq h))

theorem selected_txfsRd (f : EF) (h : (Instr.txfsRd f).selectorOk = true) : eCtor 0xC2 f = some (.txfsRd f) := 
  congrArg (fun n => (match n with | 0 => some (.txfsRd f) | 1 => some (.txfsClr f) | _ => none : Option Instr)) (show f.fn.toNat = 0 from congrArg BitVec.toNat (eq_of_beq h))

/-! ### One lemma for each constructor -/

theorem Laws.RoundTrip.iadd (f : SF) : Laws.RoundTrip.Statement (.iadd f) := roundS 0x01 f _ rfl (Nat.le_of_ble_eq_true rfl) rfl (fun _ => rfl)
theorem Laws.RoundTrip.isub (f : SF) : Laws.RoundTrip.Statement (.isub f) := roundS 0x02 f _ rfl (Nat.le_of_ble_eq_true rfl) rfl (fun _ => rfl)
theorem Laws.RoundTrip.imul (f : SF) : Laws.RoundTrip.Statement (.imul f) := roundS 0x03 f _ rfl (Nat.le_of_ble_eq_true rfl) rfl (fun _ => rfl)
theorem Laws.RoundTrip.imulh (f : SF) : Laws.RoundTrip.Statement (.imulh f) := roundS 0x04 f _ rfl (Nat.le_of_ble_eq_true rfl) rfl (fun _ => rfl)
theorem Laws.RoundTrip.imad (f : SF) : Laws.RoundTrip.Statement (.imad f) := roundS 0x05 f _ rfl (Nat.le_of_ble_eq_true rfl) rfl (fun _ => rfl)
theorem Laws.RoundTrip.idiv (f : SF) : Laws.RoundTrip.Statement (.idiv f) := roundS 0x06 f _ rfl (Nat.le_of_ble_eq_true rfl) rfl (fun _ => rfl)
theorem Laws.RoundTrip.irem (f : SF) : Laws.RoundTrip.Statement (.irem f) := roundS 0x07 f _ rfl (Nat.le_of_ble_eq_true rfl) rfl (fun _ => rfl)
theorem Laws.RoundTrip.imin (f : SF) : Laws.RoundTrip.Statement (.imin f) := roundS 0x08 f _ rfl (Nat.le_of_ble_eq_true rfl) rfl (fun _ => rfl)
theorem Laws.RoundTrip.imax (f : SF) : Laws.RoundTrip.Statement (.imax f) := roundS 0x09 f _ rfl (Nat.le_of_ble_eq_true rfl) rfl (fun _ => rfl)
theorem Laws.RoundTrip.andS (f : SF) : Laws.RoundTrip.Statement (.andS f) := roundS 0x0A f _ rfl (Nat.le_of_ble_eq_true rfl) rfl (fun _ => rfl)
theorem Laws.RoundTrip.orS (f : SF) : Laws.RoundTrip.Statement (.orS f) := roundS 0x0B f _ rfl (Nat.le_of_ble_eq_true rfl) rfl (fun _ => rfl)
theorem Laws.RoundTrip.xorS (f : SF) : Laws.RoundTrip.Statement (.xorS f) := roundS 0x0C f _ rfl (Nat.le_of_ble_eq_true rfl) rfl (fun _ => rfl)
theorem Laws.RoundTrip.notS (f : SF) : Laws.RoundTrip.Statement (.notS f) := roundS 0x0D f _ rfl (Nat.le_of_ble_eq_true rfl) rfl (fun _ => rfl)
theorem Laws.RoundTrip.shl (f : SF) : Laws.RoundTrip.Statement (.shl f) := roundS 0x0E f _ rfl (Nat.le_of_ble_eq_true rfl) rfl (fun _ => rfl)
theorem Laws.RoundTrip.shr (f : SF) : Laws.RoundTrip.Statement (.shr f) := roundS 0x0F f _ rfl (Nat.le_of_ble_eq_true rfl) rfl (fun _ => rfl)
theorem Laws.RoundTrip.sar (f : SF) : Laws.RoundTrip.Statement (.sar f) := roundS 0x10 f _ rfl (Nat.le_of_ble_eq_true rfl) rfl (fun _ => rfl)
theorem Laws.RoundTrip.rot (f : SF) : Laws.RoundTrip.Statement (.rot f) := roundS 0x11 f _ rfl (Nat.le_of_ble_eq_true rfl) rfl (fun _ => rfl)
theorem Laws.RoundTrip.clz (f : SF) : Laws.RoundTrip.Statement (.clz f) := roundS 0x12 f _ rfl (Nat.le_of_ble_eq_true rfl) rfl (fun _ => rfl)
theorem Laws.RoundTrip.popc (f : SF) : Laws.RoundTrip.Statement (.popc f) := roundS 0x13 f _ rfl (Nat.le_of_ble_eq_true rfl) rfl (fun _ => rfl)
theorem Laws.RoundTrip.bfx (f : SF) : Laws.RoundTrip.Statement (.bfx f) := roundS 0x14 f _ rfl (Nat.le_of_ble_eq_true rfl) rfl (fun _ => rfl)
theorem Laws.RoundTrip.bfi (f : SF) : Laws.RoundTrip.Statement (.bfi f) := roundS 0x15 f _ rfl (Nat.le_of_ble_eq_true rfl) rfl (fun _ => rfl)
theorem Laws.RoundTrip.icmp (f : SF) : Laws.RoundTrip.Statement (.icmp f) := roundS 0x16 f _ rfl (Nat.le_of_ble_eq_true rfl) rfl (fun _ => rfl)
theorem Laws.RoundTrip.sel (f : SF) : Laws.RoundTrip.Statement (.sel f) := roundS 0x17 f _ rfl (Nat.le_of_ble_eq_true rfl) rfl (fun _ => rfl)
theorem Laws.RoundTrip.mov (f : SF) : Laws.RoundTrip.Statement (.mov f) := roundS 0x18 f _ rfl (Nat.le_of_ble_eq_true rfl) rfl (fun _ => rfl)
theorem Laws.RoundTrip.lea (f : SF) : Laws.RoundTrip.Statement (.lea f) := roundS 0x19 f _ rfl (Nat.le_of_ble_eq_true rfl) rfl (fun _ => rfl)
theorem Laws.RoundTrip.sfadd (f : SF) : Laws.RoundTrip.Statement (.sfadd f) := roundS 0x1A f _ rfl (Nat.le_of_ble_eq_true rfl) rfl (fun _ => rfl)
theorem Laws.RoundTrip.sfmul (f : SF) : Laws.RoundTrip.Statement (.sfmul f) := roundS 0x1B f _ rfl (Nat.le_of_ble_eq_true rfl) rfl (fun _ => rfl)
theorem Laws.RoundTrip.sfma (f : SF) : Laws.RoundTrip.Statement (.sfma f) := roundS 0x1C f _ rfl (Nat.le_of_ble_eq_true rfl) rfl (fun _ => rfl)
theorem Laws.RoundTrip.sfcmp (f : SF) : Laws.RoundTrip.Statement (.sfcmp f) := roundS 0x1D f _ rfl (Nat.le_of_ble_eq_true rfl) rfl (fun _ => rfl)
theorem Laws.RoundTrip.scvt (f : SF) : Laws.RoundTrip.Statement (.scvt f) := roundS 0x1E f _ rfl (Nat.le_of_ble_eq_true rfl) rfl (fun _ => rfl)
theorem Laws.RoundTrip.mfs (f : SF) : Laws.RoundTrip.Statement (.mfs f) := roundS 0x1F f _ rfl (Nat.le_of_ble_eq_true rfl) rfl (fun _ => rfl)
theorem Laws.RoundTrip.mts (f : SF) : Laws.RoundTrip.Statement (.mts f) := roundS 0x20 f _ rfl (Nat.le_of_ble_eq_true rfl) rfl (fun _ => rfl)
theorem Laws.RoundTrip.br (f : SF) : Laws.RoundTrip.Statement (.br f) := roundS 0x28 f _ rfl (Nat.le_of_ble_eq_true rfl) rfl (fun _ => rfl)
theorem Laws.RoundTrip.brc (f : SF) : Laws.RoundTrip.Statement (.brc f) := roundS 0x29 f _ rfl (Nat.le_of_ble_eq_true rfl) rfl (fun _ => rfl)
theorem Laws.RoundTrip.brx (f : SF) : Laws.RoundTrip.Statement (.brx f) := roundS 0x2A f _ rfl (Nat.le_of_ble_eq_true rfl) rfl (fun _ => rfl)
theorem Laws.RoundTrip.call (f : SF) : Laws.RoundTrip.Statement (.call f) := roundS 0x2B f _ rfl (Nat.le_of_ble_eq_true rfl) rfl (fun _ => rfl)
theorem Laws.RoundTrip.callx (f : SF) : Laws.RoundTrip.Statement (.callx f) := roundS 0x2C f _ rfl (Nat.le_of_ble_eq_true rfl) rfl (fun _ => rfl)
theorem Laws.RoundTrip.ret (f : SF) : Laws.RoundTrip.Statement (.ret f) := roundS 0x2D f _ rfl (Nat.le_of_ble_eq_true rfl) rfl (fun _ => rfl)
theorem Laws.RoundTrip.bsplit (f : SF) : Laws.RoundTrip.Statement (.bsplit f) := roundS 0x2E f _ rfl (Nat.le_of_ble_eq_true rfl) rfl (fun _ => rfl)
theorem Laws.RoundTrip.bjoin (f : SF) : Laws.RoundTrip.Statement (.bjoin f) := roundS 0x2F f _ rfl (Nat.le_of_ble_eq_true rfl) rfl (fun _ => rfl)
theorem Laws.RoundTrip.dpush (f : SF) : Laws.RoundTrip.Statement (.dpush f) := roundS 0x30 f _ rfl (Nat.le_of_ble_eq_true rfl) rfl (fun _ => rfl)
theorem Laws.RoundTrip.dpop (f : SF) : Laws.RoundTrip.Statement (.dpop f) := roundS 0x31 f _ rfl (Nat.le_of_ble_eq_true rfl) rfl (fun _ => rfl)
theorem Laws.RoundTrip.msk (f : SF) : Laws.RoundTrip.Statement (.msk f) := roundS 0x32 f _ rfl (Nat.le_of_ble_eq_true rfl) rfl (fun _ => rfl)
theorem Laws.RoundTrip.mbcnt (f : SF) : Laws.RoundTrip.Statement (.mbcnt f) := roundS 0x33 f _ rfl (Nat.le_of_ble_eq_true rfl) rfl (fun _ => rfl)
theorem Laws.RoundTrip.mfirst (f : SF) : Laws.RoundTrip.Statement (.mfirst f) := roundS 0x34 f _ rfl (Nat.le_of_ble_eq_true rfl) rfl (fun _ => rfl)
theorem Laws.RoundTrip.nop (f : SF) : Laws.RoundTrip.Statement (.nop f) := roundS 0x35 f _ rfl (Nat.le_of_ble_eq_true rfl) rfl (fun _ => rfl)
theorem Laws.RoundTrip.commitBlock (f : SF) : Laws.RoundTrip.Statement (.commitBlock f) := roundS 0xA0 f _ rfl (Nat.le_of_ble_eq_true rfl) rfl (fun h => selected_commitBlock f h)
theorem Laws.RoundTrip.commitGrid (f : SF) : Laws.RoundTrip.Statement (.commitGrid f) := roundS 0xA0 f _ rfl (Nat.le_of_ble_eq_true rfl) rfl (fun h => selected_commitGrid f h)
theorem Laws.RoundTrip.commitPod (f : SF) : Laws.RoundTrip.Statement (.commitPod f) := roundS 0xA0 f _ rfl (Nat.le_of_ble_eq_true rfl) rfl (fun h => selected_commitPod f h)
theorem Laws.RoundTrip.dflushGrid (f : SF) : Laws.RoundTrip.Statement (.dflushGrid f) := roundS 0xA1 f _ rfl (Nat.le_of_ble_eq_true rfl) rfl (fun h => selected_dflushGrid f h)
theorem Laws.RoundTrip.dflushPod (f : SF) : Laws.RoundTrip.Statement (.dflushPod f) := roundS 0xA1 f _ rfl (Nat.le_of_ble_eq_true rfl) rfl (fun h => selected_dflushPod f h)
theorem Laws.RoundTrip.capnew (f : SF) : Laws.RoundTrip.Statement (.capnew f) := roundS 0xA6 f _ rfl (Nat.le_of_ble_eq_true rfl) rfl (fun _ => rfl)
theorem Laws.RoundTrip.capswap (f : SF) : Laws.RoundTrip.Statement (.capswap f) := roundS 0xA7 f _ rfl (Nat.le_of_ble_eq_true rfl) rfl (fun _ => rfl)
theorem Laws.RoundTrip.caprev (f : SF) : Laws.RoundTrip.Statement (.caprev f) := roundS 0xA8 f _ rfl (Nat.le_of_ble_eq_true rfl) rfl (fun _ => rfl)
theorem Laws.RoundTrip.capqry (f : SF) : Laws.RoundTrip.Statement (.capqry f) := roundS 0xA9 f _ rfl (Nat.le_of_ble_eq_true rfl) rfl (fun _ => rfl)
theorem Laws.RoundTrip.dwrd (f : SF) : Laws.RoundTrip.Statement (.dwrd f) := roundS 0xCC f _ rfl (Nat.le_of_ble_eq_true rfl) rfl (fun _ => rfl)
theorem Laws.RoundTrip.dwwr (f : SF) : Laws.RoundTrip.Statement (.dwwr f) := roundS 0xCD f _ rfl (Nat.le_of_ble_eq_true rfl) rfl (fun _ => rfl)
theorem Laws.RoundTrip.dwresResume (f : SF) : Laws.RoundTrip.Statement (.dwresResume f) := roundS 0xCE f _ rfl (Nat.le_of_ble_eq_true rfl) rfl (fun h => selected_dwresResume f h)
theorem Laws.RoundTrip.dwresKill (f : SF) : Laws.RoundTrip.Statement (.dwresKill f) := roundS 0xCE f _ rfl (Nat.le_of_ble_eq_true rfl) rfl (fun h => selected_dwresKill f h)
theorem Laws.RoundTrip.dwstep (f : SF) : Laws.RoundTrip.Statement (.dwstep f) := roundS 0xCF f _ rfl (Nat.le_of_ble_eq_true rfl) rfl (fun _ => rfl)
theorem Laws.RoundTrip.trapSeq (f : SF) : Laws.RoundTrip.Statement (.trapSeq f) := roundS 0xD0 f _ rfl (Nat.le_of_ble_eq_true rfl) rfl (fun h => selected_trapSeq f h)
theorem Laws.RoundTrip.trapHost (f : SF) : Laws.RoundTrip.Statement (.trapHost f) := roundS 0xD0 f _ rfl (Nat.le_of_ble_eq_true rfl) rfl (fun h => selected_trapHost f h)
theorem Laws.RoundTrip.rett (f : SF) : Laws.RoundTrip.Statement (.rett f) := roundS 0xD1 f _ rfl (Nat.le_of_ble_eq_true rfl) rfl (fun _ => rfl)
theorem Laws.RoundTrip.yield (f : SF) : Laws.RoundTrip.Statement (.yield f) := roundS 0xD2 f _ rfl (Nat.le_of_ble_eq_true rfl) rfl (fun _ => rfl)
theorem Laws.RoundTrip.sleep (f : SF) : Laws.RoundTrip.Statement (.sleep f) := roundS 0xD3 f _ rfl (Nat.le_of_ble_eq_true rfl) rfl (fun _ => rfl)
theorem Laws.RoundTrip.halt (f : SF) : Laws.RoundTrip.Statement (.halt f) := roundS 0xD4 f _ rfl (Nat.le_of_ble_eq_true rfl) rfl (fun _ => rfl)
theorem Laws.RoundTrip.pgmap (f : SF) : Laws.RoundTrip.Statement (.pgmap f) := roundS 0xD5 f _ rfl (Nat.le_of_ble_eq_true rfl) rfl (fun _ => rfl)
theorem Laws.RoundTrip.viadd (f : VF) : Laws.RoundTrip.Statement (.viadd f) := roundV 0x40 f _ rfl (Nat.le_of_ble_eq_true rfl) rfl (fun _ => rfl)
theorem Laws.RoundTrip.visub (f : VF) : Laws.RoundTrip.Statement (.visub f) := roundV 0x41 f _ rfl (Nat.le_of_ble_eq_true rfl) rfl (fun _ => rfl)
theorem Laws.RoundTrip.vimul (f : VF) : Laws.RoundTrip.Statement (.vimul f) := roundV 0x42 f _ rfl (Nat.le_of_ble_eq_true rfl) rfl (fun _ => rfl)
theorem Laws.RoundTrip.vimad (f : VF) : Laws.RoundTrip.Statement (.vimad f) := roundV 0x43 f _ rfl (Nat.le_of_ble_eq_true rfl) rfl (fun _ => rfl)
theorem Laws.RoundTrip.vimin (f : VF) : Laws.RoundTrip.Statement (.vimin f) := roundV 0x44 f _ rfl (Nat.le_of_ble_eq_true rfl) rfl (fun _ => rfl)
theorem Laws.RoundTrip.vimax (f : VF) : Laws.RoundTrip.Statement (.vimax f) := roundV 0x45 f _ rfl (Nat.le_of_ble_eq_true rfl) rfl (fun _ => rfl)
theorem Laws.RoundTrip.viabs (f : VF) : Laws.RoundTrip.Statement (.viabs f) := roundV 0x46 f _ rfl (Nat.le_of_ble_eq_true rfl) rfl (fun _ => rfl)
theorem Laws.RoundTrip.viadds (f : VF) : Laws.RoundTrip.Statement (.viadds f) := roundV 0x47 f _ rfl (Nat.le_of_ble_eq_true rfl) rfl (fun _ => rfl)
theorem Laws.RoundTrip.visubs (f : VF) : Laws.RoundTrip.Statement (.visubs f) := roundV 0x48 f _ rfl (Nat.le_of_ble_eq_true rfl) rfl (fun _ => rfl)
theorem Laws.RoundTrip.vand (f : VF) : Laws.RoundTrip.Statement (.vand f) := roundV 0x49 f _ rfl (Nat.le_of_ble_eq_true rfl) rfl (fun _ => rfl)
theorem Laws.RoundTrip.vor (f : VF) : Laws.RoundTrip.Statement (.vor f) := roundV 0x4A f _ rfl (Nat.le_of_ble_eq_true rfl) rfl (fun _ => rfl)
theorem Laws.RoundTrip.vxor (f : VF) : Laws.RoundTrip.Statement (.vxor f) := roundV 0x4B f _ rfl (Nat.le_of_ble_eq_true rfl) rfl (fun _ => rfl)
theorem Laws.RoundTrip.vnot (f : VF) : Laws.RoundTrip.Statement (.vnot f) := roundV 0x4C f _ rfl (Nat.le_of_ble_eq_true rfl) rfl (fun _ => rfl)
theorem Laws.RoundTrip.vshl (f : VF) : Laws.RoundTrip.Statement (.vshl f) := roundV 0x4D f _ rfl (Nat.le_of_ble_eq_true rfl) rfl (fun _ => rfl)
theorem Laws.RoundTrip.vshr (f : VF) : Laws.RoundTrip.Statement (.vshr f) := roundV 0x4E f _ rfl (Nat.le_of_ble_eq_true rfl) rfl (fun _ => rfl)
theorem Laws.RoundTrip.vsar (f : VF) : Laws.RoundTrip.Statement (.vsar f) := roundV 0x4F f _ rfl (Nat.le_of_ble_eq_true rfl) rfl (fun _ => rfl)
theorem Laws.RoundTrip.vbfx (f : VF) : Laws.RoundTrip.Statement (.vbfx f) := roundV 0x50 f _ rfl (Nat.le_of_ble_eq_true rfl) rfl (fun _ => rfl)
theorem Laws.RoundTrip.vpopc (f : VF) : Laws.RoundTrip.Statement (.vpopc f) := roundV 0x51 f _ rfl (Nat.le_of_ble_eq_true rfl) rfl (fun _ => rfl)
theorem Laws.RoundTrip.vicmp (f : VF) : Laws.RoundTrip.Statement (.vicmp f) := roundV 0x52 f _ rfl (Nat.le_of_ble_eq_true rfl) rfl (fun _ => rfl)
theorem Laws.RoundTrip.vsel (f : VF) : Laws.RoundTrip.Statement (.vsel f) := roundV 0x53 f _ rfl (Nat.le_of_ble_eq_true rfl) rfl (fun _ => rfl)
theorem Laws.RoundTrip.vmov (f : VF) : Laws.RoundTrip.Statement (.vmov f) := roundV 0x54 f _ rfl (Nat.le_of_ble_eq_true rfl) rfl (fun _ => rfl)
theorem Laws.RoundTrip.vfadd (f : VF) : Laws.RoundTrip.Statement (.vfadd f) := roundV 0x58 f _ rfl (Nat.le_of_ble_eq_true rfl) rfl (fun _ => rfl)
theorem Laws.RoundTrip.vfsub (f : VF) : Laws.RoundTrip.Statement (.vfsub f) := roundV 0x59 f _ rfl (Nat.le_of_ble_eq_true rfl) rfl (fun _ => rfl)
theorem Laws.RoundTrip.vfmul (f : VF) : Laws.RoundTrip.Statement (.vfmul f) := roundV 0x5A f _ rfl (Nat.le_of_ble_eq_true rfl) rfl (fun _ => rfl)
theorem Laws.RoundTrip.vfma (f : VF) : Laws.RoundTrip.Statement (.vfma f) := roundV 0x5B f _ rfl (Nat.le_of_ble_eq_true rfl) rfl (fun _ => rfl)
theorem Laws.RoundTrip.vfmin (f : VF) : Laws.RoundTrip.Statement (.vfmin f) := roundV 0x5C f _ rfl (Nat.le_of_ble_eq_true rfl) rfl (fun _ => rfl)
theorem Laws.RoundTrip.vfmax (f : VF) : Laws.RoundTrip.Statement (.vfmax f) := roundV 0x5D f _ rfl (Nat.le_of_ble_eq_true rfl) rfl (fun _ => rfl)
theorem Laws.RoundTrip.vfcmp (f : VF) : Laws.RoundTrip.Statement (.vfcmp f) := roundV 0x5E f _ rfl (Nat.le_of_ble_eq_true rfl) rfl (fun _ => rfl)
theorem Laws.RoundTrip.vfclass (f : VF) : Laws.RoundTrip.Statement (.vfclass f) := roundV 0x5F f _ rfl (Nat.le_of_ble_eq_true rfl) rfl (fun _ => rfl)
theorem Laws.RoundTrip.vcvt (f : VF) : Laws.RoundTrip.Statement (.vcvt f) := roundV 0x60 f _ rfl (Nat.le_of_ble_eq_true rfl) rfl (fun _ => rfl)
theorem Laws.RoundTrip.vpack (f : VF) : Laws.RoundTrip.Statement (.vpack f) := roundV 0x61 f _ rfl (Nat.le_of_ble_eq_true rfl) rfl (fun _ => rfl)
theorem Laws.RoundTrip.vunpk (f : VF) : Laws.RoundTrip.Statement (.vunpk f) := roundV 0x62 f _ rfl (Nat.le_of_ble_eq_true rfl) rfl (fun _ => rfl)
theorem Laws.RoundTrip.dot4 (f : VF) : Laws.RoundTrip.Statement (.dot4 f) := roundV 0x63 f _ rfl (Nat.le_of_ble_eq_true rfl) rfl (fun _ => rfl)
theorem Laws.RoundTrip.dot8 (f : VF) : Laws.RoundTrip.Statement (.dot8 f) := roundV 0x64 f _ rfl (Nat.le_of_ble_eq_true rfl) rfl (fun _ => rfl)
theorem Laws.RoundTrip.rcpF32 (f : VF) : Laws.RoundTrip.Statement (.rcpF32 f) := roundV 0x65 f _ rfl (Nat.le_of_ble_eq_true rfl) rfl (fun _ => rfl)
theorem Laws.RoundTrip.rsqF32 (f : VF) : Laws.RoundTrip.Statement (.rsqF32 f) := roundV 0x66 f _ rfl (Nat.le_of_ble_eq_true rfl) rfl (fun _ => rfl)
theorem Laws.RoundTrip.exp2 (f : VF) : Laws.RoundTrip.Statement (.exp2 f) := roundV 0x67 f _ rfl (Nat.le_of_ble_eq_true rfl) rfl (fun _ => rfl)
theorem Laws.RoundTrip.log2 (f : VF) : Laws.RoundTrip.Statement (.log2 f) := roundV 0x68 f _ rfl (Nat.le_of_ble_eq_true rfl) rfl (fun _ => rfl)
theorem Laws.RoundTrip.sinPi (f : VF) : Laws.RoundTrip.Statement (.sinPi f) := roundV 0x69 f _ rfl (Nat.le_of_ble_eq_true rfl) rfl (fun _ => rfl)
theorem Laws.RoundTrip.cosPi (f : VF) : Laws.RoundTrip.Statement (.cosPi f) := roundV 0x6A f _ rfl (Nat.le_of_ble_eq_true rfl) rfl (fun _ => rfl)
theorem Laws.RoundTrip.tanh (f : VF) : Laws.RoundTrip.Statement (.tanh f) := roundV 0x6B f _ rfl (Nat.le_of_ble_eq_true rfl) rfl (fun _ => rfl)
theorem Laws.RoundTrip.rcpa (f : VF) : Laws.RoundTrip.Statement (.rcpa f) := roundV 0x6C f _ rfl (Nat.le_of_ble_eq_true rfl) rfl (fun _ => rfl)
theorem Laws.RoundTrip.shfl (f : VF) : Laws.RoundTrip.Statement (.shfl f) := roundV 0x70 f _ rfl (Nat.le_of_ble_eq_true rfl) rfl (fun _ => rfl)
theorem Laws.RoundTrip.bcast (f : VF) : Laws.RoundTrip.Statement (.bcast f) := roundV 0x71 f _ rfl (Nat.le_of_ble_eq_true rfl) rfl (fun _ => rfl)
theorem Laws.RoundTrip.vred (f : VF) : Laws.RoundTrip.Statement (.vred f) := roundV 0x72 f _ rfl (Nat.le_of_ble_eq_true rfl) rfl (fun _ => rfl)
theorem Laws.RoundTrip.vscan (f : VF) : Laws.RoundTrip.Statement (.vscan f) := roundV 0x73 f _ rfl (Nat.le_of_ble_eq_true rfl) rfl (fun _ => rfl)
theorem Laws.RoundTrip.topk (f : VF) : Laws.RoundTrip.Statement (.topk f) := roundV 0x74 f _ rfl (Nat.le_of_ble_eq_true rfl) rfl (fun _ => rfl)
theorem Laws.RoundTrip.ballot (f : VF) : Laws.RoundTrip.Statement (.ballot f) := roundV 0x75 f _ rfl (Nat.le_of_ble_eq_true rfl) rfl (fun _ => rfl)
theorem Laws.RoundTrip.ld (f : MF) : Laws.RoundTrip.Statement (.ld f) := roundM 0x80 f _ rfl (Nat.le_of_ble_eq_true rfl) rfl (fun _ => rfl)
theorem Laws.RoundTrip.st (f : MF) : Laws.RoundTrip.Statement (.st f) := roundM 0x81 f _ rfl (Nat.le_of_ble_eq_true rfl) rfl (fun _ => rfl)
theorem Laws.RoundTrip.sld (f : MF) : Laws.RoundTrip.Statement (.sld f) := roundM 0x82 f _ rfl (Nat.le_of_ble_eq_true rfl) rfl (fun _ => rfl)
theorem Laws.RoundTrip.sst (f : MF) : Laws.RoundTrip.Statement (.sst f) := roundM 0x83 f _ rfl (Nat.le_of_ble_eq_true rfl) rfl (fun _ => rfl)
theorem Laws.RoundTrip.ldsp (f : MF) : Laws.RoundTrip.Statement (.ldsp f) := roundM 0x84 f _ rfl (Nat.le_of_ble_eq_true rfl) rfl (fun _ => rfl)
theorem Laws.RoundTrip.stsp (f : MF) : Laws.RoundTrip.Statement (.stsp f) := roundM 0x85 f _ rfl (Nat.le_of_ble_eq_true rfl) rfl (fun _ => rfl)
theorem Laws.RoundTrip.ldx (f : MF) : Laws.RoundTrip.Statement (.ldx f) := roundM 0x86 f _ rfl (Nat.le_of_ble_eq_true rfl) rfl (fun _ => rfl)
theorem Laws.RoundTrip.atom (f : MF) : Laws.RoundTrip.Statement (.atom f) := roundM 0x87 f _ rfl (Nat.le_of_ble_eq_true rfl) rfl (fun _ => rfl)
theorem Laws.RoundTrip.red (f : MF) : Laws.RoundTrip.Statement (.red f) := roundM 0x88 f _ rfl (Nat.le_of_ble_eq_true rfl) rfl (fun _ => rfl)
theorem Laws.RoundTrip.cas (f : MF) : Laws.RoundTrip.Statement (.cas f) := roundM 0x89 f _ rfl (Nat.le_of_ble_eq_true rfl) rfl (fun _ => rfl)
theorem Laws.RoundTrip.satom (f : MF) : Laws.RoundTrip.Statement (.satom f) := roundM 0x8A f _ rfl (Nat.le_of_ble_eq_true rfl) rfl (fun _ => rfl)
theorem Laws.RoundTrip.waitc (f : MF) : Laws.RoundTrip.Statement (.waitc f) := roundM 0x90 f _ rfl (Nat.le_of_ble_eq_true rfl) rfl (fun _ => rfl)
theorem Laws.RoundTrip.waittl (f : MF) : Laws.RoundTrip.Statement (.waittl f) := roundM 0x91 f _ rfl (Nat.le_of_ble_eq_true rfl) rfl (fun _ => rfl)
theorem Laws.RoundTrip.bar (f : MF) : Laws.RoundTrip.Statement (.bar f) := roundM 0x92 f _ rfl (Nat.le_of_ble_eq_true rfl) rfl (fun _ => rfl)
theorem Laws.RoundTrip.arrv (f : MF) : Laws.RoundTrip.Statement (.arrv f) := roundM 0x93 f _ rfl (Nat.le_of_ble_eq_true rfl) rfl (fun _ => rfl)
theorem Laws.RoundTrip.bowait (f : MF) : Laws.RoundTrip.Statement (.bowait f) := roundM 0x94 f _ rfl (Nat.le_of_ble_eq_true rfl) rfl (fun _ => rfl)
theorem Laws.RoundTrip.cbacqProd (f : MF) : Laws.RoundTrip.Statement (.cbacqProd f) := roundM 0x95 f _ rfl (Nat.le_of_ble_eq_true rfl) rfl (fun h => selected_cbacqProd f h)
theorem Laws.RoundTrip.cbacqCons (f : MF) : Laws.RoundTrip.Statement (.cbacqCons f) := roundM 0x95 f _ rfl (Nat.le_of_ble_eq_true rfl) rfl (fun h => selected_cbacqCons f h)
theorem Laws.RoundTrip.cbrelProd (f : MF) : Laws.RoundTrip.Statement (.cbrelProd f) := roundM 0x96 f _ rfl (Nat.le_of_ble_eq_true rfl) rfl (fun h => selected_cbrelProd f h)
theorem Laws.RoundTrip.cbrelCons (f : MF) : Laws.RoundTrip.Statement (.cbrelCons f) := roundM 0x96 f _ rfl (Nat.le_of_ble_eq_true rfl) rfl (fun h => selected_cbrelCons f h)
theorem Laws.RoundTrip.mred (f : MF) : Laws.RoundTrip.Statement (.mred f) := roundM 0xA2 f _ rfl (Nat.le_of_ble_eq_true rfl) rfl (fun _ => rfl)
theorem Laws.RoundTrip.mired (f : MF) : Laws.RoundTrip.Statement (.mired f) := roundM 0xA3 f _ rfl (Nat.le_of_ble_eq_true rfl) rfl (fun _ => rfl)
theorem Laws.RoundTrip.meval (f : MF) : Laws.RoundTrip.Statement (.meval f) := roundM 0xA4 f _ rfl (Nat.le_of_ble_eq_true rfl) rfl (fun _ => rfl)
theorem Laws.RoundTrip.mfill (f : MF) : Laws.RoundTrip.Statement (.mfill f) := roundM 0xA5 f _ rfl (Nat.le_of_ble_eq_true rfl) rfl (fun _ => rfl)
theorem Laws.RoundTrip.mma (f : EF) : Laws.RoundTrip.Statement (.mma f) := roundE 0xB0 f _ rfl (Nat.le_of_ble_eq_true rfl) rfl (fun _ => rfl)
theorem Laws.RoundTrip.mmaSp (f : EF) : Laws.RoundTrip.Statement (.mmaSp f) := roundE 0xB1 f _ rfl (Nat.le_of_ble_eq_true rfl) rfl (fun _ => rfl)
theorem Laws.RoundTrip.mmaChk (f : EF) : Laws.RoundTrip.Statement (.mmaChk f) := roundE 0xB2 f _ rfl (Nat.le_of_ble_eq_true rfl) rfl (fun _ => rfl)
theorem Laws.RoundTrip.miter (f : EF) : Laws.RoundTrip.Statement (.miter f) := roundE 0xB3 f _ rfl (Nat.le_of_ble_eq_true rfl) rfl (fun h => selected_miter f h)
theorem Laws.RoundTrip.miterCont (f : EF) : Laws.RoundTrip.Statement (.miterCont f) := roundE 0xB3 f _ rfl (Nat.le_of_ble_eq_true rfl) rfl (fun h => selected_miterCont f h)
theorem Laws.RoundTrip.aclr (f : EF) : Laws.RoundTrip.Statement (.aclr f) := roundE 0xB4 f _ rfl (Nat.le_of_ble_eq_true rfl) rfl (fun _ => rfl)
theorem Laws.RoundTrip.ain (f : EF) : Laws.RoundTrip.Statement (.ain f) := roundE 0xB6 f _ rfl (Nat.le_of_ble_eq_true rfl) rfl (fun _ => rfl)
theorem Laws.RoundTrip.aout (f : EF) : Laws.RoundTrip.Statement (.aout f) := roundE 0xB5 f _ rfl (Nat.le_of_ble_eq_true rfl) rfl (fun h => selected_aout f h)
theorem Laws.RoundTrip.aoutClr (f : EF) : Laws.RoundTrip.Statement (.aoutClr f) := roundE 0xB5 f _ rfl (Nat.le_of_ble_eq_true rfl) rfl (fun h => selected_aoutClr f h)
theorem Laws.RoundTrip.epi (f : EF) : Laws.RoundTrip.Statement (.epi f) := roundE 0xB7 f _ rfl (Nat.le_of_ble_eq_true rfl) rfl (fun _ => rfl)
theorem Laws.RoundTrip.kld (f : EF) : Laws.RoundTrip.Statement (.kld f) := roundE 0xB8 f _ rfl (Nat.le_of_ble_eq_true rfl) rfl (fun h => selected_kld f h)
theorem Laws.RoundTrip.kldAll (f : EF) : Laws.RoundTrip.Statement (.kldAll f) := roundE 0xB8 f _ rfl (Nat.le_of_ble_eq_true rfl) rfl (fun h => selected_kldAll f h)
theorem Laws.RoundTrip.actxSwap (f : EF) : Laws.RoundTrip.Statement (.actxSwap f) := roundE 0xB9 f _ rfl (Nat.le_of_ble_eq_true rfl) rfl (fun h => selected_actxSwap f h)
theorem Laws.RoundTrip.actxRel (f : EF) : Laws.RoundTrip.Statement (.actxRel f) := roundE 0xB9 f _ rfl (Nat.le_of_ble_eq_true rfl) rfl (fun h => selected_actxRel f h)
theorem Laws.RoundTrip.txf (f : EF) : Laws.RoundTrip.Statement (.txf f) := roundE 0xC0 f _ rfl (Nat.le_of_ble_eq_true rfl) rfl (fun _ => rfl)
theorem Laws.RoundTrip.txfcProd (f : EF) : Laws.RoundTrip.Statement (.txfcProd f) := roundE 0xC1 f _ rfl (Nat.le_of_ble_eq_true rfl) rfl (fun h => selected_txfcProd f h)
theorem Laws.RoundTrip.txfcCons (f : EF) : Laws.RoundTrip.Statement (.txfcCons f) := roundE 0xC1 f _ rfl (Nat.le_of_ble_eq_true rfl) rfl (fun h => selected_txfcCons f h)
theorem Laws.RoundTrip.txfsRd (f : EF) : Laws.RoundTrip.Statement (.txfsRd f) := roundE 0xC2 f _ rfl (Nat.le_of_ble_eq_true rfl) rfl (fun h => selected_txfsRd f h)
theorem Laws.RoundTrip.txfsClr (f : EF) : Laws.RoundTrip.Statement (.txfsClr f) := roundE 0xC2 f _ rfl (Nat.le_of_ble_eq_true rfl) rfl (fun h => selected_txfsClr f h)
theorem Laws.RoundTrip.tnext (f : EF) : Laws.RoundTrip.Statement (.tnext f) := roundE 0xC4 f _ rfl (Nat.le_of_ble_eq_true rfl) rfl (fun _ => rfl)
theorem Laws.RoundTrip.tqaddSh (f : EF) : Laws.RoundTrip.Statement (.tqaddSh f) := roundE 0xC9 f _ rfl (Nat.le_of_ble_eq_true rfl) rfl (fun h => selected_tqaddSh f h)
theorem Laws.RoundTrip.tqaddRt (f : EF) : Laws.RoundTrip.Statement (.tqaddRt f) := roundE 0xC9 f _ rfl (Nat.le_of_ble_eq_true rfl) rfl (fun h => selected_tqaddRt f h)
theorem Laws.RoundTrip.park (f : EF) : Laws.RoundTrip.Statement (.park f) := roundE 0xC5 f _ rfl (Nat.le_of_ble_eq_true rfl) rfl (fun _ => rfl)
theorem Laws.RoundTrip.erqQry (f : EF) : Laws.RoundTrip.Statement (.erqQry f) := roundE 0xC6 f _ rfl (Nat.le_of_ble_eq_true rfl) rfl (fun h => selected_erqQry f h)
theorem Laws.RoundTrip.erqAcq (f : EF) : Laws.RoundTrip.Statement (.erqAcq f) := roundE 0xC6 f _ rfl (Nat.le_of_ble_eq_true rfl) rfl (fun h => selected_erqAcq f h)
theorem Laws.RoundTrip.erqRel (f : EF) : Laws.RoundTrip.Statement (.erqRel f) := roundE 0xC6 f _ rfl (Nat.le_of_ble_eq_true rfl) rfl (fun h => selected_erqRel f h)
theorem Laws.RoundTrip.erpin (f : EF) : Laws.RoundTrip.Statement (.erpin f) := roundE 0xC7 f _ rfl (Nat.le_of_ble_eq_true rfl) rfl (fun _ => rfl)
theorem Laws.RoundTrip.erunpin (f : EF) : Laws.RoundTrip.Statement (.erunpin f) := roundE 0xC8 f _ rfl (Nat.le_of_ble_eq_true rfl) rfl (fun _ => rfl)
theorem Laws.RoundTrip.rep (f : PF) : Laws.RoundTrip.Statement (.rep f) := fun _ => roundP f
theorem Laws.RoundTrip.waveSelect (p : Nat) : Laws.RoundTrip.Statement (.waveSelect p) := noWord _ rfl
theorem Laws.RoundTrip.sequencerSelect (c : Nat) : Laws.RoundTrip.Statement (.sequencerSelect c) := noWord _ rfl
theorem Laws.RoundTrip.trapDelivery (c t : Nat) : Laws.RoundTrip.Statement (.trapDelivery c t) := noWord _ rfl
theorem Laws.RoundTrip.stepTrap (w : Nat) : Laws.RoundTrip.Statement (.stepTrap w) := noWord _ rfl
theorem Laws.RoundTrip.sleepExpire (a : Agent) (alt : Bool) : Laws.RoundTrip.Statement (.sleepExpire a alt) := noWord _ rfl
theorem Laws.RoundTrip.accessComplete (n : Nat) : Laws.RoundTrip.Statement (.accessComplete n) := noWord _ rfl
theorem Laws.RoundTrip.barrierComplete (w b : Nat) : Laws.RoundTrip.Statement (.barrierComplete w b) := noWord _ rfl
theorem Laws.RoundTrip.commitComplete (n : Nat) : Laws.RoundTrip.Statement (.commitComplete n) := noWord _ rfl
theorem Laws.RoundTrip.hostWriteInvalidate (pa : Nat) (data : List Byte) : Laws.RoundTrip.Statement (.hostWriteInvalidate pa data) := noWord _ rfl
theorem Laws.RoundTrip.writeIndexReread (q : Nat) : Laws.RoundTrip.Statement (.writeIndexReread q) := noWord _ rfl
theorem Laws.RoundTrip.launchPacketRead (q k : Nat) : Laws.RoundTrip.Statement (.launchPacketRead q k) := noWord _ rfl
theorem Laws.RoundTrip.workgroupPlace (q k : Nat) : Laws.RoundTrip.Statement (.workgroupPlace q k) := noWord _ rfl
theorem Laws.RoundTrip.launchEnd (q k : Nat) : Laws.RoundTrip.Statement (.launchEnd q k) := noWord _ rfl
theorem Laws.RoundTrip.sliceEnd (core u : Nat) : Laws.RoundTrip.Statement (.sliceEnd core u) := noWord _ rfl
theorem Laws.RoundTrip.preemptionRequest (core : Nat) : Laws.RoundTrip.Statement (.preemptionRequest core) := noWord _ rfl
theorem Laws.RoundTrip.bankFlip (core : Nat) : Laws.RoundTrip.Statement (.bankFlip core) := noWord _ rfl
theorem Laws.RoundTrip.bankSpillComplete (core : Nat) : Laws.RoundTrip.Statement (.bankSpillComplete core) := noWord _ rfl
theorem Laws.RoundTrip.shadowFillComplete (core : Nat) : Laws.RoundTrip.Statement (.shadowFillComplete core) := noWord _ rfl
theorem Laws.RoundTrip.accumulatorBankMove (u : Nat) : Laws.RoundTrip.Statement (.accumulatorBankMove u) := noWord _ rfl
theorem Laws.RoundTrip.matrixOpComplete (u : Nat) : Laws.RoundTrip.Statement (.matrixOpComplete u) := noWord _ rfl
theorem Laws.RoundTrip.miterIteration (u : Nat) : Laws.RoundTrip.Statement (.miterIteration u) := noWord _ rfl
theorem Laws.RoundTrip.txfBurst (ctx c st : Nat) : Laws.RoundTrip.Statement (.txfBurst ctx c st) := noWord _ rfl
theorem Laws.RoundTrip.txfCommandComplete (ctx c st : Nat) : Laws.RoundTrip.Statement (.txfCommandComplete ctx c st) := noWord _ rfl
theorem Laws.RoundTrip.txfcPiece (ctx c st : Nat) : Laws.RoundTrip.Statement (.txfcPiece ctx c st) := noWord _ rfl
theorem Laws.RoundTrip.cupolaItem (ctx stack : Nat) : Laws.RoundTrip.Statement (.cupolaItem ctx stack) := noWord _ rfl
theorem Laws.RoundTrip.commandCompletionWord (ctx stack : Nat) : Laws.RoundTrip.Statement (.commandCompletionWord ctx stack) := noWord _ rfl
theorem Laws.RoundTrip.capEntryFree (stack e : Nat) : Laws.RoundTrip.Statement (.capEntryFree stack e) := noWord _ rfl
theorem Laws.RoundTrip.belfryDrain (core : Nat) : Laws.RoundTrip.Statement (.belfryDrain core) := noWord _ rfl
theorem Laws.RoundTrip.binShip (die : Nat) (dest : BinDest) (ctx : Nat) : Laws.RoundTrip.Statement (.binShip die dest ctx) := noWord _ rfl
theorem Laws.RoundTrip.binStage (die pch : Nat) : Laws.RoundTrip.Statement (.binStage die pch) := noWord _ rfl
theorem Laws.RoundTrip.remoteBinReceive (b : RemoteBin) : Laws.RoundTrip.Statement (.remoteBinReceive b) := noWord _ rfl
theorem Laws.RoundTrip.commitNoticeReplay (pch : Nat) : Laws.RoundTrip.Statement (.commitNoticeReplay pch) := noWord _ rfl
theorem Laws.RoundTrip.refresh (pch : Nat) : Laws.RoundTrip.Statement (.refresh pch) := noWord _ rfl
theorem Laws.RoundTrip.refreshHandover (stack : Nat) : Laws.RoundTrip.Statement (.refreshHandover stack) := noWord _ rfl
theorem Laws.RoundTrip.expertFetchComplete (ctx x : Nat) : Laws.RoundTrip.Statement (.expertFetchComplete ctx x) := noWord _ rfl
theorem Laws.RoundTrip.expertFetchFail (ctx x done : Nat) (cause : FetchErr) : Laws.RoundTrip.Statement (.expertFetchFail ctx x done cause) := noWord _ rfl
theorem Laws.RoundTrip.expertFetchStart (ctx x : Nat) : Laws.RoundTrip.Statement (.expertFetchStart ctx x) := noWord _ rfl
theorem Laws.RoundTrip.expertEvictComplete (ctx x : Nat) : Laws.RoundTrip.Statement (.expertEvictComplete ctx x) := noWord _ rfl
theorem Laws.RoundTrip.remoteWriteReceive (f : RemoteFrom) (pa : Nat) (data : List Byte) : Laws.RoundTrip.Statement (.remoteWriteReceive f pa data) := noWord _ rfl
theorem Laws.RoundTrip.remoteAtomicReceive (f : RemoteFrom) (pa : Nat) (op : AtomOp) (ty : Ty) (v : W64) : Laws.RoundTrip.Statement (.remoteAtomicReceive f pa op ty v) := noWord _ rfl
theorem Laws.RoundTrip.remoteReadReceive (src pa n : Nat) : Laws.RoundTrip.Statement (.remoteReadReceive src pa n) := noWord _ rfl
theorem Laws.RoundTrip.fabricAcknowledgement (n : Nat) (data : List Byte) (fails : Nat) : Laws.RoundTrip.Statement (.fabricAcknowledgement n data fails) := noWord _ rfl
theorem Laws.RoundTrip.fabricResend (n : Nat) : Laws.RoundTrip.Statement (.fabricResend n) := noWord _ rfl
theorem Laws.RoundTrip.fabricItemFail (n : Nat) : Laws.RoundTrip.Statement (.fabricItemFail n) := noWord _ rfl
theorem Laws.RoundTrip.fabricWindow : Laws.RoundTrip.Statement (.fabricWindow) := noWord _ rfl
theorem Laws.RoundTrip.permitGrant (ctx dev n : Nat) (h : W32) : Laws.RoundTrip.Statement (.permitGrant ctx dev n h) := noWord _ rfl
theorem Laws.RoundTrip.incarnationAnnounce (dev : Nat) (inc : BitVec 16) : Laws.RoundTrip.Statement (.incarnationAnnounce dev inc) := noWord _ rfl
theorem Laws.RoundTrip.leaseRevoke (lender : Nat) (lid : W32) : Laws.RoundTrip.Statement (.leaseRevoke lender lid) := noWord _ rfl
theorem Laws.RoundTrip.leaseDrained (w : Nat) : Laws.RoundTrip.Statement (.leaseDrained w) := noWord _ rfl
theorem Laws.RoundTrip.leaseDrainTimeout (borrower : Nat) (lid : W32) : Laws.RoundTrip.Statement (.leaseDrainTimeout borrower lid) := noWord _ rfl
theorem Laws.RoundTrip.hostMemAccess (pa n : Nat) (data : Option (List Byte)) : Laws.RoundTrip.Statement (.hostMemAccess pa n data) := noWord _ rfl
theorem Laws.RoundTrip.powerArbiterTick (mhz : Nat) (hbm pen : List Nat) : Laws.RoundTrip.Statement (.powerArbiterTick mhz hbm pen) := noWord _ rfl
theorem Laws.RoundTrip.dieReady (d : Nat) : Laws.RoundTrip.Statement (.dieReady d) := noWord _ rfl
theorem Laws.RoundTrip.deviceReset : Laws.RoundTrip.Statement (.deviceReset) := noWord _ rfl
theorem Laws.RoundTrip.rinestLinkFail (a b : Nat) : Laws.RoundTrip.Statement (.rinestLinkFail a b) := noWord _ rfl
theorem Laws.RoundTrip.podRecovery (lost : List Nat) (ph : RecoveryPhase) : Laws.RoundTrip.Statement (.podRecovery lost ph) := noWord _ rfl
theorem Laws.RoundTrip.heldFaultRecordWrite (b : FaultBox) : Laws.RoundTrip.Statement (.heldFaultRecordWrite b) := noWord _ rfl
theorem Laws.RoundTrip.invalComplete (n : Nat) : Laws.RoundTrip.Statement (.invalComplete n) := noWord _ rfl
theorem Laws.RoundTrip.commandBlockAcceptance (n : Nat) : Laws.RoundTrip.Statement (.commandBlockAcceptance n) := noWord _ rfl
theorem Laws.RoundTrip.lossOfPorts (port dev : Nat) : Laws.RoundTrip.Statement (.lossOfPorts port dev) := noWord _ rfl
theorem Laws.RoundTrip.nodeAttach : Laws.RoundTrip.Statement (.nodeAttach) := noWord _ rfl
theorem Laws.RoundTrip.nodeUpdate : Laws.RoundTrip.Statement (.nodeUpdate) := noWord _ rfl
theorem Laws.RoundTrip.nodeDetach : Laws.RoundTrip.Statement (.nodeDetach) := noWord _ rfl
theorem Laws.RoundTrip.faultbuf : Laws.RoundTrip.Statement (.faultbuf) := noWord _ rfl
theorem Laws.RoundTrip.faultflush : Laws.RoundTrip.Statement (.faultflush) := noWord _ rfl
theorem Laws.RoundTrip.resume : Laws.RoundTrip.Statement (.resume) := noWord _ rfl
theorem Laws.RoundTrip.endDomain : Laws.RoundTrip.Statement (.endDomain) := noWord _ rfl
theorem Laws.RoundTrip.pool : Laws.RoundTrip.Statement (.pool) := noWord _ rfl
theorem Laws.RoundTrip.save : Laws.RoundTrip.Statement (.save) := noWord _ rfl
theorem Laws.RoundTrip.inval : Laws.RoundTrip.Statement (.inval) := noWord _ rfl
theorem Laws.RoundTrip.staging : Laws.RoundTrip.Statement (.staging) := noWord _ rfl
theorem Laws.RoundTrip.exptableRegister : Laws.RoundTrip.Statement (.exptableRegister) := noWord _ rfl
theorem Laws.RoundTrip.exptableDeregister : Laws.RoundTrip.Statement (.exptableDeregister) := noWord _ rfl
theorem Laws.RoundTrip.expfetch : Laws.RoundTrip.Statement (.expfetch) := noWord _ rfl
theorem Laws.RoundTrip.expevict : Laws.RoundTrip.Statement (.expevict) := noWord _ rfl
theorem Laws.RoundTrip.l2ways : Laws.RoundTrip.Statement (.l2ways) := noWord _ rfl
theorem Laws.RoundTrip.replica : Laws.RoundTrip.Statement (.replica) := noWord _ rfl
theorem Laws.RoundTrip.podJoin : Laws.RoundTrip.Statement (.podJoin) := noWord _ rfl
theorem Laws.RoundTrip.inbound : Laws.RoundTrip.Statement (.inbound) := noWord _ rfl
theorem Laws.RoundTrip.leaseGrant : Laws.RoundTrip.Statement (.leaseGrant) := noWord _ rfl
theorem Laws.RoundTrip.leaseRevokeCommand : Laws.RoundTrip.Statement (.leaseRevokeCommand) := noWord _ rfl
theorem Laws.RoundTrip.leaseFree : Laws.RoundTrip.Statement (.leaseFree) := noWord _ rfl
theorem Laws.RoundTrip.leaseRead : Laws.RoundTrip.Statement (.leaseRead) := noWord _ rfl
theorem Laws.RoundTrip.powercap : Laws.RoundTrip.Statement (.powercap) := noWord _ rfl
theorem Laws.RoundTrip.attest : Laws.RoundTrip.Statement (.attest) := noWord _ rfl
theorem Laws.RoundTrip.status : Laws.RoundTrip.Statement (.status) := noWord _ rfl
theorem Laws.RoundTrip.debugRead : Laws.RoundTrip.Statement (.debugRead) := noWord _ rfl
theorem Laws.RoundTrip.debugWrite : Laws.RoundTrip.Statement (.debugWrite) := noWord _ rfl
theorem Laws.RoundTrip.debugHalt : Laws.RoundTrip.Statement (.debugHalt) := noWord _ rfl
theorem Laws.RoundTrip.debugStep : Laws.RoundTrip.Statement (.debugStep) := noWord _ rfl
theorem Laws.RoundTrip.debugContinue : Laws.RoundTrip.Statement (.debugContinue) := noWord _ rfl
theorem Laws.RoundTrip.unknownCommand : Laws.RoundTrip.Statement (.unknownCommand) := noWord _ rfl

end Sys2Proof
end

