-- ==== Sys2Proof/Certificates/Slice0/Obligations.lean ====
section
/-! DEFINITION. The statements for the provers. -/


open Sys2Proof Sys2Proof.Machine

/-! ### Encoding, steps and reset -/

/-- Words written out bit by bit from the encodings of the spec decode to the instructions they stand for (R94 to R99, Table
09-2 to Table 09-7); the second one carries its literal in the next slot. -/
def Obligations.SpecWordsDecode : Prop :=
  decodeWord 0x0194_94EF_FF00_0000 0 = .ok (.iadd ⟨.s 20, .s 20, .inl 15, .none, .i32, 0, 0⟩) ∧
  decodeWord 0x5A07_07F0_FF80_0000 0x4060_0000 =
    .ok (.vfmul ⟨.v 7, .v 7, .lit 0x4060_0000, .none, .f32, 0, 0, false, false, 0, false, 0⟩) ∧
  decodeWord 0x29FF_F194_FF01_0000 0 = .ok (.brc ⟨.none, .imm, .s 20, .none, .i32, 1, 0⟩) ∧
  decodeWord 0x8708_9403_1600_0040 0 = .ok (.atom ⟨.v 8, .s 20, .v 3, .n32, .device, .relaxed, false, 0x40⟩) ∧
  decodeWord 0xA0A8_FFFF_FF01_0000 0 = .ok (.commitGrid ⟨.s 40, .none, .none, .none, .i32, 1, 0⟩) ∧
  decodeWord 0xB0FF_C4C6_C899_0105 0 = .ok (.mma ⟨.none, .q 4, .q 6, .q 8, .bf16, .bf16, 0, false, false, 1, 5⟩) ∧
  decodeWord 0xC09E_9496_9800_2102 0 = .ok (.txf ⟨.s 30, .s 20, .s 22, .s 24, .i32, .i32, 2, false, false, 1, 2⟩) ∧
  decodeWord 0xE000_4080_8000_8000 0 = .ok (.rep ⟨4, 8, 8, 0, 8, 0⟩)

/-- Decoding the words of a well-formed instruction gives the instruction, whatever its operands: no bit of an encoding is
dropped, and no two instructions share a word. -/
def Obligations.EncodeThenDecode : Prop :=
  ∀ i : Instr, i.wf = true → decodeWord (wordAt (encode i) 0) (wordAt (encode i) 1) = .ok i

/-- An instruction that is read from a word is well-formed, and its first encoded word is that word: every word has at most
one reading, and no bit that matters is ignored. -/
def Obligations.DecodeThenEncode : Prop :=
  ∀ (w lit : W64) (i : Instr), decodeWord w lit = .ok i → i.wf = true ∧ wordAt (encode i) 0 = w

/-- A word that is no instruction, or one that its clause kind or its place does not allow, raises illegal-instruction at its
slot: no other effect comes of it (R95 to R99, R103, R104). Every reserved or unassigned major opcode is no instruction,
whatever the other bits of its word. -/
def Obligations.IllegalWordTraps : Prop :=
  (∀ (s : Machine.State) (ag : Agent), s.issue = some ⟨ag, false⟩ →
    let code := s.codeOf ag
    let slot := (s.pcOf ag).2.1
    ((∀ i, decodeWord (wordAt code slot) (wordAt code (slot + 1)) ≠ .ok i) ∨
      (∃ i, decodeWord (wordAt code slot) (wordAt code (slot + 1)) = .ok i ∧
        (legal (headerKind (wordAt code 0)) i = false ∨ placeOk i slot (s.nslot ag) = false))) →
    Machine.step s = .next (s.trap ag 0x01 none 0 0)) ∧
  (∀ (w lit : W64) (op : Nat), fld w 63 56 = op →
    (op = 0 ∨ (0x21 ≤ op ∧ op ≤ 0x27) ∨ (0x36 ≤ op ∧ op ≤ 0x3F) ∨ (0x55 ≤ op ∧ op ≤ 0x57) ∨ (0x6D ≤ op ∧ op ≤ 0x6F) ∨
      (0x76 ≤ op ∧ op ≤ 0x7F) ∨ (0x8B ≤ op ∧ op ≤ 0x8F) ∨ (0x97 ≤ op ∧ op ≤ 0x9F) ∨ (0xAA ≤ op ∧ op ≤ 0xAF) ∨
      (0xBA ≤ op ∧ op ≤ 0xBF) ∨ op = 0xC3 ∨ (0xCA ≤ op ∧ op ≤ 0xCB) ∨ (0xD6 ≤ op ∧ op ≤ 0xDF) ∨ 0xE1 ≤ op) →
    ∀ i, decodeWord w lit ≠ .ok i)

/-- A step runs what is decoded: the instruction at the slot of the latched agent; under REP the target after it with its
operands stepped (R101); with no latch the next entry of the agenda, a firmware command as the block that its mailbox entry
names; and nothing where the agenda is empty. That the latch and the agenda say what acts next is the model's choice (log
entry 1). -/
def Obligations.StepRunsDecoded : Prop :=
  ∀ s : Machine.State,
    (∀ ag i, s.issue = some ⟨ag, false⟩ →
      decodeWord (wordAt (s.codeOf ag) (s.pcOf ag).2.1) (wordAt (s.codeOf ag) ((s.pcOf ag).2.1 + 1)) = .ok i →
      legal (headerKind (wordAt (s.codeOf ag) 0)) i = true → placeOk i (s.pcOf ag).2.1 (s.nslot ag) = true →
      Machine.step s = Machine.exec i s) ∧
    (∀ ag i j, s.issue = some ⟨ag, true⟩ →
      decodeWord (wordAt (s.codeOf ag) ((s.pcOf ag).2.1 + 1)) (wordAt (s.codeOf ag) ((s.pcOf ag).2.1 + 2)) = .ok i →
      legal (headerKind (wordAt (s.codeOf ag) 0)) i = true → placeOk i ((s.pcOf ag).2.1 + 1) (s.nslot ag) = true →
      Instr.iter i (s.sweep ag) ((s.repctlOf ag).toNat / 4096 % 4096) = some j → Machine.step s = Machine.exec j s) ∧
    (∀ i r, s.issue = none → s.agenda = .event i :: r → Machine.step s = Machine.exec i { s with agenda := r }) ∧
    (∀ b a r, s.issue = none → s.agenda = .mail b a :: r →
      Machine.step s = Machine.exec (s.commandAt a) { s with agenda := r, fw := some (b, a) }) ∧
    (s.issue = none → s.agenda = [] → Machine.step s = .next s)

/-- Every step of every state answers a next state, but for one: an agenda that names an encoded instruction, which only a
selection issues, is refused. The machine never faults. The agenda is the model's choice (log entry 1). -/
def Obligations.StepAnswers : Prop :=
  ∀ s : Machine.State, (∃ t, Machine.step s = .next t) ∨
    (Machine.step s = .refused .noAgent ∧ s.issue = none ∧ ∃ i r, s.agenda = .event i :: r ∧ i.view ≠ .step)

/-- What reset leaves: as the rules give it, every thread free (R37), every region capability entry
free with generation 0 (R277), no device number and no pod (R288), every cycle counter at 0 (R118); and, by the model's choice where no
rule gives a value (log entries 3 and 4), zero in the registers of free threads, no wave, workgroup, launch, log entry, bin or
pending access, and each scratchpad zero. -/
def Obligations.ResetValues : Prop :=
  (∀ c t n, (Machine.State.reset.thread c t).st = .free ∧ (Machine.State.reset.thread c t).getQ n = 0) ∧
  (∀ stack e, (Machine.State.reset.cap stack e).state = 0 ∧ (Machine.State.reset.cap stack e).gen = 0) ∧
  Machine.State.reset.fab.devno = none ∧ Machine.State.reset.fab.members = [] ∧
  (∀ n, (Machine.State.reset.core n).cyc = 0) ∧ (∀ c, Map.at Machine.State.reset.sch.clk c 0 = 0) ∧
  Machine.State.reset.waves = [] ∧ Machine.State.reset.sch.wgs = [] ∧ Machine.State.reset.sch.launches = [] ∧
  Machine.State.reset.dfd.logs = [] ∧ Machine.State.reset.dfd.bins = [] ∧ Machine.State.reset.path.acc = [] ∧
  (∀ a, Memory.get Machine.State.reset.spad a = 0)

/-- The memories are in canonical form after reset. That memory lists nothing at reset is the model's choice (log entry 4). -/
def Obligations.ResetMemoryInv : Prop := MemoryInv Machine.State.reset

/-- Every step keeps the memories in canonical form: strictly rising addresses and no byte listed that an unlisted address reads
as, so that equal memories are equal data. The canonical form is the model's (log entry 4). -/
def Obligations.StepKeepsMemoryInv : Prop :=
  ∀ s t : Machine.State, MemoryInv s → Machine.step s = .next t → MemoryInv t

/-! ### Traps, handlers and their returns -/

/-- A trap of a wave (R105, R219, R311, Table 27-2): the wave stops where it stands, with every register as it was and the
record of the trap; the record joins the queue of its launch's thread on the cluster; nothing else changes. The address word
of a record whose cause names no address is the model's reading (log entry 25). -/
def Obligations.WaveTrap : Prop :=
  ∀ (s : Machine.State) (w : Nat) (v : Wave) (cause code addr : Nat) (lane : Option Nat), s.wave w = some v →
    let t := s.trap (.wave w) cause lane code addr
    (∃ u, t.wave w = some u ∧ WaveKept v { u with trec := v.trec, step := v.step, stop := v.stop, dlv := v.dlv } [] [] false false ∧
      u.stop = .seq ∧ u.dlv = false ∧ u.path.pc = v.path.pc ∧ u.path.slot = v.path.slot ∧
      u.trec.w0 = BitVec.ofNat 64 (cause * 2 ^ 56 + v.path.slot % 8 * 2 ^ 53 + v.alt.toNat * 2 ^ 52 + lane.getD 0x1FF * 2 ^ 32 +
        code % 2 ^ 16 * 2 ^ 16 + v.handle) ∧
      u.trec.w1 = v.path.pc.zeroExtend 64 ∧ u.trec.w2 = BitVec.ofNat 64 addr ∧
      u.trec.w3 = BitVec.ofNat 64 (v.repctl.toNat * 2 ^ 32) ∧
      ∀ k, s.threadFor v.launch v.cluster = some k →
        (t.thread v.cluster k) = { s.thread v.cluster k with
          queue := (s.thread v.cluster k).queue ++ [⟨some w, BitVec.ofNat 32 v.handle, u.trec⟩] }) ∧
    t.issue = none ∧ t.rest = s.rest ∧ SameBytes s t ∧ (∀ j, w ≠ j → t.wave j = s.wave j) ∧
    (∀ j, (∀ k, s.threadFor v.launch v.cluster = some k → 4 * v.cluster + k ≠ j) → Map.find t.threads j = Map.find s.threads j)

/-- Delivery of the oldest trap that can reach a thread that may take it and has a handler (R218, R327): the thread's next point
is saved in `tret`, the source and record become readable, and the thread enters its handler state at `tvec`; its q registers
and memory stay. Where `tvec` is zero a wave's trap is forwarded at once (R317), and one of the thread's own stops it. When a
thread takes a delivery is the model's reading (log entry 32). -/
def Obligations.TrapDelivery : Prop :=
  ∀ (s : Machine.State) (c k : Nat) (q : Queued), (s.thread c k).queue.find? s.reaches = some q →
    ((s.thread c k).mayTake = true → (s.thread c k).tvec ≠ 0 →
    ∃ t, Machine.exec (.trapDelivery c k) s = .next t ∧
      (t.thread c k).inh = true ∧ (t.thread c k).queue = (s.thread c k).queue.erase q ∧ (t.thread c k).tsrc = q.src ∧ (t.thread c k).trec = q.trec ∧
      (t.thread c k).tret = BitVec.ofNat 64 ((s.thread c k).pc.toNat + 8 * (s.thread c k).slot) ∧
      (t.thread c k).pc = BitVec.ofNat 57 (fld (s.thread c k).tvec 56 6 * 64) ∧ (t.thread c k).slot = 1 ∧
      (t.thread c k).st = .running ∧ (t.thread c k).wasHalted = ((s.thread c k).st == .halted) ∧
      (t.thread c k).q = (s.thread c k).q ∧ (t.thread c k).tvec = (s.thread c k).tvec ∧
      (∀ w v, q.wave = some w → s.wave w = some v → t.wave w = some { v with dlv := true }) ∧
      (∀ w, q.wave ≠ some w → t.wave w = s.wave w) ∧ t.rest = s.rest ∧ SameBytes s t) ∧
    ((s.thread c k).hears = true → (s.thread c k).tvec = 0 →
      let h := { s.thread c k with queue := (s.thread c k).queue.erase q }
      (∀ w v, q.wave = some w → s.wave w = some v → v.stop = .seq →
        Machine.exec (.trapDelivery c k) s = .next (((s.setThread c k h).forwardTrap w v).freeThread c k)) ∧
      (q.wave = none → (s.thread c k).stop = false →
        Machine.exec (.trapDelivery c k) s = .next ((s.setThread c k h.halt).tier3 (.thread c k) 1 q.trec)))

/-- RETT of a thread in its handler state whose trap has been released (R224): it leaves the handler state and goes on at
`tret`, in the halted state if it was halted, and is freed there where its launch has no workgroup left on the cluster (R37);
q registers, memory and waves stay. A trap that has not been released is forwarded first: the wave stands stopped at tier 3, and
the host is told (R317). RETT of a thread that is in no handler raises illegal-instruction. Which unreleased traps RETT
forwards is the model's reading (log entry 32). -/
def Obligations.RettOfThread : Prop :=
  ∀ (s : Machine.State) (c k : Nat) (f : SF), Ready s (.thread c k) (.rett f) →
    ((s.thread c k).inh = true → s.handled c k = none → (s.thread c k).wasHalted = false → (s.thread c k).st = .running →
      ∃ t, Machine.exec (.rett f) s = .next t ∧ (t.thread c k).inh = false ∧
        (t.thread c k).pc = BitVec.ofNat 57 (fld (s.thread c k).tret 56 6 * 64) ∧
        (t.thread c k).slot = (if fld (s.thread c k).tret 5 3 = 0 then 1 else fld (s.thread c k).tret 5 3) ∧
        (t.thread c k).st = .running ∧ (t.thread c k).q = (s.thread c k).q ∧ t.issue = none ∧ Apart (.thread c k) s t) ∧
    ((s.thread c k).inh = true → s.handled c k = none → (s.thread c k).wasHalted = true →
      s.onCluster (s.thread c k).launch c = true →
      ∃ t, Machine.exec (.rett f) s = .next t ∧ (t.thread c k).inh = false ∧
        (t.thread c k).pc = BitVec.ofNat 57 (fld (s.thread c k).tret 56 6 * 64) ∧ (t.thread c k).st = .halted ∧
        (t.thread c k).wait = (s.thread c k).wasWait ∧ (t.thread c k).q = (s.thread c k).q ∧ t.issue = none ∧ Apart (.thread c k) s t) ∧
    ((s.thread c k).inh = true → s.handled c k = none → (s.thread c k).wasHalted = true →
      s.onCluster (s.thread c k).launch c = false → (s.thread c k).queue = [] →
      ∃ t, Machine.exec (.rett f) s = .next t ∧
        t.thread c k = { Thread.idle with epoch := (s.thread c k).epoch, used := true } ∧ SameBytes s t) ∧
    (∀ i v l, (s.thread c k).inh = true → s.handled c k = some (i, v) → s.wave i = some v → v.bank = .active →
      s.launch v.launch = some l → (s.effFdom l.q).testBit 3 = true → (s.thread c k).wasHalted = false → (s.thread c k).st = .running →
      ∃ t, Machine.exec (.rett f) s = .next t ∧ t.wave i = some { v with stop := .host, dlv := false } ∧
        ⟨.wave i, l.q⟩ ∈ t.flt.stops ∧ (t.thread c k).inh = false ∧
        (t.thread c k).pc = BitVec.ofNat 57 (fld (s.thread c k).tret 56 6 * 64) ∧ (t.thread c k).st = .running ∧
        (t.thread c k).q = (s.thread c k).q) ∧
    ((s.thread c k).inh = false → Machine.exec (.rett f) s = .next (s.trap (.thread c k) 0x01 none 0 0))

/-- The first-touch handler (R315): a translation fault with cause first-touch of a wave outside the handler whose context
has one saves the place, the masks and the address, and goes on at the handler's clause with the faulting lanes; RETT of
the wave gives back the masks held at the fault and goes on at the faulting instruction (R224). -/
def Obligations.FirstTouchHandler : Prop :=
  (∀ (s : Machine.State) (w : Nat) (v : Wave) (lane : Option Nat) (va : Nat) (m : Mask),
    s.wave w = some v → s.hentry v.ctx ≠ 0 → v.inh = none →
    ∃ u, (s.faultHere (.wave w) 0x25 lane va m).wave w = some u ∧ u.inh = some v.alt ∧
      u.hreg.hpc = BitVec.ofNat 64 (v.path.pc.toNat + v.path.slot * 8) ∧ u.hreg.hva = BitVec.ofNat 64 va ∧
      maskOf (fld u.hreg.hmask01 31 0) (fld u.hreg.hmask01 63 32) u.hreg.hmask2.toNat = v.path.mask ∧
      u.hreg.hsave = v.hreg.hsave ∧ u.path.pc = BitVec.ofNat 57 (s.hentry v.ctx) ∧ u.path.slot = 1 ∧ u.path.mask = m ∧
      u.sreg = v.sreg ∧ u.vreg = v.vreg ∧ u.stop = v.stop ∧ u.other = v.other ∧ Apart (.wave w) s (s.faultHere (.wave w) 0x25 lane va m)) ∧
  (∀ (s : Machine.State) (w : Nat) (v : Wave) (f : SF), Ready s (.wave w) (.rett f) → s.wave w = some v →
    ∃ t u, Machine.exec (.rett f) s = .next t ∧ t.wave w = some u ∧ u.inh = none ∧
      u.path.pc = BitVec.ofNat 57 (fld v.hreg.hpc 56 6 * 64) ∧
      u.path.slot = (if fld v.hreg.hpc 5 3 = 0 then 1 else fld v.hreg.hpc 5 3) ∧
      u.path.mask = maskOf (fld v.hreg.hmask01 31 0) (fld v.hreg.hmask01 63 32) v.hreg.hmask2.toNat ∧
      u.sreg = v.sreg ∧ u.vreg = v.vreg ∧ u.hreg = v.hreg ∧ u.other = v.other ∧ Apart (.wave w) s t)

/-- TRAP (R223): TRAP.SEQ of a wave stops it at the clause that follows, with cause 0x1A and its number in the record, which
joins the queue of its launch's thread; of a thread with a handler, outside it, the record waits in its own queue and the
thread stands at the next clause; inside its handler, or of a thread without one, it is a tier-3 stop there, as TRAP.HOST of a
thread is (R218, R314); TRAP.HOST of a wave is a tier-3 stop there, with cause 0x26 and the wave parked where a handler clause
gives n = 0xFFFF (R316). The step trap of DWSTEP stops the wave again with cause 0x1B (R221). Readings of
TRAP and RETT stand in log entry 32. -/
def Obligations.TrapInstructions : Prop :=
  (∀ (s : Machine.State) (w : Nat) (v : Wave) (f : SF), Ready s (.wave w) (.trapSeq f) → s.wave w = some v →
    ∃ t u, Machine.exec (.trapSeq f) s = .next t ∧ t.wave w = some u ∧ u.stop = .seq ∧ u.path.pc = v.path.pc + 64 ∧
      u.path.slot = 1 ∧ u.trec = s.trapRec (.wave w) 0x1A v.path.slot none f.imm.toNat 0 ∧ u.sreg = v.sreg ∧ u.vreg = v.vreg ∧
      (∀ k, s.threadFor v.launch v.cluster = some k →
        (t.thread v.cluster k).queue = (s.thread v.cluster k).queue ++ [⟨some w, BitVec.ofNat 32 v.handle, u.trec⟩]) ∧
      t.rest = s.rest ∧ SameBytes s t ∧ ∀ j, w ≠ j → t.wave j = s.wave j) ∧
  (∀ (s : Machine.State) (c k : Nat) (f : SF), Ready s (.thread c k) (.trapSeq f) → (s.thread c k).inh = false →
    (s.thread c k).tvec ≠ 0 →
    ∃ t, Machine.exec (.trapSeq f) s = .next t ∧ (t.thread c k).pc = (s.thread c k).pc + 64 ∧ (t.thread c k).slot = 1 ∧
      (t.thread c k).queue = (s.thread c k).queue ++
        [⟨none, 0x40000000, s.trapRec (.thread c k) 0x1A (s.thread c k).slot none f.imm.toNat 0⟩] ∧
      (t.thread c k).q = (s.thread c k).q ∧ Apart (.thread c k) s t) ∧
  (∀ (s : Machine.State) (w : Nat) (v : Wave) (f : SF), Ready s (.wave w) (.trapHost f) → s.wave w = some v →
    let dry := headerKind (wordAt (s.codeOf (.wave w)) 0) = .handler ∧ f.imm = 0xFFFF
    ∃ st cause, ((dry ∧ st = Stop.parked ∧ cause = 0x26) ∨ (¬dry ∧ st = Stop.host ∧ cause = 0x1A)) ∧
      let tr := s.trapRec (.wave w) cause v.path.slot none f.imm.toNat 0
      Machine.exec (.trapHost f) s = .next ((((s.setWave w (v.trapped st tr)).dropReserve w).tier3 (.wave w) 1 tr).unlatch) ∧
        (v.trapped st tr).stop = st ∧ (v.trapped st tr).path.pc = v.path.pc + 64 ∧ (v.trapped st tr).sreg = v.sreg) ∧
  (∀ (s : Machine.State) (c k : Nat) (f : SF), let h := (s.thread c k).pastTrap.halt
    (Ready s (.thread c k) (.trapSeq f) → (s.thread c k).inh = true ∨ (s.thread c k).tvec = 0 →
      Machine.exec (.trapSeq f) s = .next (((s.setThread c k h).tier3 (.thread c k) 1
        (s.trapRec (.thread c k) 0x1A (s.thread c k).slot none f.imm.toNat 0)).unlatch)) ∧
    (Ready s (.thread c k) (.trapHost f) → headerKind (wordAt (s.codeOf (.thread c k)) 0) ≠ .handler →
      Machine.exec (.trapHost f) s = .next (((s.setThread c k h).tier3 (.thread c k) 1
        (s.trapRec (.thread c k) 0x1A (s.thread c k).slot none f.imm.toNat 0)).unlatch)) ∧
    h.stop = true ∧ h.pc = (s.thread c k).pc + 64 ∧ h.slot = 1 ∧ h.q = (s.thread c k).q ∧ h.queue = (s.thread c k).queue) ∧
  (∀ (s : Machine.State) (w : Nat) (v : Wave), s.wave w = some v → v.step = true → v.stop = .seq →
    ∃ t u, Machine.exec (.stepTrap w) s = .next t ∧ t.wave w = some u ∧ u.stop = .seq ∧ u.step = false ∧
      fld u.trec.w0 63 56 = 0x1B ∧ u.trec.w1 = v.path.pc.zeroExtend 64 ∧ u.sreg = v.sreg ∧ u.vreg = v.vreg ∧
      (∀ k, s.threadFor v.launch v.cluster = some k →
        (t.thread v.cluster k).queue = (s.thread v.cluster k).queue ++ [⟨some w, BitVec.ofNat 32 v.handle, u.trec⟩]) ∧
      t.rest = s.rest ∧ SameBytes s t)

/-! ### Scalar instructions -/

/-- Table 11-1, R113 and the rows ICMP and MOV of Table 11-2: every integer, compare and move instruction completes, its
destination holds the result modulo 2^W, extended in a q register as R110 says, and nothing but the destination and the place
of the agent changes: no flag, no memory. -/
def Obligations.ScalarIntegerResult : Prop :=
  ∀ (i : Instr) (f : SF) (x : Int) (s : Machine.State) (ag : Agent), Ready s ag i →
    i.intResult (s.srcBits ag f.ty.bits f.imm f.sa) (s.srcBits ag f.ty.bits f.imm f.sb) (s.srcBits ag f.ty.bits f.imm f.sc) =
      some (f, x) →
    ∃ t, Machine.exec i s = .next t ∧ Holds t ag f.dst f.ty (BitVec.ofInt 64 (x % (2 ^ f.ty.bits : Nat))) ∧
      Kept ag s t (dstRegs ag f.dst (f.ty.bits == 64)) [] false false

/-- SEL, LEA and MFS (Table 11-2, R117): results and frame. SEL tests a 32-bit c in a wave and the whole
q register in a thread; LEA adds the scaled b and `imm` to a modulo 2^64; MFS reads a special register at its width. -/
def Obligations.ScalarSelectAndRead : Prop :=
  ∀ (s : Machine.State) (ag : Agent) (f : SF),
    (Ready s ag (.sel f) →
      let c := s.srcBits ag (if Agent.isThread ag then 64 else 32) f.imm f.sc
      ∃ t, Machine.exec (.sel f) s = .next t ∧
        Holds t ag f.dst f.ty (BitVec.ofNat 64 (s.srcBits ag f.ty.bits f.imm (if c ≠ 0 then f.sa else f.sb))) ∧
        Kept ag s t (dstRegs ag f.dst (f.ty.bits == 64)) [] false false) ∧
    (Ready s ag (.lea f) →
      ∃ t, Machine.exec (.lea f) s = .next t ∧
        Holds t ag f.dst .n64 (BitVec.ofInt 64 ((s.srcBits ag 64 f.imm f.sa : Int) +
          f.ty.int (s.srcBits ag f.ty.bits f.imm f.sb) * 2 ^ f.fn.toNat + f.imm.toInt)) ∧
        Kept ag s t (dstRegs ag f.dst true) [] false false) ∧
    (Ready s ag (.mfs f) →
      ∃ t, Machine.exec (.mfs f) s = .next t ∧
        t.reg ag f.dst (sprBits ag f.imm.toNat == 64) =
          (if sprBits ag f.imm.toNat = 64 then s.spr ag f.imm.toNat else ((s.spr ag f.imm.toNat).truncate 32).zeroExtend 64) ∧
        Kept ag s t (dstRegs ag f.dst (sprBits ag f.imm.toNat == 64)) [] false false)

/-- MBCNT counts the set bits among lanes 0 to min(b, 96) - 1 of a mask triple; MFIRST gives the lowest (`fn` 0) or highest
(`fn` 1) set lane, or 96 where none is set; every other `fn`, and an `sb` of MFIRST, raises illegal-instruction (R125). -/
def Obligations.MaskCounts : Prop :=
  (∀ (s : Machine.State) (ag : Agent) (f : SF), Ready s ag (.mbcnt f) →
    ∃ t, Machine.exec (.mbcnt f) s = .next t ∧
      Holds t ag f.dst .n32 (BitVec.ofNat 64 ((List.range 96).countP (fun i =>
        (s.triple ag f.sa).getLsbD i && decide (i < min (s.srcBits ag 32 f.imm f.sb) 96)))) ∧
      Kept ag s t (dstRegs ag f.dst false) [] false false) ∧
  (∀ (s : Machine.State) (ag : Agent) (f : SF), Ready s ag (.mfirst f) →
    ∃ t, Machine.exec (.mfirst f) s = .next t ∧
      Holds t ag f.dst .n32 (BitVec.ofNat 64 (if f.fn = 0 then lowLane (s.triple ag f.sa) else highLane (s.triple ag f.sa))) ∧
      Kept ag s t (dstRegs ag f.dst false) [] false false) ∧
  (∀ (s : Machine.State) (ag : Agent), s.issue = some ⟨ag, false⟩ →
    ((fld (s.word ag) 63 56 = 0x34 ∧ (2 ≤ fld (s.word ag) 19 16 ∨ fld (s.word ag) 39 32 ≠ 0xFF)) ∨
      (fld (s.word ag) 63 56 = 0x33 ∧ fld (s.word ag) 19 16 ≠ 0)) →
    Machine.step s = .next (s.trap ag 0x01 none 0 0))

/-- What a scalar source reads at width W (R96, R99, R110): a register, an inline integer modulo 2^W, `imm` sign-extended, or
the literal; in a wave, s61 to s63 read as the issuing slot's masks (R41). Kinds of operands that the tables leave implicit
are the model's reading (log entry 27). -/
def Obligations.ScalarOperandForms : Prop :=
  ∀ (s : Machine.State) (ag : Agent) (W : Nat) (imm : BitVec 16), (W = 32 ∨ W = 64) →
    (∀ k : Fin 16, s.srcBits ag W imm (.inl k) = ((if k.val < 8 then (k.val : Int) else (k.val : Int) - 16) % (2 ^ W : Nat)).toNat) ∧
    s.srcBits ag W imm .imm = (imm.toInt % (2 ^ W : Nat)).toNat ∧
    (∀ x, s.srcBits ag W imm (.lit x) = x.toNat % 2 ^ W) ∧
    (∀ w v n, ag = .wave w → s.wave w = some v → s.srcBits ag W imm (.s n) =
      (if W = 64 then (v.getS n.val).toNat + 2 ^ 32 * (v.getS (n.val + 1)).toNat else (v.getS n.val).toNat)) ∧
    (∀ c k n, ag = .thread c k → s.srcBits ag W imm (.q n) = ((s.thread c k).getQ n.val).toNat % 2 ^ W) ∧
    (∀ v : Wave, ∀ i < 3, v.getS (61 + i) = BitVec.ofNat 32 (v.path.mask.toNat / 2 ^ (32 * i)))

/-- SFADD, SFMUL, SFMA and SFCMP (R115, R78, R79): where no flag that is raised has its trap bit set, the destination holds the
result and the flags are added to `fpstat`; otherwise the arithmetic trap is taken with those flags. SCVT the same with its
conversion (R116). Special functions are as log entry 11 has them, flags of a NaN made an integer as log entry 40. -/
def Obligations.ScalarFloatResult : Prop :=
  (∀ (i : Instr) (f : SF) (r : Nat × FFlags) (s : Machine.State) (ag : Agent), Ready s ag i →
    i.floatResult (s.f32 ag f.sa) (s.f32 ag f.sb) (s.f32 ag f.sc) = some (f, r) →
    (trapsOn (s.fpstatOf ag) r.2 = false →
      ∃ t, Machine.exec i s = .next t ∧ Holds t ag f.dst .n32 (BitVec.ofNat 64 (r.1 % 2 ^ 32)) ∧
        t.fpstatOf ag = s.fpstatOf ag ||| r.2.zeroExtend 32 ∧ Kept ag s t (dstRegs ag f.dst false) [] true false) ∧
    (trapsOn (s.fpstatOf ag) r.2 = true → Machine.exec i s = .next (s.trap ag 0x11 none r.2.toNat 0))) ∧
  (∀ (f : SF) (st : Ty) (s : Machine.State) (ag : Agent), Ready s ag (.scvt f) → Ty.ofCode f.fn.toNat = some st →
    let r := convert (numFmt f.ty false) (numFmt st false) (f.imm.toNat % 4) 0 (f.imm.getLsbD 2)
      (s.src ag (numFmt st false) f.imm f.sa)
    (trapsOn (s.fpstatOf ag) r.2 = false →
      ∃ t, Machine.exec (.scvt f) s = .next t ∧
        t.reg ag f.dst (f.ty.bits == 64) = BitVec.ofNat 64 (r.1 % 2 ^ f.ty.bits) ∧
        t.fpstatOf ag = s.fpstatOf ag ||| r.2.zeroExtend 32 ∧
        Kept ag s t (dstRegs ag f.dst (f.ty.bits == 64)) [] true false) ∧
    (trapsOn (s.fpstatOf ag) r.2 = true → Machine.exec (.scvt f) s = .next (s.trap ag 0x11 none r.2.toNat 0)))

/-- An instruction that would raise a flag whose trap bit is set takes the arithmetic trap where it stands instead, writing
nothing: every register and `fpstat` stay, and the record, which carries the flags, joins the queue of the wave's sequencer
thread; a sequencer thread that traps stops with it (R79, R105). Both are stated over `withFlags`, through which every instruction
that raises flags goes. -/
def Obligations.ArithmeticTrap : Prop :=
  (∀ (s : Machine.State) (w : Nat) (v : Wave) (fl : FFlags) (k : Machine.State → Machine.State), s.wave w = some v →
    (∃ n, n < 5 ∧ fl.getLsbD n = true ∧ v.fpstat.getLsbD (16 + n) = true) →
    let t := s.withFlags (.wave w) fl k
    ∃ u, t.wave w = some u ∧ u.stop = .seq ∧ u.fpstat = v.fpstat ∧ u.sreg = v.sreg ∧ u.vreg = v.vreg ∧
      u.path.mask = v.path.mask ∧ u.path.pc = v.path.pc ∧ u.path.slot = v.path.slot ∧ fld u.trec.w0 63 56 = 0x11 ∧
      fld u.trec.w0 31 16 = fl.toNat ∧ SameBytes s t ∧ t.rest = s.rest ∧
      ∀ j, s.threadFor v.launch v.cluster = some j → (t.thread v.cluster j).queue =
        (s.thread v.cluster j).queue ++ [⟨some w, BitVec.ofNat 32 v.handle, u.trec⟩]) ∧
  (∀ (s : Machine.State) (c j : Nat) (fl : FFlags) (k : Machine.State → Machine.State),
    (∃ n, n < 5 ∧ fl.getLsbD n = true ∧ (s.thread c j).fpstat.getLsbD (16 + n) = true) →
    let r := s.trapRec (.thread c j) 0x11 (s.thread c j).slot none fl.toNat 0
    let h := (s.thread c j).halt
    s.withFlags (.thread c j) fl k = ((s.setThread c j h).tier3 (.thread c j) 1 r).unlatch ∧
      h.fpstat = (s.thread c j).fpstat ∧ h.q = (s.thread c j).q ∧ h.pc = (s.thread c j).pc ∧ h.slot = (s.thread c j).slot ∧
      h.stop = true ∧ fld r.w0 63 56 = 0x11 ∧ fld r.w0 31 16 = fl.toNat)

/-- MTS (R117, R118): each register takes the write by its access code; a write to a read-only register changes nothing;
general registers, memory and the other agents stay. -/
def Obligations.SpecialRegisterWrites : Prop :=
  ∀ (s : Machine.State) (ag : Agent) (f : SF), Ready s ag (.mts f) →
    let n := f.imm.toNat
    let x : W64 := BitVec.ofNat 64 (s.srcBits ag (sprBits ag n) 0 f.sa)
    ∃ t, Machine.exec (.mts f) s = .next t ∧ Apart ag s t ∧ (∀ k < 64, t.num ag k = s.num ag k) ∧
      (∀ m, m ≠ n → ¬(n = 3 ∧ m = 4) → t.spr ag m = s.spr ag m) ∧
      (n ∈ [0, 1, 5, 7, 8, 0x102, 0x110, 0x111, 0x112, 0x113] → t.spr ag n = s.spr ag n) ∧
      (n = 6 → t.spr ag 6 = ((x &&& 0x1F0000) ||| (s.spr ag 6 &&& ~~~x &&& 0x1F))) ∧
      (Agent.isThread ag = false → n = 2 → t.spr ag 2 = x &&& 0x01FFFFFFFFFFFFE0) ∧
      (Agent.isThread ag = false → n = 3 → t.spr ag 3 = x ∧ (t.spr ag 4).toNat = min (s.spr ag 4).toNat x.toNat) ∧
      (Agent.isThread ag = false → n = 4 → (t.spr ag 4).toNat = min x.toNat (s.spr ag 3).toNat) ∧
      (Agent.isThread ag = false → n ∈ [0x114, 0x115, 0x116, 0x117] → t.spr ag n = x) ∧
      (Agent.isThread ag = true → n = 0x100 → t.spr ag n = x &&& 0x01FFFFFFFFFFFFC0) ∧
      (Agent.isThread ag = true → n = 0x101 → t.spr ag n = x &&& 0x01FFFFFFFFFFFFF8)

/-- The record of the trap being handled is read through special registers 0x103 to 0x106 of a thread; 0x107 to 0x10F read
as zero; an MTS to any of them changes none (R313). -/
def Obligations.TrapRecordRegisters : Prop :=
  ∀ (s : Machine.State) (c k : Nat),
    s.spr (.thread c k) 0x103 = (s.thread c k).trec.w0 ∧ s.spr (.thread c k) 0x104 = (s.thread c k).trec.w1 ∧
    s.spr (.thread c k) 0x105 = (s.thread c k).trec.w2 ∧ s.spr (.thread c k) 0x106 = (s.thread c k).trec.w3 ∧
    (∀ n, 0x107 ≤ n → n ≤ 0x10F → s.spr (.thread c k) n = 0) ∧
    (∀ n x, 0x103 ≤ n → n ≤ 0x10F → s.setSpr (.thread c k) n x = s) ∧
    (∀ n, 0x103 ≤ n → n ≤ 0x10F → sprWidth .seq n = some 64)

/-- BR, BRC, BRX, CALL, CALLX and RET (R119, R120): the agent goes on at slot 1 of the target, or for BRC with a false
condition at the clause that follows; a call's link holds the address of the clause that follows; a register that holds no
clause address raises branch-target and writes no link. Nothing else changes. -/
def Obligations.ControlTransfers : Prop :=
  ∀ (s : Machine.State) (ag : Agent) (f : SF),
    let next : BitVec 57 := (s.pcOf ag).1 + 64
    let goes (i : Instr) (pc : BitVec 57) : Prop := ∃ t, Machine.exec i s = .next t ∧ (t.pcOf ag).1 = pc ∧ (t.pcOf ag).2.1 = 1 ∧
      Kept ag s t [] [] false false
    let links (i : Instr) (pc : BitVec 57) : Prop := ∃ t, Machine.exec i s = .next t ∧ (t.pcOf ag).1 = pc ∧ (t.pcOf ag).2.1 = 1 ∧
      t.reg ag f.dst true = next.zeroExtend 64 ∧ Kept ag s t (dstRegs ag f.dst true) [] false false
    let bad (i : Instr) : Prop := Machine.exec i s = .next (s.trap ag 0x10 none 0 (s.reg ag f.sa true).toNat)
    (∀ pc, s.target ag f = some pc →
      (Ready s ag (.br f) → goes (.br f) pc) ∧ (Ready s ag (.brx f) → goes (.brx f) pc) ∧ (Ready s ag (.ret f) → goes (.ret f) pc) ∧
      (Ready s ag (.brc f) → goes (.brc f)
        (if branchCond f.fn.toNat f.ty.bits (s.srcBits ag f.ty.bits f.imm f.sb) then pc else next)) ∧
      (Ready s ag (.call f) → links (.call f) pc) ∧ (Ready s ag (.callx f) → links (.callx f) pc)) ∧
    (s.target ag f = none → (Ready s ag (.brx f) → bad (.brx f)) ∧ (Ready s ag (.callx f) → bad (.callx f)) ∧
      (Ready s ag (.ret f) → bad (.ret f))) ∧
    (f.sa = .imm → s.target ag f = some ((s.pcOf ag).1 + 64 * f.imm.signExtend 57)) ∧
    (∀ x, f.sa = .lit x → s.target ag f = some (x.truncate 57)) ∧
    ((∀ n, f.sa ≠ .lit n) → f.sa ≠ .imm → s.target ag f =
      let x := s.reg ag f.sa true
      if fld x 63 57 = 0 ∧ fld x 5 0 = 0 then some (x.truncate 57) else none)

/-- NOP, whose word is 0x35FF_FFFF_FF00_0000, is legal in every clause kind, is no control transfer and has no effect but the
place of its agent, which stands after one slot (R126). YIELD has none either (R225). -/
def Obligations.NopAndYield : Prop :=
  (∃ g : SF, decodeWord 0x35FF_FFFF_FF00_0000 0 = .ok (.nop g) ∧ wordAt (encode (.nop g)) 0 = 0x35FF_FFFF_FF00_0000) ∧
  (∀ (k : ClauseKind) (lit : W64), ∃ g : SF, decodeWord 0x35FF_FFFF_FF00_0000 lit = .ok (.nop g) ∧ legal k (.nop g) = true) ∧
  (∀ g : SF, (Instr.nop g).mustEnd = false) ∧
  ∀ (s : Machine.State) (ag : Agent) (f : SF),
    (Ready s ag (.nop f) → ∃ t, Machine.exec (.nop f) s = .next t ∧ Kept ag s t [] [] false false ∧ After s t ag 1) ∧
    (Ready s ag (.yield f) → ∃ t, Machine.exec (.yield f) s = .next t ∧ Kept ag s t [] [] false false ∧ After s t ag 1)

/-- MSK (R124): the destination triple holds the bitwise combination of the sources, which are read before it is written; a
triple that reaches s61 to s63 is the issuing slot's mask. -/
def Obligations.MaskCombination : Prop :=
  ∀ (s : Machine.State) (w : Nat) (f : SF) (d : Fin 64), Ready s (.wave w) (.msk f) → f.dst = .s d →
    let a := s.triple (.wave w) f.sa
    let b := s.triple (.wave w) f.sb
    ∃ t, Machine.exec (.msk f) s = .next t ∧
      t.triple (.wave w) f.dst = (match f.fn.toNat with
        | 0 => a &&& b | 1 => a ||| b | 2 => a &&& ~~~b | 3 => a ^^^ b | 4 => ~~~a | _ => a) ∧
      Kept (.wave w) s t [d.val, d.val + 1, d.val + 2] [] false false ∧ After s t (.wave w) 1

/-- BSPLIT (R42, R45, R121): with no taken lane the slot goes on at the next clause, with no other lane at the target;
otherwise the issuing slot keeps the other lanes at the next clause and the other slot runs the taken lanes at the target, both
one level deeper; the path that the other slot held is pushed first, unless the stack is full, its page deferred or not
translated, which trap or fault. At depth 63 that case raises divergence-depth. No register changes but the masks. A pushed
path drops its wait in a BAR (the model's choice, log entry 46). -/
def Obligations.Split : Prop :=
  ∀ (s : Machine.State) (w : Nat) (v : Wave) (f : SF) (pc : BitVec 57), Ready s (.wave w) (.bsplit f) → s.wave w = some v →
    s.target (.wave w) f = some pc → v.inRange f.sb 0 = true →
    let taken := v.splitLanes s (.wave w) f &&& v.path.mask
    let fall := v.path.mask &&& ~~~taken
    (taken = 0 → ∃ t u, Machine.exec (.bsplit f) s = .next t ∧ t.wave w = some u ∧ u.path.pc = v.path.pc + 64 ∧
      Kept (.wave w) s t [] [] false false) ∧
    (taken ≠ 0 → fall = 0 → ∃ t u, Machine.exec (.bsplit f) s = .next t ∧ t.wave w = some u ∧ u.path.pc = pc ∧
      Kept (.wave w) s t [] [] false false) ∧
    (taken ≠ 0 → fall ≠ 0 → v.path.depth ≠ 63 → v.other.st = .empty →
      ∃ t u, Machine.exec (.bsplit f) s = .next t ∧ t.wave w = some u ∧ Passing (.wave w) s t ∧ u.sreg = v.sreg ∧ u.vreg = v.vreg ∧
        u.path.mask = fall ∧ u.path.pc = v.path.pc + 64 ∧ u.path.depth = v.path.depth + 1 ∧ u.path.st = .running ∧
        u.other.mask = taken ∧ u.other.pc = pc ∧ u.other.depth = v.path.depth + 1 ∧ u.other.st = .running ∧
        u.dstkdepth = v.dstkdepth ∧ u.fpstat = v.fpstat) ∧
    (taken ≠ 0 → fall ≠ 0 → v.path.depth ≠ 63 → v.other.st ≠ .empty →
      let va := v.entryVa v.dstkdepth.toNat
      (v.dstkdepth = v.dstklen → Machine.exec (.bsplit f) s = .next (s.trap (.wave w) 0x08 none 0 0)) ∧
      (v.dstkdepth ≠ v.dstklen →
        (∀ c, s.xlate (s.tlbOf (.wave w)) v.ctx va false true = .error c →
          Machine.exec (.bsplit f) s = .next (s.faultHere (.wave w) c none va 0)) ∧
        (∀ pa leaf, s.xlate (s.tlbOf (.wave w)) v.ctx va false true = .ok (pa, leaf) → bitAt leaf 53 = true →
          Machine.exec (.bsplit f) s = .next (s.trap (.wave w) 0x0A none 0 va))) ∧
      (∀ pa leaf, Pushes s w v pa leaf →
        ∃ t u, Machine.exec (.bsplit f) s = .next t ∧ t.wave w = some u ∧ EntryStored s t v pa (entryOf v.other) ∧
          u.sreg = v.sreg ∧ u.vreg = v.vreg ∧ u.path.mask = fall ∧ u.path.pc = v.path.pc + 64 ∧
          u.path.depth = v.path.depth + 1 ∧ u.path.st = .running ∧ u.other.mask = taken ∧ u.other.pc = pc ∧
          u.other.depth = v.path.depth + 1 ∧ u.other.st = .running ∧ u.dstkdepth = v.dstkdepth + 1 ∧ u.fpstat = v.fpstat)) ∧
    (taken ≠ 0 → fall ≠ 0 → v.path.depth = 63 → Machine.exec (.bsplit f) s = .next (s.trap (.wave w) 0x07 none 0 0))

/-- BJOIN (R43, R122): at depth 0 it has no effect; where the other slot is Empty or shallower the path goes on one level up;
where it is Joined at the same depth the primary slot goes on with both masks one level up and the alternate slot is Empty,
into which the top entry of a stack that is not empty is popped: a Running path as it was stacked, a Joined one after R43 is
applied to it again (one at depth 0 runs: log entry 33), while an entry with a reserved field set raises divergence-stack-corrupt; otherwise the slot is Joined
and issues no more. -/
def Obligations.Join : Prop :=
  ∀ (s : Machine.State) (w : Nat) (v : Wave) (f : SF), Ready s (.wave w) (.bjoin f) → s.wave w = some v →
    let merges := v.path.depth ≠ 0 ∧ v.other.st = .joined ∧ v.other.depth = v.path.depth
    (merges → v.dstkdepth ≠ 0 →
      (∀ c, s.xlate (s.tlbOf (.wave w)) v.ctx (v.entryVa (v.dstkdepth.toNat - 1)) true false = .error c →
        Machine.exec (.bjoin f) s = .next (s.faultHere (.wave w) c none (v.entryVa (v.dstkdepth.toNat - 1)) 0)) ∧
      (∀ pa e, Pops s w v pa → EntryAt s v pa e →
        let d := fld (wordAt e 3) 5 0
        let joined := fld (wordAt e 0) 0 0 = 1
        (entryBad e = true → Machine.exec (.bjoin f) s = .next (s.trap (.wave w) 0x0B none 0 0)) ∧
        (entryBad e = false → ∃ t u, Machine.exec (.bjoin f) s = .next t ∧ t.wave w = some u ∧ SameBytes s t ∧
          u.sreg = v.sreg ∧ u.vreg = v.vreg ∧ u.dstkdepth = v.dstkdepth - 1 ∧ u.p0.pc = v.path.pc + 64 ∧
          u.p0.depth = v.path.depth - 1 ∧ u.p0.mask = v.path.mask ||| v.other.mask ∧ u.p0.st = .running ∧
          u.p1.pc = BitVec.ofNat 57 (fld (wordAt e 0) 56 6 * 64) ∧
          u.p1.mask = maskOf (fld (wordAt e 1) 31 0) (fld (wordAt e 1) 63 32) (fld (wordAt e 2) 31 0) ∧
          (joined ∧ d ≠ 0 ∧ d ≤ v.path.depth - 1 → u.p1.st = .joined ∧ u.p1.depth = d) ∧
          (joined ∧ d ≠ 0 ∧ v.path.depth - 1 < d → u.p1.st = .running ∧ u.p1.depth = d - 1) ∧
          (¬joined ∨ d = 0 → u.p1.st = .running ∧ u.p1.depth = d)))) ∧
    (¬merges ∨ v.dstkdepth = 0 →
    ∃ t u, Machine.exec (.bjoin f) s = .next t ∧ t.wave w = some u ∧ Passing (.wave w) s t ∧ u.sreg = v.sreg ∧ u.vreg = v.vreg ∧
      u.fpstat = v.fpstat ∧ u.dstkdepth = v.dstkdepth ∧
      (v.path.depth = 0 → u.path.pc = v.path.pc + 64 ∧ u.path.depth = 0 ∧ u.path.mask = v.path.mask ∧ u.other = v.other) ∧
      (v.path.depth ≠ 0 → (v.other.st = .empty ∨ v.other.depth < v.path.depth) →
        u.path.pc = v.path.pc + 64 ∧ u.path.depth = v.path.depth - 1 ∧ u.path.mask = v.path.mask ∧ u.other = v.other) ∧
      (v.path.depth ≠ 0 → v.other.st = .joined → v.other.depth = v.path.depth →
        u.p0.pc = v.path.pc + 64 ∧ u.p0.depth = v.path.depth - 1 ∧ u.p0.mask = v.path.mask ||| v.other.mask ∧
          u.p0.st = .running ∧ u.p1.st = .empty) ∧
      (v.path.depth ≠ 0 → v.other.st ≠ .empty → v.path.depth ≤ v.other.depth →
        ¬(v.other.st = .joined ∧ v.other.depth = v.path.depth) →
        u.path.st = .joined ∧ u.path.depth = v.path.depth ∧ u.path.mask = v.path.mask ∧ u.path.pc = v.path.pc + 64 ∧
          u.other = v.other))

/-- DPUSH and DPOP (R44, R45, R123): with the other slot Empty, DPUSH places the entry there as a popped path, to which R43 is
applied where it is Joined, and stores nothing; with it occupied and no room, divergence-overflow, on a deferred page
stack-deferred; DPOP of an empty stack is divergence-underflow. Otherwise DPUSH stores the eight registers as the 32 bytes at
`dstkbase` + 32 × `dstkdepth`, every other byte as it was, and counts it; DPOP loads the entry below into the eight registers
and counts it off. -/
def Obligations.StackPushPop : Prop :=
  ∀ (s : Machine.State) (w : Nat) (v : Wave) (f : SF) (n : Fin 64), s.wave w = some v →
    (Ready s (.wave w) (.dpush f) → f.sa = .s n →
      let e := v.quad n.val
      (v.other.st = .empty → entryBad e = false →
        ∃ t, Machine.exec (.dpush f) s = .next t ∧
          t = (s.setPassed w (v.place (!v.alt) (pathOf e)).1).retire 1 .none ∧ SameBytes s t ∧
          (fld (wordAt e 0) 0 0 = 0 → ∃ u, t.wave w = some u ∧ u.other.mask =
            maskOf (fld (wordAt e 1) 31 0) (fld (wordAt e 1) 63 32) (fld (wordAt e 2) 31 0) ∧
            u.other.depth = fld (wordAt e 3) 5 0 ∧ u.other.pc = BitVec.ofNat 57 (fld (wordAt e 0) 56 6 * 64) ∧
            u.other.st = .running ∧ u.sreg = v.sreg ∧ u.dstkdepth = v.dstkdepth)) ∧
      (v.other.st = .empty → entryBad e = true → Machine.exec (.dpush f) s = .next (s.trap (.wave w) 0x0B none 0 0)) ∧
      (v.other.st ≠ .empty → v.dstkdepth = v.dstklen → Machine.exec (.dpush f) s = .next (s.trap (.wave w) 0x08 none 0 0)) ∧
      (v.other.st ≠ .empty → v.dstkdepth ≠ v.dstklen →
        (∀ c, s.xlate (s.tlbOf (.wave w)) v.ctx (v.entryVa v.dstkdepth.toNat) false true = .error c →
          Machine.exec (.dpush f) s = .next (s.faultHere (.wave w) c none (v.entryVa v.dstkdepth.toNat) 0)) ∧
        (∀ pa leaf, s.xlate (s.tlbOf (.wave w)) v.ctx (v.entryVa v.dstkdepth.toNat) false true = .ok (pa, leaf) →
          bitAt leaf 53 = true →
          Machine.exec (.dpush f) s = .next (s.trap (.wave w) 0x0A none 0 (v.entryVa v.dstkdepth.toNat)))) ∧
      (∀ pa leaf, v.other.st ≠ .empty → Pushes s w v pa leaf →
        ∃ t u, Machine.exec (.dpush f) s = .next t ∧ t.wave w = some u ∧ EntryStored s t v pa e ∧ u.sreg = v.sreg ∧
          u.vreg = v.vreg ∧ u.other = v.other ∧ u.path.mask = v.path.mask ∧ u.dstkdepth = v.dstkdepth + 1 ∧
          After s t (.wave w) 1)) ∧
    (Ready s (.wave w) (.dpop f) → f.dst = .s n →
      (v.dstkdepth = 0 → Machine.exec (.dpop f) s = .next (s.trap (.wave w) 0x09 none 0 0)) ∧
      (∀ c, v.dstkdepth ≠ 0 →
        s.xlate (s.tlbOf (.wave w)) v.ctx (v.entryVa (v.dstkdepth.toNat - 1)) true false = .error c →
        Machine.exec (.dpop f) s = .next (s.faultHere (.wave w) c none (v.entryVa (v.dstkdepth.toNat - 1)) 0)) ∧
      (∀ pa, Pops s w v pa →
        ∃ t u, Machine.exec (.dpop f) s = .next t ∧ t.wave w = some u ∧ u.dstkdepth = v.dstkdepth - 1 ∧ u.vreg = v.vreg ∧
          u.other = v.other ∧ (∀ k, k < 64 → (k < n.val ∨ n.val + 8 ≤ k) → u.getS k = v.getS k) ∧ After s t (.wave w) 1 ∧
          ∀ e, EntryAt s v pa e → SameBytes s t ∧ ∀ i, i < 4 →
            pair32 (u.getS (n.val + 2 * i)).toNat (u.getS (n.val + 2 * i + 1)).toNat = wordAt e i))

/-! ### Vector instructions -/

/-- Table 12-2 (R129, R130): every vector integer and move instruction completes where its vector registers lie below the
allotment; each element of each active lane of the destination holds the result modulo 2^W and every other lane keeps its
value; no flag, register or byte of memory changes besides. It holds for each iteration of a REP too (R101). -/
def Obligations.VectorIntegerResult : Prop :=
  ∀ (i : Instr) (f : VF) (x : Nat → Nat → Nat → Int) (s : Machine.State) (w : Nat) (v : Wave) (r : Bool),
    ReadyIn s (.wave w) r i → s.wave w = some v → (∀ a b c, i.laneInt a b c = some (f, x a b c)) →
    (f.dst :: [f.sa, f.sb, f.sc]).all (fun o => v.inRange o 0) = true →
    ∃ t y, Machine.exec i s = .next t ∧ LanesWritten s t w v f.dst r false (nSlots [f.sa, f.sb, f.sc]) y ∧
      ∀ l j, l < 96 → j < perLane f.ty.bits →
        let e (o : Opnd) : Nat := elemOf (v.src (numFmt f.ty false) o l) f.ty.bits j
        (elemOf (y l) f.ty.bits j : Int) = x (e f.sa) (e f.sb) (e f.sc) % (2 ^ f.ty.bits : Nat)

/-- R131, R132, VFCMP of R133 and R139, with R129, R78 and R79: the flags of the elements of active lanes are those of the
instruction. Where none of them has its trap bit set, each element of each active lane holds its result and the flags are
added to `fpstat`; otherwise the arithmetic trap is taken with nothing written. Special functions are as log entry 11 has
them. -/
def Obligations.VectorFloatResult : Prop :=
  ∀ (i : Instr) (f : VF) (x : Nat → Nat → Nat → Nat × FFlags) (s : Machine.State) (w : Nat) (v : Wave) (r : Bool) (fl : FFlags),
    ReadyIn s (.wave w) r i → s.wave w = some v → (∀ a b c, i.laneFloat a b c = some (f, x a b c)) →
    (f.dst :: [f.sa, f.sb, f.sc]).all (fun o => v.inRange o 0) = true →
    let g := ffmt f.ty
    let e (n : Nat) (abs : Bool) (o : Opnd) (l j : Nat) : Nat := modify g (f.neg.getLsbD n) abs (elemOf (v.src (.fl g) o l) g.width j)
    let res (l j : Nat) : Nat × FFlags := x (e 2 f.abs f.sa l j) (e 1 false f.sb l j) (e 0 false f.sc l j)
    (∀ n, fl.getLsbD n = true ↔ ∃ l j, l < 96 ∧ j < perLane g.width ∧ v.active l = true ∧ (res l j).2.getLsbD n = true) →
    (trapsOn v.fpstat fl = false →
      ∃ t y, Machine.exec i s = .next t ∧ t.fpstatOf (.wave w) = v.fpstat ||| fl.zeroExtend 32 ∧
        LanesWritten s t w v f.dst r true (nSlots [f.sa, f.sb, f.sc]) y ∧
        ∀ l j, l < 96 → j < perLane g.width → elemOf (y l) g.width j = (res l j).1 % 2 ^ g.width) ∧
    (trapsOn v.fpstat fl = true → Machine.exec i s = .next (s.trap (.wave w) 0x11 none fl.toNat 0))

/-- VFCLASS, VCVT, VUNPK, SHFL and BCAST (R133, R135, R137, R140, R141): each active lane holds its word, formed from the values
before the instruction; flags and the arithmetic trap as for every vector instruction. The flags of a NaN made an integer
are as log entry 40 has them. -/
def Obligations.VectorLaneWords : Prop :=
  ∀ (i : Instr) (f : VF) (x : Nat → W32 × FFlags) (s : Machine.State) (w : Nat) (v : Wave) (r : Bool) (fl : FFlags),
    ReadyIn s (.wave w) r i → s.wave w = some v → (∀ l, i.laneWord v l = some (f, x l)) →
    (f.dst :: [f.sa, f.sb]).all (fun o => v.inRange o 0) = true →
    (∀ n, fl.getLsbD n = true ↔ ∃ l, l < 96 ∧ v.active l = true ∧ (x l).2.getLsbD n = true) →
    (trapsOn v.fpstat fl = false →
      ∃ t, Machine.exec i s = .next t ∧ t.fpstatOf (.wave w) = v.fpstat ||| fl.zeroExtend 32 ∧
        LanesWritten s t w v f.dst r true (nSlots [f.sa, f.sb]) (fun l => (x l).1)) ∧
    (trapsOn v.fpstat fl = true → Machine.exec i s = .next (s.trap (.wave w) 0x11 none fl.toNat 0))

/-- VPACK (R136): elements 2h and 2h + 1 of each active lane hold the two conversions and the other elements keep their
values. DOT4 and DOT8 (R138): each active lane holds C plus the exact sum of the products of its elements, in an integer
type modulo 2^32 or clamped, in a floating one rounded once. -/
def Obligations.PackAndDotProducts : Prop :=
  (∀ (f : VF) (d : Fin 128) (s : Machine.State) (w : Nat) (v : Wave) (r : Bool), ReadyIn s (.wave w) r (.vpack f) →
    s.wave w = some v → f.dst = .v d → [f.dst, f.sa, f.sb].all (fun o => v.inRange o 0) = true →
    let dt := numFmt f.ty (f.aux.getLsbD 2)
    let h := f.aux.toNat % 4
    let cv (o : Opnd) (l : Nat) : Nat × FFlags := laneConvert v dt (VF.st f false) f.rm.toNat f.sat o l
    let fl := v.flagsOf (fun l => (cv f.sa l).2 ||| (cv f.sb l).2)
    (trapsOn v.fpstat fl = false →
      ∃ t y, Machine.exec (.vpack f) s = .next t ∧ t.fpstatOf (.wave w) = v.fpstat ||| fl.zeroExtend 32 ∧
        LanesWritten s t w v f.dst r true (nSlots [f.sa, f.sb]) y ∧
        ∀ l j, l < 96 → j < 32 / dt.width → elemOf (y l) dt.width j =
          (if j = 2 * h then (cv f.sa l).1 % 2 ^ dt.width else if j = 2 * h + 1 then (cv f.sb l).1 % 2 ^ dt.width
            else elemOf (v.lane d.val l) dt.width j)) ∧
    (trapsOn v.fpstat fl = true → Machine.exec (.vpack f) s = .next (s.trap (.wave w) 0x11 none fl.toNat 0))) ∧
  (∀ (i : Instr) (f : VF) (n : Nat) (ta tb : NumFmt) (s : Machine.State) (w : Nat) (v : Wave) (r : Bool),
    ReadyIn s (.wave w) r i → s.wave w = some v → [f.dst, f.sa, f.sb, f.sc].all (fun o => v.inRange o 0) = true →
    ((i = .dot4 f ∧ n = 4 ∧ ta = numFmt f.ty false ∧ tb = VF.st f false) ∨
      (i = .dot8 f ∧ n = 8 ∧ ta = numFmt f.ty (f.aux.getLsbD 0) ∧ tb = VF.st f (f.aux.getLsbD 1))) →
    let elem (k : NumFmt) (o : Opnd) (l j : Nat) : Nat := elemOf (v.src k o l) (32 / n) j
    let C (l : Nat) : Nat := (v.src (if isIntTy f.ty then .int 32 true else .fl (ffmt .f32)) f.sc l).toNat
    (isIntTy f.ty = true → ∃ t y, Machine.exec i s = .next t ∧
      LanesWritten s t w v f.dst r false (nSlots [f.sa, f.sb, f.sc]) y ∧ ∀ l, l < 96 →
        let sum := signed 32 (C l) + ((List.range n).map (fun j =>
          ta.intOf (elem ta f.sa l j) * tb.intOf (elem tb f.sb l j))).sum
        (y l).toInt = (if f.sat then Ty.clamp .i32 sum else signed 32 (unsigned 32 sum))) ∧
    (isIntTy f.ty = false →
      let x (l : Nat) : Nat × FFlags := dotFloat f.sat ((ffmt .f32).value (C l))
        ((List.range n).map (fun j => (ta.value (elem ta f.sa l j), tb.value (elem tb f.sb l j))))
      let fl := v.flagsOf (fun l => (x l).2)
      (trapsOn v.fpstat fl = false → ∃ t, Machine.exec i s = .next t ∧
        t.fpstatOf (.wave w) = v.fpstat ||| fl.zeroExtend 32 ∧
        LanesWritten s t w v f.dst r true (nSlots [f.sa, f.sb, f.sc]) (fun l => BitVec.ofNat 32 (x l).1)) ∧
      (trapsOn v.fpstat fl = true → Machine.exec i s = .next (s.trap (.wave w) 0x11 none fl.toNat 0))))

/-- BCAST (R141): every active lane receives the value of a in lane b, or its own where b is 96 or more. -/
def Obligations.BroadcastOfLane : Prop :=
  (∀ (f : VF) (s : Machine.State) (w : Nat) (v : Wave) (r : Bool) (d : Fin 128), ReadyIn s (.wave w) r (.bcast f) →
    s.wave w = some v → f.dst = .v d → v.inRange f.dst 0 = true → v.inRange f.sa 0 = true →
    let b := (v.src (.int 32 false) f.sb 0).toNat
    ∃ t u, Machine.exec (.bcast f) s = .next t ∧ t.wave w = some u ∧ ∀ l, l < 96 → v.active l = true →
      u.lane d.val l = (if 96 ≤ b then v.src (.int 32 false) f.sa l else v.src (.int 32 false) f.sa b)) ∧
  (∀ (s : Machine.State) (ag : Agent), s.issue = some ⟨ag, false⟩ → fld (s.word ag) 63 56 = 0x71 → fld (s.word ag) 39 32 < 0x80 →
    Machine.step s = .next (s.trap ag 0x01 none 0 0))

/-- VRED, VSCAN and BALLOT (R142, R144): VRED writes the value of the fixed tree to an s register whatever the mask, or to
every active lane; VSCAN gives each active lane the fold over the active lanes up to it, or before it; BALLOT writes the mask
of the active lanes whose value is not zero. Flags come of FADD only. -/
def Obligations.ReductionsAndBallot : Prop :=
  ∀ (f : VF) (s : Machine.State) (w : Nat) (v : Wave) (r : Bool), s.wave w = some v → v.inRange f.dst 0 = true →
    v.inRange f.sa 0 = true →
    let a (l : Nat) : Nat := (v.src (numFmt f.ty false) f.sa l).toNat
    let fn := f.fn.toNat
    let step := redStep fn (isSigned f.ty)
    let ident := redIdentity fn (isSigned f.ty)
    (ReadyIn s (.wave w) r (.vred f) →
      let z := (reduceTree step ((List.range 128).map (fun p => if p < 96 ∧ v.active p then some (a p, 0) else none))).getD (ident, 0)
      (trapsOn v.fpstat z.2 = false → ∃ t, Machine.exec (.vred f) s = .next t ∧
        t.fpstatOf (.wave w) = v.fpstat ||| z.2.zeroExtend 32 ∧
        (∀ d : Fin 128, f.dst = .v d →
          LanesWritten s t w v f.dst r true (nSlots [f.sa]) (fun _ => BitVec.ofNat 32 (canonOf fn z.1))) ∧
        (∀ d : Fin 64, f.dst = .s d → t.reg (.wave w) f.dst false = BitVec.ofNat 64 (canonOf fn z.1 % 2 ^ 32) ∧
          Kept (.wave w) s t [d.val] [] true r)) ∧
      (trapsOn v.fpstat z.2 = true → Machine.exec (.vred f) s = .next (s.trap (.wave w) 0x11 none z.2.toNat 0))) ∧
    (ReadyIn s (.wave w) r (.vscan f) →
      let z := scanLanes step a (f.aux.getLsbD 0) ident v.lanes none
      let upTo (l : Nat) : List Nat := v.lanes.filter (fun k => if f.aux.getLsbD 0 then decide (k < l) else decide (k ≤ l))
      let acc (l : Nat) : Option Nat := (upTo l).foldl (fun x k => some (match x with | none => a k | some y => (step y (a k)).1)) none
      (trapsOn v.fpstat z.2 = false → ∃ t, Machine.exec (.vscan f) s = .next t ∧
        t.fpstatOf (.wave w) = v.fpstat ||| z.2.zeroExtend 32 ∧
        LanesWritten s t w v f.dst r true (nSlots [f.sa]) (fun l => BitVec.ofNat 32 (canonOf fn ((acc l).getD ident)))) ∧
      (trapsOn v.fpstat z.2 = true → Machine.exec (.vscan f) s = .next (s.trap (.wave w) 0x11 none z.2.toNat 0))) ∧
    (ReadyIn s (.wave w) r (.ballot f) → ∀ d : Fin 64, f.dst = .s d →
      ∃ t, Machine.exec (.ballot f) s = .next t ∧
        (∀ l, l < 96 → (t.triple (.wave w) f.dst).getLsbD l = (v.active l && v.src (.int 32 false) f.sa l != 0)) ∧
        Kept (.wave w) s t [d.val, d.val + 1, d.val + 2] [] false r) ∧
    (fn < 6 ∨ 6 < fn → ∀ x y, (step x y).2 = 0)

/-- TOPK (R143): each active lane at position p below k receives entry p of the ranking of its segment, value and position,
or the filler; the other lanes keep both registers. A ranking lists the active lanes of the segment, each once. -/
def Obligations.RankedLanes : Prop :=
  ∀ (f : VF) (s : Machine.State) (w : Nat) (v : Wave) (r : Bool) (d : Fin 128), ReadyIn s (.wave w) r (.topk f) →
    s.wave w = some v → f.dst = .v d → v.inRange f.dst 1 = true → v.inRange f.sa 0 = true →
    let a (l : Nat) : Nat := (v.src (numFmt f.ty false) f.sa l).toNat % 2 ^ f.ty.bits
    let k := f.aux.toNat % 8 + 1
    let seg := match f.aux.toNat / 8 % 4 with | 0 => 96 | 1 => 8 | 2 => 16 | _ => 32
    let lanesOf (l : Nat) : List Nat := v.lanes.filter (fun j => decide (j / seg = l / seg))
    let order (l : Nat) : List Nat := ranked (fun x y => topGt f.ty (a x) (a y)) (lanesOf l)
    (∀ l, (order l).Perm (lanesOf l)) ∧
    ∃ t u, Machine.exec (.topk f) s = .next t ∧ t.wave w = some u ∧ Kept (.wave w) s t [] [d.val, d.val + 1] false r ∧
      ∀ l, l < 96 →
        (v.active l = true → l % seg < k → ∀ e, (order l)[l % seg]? = some e →
          u.lane d.val l = BitVec.ofNat 32 (topValue f.ty (a e)) ∧ u.lane (d.val + 1) l = BitVec.ofNat 32 (e % seg)) ∧
        (v.active l = true → l % seg < k → (order l)[l % seg]? = none →
          u.lane d.val l = BitVec.ofNat 32 (topFiller f.ty) ∧ u.lane (d.val + 1) l = 0xFFFFFFFF) ∧
        ((v.active l = false ∨ k ≤ l % seg) → u.lane d.val l = v.lane d.val l ∧ u.lane (d.val + 1) l = v.lane (d.val + 1) l)

/-- A vector register at or beyond the allotment, the second destination of TOPK included, raises operand-range before any
lane is written (R40, R128). -/
def Obligations.VectorOperandRange : Prop :=
  ∀ (i : Instr) (op : Nat) (f : VF) (s : Machine.State) (w : Nat) (v : Wave) (r : Bool), ReadyIn s (.wave w) r i →
    s.wave w = some v → i.view = .v op f →
    (v.inRange f.dst (if op = 0x74 then 1 else 0) = false ∨ v.inRange f.sa 0 = false ∨ v.inRange f.sb 0 = false ∨
      v.inRange f.sc 0 = false) →
    Machine.exec i s = .next (s.trap (.wave w) 0x02 none 0 0)

/-- What a source in a vector position gives a lane (R128): a vector register's lane, a scalar register in every lane, an inline
code in every element, or the low word of the literal. Kinds of operands that the tables leave implicit are the model's
reading (log entry 27). -/
def Obligations.VectorOperandForms : Prop :=
  ∀ (v : Wave) (n : NumFmt) (l : Nat), (n.width = 4 ∨ n.width = 8 ∨ n.width = 16 ∨ n.width = 32) →
    (∀ r, v.src n (.v r) l = v.lane r.val l) ∧ (∀ r, v.src n (.s r) l = v.getS r.val) ∧
    (∀ x, v.src n (.lit x) l = x.truncate 32) ∧
    (∀ k j, j < 32 / n.width → elemOf (v.src n (.inl k) l) n.width j = inlineCode n k % 2 ^ n.width) ∧
    (∀ k : Fin 16, inlineCode (.fl (ffmt .f32)) k = ([0x00000000, 0x3F800000, 0x40000000, 0x40400000, 0x40800000, 0x40A00000,
      0x40C00000, 0x40E00000, 0xC1000000, 0xC0E00000, 0xC0C00000, 0xC0A00000, 0xC0800000, 0xC0400000, 0xC0000000,
      0xBF800000] : List Nat).getD k.val 0)

/-- REP (R99 to R102): a count of zero goes on after the whole of the target, which is not checked; a target that is none raises illegal-instruction; an iteration
that would fault traps before iteration 0; otherwise the sweep begins with `repctl` set and the target issues next. After an
iteration that is not the last the next one is due, and after the last the wave stands behind the target with `repctl` zero.
What is checked before iteration 0 and how a sweep resumes are the model's readings (log entry 26). -/
def Obligations.RepSweep : Prop :=
  (∀ (s : Machine.State) (w : Nat) (v : Wave) (f : PF), Ready s (.wave w) (.rep f) → s.wave w = some v →
    (f.count = 0 → ∃ t, Machine.exec (.rep f) s = .next t ∧ Kept (.wave w) s t [] [] false false ∧
      let code := s.codeOf (.wave w)
      (∀ i, decodeWord (wordAt code (v.path.slot + 1)) (wordAt code (v.path.slot + 2)) = .ok i → After s t (.wave w) (1 + i.slots)) ∧
      ((∀ i, decodeWord (wordAt code (v.path.slot + 1)) (wordAt code (v.path.slot + 2)) ≠ .ok i) → After s t (.wave w) 2)) ∧
    (f.count ≠ 0 → s.repTarget (.wave w) f = none → Machine.exec (.rep f) s = .next (s.trap (.wave w) 0x01 none 0 0)) ∧
    (∀ i, f.count ≠ 0 → s.repTarget (.wave w) f = some i → v.repctl.getLsbD 31 = false →
      (∀ c l a, s.repFault (.wave w) f i = some (c, l, a) → Machine.exec (.rep f) s = .next (s.trap (.wave w) c l 0 a)) ∧
      (s.repFault (.wave w) f i = none →
        Machine.exec (.rep f) s = .next { s.setWave w { v with repctl := repctlWord v.alt 0 f.count.toNat } with
          issue := some ⟨.wave w, true⟩ })) ∧
    (∀ i next, f.count ≠ 0 → s.repTarget (.wave w) f = some i → next < f.count.toNat → v.repctl = repctlWord v.alt next f.count.toNat →
      (∀ c, s.formFault (.wave w) (repIters f i next) = some c → Machine.exec (.rep f) s = .next (s.trap (.wave w) c none 0 0)) ∧
      (s.formFault (.wave w) (repIters f i next) = none → Machine.exec (.rep f) s = .next { s with issue := some ⟨.wave w, true⟩ }))) ∧
  (∀ (s : Machine.State) (w : Nat) (v : Wave) (wt : Wait) (n next count : Nat), s.issue = some ⟨.wave w, true⟩ → s.wave w = some v →
    count < 4096 → next < count → v.repctl = repctlWord v.alt next count →
    ∃ u, (s.retire n wt).wave w = some u ∧ u.sreg = v.sreg ∧ u.vreg = v.vreg ∧ (s.retire n wt).issue = none ∧
      (next + 1 < count → u.repctl = repctlWord v.alt (next + 1) count ∧ u.path.pc = v.path.pc ∧ u.path.slot = v.path.slot) ∧
      (next + 1 = count → u.repctl = 0 ∧ After s (s.retire n wt) (.wave w) 2))

/-! ### Memory and synchronization instructions -/

/-- LD, ST, SLD, SST, LDX, ATOM, RED, CAS and SATOM at issue (R146 to R148, R150, R152, R155 to R159): where the registers are
in range, every address is a multiple of the size, every lane translates with the rights asked for and no lane's page
forbids the operation, the access is under way: its direct lanes with their home and data, a record for each lane on a
deferred page, its counts and flag one higher. No byte and no register changes. That an instruction issues with its counter
below its limit and its walks within the budgets, and else waits, is the model's reading (log entries 28, 54). -/
def Obligations.AccessIssues : Prop :=
  ∀ (i : Instr) (s : Machine.State) (ag : Agent) (f : MF) (r : AccReq) (regs : List (Opnd × Nat)) (ea : Nat → Nat)
    (val cmp : Nat → W64) (tr : List LaneTr), Ready s ag i → s.banked ag → i.accessOf s ag = some (f, r, regs, ea, val, cmp) →
    s.regsOk ag regs = true → (∀ l ∈ s.accLanes ag r.vec, ea l % (f.ty.bits / 8) = 0) →
    s.lanesHeld (s.tlbOf ag) (s.ctxOf ag) ea (s.accLanes ag r.vec) = false →
    s.xlateLanes (s.tlbOf ag) (s.ctxOf ag) r.rd r.wr ea (s.accLanes ag r.vec) = .ok tr → (r.dfr = none ∨ ∀ x ∈ tr, bitAt x.leaf 53 = false) →
    s.countRoom ag (s.flagFor ag f.fs) r.ld r.st = true →
    ∃ t a, Machine.exec i s = .next t ∧ t.path.acc = s.path.acc ++ [a] ∧ a.n = s.fresh ∧ a.ag = ag ∧ a.seat = s.seat ag ∧ a.ctx = s.ctxOf ag ∧
      a.op = r.op ∧ a.ty = f.ty ∧ a.scope = f.scope ∧ a.ord = f.ord ∧ a.dst = f.dst ∧ a.flag = s.flagFor ag f.fs ∧ a.ld = r.ld ∧
      a.st = r.st ∧ a.sent = [] ∧
      a.lanes = (tr.filter (fun x => !r.records x)).map (fun x => ⟨x.lane, x.va, s.home x.pa, cacheable x.leaf, s.l2Holds x.leaf, val x.lane, cmp x.lane⟩) ∧
      a.recs = (tr.filter r.records).map (fun x => s.recordOf ag (r.opr.getD 0) f.ty x (val x.lane)) ∧
      (t.countsOf ag).2 = ((s.countsOf ag).2.1 + r.ld.toNat, (s.countsOf ag).2.2 + r.st.toNat) ∧
      (∀ n, n < 12 → ((t.countsOf ag).1.toList.getD n 0) =
        (s.countsOf ag).1.toList.getD n 0 + (if s.flagFor ag f.fs = some n then 1 else 0)) ∧
      Underway ag s t []

/-- The stops of those instructions, in the order of R310: registers beyond the allotment, a misaligned lane (R146), a lane
whose translation faults (R147, R314), a lane on a deferred page that the operation may not reach (R152, R159); each names
the lowest lane that fails. Where a count is full, or its walks have no room in a budget (R33, R339), the instruction waits. The
address word of a record and these waits at issue are the model's readings (log entries 25, 28, 54). -/
def Obligations.AccessStops : Prop :=
  ∀ (i : Instr) (s : Machine.State) (ag : Agent) (f : MF) (r : AccReq) (regs : List (Opnd × Nat)) (ea : Nat → Nat)
    (val cmp : Nat → W64), Ready s ag i → i.accessOf s ag = some (f, r, regs, ea, val, cmp) →
    let ls := s.accLanes ag r.vec
    let lane (l : Nat) : Option Nat := if r.vec then some l else none
    (s.regsOk ag regs = false → Machine.exec i s = .next (s.trap ag 0x02 none 0 0)) ∧
    (s.regsOk ag regs = true →
      (∀ l, ls.find? (fun k => ea k % (f.ty.bits / 8) != 0) = some l →
        Machine.exec i s = .next (s.trap ag 0x03 (lane l) 0 (ea l))) ∧
      ((∀ l ∈ ls, ea l % (f.ty.bits / 8) = 0) → s.lanesHeld (s.tlbOf ag) (s.ctxOf ag) ea ls = true →
        Machine.exec i s = .next s.stall) ∧
      ((∀ l ∈ ls, ea l % (f.ty.bits / 8) = 0) → s.lanesHeld (s.tlbOf ag) (s.ctxOf ag) ea ls = false →
        (∀ c l, s.xlateLanes (s.tlbOf ag) (s.ctxOf ag) r.rd r.wr ea ls = .error (c, l) →
          Machine.exec i s = .next (s.faultHere ag c (lane l) (ea l)
            (if r.vec then s.touchLanes (s.tlbOf ag) (s.ctxOf ag) r.rd r.wr ea ls else 0))) ∧
        (∀ tr, s.xlateLanes (s.tlbOf ag) (s.ctxOf ag) r.rd r.wr ea ls = .ok tr →
          (∀ c x, r.dfr = some c → tr.find? (fun y => bitAt y.leaf 53) = some x →
            Machine.exec i s = .next (s.trap ag c (lane x.lane) 0 x.va)) ∧
          ((r.dfr = none ∨ ∀ x ∈ tr, bitAt x.leaf 53 = false) → s.countRoom ag (s.flagFor ag f.fs) r.ld r.st = false →
            Machine.exec i s = .next s.stall))))

/-- What an access does (R148, R150, R157, R158), shown for one lane in this device's memory that nothing holds back and no L1
holds: a store's bytes or a read-modify-write's new word stand in memory and no other byte changes; a load or an atomic that
returns the old value writes its destination; the access is gone and its counts have fallen. An access that must wait, for
an earlier one or for the budget of an HBM controller (R339), performs no lane. Where a rule bars software from writing for now,
the byte is unspecified (R9; log entry 43). When an access may be performed is the model's reading (log entry 35), as is what one step performs (log
entry 15). -/
def Obligations.AccessPerformed : Prop :=
  ∀ (s : Machine.State) (n : Nat) (a : Access), s.findAcc n = some a → s.banked a.ag →
    (∀ l pa, a.lanes = [l] → a.sent = [] → a.recs = [] → l.home = .mem pa → s.mayPerform a = true → s.here a.ag a.seat = true →
      (s.earlier a).any (fun b => b.touches l.home a.size) = false → s.severed a.seat.cluster (.mem pa) = false →
      s.badBytes (.mem pa) a.size = false → s.hbmFull pa a.size = false → (a.ord = .release → a.scope = .pod → s.fab.broken = []) →
      s.path.l1 = [] → (∀ op ret, a.op = .rmw op ret → s.l1Owner a.seat a.scope = none ∨ l.cached = false) →
      let old := leNat (Memory.read s.mem pa a.size)
      let stored : Option Nat := match a.op with
        | .load => none
        | .store => some l.val.toNat
        | .rmw op _ => some (atomNew op a.ty (BitVec.ofNat 64 old) l.val l.cmp).toNat
      let given : Option W64 := match a.op with
        | .load => some (loadExt a.ty old)
        | .rmw _ true => some (BitVec.ofNat 64 old)
        | _ => none
      ∃ t, Machine.exec (.accessComplete n) s = .next t ∧ t.findAcc n = none ∧
        (∀ x, Memory.get t.mem x = (match stored with
          | some y => if pa ≤ x ∧ x < pa + a.size then
              (if s.barred false x then Memory.get t.mem x else (leBytes a.size y).getD (x - pa) 0)
            else Memory.get s.mem x
          | none => Memory.get s.mem x)) ∧
        (∀ x, Memory.get t.spad x = Memory.get s.spad x) ∧
        (∀ y, given = some y → destOk a.ag a.dst l.lane (a.ty.bits == 64) →
          t.destElem a.ag a.alt a.dst l.lane (a.ty.bits == 64) = elemValue a.ag a.ty y) ∧
        (given = none → ∀ k o lane wide, t.destElem a.ag k o lane wide = s.destElem a.ag k o lane wide) ∧
        (t.countsOf a.ag).2 = ((s.countsOf a.ag).2.1 - a.ld.toNat, (s.countsOf a.ag).2.2 - a.st.toNat) ∧
        (∀ w, a.ag ≠ .wave w → t.wave w = s.wave w)) ∧
    (∀ l pa r, s.mayPerform a = true → a.lanes = l :: r → l.home = .mem pa → a.ord ≠ .release →
      s.l1Serves a.seat a.scope l.cached pa = false → s.severed a.seat.cluster (.mem pa) = false → s.hbmFull pa a.size = true →
      ∃ t, Machine.exec (.accessComplete n) s = .next t ∧ t.mem = s.mem ∧ t.spad = s.spad ∧ t.waves = s.waves ∧
        t.threads = s.threads) ∧
    (s.mayPerform a = false → a.lanes ≠ [] →
      ∃ t, Machine.exec (.accessComplete n) s = .next t ∧ t.mem = s.mem ∧ t.spad = s.spad ∧ t.waves = s.waves ∧
        t.threads = s.threads)

/-- LDSP and STSP (R153, R154): where every accessed lane's address is aligned and in a window, LDSP writes the extended value
of each accessed lane and nothing else; STSP stores the data of each lane, the highest of lanes at one address last, and
every other byte reads as before. A lane that meets an uncorrectable error loads 0, and a store of part of such a word is not
performed (R342). A lane that fails raises its trap before any access; accesses to bytes that an earlier
access of the agent still holds wait. The addresses are those the meaning uses, stepped under REP (R101). That a scratchpad
access is performed at issue, or else waits, is the model's reading (log entries 28, 35). -/
def Obligations.ScratchpadAccess : Prop :=
  ∀ (f : MF) (s : Machine.State) (ag : Agent) (r : Bool), s.banked ag →
    let size := f.ty.bits / 8
    let ea (l : Nat) : Nat := s.spadEa ag f false l (s.addrStep ag)
    let ls := s.accLanes ag (spadVec ag)
    let regs := [(f.dst, more64 f.ty), (f.sb, 0)]
    let busy := ls.any (fun l => s.held ag (s.spadHome ag (ea l) size) size)
    let bad (l : Nat) : Bool := s.badBytes (s.spadHome ag (ea l) size) size
    (∀ i, (i = .ldsp f ∨ i = .stsp f) → ReadyIn s ag r i →
      (s.regsOk ag regs = false → Machine.exec i s = .next (s.trap ag 0x02 none 0 0)) ∧
      (∀ l c a, s.regsOk ag regs = true → s.spadCheck ag size size ea ls = some (l, c, a) →
        Machine.exec i s = .next (s.trap ag c (laneOf (spadVec ag) l) 0 a)) ∧
      (s.regsOk ag regs = true → s.spadCheck ag size size ea ls = none → busy = true → Machine.exec i s = .next s.stall)) ∧
    (ReadyIn s ag r (.ldsp f) → s.regsOk ag regs = true → s.spadCheck ag size size ea ls = none → busy = false →
      ∃ t, Machine.exec (.ldsp f) s = .next t ∧ ((∀ l ∈ ls, bad l = false) → s.quiet f.ord → SameBytes s t ∧ t.rest = s.rest) ∧
        (∀ l ∈ ls, destOk ag f.dst l (f.ty.bits == 64) → t.destElem ag false f.dst l (f.ty.bits == 64) =
          elemValue ag f.ty (if bad l then 0 else loadExt f.ty (leNat (Memory.read s.spad (s.padAddr ag (ea l) size) size)))) ∧
        (∀ w, ag ≠ .wave w → t.wave w = s.wave w) ∧ (∀ k, ag.threadKey ≠ some k → Map.find t.threads k = Map.find s.threads k) ∧
        (∀ w v, ag = .wave w → s.wave w = some v → ∃ u, t.wave w = some u ∧ u.sreg = v.sreg ∧
          (∀ d : Fin 128, f.dst = .v d → ∀ x l, l < 96 → (v.active l = false ∨ (x ≠ d.val ∧ (f.ty.bits = 64 → x ≠ d.val + 1))) →
            u.lane x l = v.lane x l)) ∧
        (∀ c k, ag = .thread c k → ∀ x, f.dst ≠ .q x → (t.thread c k).getQ x.val = (s.thread c k).getQ x.val)) ∧
    (ReadyIn s ag r (.stsp f) → s.regsOk ag regs = true → s.spadCheck ag size size ea ls = none → busy = false →
      (f.ord = .release → s.drained ag = true) →
      let lost (l : Nat) : Bool := decide (size < 4) && bad l
      ∃ t, Machine.exec (.stsp f) s = .next t ∧
        ((∀ l ∈ ls, lost l = false) → s.quiet f.ord →
          Kept ag { s with spad := t.spad, spadBad := t.spadBad } t [] [] false r ∧ ∀ x, Memory.get t.mem x = Memory.get s.mem x) ∧
        (∀ x, (∀ l ∈ ls, lost l = false → x < s.padAddr ag (ea l) size ∨ s.padAddr ag (ea l) size + size ≤ x) →
          Memory.get t.spad x = Memory.get s.spad x) ∧
        (∀ l ∈ ls, lost l = false → (∀ k ∈ ls, l < k → lost k = false → s.padAddr ag (ea k) size + size ≤ s.padAddr ag (ea l) size ∨
            s.padAddr ag (ea l) size + size ≤ s.padAddr ag (ea k) size) →
          Memory.read t.spad (s.padAddr ag (ea l) size) size =
            leBytes size (s.data ag (spadVec ag) f.ty f.dst l).toNat))

/-- WAITC, WAITTL, BAR and SLEEP (R161 to R163, R225): a wait whose condition holds changes nothing but the place of its agent,
and one whose condition does not hold is not executed; WAITTL of a timeline that does not exist, and BAR with a stacked
path, trap. BAR and SLEEP hold the next clause of their agent back. A barrier completes once every wave of the workgroup
that has not ended has arrived, and a sleep ends with the agent's clock past its cycles (R47). Waits at issue are the
model's reading (log entry 28); the cycle counts of sleeps rest on the opaque `Config.stall` (log entry 8). -/
def Obligations.WaitsAndBarriers : Prop :=
  (∀ (f : MF) (s : Machine.State) (ag : Agent), Ready s ag (.waitc f) →
    (s.waitcReady ag f = true → ∃ t, Machine.exec (.waitc f) s = .next t ∧ After s t ag 1 ∧ t.spad = s.spad ∧
      (s.quiet f.ord → Kept ag s t [] [] false false)) ∧
    (s.waitcReady ag f = false → Machine.exec (.waitc f) s = .next s.stall)) ∧
  (∀ (f : MF) (s : Machine.State) (ag : Agent), Ready s ag (.waittl f) →
    let id := s.srcBits ag 32 0 f.sa
    (∀ n, s.timeline ag id = some n → s.srcBits ag 64 0 f.sb ≤ n →
      ∃ t, Machine.exec (.waittl f) s = .next t ∧ After s t ag (nSlots [f.sa, f.sb]) ∧ t.spad = s.spad ∧
        (s.path.l1 = [] → Kept ag s t [] [] false false)) ∧
    (∀ n, s.timeline ag id = some n → n < s.srcBits ag 64 0 f.sb → Machine.exec (.waittl f) s = .next s.stall) ∧
    (s.timeline ag id = none → Machine.exec (.waittl f) s = .next (s.trap ag 0x0F none 0 0))) ∧
  (∀ (f : MF) (s : Machine.State) (w : Nat) (v : Wave), Ready s (.wave w) (.bar f) → s.wave w = some v →
    (v.dstkdepth ≠ 0 → Machine.exec (.bar f) s = .next (s.trap (.wave w) 0x0C none 0 0)) ∧
    (v.dstkdepth = 0 → s.drained (.wave w) = true →
      ∃ t u, Machine.exec (.bar f) s = .next t ∧ t.wave w = some u ∧ u.path.wait = .bar (f.off.toNat % 16) ∧
        u.path.pc = v.path.pc + 64 ∧ u.path.slot = 1 ∧ Kept (.wave w) s t [] [] false false) ∧
    (v.dstkdepth = 0 → s.drained (.wave w) = false → Machine.exec (.bar f) s = .next s.stall)) ∧
  (∀ (f : SF) (s : Machine.State) (ag : Agent), Ready s ag (.sleep f) →
    let n := s.srcBits ag 32 f.imm f.sa
    let w : Wait := if n = 0 then .none else .sleep (s.clockOf ag + n)
    ∃ t, Machine.exec (.sleep f) s = .next t ∧ Kept ag s t [] [] false false ∧ (t.pcOf ag).1 = (s.pcOf ag).1 + 64 ∧
      (∀ k v, ag = .wave k → t.wave k = some v → v.path.wait = w) ∧ (∀ c k, ag = .thread c k → (t.thread c k).wait = w)) ∧
  (∀ (s : Machine.State) (g b : Nat), (s.waves.map (·.1)).Pairwise (· < ·) →
    let mine (v : Wave) : Bool := v.wg == g && !v.ended
    (∃ w v, s.wave w = some v ∧ mine v = true) →
    (∀ w v, s.wave w = some v → mine v = true → v.arrived b = true ∧ v.bank = .active) →
    ∃ t, Machine.exec (.barrierComplete g b) s = .next t ∧ t.threads = s.threads ∧ t.spad = s.spad ∧
      (s.path.l1 = [] → SameBytes s t ∧ t.rest = s.rest) ∧ ∀ w v, s.wave w = some v →
        t.wave w = some (if mine v then { v with p0 := v.p0.pass b, p1 := v.p1.pass b } else v)) ∧
  (∀ (s : Machine.State) (w n : Nat) (v : Wave) (alt : Bool), s.wave w = some v → (v.slotAt alt).wait = .sleep n →
    ∃ t u, Machine.exec (.sleepExpire (.wave w) alt) s = .next t ∧ t.wave w = some u ∧
      u = v.setSlotAt alt { v.slotAt alt with wait := .none } ∧ SameBytes s t ∧
      (t.core v.core).cyc.toNat = max (s.core v.core).cyc.toNat n % 2 ^ 64) ∧
  (∀ (s : Machine.State) (c k n : Nat), (s.thread c k).wait = .sleep n →
    ∃ t, Machine.exec (.sleepExpire (.thread c k) false) s = .next t ∧ t.thread c k = { s.thread c k with wait := .none } ∧
      SameBytes s t ∧ (Map.at t.sch.clk c 0).toNat = max (Map.at s.sch.clk c 0).toNat n % 2 ^ 64)

/-- Barrier objects and circular buffers (R48, R164 to R166, R240, R241): ARRV makes its arrivals lane by lane; one arrival of k
lowers the remaining count, or ends phases as R48 counts them; BOWAIT completes once (phase − p) mod 2^64 is below 2^63, and
reads the phase. CBACQ takes a slot and gives its index, CBREL gives one back, and an acquire without one waits. Objects that
break their checks trap; one that meets an uncorrectable error is invalid (log entry 51). The waits for a pending acquire and for an
access that holds the object (log entry 28) and the address word of a record (log entry 25) are the model's readings. -/
def Obligations.SharedObjects : Prop :=
  (∀ (f : MF) (s : Machine.State) (ag : Agent), Ready s ag (.arrv f) → s.regsOk ag [(f.sb, 0)] = true →
    let k := s.srcBits ag 32 0 f.dst
    let ls := s.accLanes ag (isV f.sb)
    let ea (l : Nat) : Nat := s.spadEa ag f false l 0
    let busy := ls.any (fun l => s.held ag (s.spadHome ag (ea l) 16) 16)
    let n := nSlots [f.dst, f.sa, f.sb]
    (k = 0 → ∃ t, Machine.exec (.arrv f) s = .next t ∧ Kept ag s t [] [] false false ∧ After s t ag n) ∧
    (k ≠ 0 → (∀ l ∈ ls, ea l % 16 = 0 ∧ ∃ h o, s.viewOf ag (ea l) 16 = some h ∧ s.barObj h = some o) → busy = false →
      (f.ord = .release → s.drained ag = true) →
      ∃ t, Machine.exec (.arrv f) s = .next t ∧ After s t ag n ∧
        t.spad = (ls.foldl (fun u l => u.arriveAt (s.spadHome ag (ea l) 16) k) s).spad ∧
        (s.quiet f.ord → Kept ag { s with spad := t.spad, spadBad := t.spadBad } t [] [] false false)) ∧
    (∀ l c a, k ≠ 0 → s.arrvCheck ag ea ls = some (l, c, a) →
      Machine.exec (.arrv f) s = .next (s.trap ag c (laneOf (isV f.sb) l) 0 a))) ∧
  (∀ (s : Machine.State) (c a k : Nat) (o : BarObj), s.barObj (.spad c a) = some o → 0 < k →
    ∃ p, (s.arriveAt (.spad c a) k).barObj (.spad c a) = some p ∧ p.expected = o.expected ∧
      (k < o.remaining → p.remaining = o.remaining - k ∧ p.phase = o.phase) ∧
      (o.remaining ≤ k → ∃ n, 0 < n ∧ o.remaining + (n - 1) * o.expected ≤ k ∧ k < o.remaining + n * o.expected ∧
        p.remaining + k = o.remaining + n * o.expected ∧ p.phase = (o.phase + n) % 2 ^ 64) ∧
      ∀ x, (x < spadAt c a ∨ spadAt c a + 16 ≤ x) →
        Memory.get (s.arriveAt (.spad c a) k).spad x = Memory.get s.spad x) ∧
  (∀ (f : MF) (s : Machine.State) (ag : Agent), Ready s ag (.bowait f) →
    let a := unsigned 32 ((s.reg ag f.sa false).toNat + MF.offset f false)
    let reached (o : BarObj) : Prop := (o.phase + (2 ^ 64 - s.srcBits ag 64 0 f.sb)) % 2 ^ 64 < 2 ^ 63
    (∀ h o, a % 16 = 0 → s.viewOf ag a 16 = some h → s.barObj h = some o →
      (reached o → s.acquiring ag = false → ∃ t, Machine.exec (.bowait f) s = .next t ∧ After s t ag (nSlots [f.sb]) ∧
        (f.dst ≠ .none → t.reg ag f.dst true = BitVec.ofNat 64 o.phase) ∧ t.spad = s.spad ∧
        (s.quiet f.ord → Kept ag s t (dstRegs ag f.dst true) [] false false)) ∧
      (¬reached o ∨ s.acquiring ag = true → Machine.exec (.bowait f) s = .next s.stall)) ∧
    (∀ c a, s.boOf ag f = .error (c, a) → Machine.exec (.bowait f) s = .next (s.trap ag c none 0 a))) ∧
  (∀ (i : Instr) (f : MF) (prod : Bool) (s : Machine.State) (ag : Agent), Ready s ag i →
    let a := s.cbAddr ag f
    (i = (if prod then .cbacqProd f else .cbacqCons f) →
      (∀ c a, s.cbOf ag f = .error (c, a) → Machine.exec i s = .next (s.trap ag c none 0 a)) ∧
      (∀ h c, a % 32 = 0 → s.viewOf ag a 32 = some h → s.cirBuf h = some c →
        let d : CirBuf := if prod then { c with free := c.free - 1, pidx := (c.pidx + 1) % c.slots }
          else { c with filled := c.filled - 1, cidx := (c.cidx + 1) % c.slots }
        ((if prod then c.free else c.filled) = 0 → Machine.exec i s = .next s.stall) ∧
        ((if prod then c.free else c.filled) ≠ 0 → s.held ag h 32 = true → Machine.exec i s = .next s.stall) ∧
        ((if prod then c.free else c.filled) ≠ 0 → s.held ag h 32 = false → ∃ t, Machine.exec i s = .next t ∧ After s t ag 1 ∧
          t.reg ag f.dst false = BitVec.ofNat 64 (if prod then c.pidx else c.cidx) ∧ t.cirBuf h = some d ∧
          t.spad = (s.putCirBuf h d).spad ∧
          (s.quiet f.ord → Kept ag { s with spad := t.spad, spadBad := t.spadBad } t (dstRegs ag f.dst false) [] false false)))) ∧
    (i = (if prod then .cbrelProd f else .cbrelCons f) →
      (∀ c a, s.cbOf ag f = .error (c, a) → Machine.exec i s = .next (s.trap ag c none 0 a)) ∧
      (∀ h c, a % 32 = 0 → s.viewOf ag a 32 = some h → s.cirBuf h = some c →
        let d : CirBuf := if prod then { c with filled := c.filled + 1 } else { c with free := c.free + 1 }
        (c.free + c.filled = c.slots → Machine.exec i s = .next (s.trap ag 0x0E none 0 a)) ∧
        (c.free + c.filled ≠ c.slots → s.held ag h 32 = false → (f.ord = .release → s.drained ag = true) →
          ∃ t, Machine.exec i s = .next t ∧ After s t ag 1 ∧ t.cirBuf h = some d ∧ t.spad = (s.putCirBuf h d).spad ∧
            (s.quiet f.ord → Kept ag { s with spad := t.spad, spadBad := t.spadBad } t [] [] false false))))) ∧
  (∀ (s : Machine.State) (ag : Agent) (f : MF) (h : Home) (c : CirBuf), s.cbOf ag f = .ok (h, c) →
    ∀ (t : Machine.State) (d : CirBuf) (x : Nat), t = s.putCirBuf h d →
      (x < s.padAddr ag (s.cbAddr ag f) 32 ∨ s.padAddr ag (s.cbAddr ag f) 32 + 16 ≤ x) →
      Memory.get t.spad x = Memory.get s.spad x)

/-! ### Deferred and memory-side instructions -/

/-- COMMIT and DFLUSH (R168 to R172): a COMMIT whose agent has no record on the way to a log numbers a commit of its tags (the
agent's own, or those of its launch), puts a marker behind the entries of each tag's log, and its agent waits at the
clause that follows; one that has nothing to wait for is over at once. DFLUSH marks the launch's bins to ship and waits for
nothing. When a commit is over its agent has the status word, and its next clause is ready. Which commits count a failed
record is the model's reading (log entry 36). -/
def Obligations.CommitsAndFlushes : Prop :=
  (∀ (i : Instr) (f : SF) (pod : Bool) (tags : List (BitVec 12)) (s : Machine.State) (ag : Agent), Ready s ag i →
    s.recsPending ag = false → (∀ k ∈ tags, s.logRoom (tagCore k) = true) →
    ((i = .commitBlock f ∧ tags = [s.tagOf ag] ∧ pod = false) ∨ (i = .commitGrid f ∧ tags = s.tagsOf (s.launchOf ag) ∧ pod = false) ∨
      (i = .commitPod f ∧ tags = s.tagsOf (s.launchOf ag) ∧ pod = true)) →
    let why := CommitFor.agent ag (s.seat ag) (s.pcOf ag).2.2 f.dst (match i with | .commitBlock _ => false | _ => true)
    let s1 := (s.startCommit why (s.launchOf ag) tags pod).2
    SameBytes s s1 ∧ s1.waves = s.waves ∧ s1.threads = s.threads ∧
    (∃ c ∈ s1.dfd.commits, c.n = s.fresh ∧ c.why = why ∧ c.launch = s.launchOf ag ∧ c.tags = tags ∧ c.pod = pod) ∧
    (∀ k ∈ tags.map tagCore, s1.log k = if s.log k = [] then [] else s.log k ++ [.marker s.fresh]) ∧
    (s.banked ag → ∃ t, Machine.exec i s = .next t ∧ (t.pcOf ag).1 = (s.pcOf ag).1 + 64 ∧ (t.pcOf ag).2.1 = 1) ∧
    (s1.commitDone s.fresh = false → ∃ t, Machine.exec i s = .next t ∧ Kept ag s1 t [] [] false false ∧
      (t.pcOf ag).1 = (s.pcOf ag).1 + 64 ∧ (t.pcOf ag).2.1 = 1 ∧
      (∀ w v, ag = .wave w → t.wave w = some v → v.path.wait = .commit s.fresh) ∧
      (∀ c k, ag = .thread c k → (t.thread c k).wait = .commit s.fresh)) ∧
    (s1.commitDone s.fresh = true → Machine.exec i s =
      .next ((s1.jump ag ((s.pcOf ag).1 + 64) (.commit s.fresh)).finishCommit s.fresh))) ∧
  (∀ (i : Instr) (f : SF) (tags : List (BitVec 12)) (s : Machine.State) (ag : Agent), Ready s ag i →
    ((i = .commitBlock f ∧ tags = [s.tagOf ag]) ∨ ((i = .commitGrid f ∨ i = .commitPod f) ∧ tags = s.tagsOf (s.launchOf ag))) →
    (s.recsPending ag = true ∨ ∃ k ∈ tags, s.logRoom (tagCore k) = false) → Machine.exec i s = .next s.stall) ∧
  (∀ (i : Instr) (f : SF) (pod : Bool) (s : Machine.State) (ag : Agent), Ready s ag i →
    i = (if pod then .dflushPod f else .dflushGrid f) →
    let mine (b : Bin) : Bool := decide (b.key < 1024) && (pod || isLocalDest b.dest) && b.recs.any (fun r => r.launch == s.launchOf ag)
    ∃ t, Machine.exec i s = .next t ∧ Kept ag { s with dfd := t.dfd } t [] [] false false ∧ After s t ag 1 ∧
      t.dfd = { s.dfd with bins := s.dfd.bins.map (fun b => if mine b then { b with due := true } else b) }) ∧
  (∀ (s : Machine.State) (n : Nat) (c : Commit) (ag : Agent) (p : Seat) (alt all : Bool) (d : Opnd),
    s.dfd.commits.find? (fun c => c.n == n) = some c → c.why = .agent ag p alt d all → c.cores = [] → c.pend = [] → c.left = 0 →
    s.binsOut c = false → s.banked ag → s.here ag p = true → destOk ag d 0 false →
    ∃ t, Machine.exec (.commitComplete n) s = .next t ∧ t.spad = s.spad ∧ (s.path.l1 = [] → SameBytes s t) ∧
      t.dfd.commits = s.dfd.commits.filter (fun k => k.n != n) ∧
      t.destElem ag alt d 0 false = BitVec.ofNat 64 ((if c.failed = 0 then 0 else 1) * 2 ^ 24 + min c.failed (2 ^ 24 - 1)) ∧
      (∀ w v, ag = .wave w → t.wave w = some v → v.p0.wait ≠ .commit n ∧ v.p1.wait ≠ .commit n) ∧
      (∀ k h, ag = .thread k h → (t.thread k h).wait ≠ .commit n) ∧ (∀ w, ag ≠ .wave w → t.wave w = s.wave w)) ∧
  (∀ (s : Machine.State) (n : Nat), s.commitDone n = false → Machine.exec (.commitComplete n) s = .next s)

/-- CAPNEW, CAPSWAP, CAPREV and CAPQRY, and the freeing of a draining entry (R173 to R177, R277): a handle resolves for its
context only; a new entry is the lowest free one with its generation; CAPSWAP moves a region under a handle and revokes the
other; CAPREV frees an entry that nothing holds, with its generation advanced, and drains one that is held; CAPQRY gives the
word of Table 14-3. Handles that do not resolve give 0 and change nothing. That an entry nothing holds is freed at once, and
that a handle instruction waits for an undecided offer or gives 0 where a failed link cuts the stack off, are the model's readings (log entry 36); the address word of a trap
is log entry 25. -/
def Obligations.CapabilityHandles : Prop :=
  (∀ (f : SF) (s : Machine.State) (ag : Agent), Ready s ag (.capnew f) →
    let a := s.srcBits ag 64 0 f.sa
    let b := s.srcBits ag 64 0 f.sb
    ((a % 64 ≠ 0 ∨ b = 0 ∨ b % 64 ≠ 0) → Machine.exec (.capnew f) s = .next (s.trap ag 0x1C none 0 a)) ∧
    (a % 64 = 0 → b ≠ 0 → b % 64 = 0 →
      (∀ c, s.xlate (s.tlbOf ag) (s.ctxOf ag) a (f.imm.getLsbD 0) (f.imm.getLsbD 1) = .error c →
        Machine.exec (.capnew f) s = .next (s.faultHere ag c none a 0)) ∧
      (∀ pa e, s.xlate (s.tlbOf ag) (s.ctxOf ag) a (f.imm.getLsbD 0) (f.imm.getLsbD 1) = .ok (pa, e) →
        let sz := pageBytes (fld e 11 9)
        let st := pa / 2 ^ 36
        ((sz < a % sz + b ∨ 12 * 2 ^ 36 ≤ pa) → Machine.exec (.capnew f) s = .next (s.trap ag 0x1C none 0 a)) ∧
        (a % sz + b ≤ sz → pa < 12 * 2 ^ 36 → (s.offered ag st = true ∨ s.walkHeld (s.tlbOf ag) (s.ctxOf ag) a = true) →
          Machine.exec (.capnew f) s = .next s.stall) ∧
        (a % sz + b ≤ sz → pa < 12 * 2 ^ 36 → s.offered ag st = false → s.walkHeld (s.tlbOf ag) (s.ctxOf ag) a = false →
          s.stackCut ag st = true → ∃ r : Machine.State, Machine.exec (.capnew f) s =
              .next (((r.stackLost ag st).put32 ag f.dst 0).retire (nSlots [f.sa, f.sb]) .none) ∧
            SameBytes s r ∧ r.dfd = s.dfd) ∧
        (a % sz + b ≤ sz → pa < 12 * 2 ^ 36 → s.offered ag st = false → s.walkHeld (s.tlbOf ag) (s.ctxOf ag) a = false →
          s.stackCut ag st = false →
          ∃ t, Machine.exec (.capnew f) s = .next t ∧ After s t ag (nSlots [f.sa, f.sb]) ∧ SameBytes s t ∧
            Kept ag { s.passes ag false with dfd := t.dfd, free := t.free, path := { s.path with tlb := t.path.tlb },
                                             sch := { s.sch with nodes := t.sch.nodes }, dev := { s.dev with hbmUsed := t.dev.hbmUsed } } t
              (dstRegs ag f.dst false) [] false false ∧
            t.sch.nodes.map (fun e => (e.1, { e.2 with sent := 0 })) = s.sch.nodes.map (fun e => (e.1, { e.2 with sent := 0 })) ∧
            (∀ i, i < 2048 → (s.cap st i).state = 0 → (∀ j, j < i → (s.cap st j).state ≠ 0) →
              t.cap st i = ⟨1, f.imm.getLsbD 1, f.imm.getLsbD 0, 0, s.ctxOf ag, (s.cap st i).gen, 0, 0, pa, BitVec.ofNat 64 b⟩ ∧
              (∀ k j, (k * 2048 + j ≠ st * 2048 + i) → t.cap k j = s.cap k j) ∧
              t.reg ag f.dst false = BitVec.ofNat 64 ((st * 2 ^ 28 + i * 2 ^ 17 + (s.cap st i).gen.toNat * 2 + 1) % 2 ^ 32)) ∧
            ((∀ i, i < 2048 → (s.cap st i).state ≠ 0) → t.reg ag f.dst false = 0 ∧ t.dfd = s.dfd))))) ∧
  (∀ (f : SF) (s : Machine.State) (ag : Agent), Ready s ag (.capswap f) →
    let x := s.ctxOf ag
    let a := s.srcBits ag 32 0 f.sa
    let b := s.srcBits ag 32 0 f.sb
    s.offered ag (capStack a) = false → s.offered ag (capStack b) = false → s.stackCut ag (capStack a) = false →
    ∃ t, Machine.exec (.capswap f) s = .next t ∧ After s t ag 1 ∧ Kept ag { s with dfd := t.dfd } t (dstRegs ag f.dst false) [] false false ∧
      (∀ p q, s.resolve x a = some p → s.resolve x b = some q → capStack a = capStack b → capEntry a ≠ capEntry b →
        (f.dst ≠ .none → t.reg ag f.dst false = 1) ∧
        t.cap (capStack a) (capEntry a) = { p with base := q.base, bound := q.bound, rd := q.rd, wr := q.wr, old := p.old + p.busy, busy := 0 } ∧
        (q.busy = 0 → q.old = 0 → t.cap (capStack b) (capEntry b) = { Cap.free with gen := q.gen + 1 }) ∧
        ((q.busy ≠ 0 ∨ q.old ≠ 0) → t.cap (capStack b) (capEntry b) = { q with state := 2 })) ∧
      ((s.resolve x a = none ∨ s.resolve x b = none ∨ capStack a ≠ capStack b ∨ capEntry a = capEntry b) →
        t.reg ag f.dst false = 0 ∧ t.dfd = s.dfd)) ∧
  (∀ (f : SF) (s : Machine.State) (ag : Agent),
    let a := s.srcBits ag 32 0 f.sa
    s.offered ag (capStack a) = false → s.stackCut ag (capStack a) = false →
    (Ready s ag (.caprev f) → ∃ t, Machine.exec (.caprev f) s = .next t ∧
      Kept ag { s with dfd := t.dfd } t (dstRegs ag f.dst false) [] false false ∧
      (∀ p, s.resolve (s.ctxOf ag) a = some p → (f.dst ≠ .none → t.reg ag f.dst false = 1) ∧
        t.cap (capStack a) (capEntry a) = (if p.busy = 0 ∧ p.old = 0 then { Cap.free with gen := p.gen + 1 } else { p with state := 2 })) ∧
      (s.resolve (s.ctxOf ag) a = none → t.reg ag f.dst false = 0 ∧ t.dfd = s.dfd)) ∧
    (Ready s ag (.capqry f) → ∃ t, Machine.exec (.capqry f) s = .next t ∧ Kept ag s t (dstRegs ag f.dst false) [] false false ∧
      (∀ p, s.resolve (s.ctxOf ag) a = some p → t.reg ag f.dst false = BitVec.ofNat 64
        (2 ^ 31 + p.rd.toNat * 2 ^ 30 + p.wr.toNat * 2 ^ 29 + min p.busy 255 * 2 ^ 8 + min p.old 255)) ∧
      (s.resolve (s.ctxOf ag) a = none → t.reg ag f.dst false = 0))) ∧
  (∀ (s : Machine.State) (ag : Agent) (f : SF), s.offered ag (capStack (s.srcBits ag 32 0 f.sa)) = true →
    (Ready s ag (.capswap f) → Machine.exec (.capswap f) s = .next s.stall) ∧
    (Ready s ag (.caprev f) → Machine.exec (.caprev f) s = .next s.stall) ∧
    (Ready s ag (.capqry f) → Machine.exec (.capqry f) s = .next s.stall)) ∧
  (∀ (i : Instr) (f : SF) (s : Machine.State) (ag : Agent), Ready s ag i → (i = .capswap f ∨ i = .caprev f ∨ i = .capqry f) →
    let a := s.srcBits ag 32 0 f.sa
    s.offered ag (capStack a) = false → (i = .capswap f → s.offered ag (capStack (s.srcBits ag 32 0 f.sb)) = false) →
    s.stackCut ag (capStack a) = true →
    Machine.exec i s = .next (((s.stackLost ag (capStack a)).put32 ag f.dst 0).retire 1 .none)) ∧
  (∀ (s : Machine.State) (st e : Nat),
    ((s.cap st e).state = 2 → (s.cap st e).busy = 0 → (s.cap st e).old = 0 →
      Machine.exec (.capEntryFree st e) s = .next (s.setCap st e { Cap.free with gen := (s.cap st e).gen + 1 })) ∧
    (((s.cap st e).state ≠ 2 ∨ (s.cap st e).busy ≠ 0 ∨ (s.cap st e).old ≠ 0) → Machine.exec (.capEntryFree st e) s = .next s))

/-- MRED, MIRED, MEVAL and MFILL (R177 to R185): at issue the 64 bytes of the block are read and offered to the engine that
`hdst` names, or rejected, with 0x01 where a reserved field is set and else with 0x02 where it names none. An offered block is rejected with the code that R179 gives, or
accepted with the next number of its context and stack; its destination receives the status. An item whose checks pass
writes its result to its bytes of the destination region and to no other; the completion word carries the id, the status and
the items done, and the command's number and entries are released. The statuses of blocks that the rules leave open are the
model's readings (log entry 36). -/
def Obligations.CommandBlocks : Prop :=
  (∀ (i : Instr) (f : MF) (kind : Nat) (s : Machine.State) (ag : Agent) (pa : Nat) (leaf : W64), Ready s ag i → s.banked ag →
    ((i = .mred f ∧ kind = 1) ∨ (i = .mired f ∧ kind = 2) ∨ (i = .meval f ∧ kind = 3) ∨ (i = .mfill f ∧ kind = 4)) →
    let ea := s.ea ag f false 0
    ea % 64 = 0 → s.xlate (s.tlbOf ag) (s.ctxOf ag) ea true false = .ok (pa, leaf) →
    s.walkHeld (s.tlbOf ag) (s.ctxOf ag) ea = false → s.held ag (s.home pa) 64 = false →
    s.countRoom ag (s.flagFor ag f.fs) false false = true →
    ∃ t, Machine.exec i s = .next t ∧ After s t ag (nSlots [f.sa, f.sb]) ∧ ∀ a, s.home pa = .mem a →
      s.severed (s.clusterOf ag) (.mem a) = false → s.badBytes (.mem a) 64 = false → s.path.l1 = [] → s.here ag (s.seat ag) = true →
      let word (k : Nat) : W64 := Memory.w64 s.mem (a + 8 * k)
      let hdst := fld (word 1) 63 32
      let resv := fld (word 0) 51 48 ≠ 0 ∨ fld (word 2) 31 24 ≠ 0 ∨ fld (word 5) 15 0 ≠ 0
      (¬resv → capStack hdst < 12 → hdst % 2 = 1 → SameBytes s t ∧ ∃ o, t.dfd.offers = s.dfd.offers ++ [o] ∧ o.n = s.fresh ∧ o.ag = ag ∧
        o.ctx = s.ctxOf ag ∧ o.launch = s.launchOf ag ∧ o.kind = kind ∧ o.dst = f.dst ∧ o.scope = f.scope ∧ o.ord = f.ord ∧
        o.va = ea ∧ (∀ k, k < 8 → o.w.toList.getD k 0 = word k)) ∧
      (resv ∨ 12 ≤ capStack hdst ∨ hdst % 2 = 0 → t.dfd.offers = s.dfd.offers ∧
        (destOk ag f.dst 0 false → t.destElem ag (s.pcOf ag).2.2 f.dst 0 false =
          (if resv then BitVec.ofNat 64 (0x01 * 2 ^ 24) else BitVec.ofNat 64 (0x02 * 2 ^ 24))))) ∧
  (∀ (s : Machine.State) (o : Offer), s.dfd.offers.find? (fun p => p.n == o.n) = some o → s.firstOffer o = true →
    s.offerReady o = true → s.path.l1 = [] → s.banked o.ag → s.here o.ag o.seat = true →
    s.cut (o.seat.cluster / 10) (capStack (blockFld o.w 1 63 32) / 3) = false →
    (o.ord = .release → o.scope = .pod → s.fab.broken = []) →
    let s1 := { s with dfd := { s.dfd with offers := s.dfd.offers.filter (fun p => p.n != o.n) } }
    (∀ code, s1.judge o.ctx o.kind o.w = .reject code → ∃ t, Machine.exec (.commandBlockAcceptance o.n) s = .next t ∧
      t.dfd = s1.dfd ∧ (destOk o.ag o.dst 0 false →
        t.destElem o.ag o.alt o.dst 0 false = BitVec.ofNat 64 (code * 2 ^ 24 % 2 ^ 32))) ∧
    (∀ d a i p bad, s1.judge o.ctx o.kind o.w = .accept d a i p bad → ∃ t, Machine.exec (.commandBlockAcceptance o.n) s = .next t ∧
      (∃ c, t.dfd.cmds = s.dfd.cmds ++ [c] ∧ c.num = (Map.at s.dfd.counts (o.ctx * 16 + d.stack) (0, 0)).1 + 1 ∧ c.ctx = o.ctx ∧
        c.stack = d.stack ∧ c.w = o.w ∧ c.dst = d ∧ c.src = a ∧ c.idx = i ∧ c.prog = p ∧ c.item = 0) ∧
      (Map.at t.dfd.counts (o.ctx * 16 + d.stack) (0, 0)) =
        ((Map.at s.dfd.counts (o.ctx * 16 + d.stack) (0, 0)).1 + 1, (Map.at s.dfd.counts (o.ctx * 16 + d.stack) (0, 0)).2) ∧
      SameBytes s t ∧ (destOk o.ag o.dst 0 false → t.destElem o.ag o.alt o.dst 0 false = 0))) ∧
  (∀ (s : Machine.State) (x stack : Nat) (c : Cmd), s.headCmd x stack = some c → c.st = 0 → c.item < blockFld c.w 2 23 0 →
    s.path.l1 = [] →
    let e := c.item
    let idxs := match c.idx with | some r => (c.idxOffs e).map (fun o => (r.base + o, 4)) | none => []
    let rows := c.rows s.mem e
    let offs := c.srcOffs e rows
    let d := c.dstOff e
    let ranges := (c.dst.base + d.1, d.2) :: offs.map (fun o => (c.srcBase + o.1, o.2))
    (∀ r, c.idx = some r → (c.idxOffs e).all (fun o => r.inside o 4 r.rd) = true) → s.cmdWaits c idxs = false →
    idxs.any (fun r => s.badBytes (.mem r.1) r.2) = false →
    (∀ r, c.src = some r → offs.all (fun o => r.inside o.1 o.2 r.rd) = true) → c.dst.inside d.1 d.2 c.dst.wr = true →
    s.cmdWaits c ranges = false → s.hbmFull (c.stack * 2 ^ 36) (rangeBytes idxs + rangeBytes ranges) = false → (offs.any (fun o => s.badBytes (.mem (c.srcBase + o.1)) o.2)) = false →
    s.badPart (c.dst.base + d.1) d.2 = false →
    let bytes := c.result s.mem e rows
    ∃ t, Machine.exec (.cupolaItem x stack) s = .next t ∧
      (∀ a, Memory.get t.mem a = if c.dst.base + d.1 ≤ a ∧ a < c.dst.base + d.1 + bytes.length then
        (if s.barred false a then Memory.get t.mem a else bytes.getD (a - (c.dst.base + d.1)) 0) else Memory.get s.mem a) ∧
      t.spad = s.spad ∧ t.waves = s.waves ∧ t.threads = s.threads ∧
      t.dfd = (s.modCmd c (fun k => { k with item := e + 1 })).dfd) ∧
  (∀ (s : Machine.State) (x stack : Nat) (c : Cmd), s.headCmd x stack = some c → (c.st ≠ 0 ∨ blockFld c.w 2 23 0 ≤ c.item) →
    let a := c.dst.base + blockWord c.w 6
    s.cmdWaits c [(a, 8)] = false → s.hbmFull a 8 = false → s.path.l1 = [] →
    let bytes := leBytes 8 (blockFld c.w 0 31 0 * 2 ^ 32 + statusWord c.st c.item)
    ∃ t, Machine.exec (.commandCompletionWord x stack) s = .next t ∧
      (∀ b, Memory.get t.mem b = if a ≤ b ∧ b < a + 8 then bytes.getD (b - a) 0 else Memory.get s.mem b) ∧
      t.spad = s.spad ∧ t.waves = s.waves ∧ t.threads = s.threads ∧
      (Map.at t.dfd.counts (x * 16 + stack) (0, 0)).2 = c.num ∧
      t.dfd.cmds = s.dfd.cmds.filter (fun d => !(d.ctx == x && d.stack == stack && d.num == c.num)))

/-! ### Matrix instructions -/

/-- The fourteen matrix instructions (MMA, MMA.SP, MMA.CHK, MITER, MITER.CONT, ACLR, AIN, AOUT, AOUT.CLR, EPI, KLD, KLD.ALL,
ACTX.SWAP, ACTX.REL) at issue (R186 to R190, R193): a core of the thread's launch is needed, the unit, the
context's workgroup, an earlier acquire and the end of a pre-emption are waited for, the causes of R189 trap, an unowned unit
where no check has a lower code; otherwise the operation is in flight on its unit with the next
number of its stream and the register values captured, and no register and no byte changes. The order of the checks (log entry 29)
and the waits for an earlier acquire, a busy unit and a full flag counter (log entry 28) are the model's readings. -/
def Obligations.MatrixInstructionsIssue : Prop :=
  ∀ (i : Instr) (f : EF) (s : Machine.State) (c t : Nat), Ready s (.thread c t) i →
    i ∈ [.mma f, .mmaSp f, .mmaChk f, .miter f, .miterCont f, .aclr f, .ain f, .aout f, .aoutClr f, .epi f, .kld f, .kldAll f,
      .actxSwap f, .actxRel f] → s.banked (.thread c t) →
    let u := 16 * c + f.aux.toNat % 16
    let core := 4 * c + f.aux.toNat % 16 / 4
    let x := (s.thread c t).ctx
    let mine := s.sch.wgs.filter (fun e => e.2.launch == (s.thread c t).launch && e.2.core == core)
    let free := Map.find s.mx.mops u = none ∧ mine.all (fun e => e.2.out) = false ∧ (s.core core).active = some x ∧
      (s.core core).req = none ∧ s.acquiring (.thread c t) = false
    let n := f.actx.toNat
    let cnt := Map.at s.mx.counts (unitKey x c (f.aux.toNat % 16)) (0, 0)
    let m := s.mopOf i c t
    (mine = [] → s.opFaults m = [] → Machine.exec i s = .next (s.trap (.thread c t) 0x12 none 0 0)) ∧
    (∀ cause a, mine = [] → pickCause (s.opFaults m ++ [(0x12, 0)]) = some (cause, a) →
      Machine.exec i s = .next (s.trap (.thread c t) cause none 0 a)) ∧
    (mine ≠ [] → ¬free → Machine.exec i s = .next s.stall) ∧
    (∀ cause a, mine ≠ [] → free → pickCause (s.opFaults m) = some (cause, a) →
      Machine.exec i s = .next (s.trap (.thread c t) cause none 0 a)) ∧
    (mine ≠ [] → free → s.opFaults m = [] →
      s.countRoom (.thread c t) (s.flagFor (.thread c t) f.fs) false false = false → Machine.exec i s = .next s.stall) ∧
    (mine ≠ [] → free → s.opFaults m = [] → s.countRoom (.thread c t) (s.flagFor (.thread c t) f.fs) false false = true →
      ∃ r o, Machine.exec i s = .next r ∧ Map.find r.mx.mops u = some o ∧ o.i = i ∧ o.num = cnt.1 + 1 ∧ o.cluster = c ∧
        o.thread = t ∧ o.ctx = x ∧ o.launch = (s.thread c t).launch ∧ o.dst = f.dst ∧
        (o.a, o.a2, o.b, o.b2, o.c, o.c2, o.d, o.d2) = (m.a, m.a2, m.b, m.b2, m.c, m.c2, m.d, m.d2) ∧
        (Map.at r.mx.counts (unitKey x c (f.aux.toNat % 16)) (0, 0)) = (cnt.1 + 1, cnt.2) ∧
        (∀ v, v ≠ u → Map.find r.mx.mops v = Map.find s.mx.mops v) ∧
        (((∀ g, i ≠ .actxSwap g ∧ i ≠ .actxRel g) → s.inBank x u n = true) →
          ((∃ g, i = .actxSwap g) → s.inBank x u 0 = true ∧ s.inBank x u 1 = true) →
          ((n = 0 ∨ ∃ g, i = .actxSwap g ∨ i = .actxRel g) → (∀ g, i ≠ .miter g) → r.mx.accs = s.mx.accs) ∧ SameBytes s r) ∧
        (∀ k, (r.thread c t).getQ k = (s.thread c t).getQ k) ∧ After s r (.thread c t) (nSlots [f.sa, f.sc]) ∧
        r.waves = s.waves ∧ (∀ k, 4 * c + t ≠ k → Map.find r.threads k = Map.find s.threads k))

/-- What a matrix operation does when it completes (R187, R194 to R202), its operands being as they stood at issue: its unit is
free and its number reached. MMA and MMA.SP add the product to the M by N part of their tile; MMA.CHK does so where its
check holds with status 0, and else gives status 1 and, with `fn` bit 2, the checksum-mismatch trap, which stops a thread in
its handler at tier 3; ACLR clears its tiles and sets their kind; AIN fills its part; KLD and KLD.ALL write
coefficients and EPI the epilogue block; AOUT writes the code of each element to its bytes of the destination, with the
scale of each block where `mx` is set, and nothing else, and AOUT.CLR also clears; MITER reports its status; ACTX.SWAP exchanges
the logical contexts and ACTX.REL gives context 1 up. An iteration of MITER is that of R201, and a bank move puts the needed
logical context in a bank (R325). Readings of the operations stand in log entry 29. -/
def Obligations.MatrixOperations : Prop :=
  (∀ (s : Machine.State) (u : Nat) (m : MOp), Map.find s.mx.mops u = some m → m.more = false → m.snap = s.opReads m →
    m.unit = u → s.banked (.thread m.cluster m.thread) →
    ((s.thread m.cluster m.thread).inh = true → (∀ g, m.i = .mmaChk g → g.fn.getLsbD 2 = true →
        m.mismatch ((s.opReads m).map (fun r => r.2.toArray)) = false) ∧
      (∀ g, m.i = .miter g ∨ m.i = .miterCont g → m.out ≠ 4)) →
    let th := s.thread m.cluster m.thread
    let here := s.here (.thread m.cluster m.thread) m.seat = true
    let f := Instr.ef m.i
    let n := EF.ctx f
    let k := EF.tile f
    let a := s.acc m.ctx u n
    let rd := (s.opReads m).map (fun r => r.2.toArray)
    let v := m.values rd
    let part (i j : Nat) : Prop := i < ctlM m.c ∧ j < ctlN m.c
    let blocks (i j : Nat) : List (List (FV × FV)) :=
      (List.range (ctlK m.c / 32)).map (fun b => (List.range 32).map (fun p => (v.1 i (32 * b + p), v.2 (32 * b + p) j)))
    let added (t : Machine.State) : Prop := ∀ i j, i < 64 → j < 64 →
      (part i j → (t.acc m.ctx u n).at k i j =
        if f.ty = .i8 ∧ f.fn.toNat % 4 = 0 then accumulateInt (a.at k i j) (blocks i j) else accumulate (a.at k i j) (blocks i j)) ∧
      (¬part i j → (t.acc m.ctx u n).at k i j = a.at k i j) ∧ ∀ l, l ≠ k → (t.acc m.ctx u n).at l i j = a.at l i j
    ∃ t, Machine.exec (.matrixOpComplete u) s = .next t ∧ Map.find t.mx.mops u = none ∧
      (Map.at t.mx.counts (unitKey m.ctx m.cluster (u % 16)) (0, 0)).2 =
        (Map.at s.mx.counts (unitKey m.ctx m.cluster (u % 16)) (0, 0)).2 + 1 ∧
      (∀ g, m.i = .mma g ∨ m.i = .mmaSp g → added t ∧ SameBytes s t) ∧
      (∀ g, m.i = .mmaChk g → (m.mismatch rd = false → added t) ∧ (m.mismatch rd = true → t.mx.accs = s.mx.accs) ∧
        (∀ q, here → m.dst = .q q → (t.thread m.cluster m.thread).getQ q.val = if m.mismatch rd then 1 else 0) ∧
        (here → (t.thread m.cluster m.thread).queue =
          if m.mismatch rd ∧ g.fn.getLsbD 2 then th.queue ++ [⟨none, 0x80000000, { m.trec with w0 := withFld m.trec.w0 63 56 0x14 }⟩]
          else th.queue)) ∧
      (∀ g, m.i = .aclr g → ∀ l, l < 4 → (g.fn = 0 → l = k) → (t.acc m.ctx u n).isI l = (g.ty == .i32) ∧
        ∀ i j, i < 64 → j < 64 → (t.acc m.ctx u n).at l i j = 0) ∧
      (∀ g, m.i = .ain g → ∀ i j, i < 64 → j < 64 →
        (part i j → (t.acc m.ctx u n).at k i j =
          let e : W32 := BitVec.ofNat 32 ((rd.getD 0 #[]).getD (i * ctlN m.c + j) 0)
          if g.ty = .f32 then canon32 e else e) ∧
        (¬part i j → (t.acc m.ctx u n).at k i j = a.at k i j)) ∧
      (∀ g, m.i = .kld g → (t.acc m.ctx u n).k = a.k.setIfInBounds (g.aux.toNat / 16 % 8) (canon32 (m.a.truncate 32)) ∧
        (t.acc m.ctx u n).tiles = a.tiles) ∧
      (∀ g, m.i = .kldAll g → (t.acc m.ctx u n).tiles = a.tiles ∧ ∀ l, l < 8 →
        (t.acc m.ctx u n).k.toList.getD l 0 = canon32 (BitVec.ofNat 32 ((rd.getD 0 #[]).getD l 0))) ∧
      (∀ g, m.i = .epi g → (t.acc m.ctx u n) = { a with epi := #v[m.a, m.a2, m.b, m.b2, m.c, m.c2, m.d, m.d2] }) ∧
      (∀ g, m.i = .aout g → t.mx.accs = s.mx.accs) ∧
      (∀ g, m.i = .aoutClr g → ∀ i j, i < 64 → j < 64 →
        (t.acc m.ctx u n).at k i j = if i < ctlM m.c ∧ j < ctlN m.c then 0 else a.at k i j) ∧
      (∀ g, m.i = .aout g ∨ m.i = .aoutClr g → t.mem = s.mem ∧
        let e := epiOf a.epi
        let dt := numFmt f.ty false
        let w := dt.width
        let used (i j : Nat) : Prop := part i j ∧ (e.mx = true → j < 32 * (ctlN m.c / 32))
        let block (i b : Nat) : Prop := e.mx = true ∧ i < ctlM m.c ∧ b < ctlN m.c / 32
        let size := if w < 8 then 1 else w / 8
        ((descOf m.d m.d2).src ≠ 0 → t.spad = s.spad ∨ e.mx = true) ∧
        ((descOf m.d m.d2).src = 0 → t.waves = s.waves ∧
          (∀ i j h, used i j → m.cell w i j = some h →
            (∀ i' j' h', used i' j' → ¬(i' = i ∧ j' * w / 8 = j * w / 8) → m.cell w i' j' = some h' → h.meets size h' size = false) →
            (∀ i' b h', block i' b → m.scaleCell e i' b = some h' → h.meets size h' 1 = false) →
            leNat (t.bytesAt h size) / 2 ^ (if w < 8 then 4 * (j % 2) else 0) % 2 ^ w =
              e.code dt (ctlN m.c) (a.drained k e rd i) j % 2 ^ w) ∧
          (∀ i b h, block i b → m.scaleCell e i b = some h →
            (∀ i' j' h', used i' j' → m.cell w i' j' = some h' → h'.meets size h 1 = false) →
            (∀ i' b' h', block i' b' → (i', b') ≠ (i, b) → m.scaleCell e i' b' = some h' → h'.meets 1 h 1 = false) →
            t.bytesAt h 1 = [BitVec.ofNat 8 (quantise dt e.rm ((List.range 32).map (fun p => a.drained k e rd i (32 * b + p)))).1]) ∧
          (∀ x, (∀ i j h, used i j → m.cell w i j = some h → ¬h.holds size true x) →
            (∀ i b h, block i b → m.scaleCell e i b = some h → ¬h.holds 1 true x) → Memory.get t.spad x = Memory.get s.spad x))) ∧
      (∀ g, m.i = .miter g ∨ m.i = .miterCont g → (t.acc m.ctx u n).tiles = a.tiles ∧
        (m.out ≠ 3 → (t.acc m.ctx u n).loop.active = false) ∧
        (∀ q, m.dst = .q q → here → (t.thread m.cluster m.thread).getQ q.val =
            BitVec.ofNat 64 (a.loop.rho.toNat * 2 ^ 32 + a.loop.iters % 256 * 2 ^ 16 + m.out)) ∧
        (here → (t.thread m.cluster m.thread).queue =
          if m.out = 4 then th.queue ++ [⟨none, 0x80000000, { m.trec with w0 := withFld m.trec.w0 63 56 0x15 }⟩] else th.queue)) ∧
      (∀ g, m.i = .actxSwap g →
        t.acc m.ctx u 0 = { (if (s.acc m.ctx u 1).claimed then s.acc m.ctx u 1 else Acc.fresh true) with claimed := true } ∧
        t.acc m.ctx u 1 = { s.acc m.ctx u 0 with claimed := true }) ∧
      (∀ g, m.i = .actxRel g →
        (s.claims m.ctx u 1 = true → t.inBank m.ctx u 1 = false ∧ ∀ l, l ≠ accKey m.ctx u 1 → Map.find t.mx.accs l = Map.find s.mx.accs l) ∧
        (s.claims m.ctx u 1 = false → t.mx.accs = s.mx.accs ∧ t.mx.banks = s.mx.banks))) ∧
  (∀ (s : Machine.State) (u : Nat) (m : MOp) (cause : Nat), Map.find s.mx.mops u = some m → m.more = false → m.snap = s.opReads m →
    s.banked (.thread m.cluster m.thread) → s.here (.thread m.cluster m.thread) m.seat = true →
    (s.thread m.cluster m.thread).inh = true →
    ((∃ g, m.i = .mmaChk g ∧ g.fn.getLsbD 2 = true ∧ m.mismatch ((s.opReads m).map (fun r => r.2.toArray)) = true ∧ cause = 0x14) ∨
      (∃ g, (m.i = .miter g ∨ m.i = .miterCont g) ∧ m.out = 4 ∧ cause = 0x15)) →
    ∃ r, Machine.exec (.matrixOpComplete u) s =
        .next (r.tier3 (.thread m.cluster m.thread) 1 { m.trec with w0 := withFld m.trec.w0 63 56 cause }) ∧
      (r.thread m.cluster m.thread).stop = true ∧ (r.thread m.cluster m.thread).queue = (s.thread m.cluster m.thread).queue ∧
      Map.find r.mx.mops u = none ∧ SameBytes s r) ∧
  (∀ (s : Machine.State) (u : Nat) (m : MOp), Map.find s.mx.mops u = some m → m.more = true →
    let n := EF.ctx (Instr.ef m.i)
    let a := s.acc m.ctx u n
    let r := miterIterate a
    let out := match r.2 with | some k => some k | none => if (s.core (u / 4)).req.isSome then some 3 else none
    ∃ t, Machine.exec (.miterIteration u) s = .next t ∧ t.acc m.ctx u n = r.1 ∧
      Map.find t.mx.mops u = some { m with more := out.isNone, out := out.getD 0 } ∧ SameBytes s t ∧ t.waves = s.waves ∧
      t.threads = s.threads ∧
      (a.loop.mode = 0 → ∀ i j, i < 64 → j < 64 →
        let c : W64 := a.loop.ctl.zeroExtend 64
        let ft := (Ty.ofCode a.loop.ft).getD .bf16
        let fd (k : Nat) (i j : Nat) : FV := feed ft (a.fv k i j)
        fld c 11 10 ≠ fld c 13 12 →
        r.1.at (fld c 13 12) i j = prodAt (fd (fld c 11 10)) (fd a.loop.xtile) i j ∧ r.1.loop.iters = a.loop.iters + 1 ∧
        (i ≠ j → r.1.at (fld c 11 10) i j = prodAt (fd (fld c 11 10)) (fd a.loop.xtile) i j) ∧
        (i = j → r.1.at (fld c 11 10) i j = toF32 (((ffmt .f32).value (prodAt (fd (fld c 11 10)) (fd a.loop.xtile) i j).toNat).add
          (a.kv (fld c 7 0 - (a.loop.iters + 1)))).1)) ∧
      (a.loop.mode = 1 ∨ a.loop.mode = 2 →
        let c : W64 := a.loop.ctl.zeroExtend 64
        let ft := (Ty.ofCode a.loop.ft).getD .bf16
        let fx (i j : Nat) : FV := feed ft (a.fv a.loop.xtile i j)
        let R (i j : Nat) : W32 := if a.loop.mode = 1 then prodAt fx (fun k j => fx j k) i j
          else prodAt (fun i j => feed ft (a.fv (fld c 11 10) i j)) fx i j
        let fR (i j : Nat) : FV := feed ft ((ffmt .f32).value (R i j).toNat)
        let P (i j : Nat) : W32 := if a.loop.mode = 1 then prodAt fR fx i j else prodAt fx fR i j
        let rho := toF32 ((grid 64 64).foldl (fun x e => FV.maxAbs x (((ffmt .f32).value (R e.1 e.2).toNat).add
          (if e.1 = e.2 then .fin true 1 0 else .fin false 0 0)).1) (.fin false 0 0))
        let far := ((ffmt .f32).value rho.toNat).isNan = true ∨ (a.kv 7).lt ((ffmt .f32).value rho.toNat) = true
        let near := ((ffmt .f32).value rho.toNat).lt (a.kv 6) = true ∨ ((ffmt .f32).value rho.toNat).eq (a.kv 6) = true
        a.loop.xtile < 4 → a.loop.xtile ≠ fld c 11 10 → a.loop.xtile ≠ fld c 13 12 →
        r.1.loop.rho = rho ∧
        (far → r.2 = some 4) ∧ (¬far → near → r.2 = some 0) ∧
        (far ∨ near → r.1.loop.iters = a.loop.iters ∧ ∀ i j, i < 64 → j < 64 → r.1.at a.loop.xtile i j = a.at a.loop.xtile i j) ∧
        (¬far → ¬near → r.1.loop.iters = a.loop.iters + 1 ∧ r.2 = (if a.loop.iters + 1 = fld c 7 0 then some 1 else none) ∧
          ∀ i j, i < 64 → j < 64 → r.1.at a.loop.xtile i j =
            toF32 (((a.kv 0).mul (a.fv a.loop.xtile i j)).1.add ((a.kv 1).mul ((ffmt .f32).value (P i j).toNat)).1).1))) ∧
  (∀ (s : Machine.State) (u n x q : Nat), (s.core (u / 4)).req = some (x, q) → s.missing x u = some n →
    let v := s.victimBank u x ((s.core (u / 4)).active.getD 1024) (1 - n)
    (s.bankBusy u v = true → Machine.exec (.accumulatorBankMove u) s = .next s) ∧
    (s.bankBusy u v = false → ∃ t, Machine.exec (.accumulatorBankMove u) s = .next t ∧ t.inBank x u n = true ∧
      (if v then (t.banksOf u).1 = (s.banksOf u).1 else (t.banksOf u).2 = (s.banksOf u).2) ∧ t.spad = s.spad ∧ t.waves = s.waves ∧
      t.threads = s.threads))

/-! ### Tensor engine, experts and the debug window -/

/-- TXF, TXFC and TXFS at issue (R203 to R206, R210, R211): where the stream and the flag have room and nothing holds back the
reading of the records, a failed check traps, a fault of a record or of a page is the instruction's, more than 1,024 pages trap,
and otherwise a TXF or TXFC takes the next number of its stream, joins it with what it has read, gives the number to `dst` and
raises its flag; beyond what reading the records does, no byte changes. A full stream waits. TXFS reads the stream's status, and
CLR also clears it. The order of the checks, the waits for an access that holds a record, for a full counter and for the budgets of the
walks are the model's readings (log entries 22, 28, 30, 54). -/
def Obligations.TensorCommandsIssue : Prop :=
  (∀ (f : EF) (s : Machine.State) (ag : Agent), Ready s ag (.txf f) → s.banked ag →
    let fn := f.fn.toNat
    let sums := f.aux.getLsbD 3
    let key := s.streamOf ag f
    let par : W64 := match f.sc with | .lit w => w | o => s.reg ag o true
    let sva := (s.reg ag f.sa true).toNat
    let dva := (s.reg ag f.sb true).toNat
    let waits := 16 ≤ (s.stream key).cmds.length ∨ s.recordHeld ag sva = true ∨ s.recordHeld ag dva = true ∨
      s.countRoom ag (s.flagFor ag f.fs) false false = false
    let r1 := s.readRecord ag sva
    let r2 := r1.2.readRecord ag dva
    let bad := pickCause (s.txfFaults ag fn sums par r1.1 r2.1)
    let lost := pickCause (r1.1.faults ++ r2.1.faults)
    (waits → Machine.exec (.txf f) s = .next s.stall) ∧
    (¬waits → ∀ c x, bad = some (c, x) → Machine.exec (.txf f) s = .next (r2.2.trap ag c none 0 x)) ∧
    (¬waits → bad = none → ∀ c va, lost = some (c, va) → Machine.exec (.txf f) s = .next (r2.2.faultHere ag c none va 0)) ∧
    (¬waits → bad = none → ∀ w v, r1.1 = .words w → r2.1 = .words v →
      let a := layoutOf w
      let b := layoutOf v
      let idx := s.indexList ag fn (fld par 63 32) (listRows fn (some a) (some b)).1
      let its := (List.range (txfItems fn b idx)).map (txfItem fn b idx)
      let vas := vaddrs a (its.filterMap (·.2)) (usesScales fn) false ++ vaddrs b (its.map (·.1)) (decide (fn = 3)) true
      let pin := s.pinAll (engTlb (s.clusterOf ag)) (s.ctxOf ag) vas
      let later := s.pinHeld (engTlb (s.clusterOf ag)) (s.ctxOf ag) vas
      let t0 := r2.2.listItems ag (fld par 63 32) idx.length
      (∀ c va, pickCause pin.errs = some (c, va) → Machine.exec (.txf f) s = .next (r2.2.faultHere ag c none va 0)) ∧
      (pickCause pin.errs = none → 1024 < pin.dist.length → Machine.exec (.txf f) s = .next (r2.2.trap ag 0x16 none 0 0)) ∧
      (pickCause pin.errs = none → pin.dist.length ≤ 1024 → later = true → Machine.exec (.txf f) s = .next s.stall) ∧
      (pickCause pin.errs = none → pin.dist.length ≤ 1024 → later = false →
        ∃ t m, Machine.exec (.txf f) s = .next t ∧
          t.stream key = { s.stream key with last := (s.stream key).last + 1, cmds := (s.stream key).cmds ++ [m] } ∧
          m.num = (s.stream key).last + 1 ∧ m.n = t0.fresh ∧ m.txfc = false ∧ m.fn = fn ∧ m.rm = f.aux.toNat % 4 ∧
          m.sat = f.aux.getLsbD 2 ∧ m.sums = sums ∧ m.par = par ∧ m.idx = idx ∧ m.srec = w ∧ m.drec = v ∧ m.cursor = 0 ∧
          m.ag = ag ∧ m.seat = s.seat ag ∧ m.launch = s.launchOf ag ∧ m.flag = s.flagFor ag f.fs ∧ m.pages = pin.pages ∧
          m.bypass = pin.bypass ∧ m.total = (txfItems fn b idx * b.fmt.width + 7) / 8 ∧
          (f.dst ≠ .none → t.reg ag f.dst true = BitVec.ofNat 64 ((s.stream key).last + 1)) ∧
          (∀ n, n < 12 → (t.countsOf ag).1.toList.getD n 0 =
            (s.countsOf ag).1.toList.getD n 0 + (if s.flagFor ag f.fs = some n then 1 else 0)) ∧
          Underway ag { t0 with eng := t.eng } t (dstRegs ag f.dst true) ∧ After s t ag (nSlots [f.sc])))) ∧
  (∀ (i : Instr) (f : EF) (prod : Bool) (s : Machine.State) (ag : Agent), Ready s ag i → s.banked ag →
    i = (if prod then .txfcProd f else .txfcCons f) →
    let key := s.streamOf ag f
    let va := (s.reg ag f.sa true).toNat
    let cb := (s.reg ag f.sb false).toNat
    let waits := 16 ≤ (s.stream key).cmds.length ∨ s.recordHeld ag va = true ∨ s.countRoom ag (s.flagFor ag f.fs) false false = false
    let r := s.readRecord ag va
    let bad := pickCause (s.txfcFaults ag cb ++ s.recordFaults ag r.1)
    (waits → Machine.exec i s = .next s.stall) ∧
    (¬waits → ∀ c x, bad = some (c, x) → Machine.exec i s = .next (r.2.trap ag c none 0 x)) ∧
    (¬waits → bad = none → ∀ c x, r.1 = .fault c x → Machine.exec i s = .next (r.2.faultHere ag c none x 0)) ∧
    (¬waits → bad = none → ∀ w, r.1 = .words w →
      let l := layoutOf w
      let vas := vaddrs l (List.range l.count) false (!prod)
      let pin := s.pinAll (engTlb (s.clusterOf ag)) (s.ctxOf ag) vas
      let later := s.pinHeld (engTlb (s.clusterOf ag)) (s.ctxOf ag) vas
      (∀ c x, pickCause pin.errs = some (c, x) → Machine.exec i s = .next (r.2.faultHere ag c none x 0)) ∧
      (pickCause pin.errs = none → 1024 < pin.dist.length → Machine.exec i s = .next (r.2.trap ag 0x16 none 0 0)) ∧
      (pickCause pin.errs = none → pin.dist.length ≤ 1024 → later = true → Machine.exec i s = .next s.stall) ∧
      (pickCause pin.errs = none → pin.dist.length ≤ 1024 → later = false →
        ∃ t m, Machine.exec i s = .next t ∧
          t.stream key = { s.stream key with last := (s.stream key).last + 1, cmds := (s.stream key).cmds ++ [m] } ∧
          m.num = (s.stream key).last + 1 ∧ m.n = r.2.fresh ∧ m.txfc = true ∧ m.cbaddr = BitVec.ofNat 32 cb ∧
          (if prod then m.srec = w else m.drec = w) ∧ m.cursor = 0 ∧ m.ag = ag ∧ m.seat = s.seat ag ∧ m.launch = s.launchOf ag ∧
          m.flag = s.flagFor ag f.fs ∧ m.pages = pin.pages ∧ m.bypass = pin.bypass ∧ m.total = (l.count * l.fmt.width + 7) / 8 ∧
          (f.dst ≠ .none → t.reg ag f.dst true = BitVec.ofNat 64 ((s.stream key).last + 1)) ∧
          Underway ag { r.2 with eng := t.eng } t (dstRegs ag f.dst true) ∧ After s t ag (nSlots [f.sc])))) ∧
  (∀ (f : EF) (s : Machine.State) (ag : Agent),
    let key := s.streamOf ag f
    (Ready s ag (.txfsRd f) → ∃ t, Machine.exec (.txfsRd f) s = .next t ∧ t.reg ag f.dst true = (s.stream key).status ∧
      Kept ag s t (dstRegs ag f.dst true) [] false false ∧ After s t ag 1) ∧
    (Ready s ag (.txfsClr f) → ∃ t, Machine.exec (.txfsClr f) s = .next t ∧ t.reg ag f.dst true = (s.stream key).status ∧
      t.stream key = { s.stream key with status := 0 } ∧
      Kept ag { s with eng := t.eng } t (dstRegs ag f.dst true) [] false false ∧ After s t ag 1))

/-- The tensor engine at work (R207, R209, R210), where no L1 holds a line: a burst of a TXF waits for its agent's earlier
accesses and for the budgets; one whose access fails (R209) writes nothing but the record of
the failure, and is counted in the stream's status; any other, with its places in this device, takes each of its elements to the
place that the transform gives it, the later of two at one place standing, MXQUANT with the scale of each block, writes no other
byte and moves the cursor. A command that has written all its bytes writes its sums, makes its arrival, its number is reached and
its flag falls. A piece of a TXFC waits for its slot, takes and gives it back, and its bytes are the elements it carries; one
whose descriptor is invalid ends the command as failed. What a failed place leaves and the
waits for the budgets are the model's readings (log entries 30, 54). -/
def Obligations.TensorEngineWorks : Prop :=
  (∀ (s : Machine.State) (x c st : Nat) (m : TxfCmd), s.txfHead x c st = some m → m.txfc = false → s.path.l1 = [] →
    let key := streamKey x c st
    let a := layoutOf m.srec
    let b := layoutOf m.drec
    let w := b.fmt.width
    let all := (List.range (txfItems m.fn b m.idx)).map (txfItem m.fn b m.idx)
    let its := (all.drop (m.cursor * 8 / w)).take (2048 / w)
    let reads := m.readPlaces c its
    let writes := m.writePlaces c its
    let next := (s.stream key).setHead { m with cursor := m.cursor + (its.length * w + 7) / 8 }
    its ≠ [] →
    (s.before m (reads ++ writes) = true ∨ s.placesHeld x reads writes = true → Machine.exec (.txfBurst x c st) s = .next s) ∧
    (s.before m (reads ++ writes) = false → s.placesHeld x reads writes = false →
      (∀ k p, s.moveFault c reads writes = some (k, p) →
        ∃ r, Machine.exec (.txfBurst x c st) s =
            .next ((r.itemFailed x m.launch k p.toNat m.num (m.cursor / 256) (key / 4 % 40) 0xFF).bumpFree 1) ∧
          SameBytes s r ∧ r.stream key = next.fail m.num k 1 ∧ r.waves = s.waves ∧ r.threads = s.threads) ∧
      (s.moveFault c reads writes = none →
        (∀ e ∈ its, ∀ h k, m.cell c b e.1 = some (h, k) → b.spc = true ∨
          ∃ pa, h = .mem pa ∧ ∀ i, i < b.bytes → s.barred true (pa + i) = false) →
        let got := s.burstGot m c its (s.free + 1)
        let codes := (txfCodes m a b got).1
        let value (e : Option (Nat × Option Nat)) : FV := match e with
          | some (x, sc) => if a.mx then mxValue a.fmt x sc else a.fmt.value x
          | none => .fin false 0 0
        let block (j : Nat) := quantise b.fmt m.rm (((got.drop (32 * j)).take 32).map value)
        let scale (j : Nat) : Option Home := m.home c b.spc (b.scaleAt ((its.getD (32 * j) (0, none)).1))
        let blocks := if m.fn = 3 then its.length / 32 else 0
        (∀ j h, j < blocks → scale j = some h → b.spc = true ∨ ∃ pa, h = .mem pa ∧ s.barred true pa = false) →
        (∀ j h e g k, j < blocks → scale j = some h → e ∈ its → m.cell c b e.1 = some (g, k) → h.meets 1 g b.bytes = false) →
        ∃ t, Machine.exec (.txfBurst x c st) s = .next t ∧ t.stream key = next ∧ t.waves = s.waves ∧ t.threads = s.threads ∧
          (∀ j e h k, its[j]? = some e → m.cell c b e.1 = some (h, k) → (∀ i d, j < i → its[i]? = some d → d.1 ≠ e.1) →
            m.clash c b (all.map (·.1)) (m.readRanges c) e.1 = false →
            t.codeAt b h k = codes.getD j 0 % 2 ^ w ∧
            (m.fn = 3 → j / 32 < blocks → t.codeAt b h k = (block (j / 32)).2.getD (j % 32) 0 % 2 ^ w)) ∧
          (∀ j h, j < blocks → scale j = some h → (∀ i g, i < blocks → i ≠ j → scale i = some g → h.meets 1 g 1 = false) →
            t.bytesAt h 1 = [BitVec.ofNat 8 (block j).1]) ∧
          (∀ pad y, (∀ e ∈ its, ∀ h k, m.cell c b e.1 = some (h, k) → ¬h.holds b.bytes pad y) →
            (∀ j h, j < blocks → scale j = some h → ¬h.holds 1 pad y) → t.byte pad y = s.byte pad y)))) ∧
  (∀ (s : Machine.State) (x c st : Nat) (m : TxfCmd), s.txfHead x c st = some m → m.total ≤ m.cursor →
    let key := streamKey x c st
    let b := layoutOf m.drec
    let next := { s.stream key with done := max (s.stream key).done m.num, cmds := (s.stream key).cmds.drop 1 }
    (s.txfFar key m = true → Machine.exec (.txfCommandComplete x c st) s = .next s) ∧
    (s.txfFar key m = false → s.banked m.ag → s.here m.ag m.seat = true →
      let bo := m.home c true ((fld m.par 31 4 * 16 : Nat) : Int)
      let summed := m.sums = true ∧ m.txfc = false
      ∃ t, Machine.exec (.txfCommandComplete x c st) s = .next t ∧
        (∀ n, n < 12 → (t.countsOf m.ag).1.toList.getD n 0 =
          (s.countsOf m.ag).1.toList.getD n 0 - (if m.flag = some n then 1 else 0)) ∧
        (bitAt m.par 0 = false → t.stream key = next) ∧
        (bitAt m.par 0 = false → ¬summed → SameBytes s t) ∧
        (∀ h o, bitAt m.par 0 = true → ¬summed → bo = some h → s.barObj h = some o → t.stream key = next ∧
          t.mem = (s.putBarObj h (o.arrive 1)).mem ∧ t.spad = (s.putBarObj h (o.arrive 1)).spad) ∧
        (bitAt m.par 0 = true → ¬summed → (∀ h, bo = some h → s.barObj h = none) → t.stream key = next.fail m.num 0x0D 1 ∧
          t.spad = s.spad) ∧
        (bitAt m.par 0 = false → summed →
          let place (k : Nat) : Option Home := m.home c true ((fld m.par 63 32 + 4 * k : Nat) : Int)
          let value (n : Nat) : FV := s.writtenValue m c b n (s.free + 2 * n)
          let sum (l : List Nat) : Nat := ((ffmt .f32).round .even false (sumFV (l.map value))).1
          let alone (k : Nat) (h : Home) : Prop := ∀ i g, i < b.rows + b.d0.size → i ≠ k → place i = some g → h.meets 4 g 4 = false
          (∀ j h, j < b.rows → place j = some h → alone j h →
            t.bytesAt h 4 = leBytes 4 (sum ((List.range b.d0.size).map (fun i => b.d0.size * j + i)))) ∧
          (∀ i h, i < b.d0.size → place (b.rows + i) = some h → alone (b.rows + i) h →
            t.bytesAt h 4 = leBytes 4 (sum ((List.range b.rows).map (fun j => b.d0.size * j + i)))) ∧
          (∀ pad y, (∀ k h, k < b.rows + b.d0.size → place k = some h → ¬h.holds 4 pad y) → t.byte pad y = s.byte pad y)))) ∧
  (∀ (s : Machine.State) (x c st : Nat) (m : TxfCmd), s.txfHead x c st = some m → m.txfc = true → m.cursor < m.total →
    (∀ hd, m.home c true (m.cbaddr.toNat : Int) = some hd → s.cirBuf hd = none) →
    let key := streamKey x c st
    ∃ r, Machine.exec (.txfcPiece x c st) s = .next (r.itemFailed x m.launch 0x3A m.cbaddr.toNat m.num 0 (key / 4 % 40) 0xFF) ∧
      SameBytes s r ∧ r.stream key = ((s.stream key).setHead { m with cursor := m.total }).fail m.num 0x3A 1 ∧
      r.waves = s.waves ∧ r.threads = s.threads) ∧
  (∀ (s : Machine.State) (x c st : Nat) (m : TxfCmd) (hd : Home) (cb : CirBuf), s.txfHead x c st = some m → m.txfc = true →
    m.cursor < m.total → s.path.l1 = [] → m.home c true (m.cbaddr.toNat : Int) = some hd → s.cirBuf hd = some cb →
    let prod := decide (m.fn = 0)
    let l := layoutOf (if prod then m.srec else m.drec)
    let w := l.fmt.width
    let key := streamKey x c st
    (cb.acquire prod = none → Machine.exec (.txfcPiece x c st) s = .next s) ∧
    (∀ slot c1 c2, cb.acquire prod = some (slot, c1) → c1.release prod = some c2 →
      let len := min cb.ssize (m.total - m.cursor)
      let base := (cb.base + slot * cb.ssize) % 2 ^ 32
      let from_ := m.cursor * 8 / w
      let ns := (List.range (min l.count ((m.cursor + len) * 8 / w) - from_)).map (fun k => from_ + k)
      let elems := ns.filterMap (m.place c l)
      let cells := m.slotPlaces c base len
      let reads := if prod then elems else cells
      let writes := if prod then cells else elems
      let next := (s.stream key).setHead { m with cursor := m.cursor + len }
      (s.before m (reads ++ writes) = true ∨ s.placesHeld x reads writes = true → Machine.exec (.txfcPiece x c st) s = .next s) ∧
      (s.before m (reads ++ writes) = false → s.placesHeld x reads writes = false →
        (∀ k p, s.moveFault c reads writes = some (k, p) →
          ∃ r, Machine.exec (.txfcPiece x c st) s =
              .next (((r.itemFailed x m.launch k p.toNat m.num (m.cursor / cb.ssize) (key / 4 % 40) 0xFF).bumpFree 1).putCirBuf hd c2) ∧
            SameBytes s r ∧ r.stream key = next.fail m.num k 1 ∧ r.waves = s.waves ∧ r.threads = s.threads) ∧
        (s.moveFault c reads writes = none →
          ∀ o, (∀ k, k < len → m.home c true ((base + k : Nat) : Int) = some (.spad c (o + k))) → (Home.spad c o).meets len hd 32 = false →
          (prod = true → ∃ t, Machine.exec (.txfcPiece x c st) s = .next t ∧ t.stream key = next ∧ t.mem = s.mem ∧
            t.waves = s.waves ∧ t.threads = s.threads ∧ t.cirBuf hd = some c2 ∧
            t.bytesAt (.spad c o) len = s.prodBytes m c base len (s.free + 1) ∧
            (m.cursor * 8 % w = 0 → (∀ g ∈ m.tensorRanges c, (Home.spad c o).meets len g.1 g.2 = false) →
              t.bytesAt (.spad c o) len = leBytes len (ofElems w (ns.mapIdx (fun k n => s.srcCode m c l n (s.free + 1 + 2 * k))))) ∧
            (∀ y, ¬(Home.spad c o).holds len true y → ¬hd.holds 32 true y → Memory.get t.spad y = Memory.get s.spad y)) ∧
          (prod = false → (∀ n ∈ ns, ∀ h k, m.cell c l n = some (h, k) → (l.spc = true ∨
              ∃ pa, h = .mem pa ∧ ∀ i, i < l.bytes → s.barred true (pa + i) = false) ∧ h.meets l.bytes hd 32 = false) →
            let bytes := s.bytesAt (.spad c o) len
            ∃ t, Machine.exec (.txfcPiece x c st) s = .next t ∧ t.stream key = next ∧ t.waves = s.waves ∧ t.threads = s.threads ∧
              t.cirBuf hd = some c2 ∧
              (∀ j n h k, ns[j]? = some n → j < (codesOf w bytes).length → m.cell c l n = some (h, k) →
                m.clash c l (List.range l.count) (m.slotRanges c cb) n = false →
                t.codeAt l h k = (codesOf w bytes).getD j 0 % 2 ^ w) ∧
              (∀ pad y, (∀ n ∈ ns, ∀ h k, m.cell c l n = some (h, k) → ¬h.holds l.bytes pad y) → ¬hd.holds 32 pad y →
                t.byte pad y = s.byte pad y)))))) ∧
  (∀ (s : Machine.State) (x c st : Nat), s.txfHead x c st = none →
    Machine.exec (.txfBurst x c st) s = .next s ∧ Machine.exec (.txfCommandComplete x c st) s = .next s ∧
      Machine.exec (.txfcPiece x c st) s = .next s)

/-- TNEXT, TQADD and PARK (R214, R216, R301, R304, R305): an invalid block, counter or entry traps; TNEXT gives the entry that
R305 picks and takes it from its ring, gives zeros at the end of the tape, and else waits (the waits for an earlier acquire or access
of the thread: log entry 28). TQADD appends where its ring has
room and says so. PARK of an entry whose expert is resident appends it to the routed ring; else the entry takes a place and
the expert's queue is one longer, and a fetch begins where the expert is absent. Readings of the checks of entries stand in
log entry 31. -/
def Obligations.TapesAndQueues : Prop :=
  ∀ (f : EF) (s : Machine.State) (c k : Nat),
    let ag : Agent := .thread c k
    let u := s.l1Sync ag
    let l := s.launchOf ag
    let e := s.qPairOf ag f.sb
    let b := (s.reg ag f.sa false).toNat
    (Ready s ag (.tnext f) → (s.acquiring ag = true → Machine.exec (.tnext f) s = .next s.stall) ∧ (s.acquiring ag = false →
      (∀ z a, s.blockOf ag f.sa = .error (z, a) → Machine.exec (.tnext f) s = .next (s.trap ag z none 0 a)) ∧
      (∀ h q, s.blockOf ag f.sa = .ok (h, q) →
        (s.tape l c q = .bad → Machine.exec (.tnext f) s = .next (s.trap ag 0x0D none 0 0)) ∧
        (s.tape l c q = .wait → Machine.exec (.tnext f) s = .next s.stall) ∧
        (∀ n : Fin 32, f.dst = .q n → n.val % 2 = 0 →
          (s.tape l c q = .ended → ∃ t, Machine.exec (.tnext f) s = .next t ∧ (t.thread c k).getQ n.val = 0 ∧
            (t.thread c k).getQ (n.val + 1) = 0 ∧ Kept ag u t [n.val, n.val + 1] [] false false ∧ After s t ag 1) ∧
          (∀ j, s.tape l c q = .take false j → ∃ t, Machine.exec (.tnext f) s = .next t ∧
            (t.thread c k).getQ n.val = (s.entryAt l c (q.sh.at j)).1 ∧ (t.thread c k).getQ (n.val + 1) = (s.entryAt l c (q.sh.at j)).2 ∧
            t.spad = (u.takeEntry l c h q false j).spad ∧ Kept ag { u with spad := t.spad } t [n.val, n.val + 1] [] false false ∧
            After s t ag 1) ∧
          (∀ j, s.tape l c q = .take true j → ∃ t, Machine.exec (.tnext f) s = .next t ∧
            (t.thread c k).getQ n.val = (s.entryAt l c (q.rt.at j)).1 ∧ (t.thread c k).getQ (n.val + 1) = (s.entryAt l c (q.rt.at j)).2 ∧
            t.spad = ((u.takeEntry l c h q true j).releaseAll (s.ctxOf ag)).spad ∧ After s t ag 1))))) ∧
    (∀ (i : Instr) (routed : Bool), Ready s ag i → i = (if routed then .tqaddRt f else .tqaddSh f) →
      (s.acquiring ag = true → Machine.exec i s = .next s.stall) ∧ (s.acquiring ag = false →
      (∀ z a, s.blockOf ag f.sa = .error (z, a) → Machine.exec i s = .next (s.trap ag z none 0 a)) ∧
      (∀ h q, s.blockOf ag f.sa = .ok (h, q) →
        (tapeBad q e routed = true → Machine.exec i s = .next (s.trap ag 0x17 none 0 0)) ∧
        (tapeBad q e routed = false → (if routed then q.rt else q.sh).cnt = (if routed then q.rt else q.sh).cap →
          ∃ t, Machine.exec i s = .next t ∧ (f.dst ≠ .none → t.reg ag f.dst true = 0) ∧
            Kept ag s t (dstRegs ag f.dst true) [] false false ∧ After s t ag 1) ∧
        (tapeBad q e routed = false → (if routed then q.rt else q.sh).cnt ≠ (if routed then q.rt else q.sh).cap →
          ∃ t, Machine.exec i s = .next t ∧ (f.dst ≠ .none → t.reg ag f.dst true = 1) ∧ t.spad = (s.append l c h q routed e).spad ∧
            Kept ag { s with spad := t.spad } t (dstRegs ag f.dst true) [] false false ∧ After s t ag 1)))) ∧
    (Ready s ag (.park f) → (u.expertHeld ag (fld e.1 19 8) = true → Machine.exec (.park f) s = .next s.stall) ∧
      (u.expertHeld ag (fld e.1 19 8) = false →
      (∀ z a, u.blockOf ag f.sa = .error (z, a) → Machine.exec (.park f) s = .next (u.trap ag z none 0 a)) ∧
      (∀ h q, u.blockOf ag f.sa = .ok (h, q) →
        ((tapeBad q e true = true ∨ u.expert (s.ctxOf ag) (fld e.1 19 8) = none) →
          Machine.exec (.park f) s = .next (u.trap ag 0x17 none 0 0)) ∧
        (∀ a w, tapeBad q e true = false → u.expert (s.ctxOf ag) (fld e.1 19 8) = some (a, w) →
          let here := (ertState w = 2 ∨ ertState w = 3) ∧ q.rt.cnt < q.rt.cap
          (here → ∃ t, Machine.exec (.park f) s = .next t ∧ (f.dst ≠ .none → t.reg ag f.dst true = 1) ∧
            t.spad = (u.append l c h q true e).spad ∧ Kept ag { u with spad := t.spad } t (dstRegs ag f.dst true) [] false false ∧
            After s t ag 1) ∧
          (¬here → u.parkPlace (s.ctxOf ag) c = none → Machine.exec (.park f) s = .next s.stall) ∧
          (∀ p, ¬here → u.parkPlace (s.ctxOf ag) c = some p →
            let s1 := u.parkEntry (s.ctxOf ag) l c k b a h q p e
            fld (Memory.w64 s1.mem (a + 32)) 63 32 = (fld (Memory.w64 u.mem (a + 32)) 63 32 + 1) % 2 ^ 32 ∧
            Memory.w64 s1.mem (a + 48) = p ∧
            ∃ t, Machine.exec (.park f) s = .next t ∧ (f.dst ≠ .none → t.reg ag f.dst true = 0) ∧ After s t ag 1 ∧
              (ertState w ≠ 0 → t.mem = s1.mem ∧ t.eng = s1.eng) ∧
              (ertState w = 0 → t.mem = (s1.beginFetch (s.ctxOf ag) (fld e.1 19 8) c).mem ∧
                t.eng = (s1.beginFetch (s.ctxOf ag) (fld e.1 19 8) c).eng))))))

/-- ERQ, ERPIN and ERUNPIN (R213, R215), and the steps of a fetch and an eviction (R298, R299, R302): an id that names no entry
traps; else the result is the word of Table 16-6 of the entry after the instruction. ACQ of a resident or pinned entry
counts a use and REL gives one back; ERPIN pins a resident entry, or marks a fetching one, and ERUNPIN makes a pinned one
resident; ACQ and ERPIN of an absent entry begin a fetch. A fetch copies its bytes page by page, and once they are whole its entry
becomes resident, or pinned where that was asked; a failed one leaves it absent with its cause; an evicting entry that nothing uses
becomes absent. Readings of the fetch and its failure stand in log entry 31, those of EXPEVICT in log entry 20, and the waits for an
earlier access that holds the entry in log entry 28. -/
def Obligations.ExpertResidency : Prop :=
  (∀ (i : Instr) (f : EF) (s : Machine.State) (c k : Nat), Ready s (.thread c k) i →
    (i = .erqQry f ∨ i = .erqAcq f ∨ i = .erqRel f ∨ i = .erpin f ∨ i = .erunpin f) →
    let ag : Agent := .thread c k
    let id := s.expertId ag f.sa
    let x := s.ctxOf ag
    let v := s.l1Sync ag
    (v.expertHeld ag id = true → Machine.exec i s = .next s.stall) ∧
    (v.expertHeld ag id = false → (4096 ≤ id ∨ v.expert x id = none) → Machine.exec i s = .next (v.trap ag 0x17 none 0 0)) ∧
    (∀ a w, v.expertHeld ag id = false → id < 4096 → v.expert x id = some (a, w) →
      let w0 := wordAt w 0
      let st := ertState w
      let uses := fld w0 31 0
      let absent : Prop := st = 0 ∧ ((∃ g, i = .erqAcq g) ∨ (∃ g, i = .erpin g))
      ∃ t acq, Machine.exec i s = .next t ∧ After s t ag (nSlots [f.sa]) ∧
        t.reg ag f.dst true = BitVec.ofNat 64 (ertReport (Memory.w64 t.mem a) acq) ∧
        (∀ n, n ∉ dstRegs ag f.dst true → (t.thread c k).getQ n = (s.thread c k).getQ n) ∧
        (acq = true ↔ ((∃ g, i = .erqAcq g) ∧ (st = 2 ∨ st = 3))) ∧
        (s.eng.evicts = [] → t.spad = s.spad ∧ t.waves = s.waves ∧ ∀ y, (y < a ∨ a + 8 ≤ y) → Memory.get t.mem y = Memory.get v.mem y) ∧
        (s.eng.evicts = [] → ¬absent → t.eng = s.eng ∧
          Memory.w64 t.mem a =
            (match i with
              | .erqAcq _ => if st = 2 ∨ st = 3 then withFld w0 31 0 (uses + 1) else w0
              | .erqRel _ => if uses = 0 then w0 else withFld w0 31 0 (uses - 1)
              | .erpin _ => if st = 2 then withFld w0 63 61 3 else if st = 1 then withFld w0 60 60 1 else w0
              | .erunpin _ => if st = 3 then withFld w0 63 61 2 else w0
              | _ => w0)) ∧
        (s.eng.evicts = [] → absent → fld (Memory.w64 t.mem a) 63 61 = 1 ∧ ((∃ g, i = .erpin g) → bitAt (Memory.w64 t.mem a) 60 = true) ∧
          ∃ e, t.eng.fetches = s.eng.fetches ++ [e] ∧ e.ctx = x ∧ e.x = id ∧ e.cluster = c ∧
            e.running = decide (s.fetchesOf x < 16) ∧ e.kind = fld (wordAt w 1) 63 62 ∧ e.bpa = fld (wordAt w 1) 51 0 ∧
            (e.rva, e.blen) = ertRange w ∧
            e.copied = 0 ∧ (s.backingOk e.kind e.bpa e.blen = false → e.bad = some (5, e.bpa))))) ∧
  (∀ (s : Machine.State) (x id : Nat) (e : Fetch) (a : Nat), s.fetchOf x id = some e → s.ertAddr x id = some a →
    let w0 := Memory.w64 s.mem a
    let n := min 4096 (e.blen - e.copied)
    let stopped := s.fetchRevoked e = true ∨ s.badBytes (s.fetchSrc e) n = true ∨ s.severed e.cluster (s.fetchSrc e) = true ∨
      s.copyHeld e n = true
    (∀ src pa, e.running = true → e.bad = none → e.copied < e.blen → ¬stopped → s.fetchSrc e = .mem src → e.dest = some (.mem pa) →
      s.severed e.cluster (.mem pa) = false → (∀ y, y < n → s.barred true (pa + y) = false) →
      ∃ t, Machine.exec (.expertFetchComplete x id) s = .next t ∧
        t.eng.fetches = s.eng.fetches.map (fun g => if g = e then { e with copied := e.copied + n } else g) ∧
        (∀ y, y < n → Memory.get t.mem (pa + y) = Memory.get s.mem (src + y)) ∧
        (∀ y, (y < pa ∨ pa + n ≤ y) → Memory.get t.mem y = Memory.get s.mem y) ∧ t.spad = s.spad ∧ t.waves = s.waves ∧
        t.threads = s.threads) ∧
    (e.running = true → e.bad = none → e.blen ≤ e.copied → s.fetchFar e = false → fld (Memory.w64 s.mem (a + 32)) 63 32 = 0 →
      ∃ t, Machine.exec (.expertFetchComplete x id) s = .next t ∧ t.eng.fetches = s.eng.fetches.erase e ∧
        Memory.w64 t.mem a = withFld (withFld (withFld w0 63 61 (if bitAt w0 60 then 3 else 2)) 60 60 0) 59 56 0 ∧
        Memory.w64 t.mem (a + 56) = Memory.w64 s.mem (a + 56) + 1 ∧ t.spad = s.spad ∧ t.waves = s.waves ∧ t.threads = s.threads ∧
        (∀ y, (y < a ∨ a + 8 ≤ y) → (y < a + 56 ∨ a + 64 ≤ y) → Memory.get t.mem y = Memory.get s.mem y)) ∧
    ((e.running = false ∨ e.bad ≠ none ∨ (e.copied < e.blen ∧ stopped) ∨ (e.blen ≤ e.copied ∧ s.fetchFar e = true)) →
      Machine.exec (.expertFetchComplete x id) s = .next s) ∧
    (∀ code addr n cause, e.running = true → e.bad = some (code, addr) →
      ∃ r : Machine.State, Machine.exec (.expertFetchFail x id n cause) s = .next (r.sendRecord (r.boxOf e.ctx) 2 (faultWords 2 0x36 e.ctx 0
          ⟨BitVec.ofNat 64 addr, BitVec.ofNat 64 e.x, BitVec.ofNat 64 code, 0⟩ 0xFFFF e.cluster 0xFF r.selfDev)) ∧
        r.eng.fetches = s.eng.fetches.erase e ∧ Memory.w64 r.mem a = withFld (withFld w0 63 61 0) 59 56 code ∧
        (∀ y, (y < a ∨ a + 8 ≤ y) → Memory.get r.mem y = Memory.get s.mem y) ∧ r.spad = s.spad ∧ r.waves = s.waves ∧
        r.threads = s.threads) ∧
    (e.running = false → s.fetchesOf x < 16 →
      Machine.exec (.expertFetchStart x id) s = .next { s with eng := { s.eng with
        fetches := s.eng.fetches.map (fun g => if g = e then { g with running := true } else g) } }) ∧
    ((e.running = true ∨ 16 ≤ s.fetchesOf x) → Machine.exec (.expertFetchStart x id) s = .next s)) ∧
  (∀ (s : Machine.State) (x id a : Nat), s.ertAddr x id = some a →
    let w := Memory.words s.mem a 8
    let r := ertRange w
    let may := ertState w = 4 ∧ fld (wordAt w 0) 31 0 = 0 ∧ s.pinned x r.1 r.2 = false
    (¬may → Machine.exec (.expertEvictComplete x id) s = .next s) ∧
    (may → fld (wordAt w 4) 63 32 = 0 →
      ∃ t, Machine.exec (.expertEvictComplete x id) s = .next t ∧ Memory.w64 t.mem a = withFld (wordAt w 0) 63 61 0 ∧
        (∀ e ∈ t.path.tlb, ¬(e.ctx = x ∧ r.1 < e.vpn * 4096 + 4096 ∧ e.vpn * 4096 < r.1 + r.2)) ∧
        (∀ y, (y < a ∨ a + 8 ≤ y) → Memory.get t.mem y = Memory.get s.mem y) ∧ t.spad = s.spad ∧ t.waves = s.waves ∧
        t.threads = s.threads ∧ t.eng = s.eng))

/-- The debug window, HALT and PGMAP (R220, R221, R225, R226, R316, R317): a handle that names no wave stopped for the thread
traps, and one of a switched-out workgroup waits. DWRD gives the selected register of the stopped wave and DWWR changes it, with
what R38 and R43 make of a slot that it leaves Empty;
RESUME and STEP let it issue, STEP for one instruction; KILL ends it. HALT of a wave whose other path runs leaves that one
running; of a thread with workgroups it leaves the thread halted. PGMAP gives 1 for a present page and 0 with the leaf made
present over a frame of zeros for a first-touch one, and traps for any other. Readings of the debug window and of HALT stand
in log entries 32 and 46, and those of PGMAP's waits in log entry 28. -/
def Obligations.DebugAndSystem : Prop :=
  (∀ (i : Instr) (f : SF) (s : Machine.State) (ag : Agent), Ready s ag i →
    (i = .dwrd f ∨ i = .dwwr f ∨ i = .dwresResume f ∨ i = .dwresKill f ∨ i = .dwstep f) →
    (s.stoppedWave ag (s.reg ag f.sa true) = none → Machine.exec i s = .next (s.trap ag 0x18 none 0 0)) ∧
    (∀ w v, s.stoppedWave ag (s.reg ag f.sa true) = some (w, v) → s.waveOut v = true → Machine.exec i s = .next s.stall)) ∧
  (∀ (f : SF) (s : Machine.State) (c k w : Nat) (v : Wave), s.stoppedWave (.thread c k) (s.reg (.thread c k) f.sa true) = some (w, v) →
    s.waveOut v = false →
    let ag : Agent := .thread c k
    let cls := f.fn.toNat
    let sel := f.imm.toNat
    let lane := s.laneOp ag f
    let y : W64 := BitVec.ofNat 64 (s.srcBits ag 64 f.imm f.sc)
    (Ready s ag (.dwrd f) →
      (s.debugRead w v cls sel lane = none → Machine.exec (.dwrd f) s = .next (s.trap ag 0x18 none 0 0)) ∧
      (∀ z, s.debugRead w v cls sel lane = some z → ∃ t, Machine.exec (.dwrd f) s = .next t ∧
        (f.dst ≠ .none → t.reg ag f.dst true = BitVec.ofNat 64 z) ∧ Kept ag s t (dstRegs ag f.dst true) [] false false ∧
        After s t ag (nSlots [f.sb]))) ∧
    (Ready s ag (.dwwr f) →
      (debugWrite v cls sel lane y = none → Machine.exec (.dwwr f) s = .next (s.trap ag 0x18 none 0 0)) ∧
      (∀ u, debugWrite v cls sel lane y = some u → v.newlyEmpty u = none → u.ended = true → Machine.exec (.dwwr f) s =
        .next ((((s.setWave w { u with stop := .run, dlv := false, step := false }).dropReserve w).reap u.wg).retire
          (nSlots [f.sb, f.sc]) .none)) ∧
      (∀ u alt, debugWrite v cls sel lane y = some u → v.newlyEmpty u = some alt →
        (s.popInto w u alt 3 = .wait → Machine.exec (.dwwr f) s = .next s.stall) ∧
        (∀ t0 x, s.popInto w u alt 3 = .ok (t0, x) → x.ended = false →
          Machine.exec (.dwwr f) s = .next ((t0.setWave w x).retire (nSlots [f.sb, f.sc]) .none))) ∧
      (∀ u, debugWrite v cls sel lane y = some u → v.newlyEmpty u = none → u.ended = false →
        ∃ t, Machine.exec (.dwwr f) s = .next t ∧ t.wave w = some u ∧
        (cls = 0 → u = v.putS sel (y.truncate 32)) ∧ (cls = 2 → u = v.putLane sel lane (y.truncate 32)) ∧
        Kept ag { s with waves := t.waves } t [] [] false false ∧ (∀ j, j ≠ w → t.wave j = s.wave j) ∧
        After s t ag (nSlots [f.sb, f.sc]))) ∧
    (Ready s ag (.dwresResume f) → ∃ t, Machine.exec (.dwresResume f) s = .next t ∧
      t.wave w = some { v with stop := .run, dlv := false, step := false } ∧ Kept ag { s with waves := t.waves } t [] [] false false ∧
      (∀ j, j ≠ w → t.wave j = s.wave j) ∧ After s t ag 1) ∧
    (Ready s ag (.dwstep f) → ∃ t, Machine.exec (.dwstep f) s = .next t ∧
      t.wave w = some { v with stop := .run, dlv := false, step := true } ∧ Kept ag { s with waves := t.waves } t [] [] false false ∧
      (∀ j, j ≠ w → t.wave j = s.wave j) ∧ After s t ag 1) ∧
    (Ready s ag (.dwresKill f) → Machine.exec (.dwresKill f) s = .next ((s.killWave w).retire 1 .none) ∧
      ((∀ x, (w, x) ∈ s.waves → x = v) → ∀ u, (s.killWave w).wave w = some u → u.ended = true ∧ u.stop = .run))) ∧
  (∀ (f : SF) (s : Machine.State) (w : Nat) (v : Wave), Ready s (.wave w) (.halt f) → s.wave w = some v → v.dstkdepth = 0 →
    v.inh = none →
    (v.other.st ≠ .empty → ∃ t u, Machine.exec (.halt f) s = .next t ∧ t.wave w = some u ∧ u.path = Path.none ∧ u.other = v.other ∧
      u.sreg = v.sreg ∧ u.vreg = v.vreg ∧ Passing (.wave w) s t) ∧
    (v.other.st = .empty → Machine.exec (.halt f) s = .next (((s.setPassed w (v.setPath Path.none)).unlatch.dropReserve w).reap v.wg))) ∧
  (∀ (f : SF) (s : Machine.State) (c k : Nat), Ready s (.thread c k) (.halt f) →
    (s.onCluster (s.thread c k).launch c = true → ∃ t, Machine.exec (.halt f) s = .next t ∧ (t.thread c k).st = .halted ∧
      (t.thread c k).pc = (s.thread c k).pc + 64 ∧ (t.thread c k).slot = 1 ∧ (t.thread c k).q = (s.thread c k).q ∧
      (t.thread c k).queue = (s.thread c k).queue ∧ Apart (.thread c k) s t) ∧
    Machine.exec (.halt f) s = .next (((s.setThread c k { (s.thread c k).pastTrap with st := .halted }).freeThread c k).unlatch)) ∧
  (∀ (f : SF) (s : Machine.State) (w : Nat), Ready s (.wave w) (.pgmap f) →
    let ag : Agent := .wave w
    let x := s.ctxOf ag
    let va := s.srcBits ag 64 0 f.sa
    let u := s.tlbOf ag
    let reads := s.walkPath u 4 (s.ptroot x) va
    let here := (s.l1Sync ag).readsMade x reads
    let bad := (here.leaveReserve w).trap ag 0x19 none 0 0
    (2 ^ 57 ≤ va → Machine.exec (.pgmap f) s = .next ((s.leaveReserve w).faultHere ag 0x23 none va 0)) ∧
    (va < 2 ^ 57 → (s.drained ag = false ∨ s.readsHeld x reads = true) → Machine.exec (.pgmap f) s = .next s.stall) ∧
    (va < 2 ^ 57 → s.drained ag = true → s.readsHeld x reads = false →
      (s.path.l1 = [] → SameBytes s here) ∧
      (∀ z, here.walk u x va = .err z → Machine.exec (.pgmap f) s = .next bad) ∧
      (∀ ea z e, here.walk u x va = .leaf ea z e →
        (bitAt e 0 = true → s.leafFault x va e false false ≠ some 0x21 → ∃ t, Machine.exec (.pgmap f) s = .next t ∧
          (f.dst ≠ .none → t.reg ag f.dst false = 1) ∧ Kept ag (here.leaveReserve w) t (dstRegs ag f.dst false) [] false false ∧
          After s t ag 1) ∧
        (((bitAt e 0 = true ∧ s.leafFault x va e false false = some 0x21) ∨ (bitAt e 0 = false ∧ bitAt e 52 = false)) →
          Machine.exec (.pgmap f) s = .next bad) ∧
        (bitAt e 0 = false → bitAt e 52 = true →
          (here.firstTouch w x ea e = none → Machine.exec (.pgmap f) s = .next (here.joinReserve w x e).stall) ∧
          (∀ st t0, here.firstTouch w x ea e = some (st, t0) → ∃ t, Machine.exec (.pgmap f) s = .next t ∧
            t.mem = t0.mem ∧ t.spad = s.spad ∧ (f.dst ≠ .none → t.reg ag f.dst false = BitVec.ofNat 64 st) ∧ (st = 0 ∨ st = 2) ∧
            (st = 2 → t0 = here) ∧ t.rest = (t0.leaveReserve w).rest))))) ∧
  (∀ (s : Machine.State) (w x key ea frame : Nat) (e : W64) (p : Pool),
    let n := pageBytes (fld e 11 9)
    let blocks := match s.ctxNode x with | some a => s.anc a | none => []
    fld e 11 9 % 2 = 0 → (ea + 8 ≤ frame ∨ frame + n ≤ ea) → s.path.l1 = [] → s.home frame = .mem frame → s.home ea = .mem ea →
    s.severed (s.clusterOf (.wave w)) (.mem ea) = false → (∀ y, y < 8 → s.barred true (ea + y) = false) →
    (∀ b ∈ blocks, (b + 128 ≤ frame ∨ frame + n ≤ b + 112) ∧ (b + 128 ≤ ea ∨ ea + 8 ≤ b + 112)) →
    let t := s.mapFrame w x key ea e frame p
    Memory.w64 t.mem ea = withFld (withFld e 51 12 (frame / 4096)) 0 0 1 ∧ (∀ y, y < n → Memory.get t.mem (frame + y) = 0) ∧
      (∀ y, (y < frame ∨ frame + n ≤ y) → (y < ea ∨ ea + 8 ≤ y) → (∀ b ∈ blocks, y < b + 112 ∨ b + 128 ≤ y) →
        Memory.get t.mem y = Memory.get s.mem y))

/-! ### Scheduling, launches and switches -/

/-- Selection (R46, R50, R64, R89, R93): of the ready waves of a partition the one selected least recently issues, from the slot
that R46 picks: the instruction at its place, or the first of the clause that it starts, whose words it has fetched. With no
ready wave nothing happens. A cluster selects among its ready threads in the same way. Cycle counters rest on the opaque
`Config.stall` (log entry 8); what makes a clause ready is read as log entry 33 says. -/
def Obligations.Selection : Prop :=
  (∀ (s : Machine.State) (p : Nat),
    let ready := s.waves.filter (fun e => e.2.part == p && s.waveReady e.1 e.2)
    (ready = [] → Machine.exec (.waveSelect p) s = .next s) ∧
    (∀ w v, (w, v) ∈ ready → (∀ e ∈ ready, e ≠ (w, v) → v.age < e.2.age) → s.badAgents.contains (.wave w) = false →
      let u := { v with alt := (s.pickSlot w v).getD v.alt, age := s.tick + 1 }
      let s1 := (s.setWave w u).tickCore v.core
      (u.path.code.isSome = true → ∃ t, Machine.exec (.waveSelect p) s = .next t ∧ t.issue = some ⟨.wave w, false⟩ ∧
        t.wave w = some u ∧ t.tick = s.tick + 1 ∧ SameBytes s t ∧ t.threads = s.threads ∧ (∀ j, j ≠ w → t.wave j = s.wave j) ∧
        (t.core v.core).cyc = (s.core v.core).cyc + 1 + BitVec.ofNat 64 (Config.stall s.tick)) ∧
      (∀ ws s2, u.path.code = none → s1.fetch (.wave w) u.path.pc.toNat = .ok (ws, s2) →
        ((headerBad (wordAt ws 0) = true ∨ s2.waveKind u u.alt (wordAt ws 0) = false) →
          Machine.exec (.waveSelect p) s = .next (s2.trapAt (.wave w) 0x01 0 none 0 0)) ∧
        (headerBad (wordAt ws 0) = false → s2.waveKind u u.alt (wordAt ws 0) = true → u.path.slot ≤ fld (wordAt ws 0) 10 8 →
          ∃ t x, Machine.exec (.waveSelect p) s = .next t ∧ t.issue = some ⟨.wave w, false⟩ ∧ t.wave w = some x ∧
            x.path.code = some ws ∧ x.path.slot = u.path.slot ∧ x.path.pc = u.path.pc ∧ x.sreg = v.sreg ∧ x.vreg = v.vreg ∧
            t.threads = s2.threads ∧ t.mem = s2.mem)) ∧
      (∀ z, u.path.code = none → s1.fetch (.wave w) u.path.pc.toNat = .error z →
        Machine.exec (.waveSelect p) s = .next (s1.faultAt (.wave w) z 0 none u.path.pc.toNat 0)))) ∧
  (∀ (s : Machine.State) (c : Nat),
    let ready := ((List.range 4).map (fun k => (k, s.thread c k))).filter (fun e => s.threadReady c e.1)
    (ready = [] → Machine.exec (.sequencerSelect c) s = .next s) ∧
    (∀ k h, (k, h) ∈ ready → (∀ e ∈ ready, e ≠ (k, h) → h.age < e.2.age) → s.badAgents.contains (.thread c k) = false →
      h.code.isSome = true → ∃ t, Machine.exec (.sequencerSelect c) s = .next t ∧ t.issue = some ⟨.thread c k, false⟩ ∧
        t.thread c k = { h with age := s.tick + 1 } ∧ t.tick = s.tick + 1 ∧ SameBytes s t ∧ t.waves = s.waves ∧
        (∀ j, j ≠ 4 * c + k → Map.find t.threads j = Map.find s.threads j) ∧
        Map.at t.sch.clk c 0 = Map.at s.sch.clk c 0 + 1 + BitVec.ofNat 64 (Config.stall s.tick)))

/-- Launches and switches (R53, R54, R56, R60 to R62, R66, R69, R260, R324): a stale write-index line is read and applied; a
visible packet is read once and rejected with a status, or becomes a launch; a launch's next workgroup is placed on the core
that R66 picks; a drained launch commits and is then closed; a read of another device waits for the budget (R33). A slice of 32,768
cycles is charged and the choice made again;
a request names a ready context of higher priority. The flip makes the requested context active, its filled waves run and
the others leave; the spill saves those that left and the fill brings the saved ones in. Readings of scheduling and switches
stand in log entries 14, 33 and 34. -/
def Obligations.LaunchesAndSwitches : Prop :=
  (∀ (s : Machine.State) (q : Nat) (n : Node), s.node q = some n →
    let later := s.devHeld (s.queueCtx q) (s.home (n.f 11 51 6 * 64)) 8
    (n.stale = true → n.level = 3 → later = false → Machine.exec (.writeIndexReread q) s =
      .next (((s.writeIndex q).2.modNode q (fun m => { m with stale := false })).takeIndex q (s.writeIndex q).1)) ∧
    ((n.stale = false ∨ n.level ≠ 3 ∨ later = true) → Machine.exec (.writeIndexReread q) s = .next s) ∧
    (∀ k, let seen := s.modNode q (fun m => { m with wprev := k })
      (k < n.wprev → s.takeIndex q k = seen.queueFault q 0x38 k) ∧
      (n.wprev < k → n.c + 2 ^ n.f 10 4 0 < k → s.takeIndex q k = seen.queueFault q 0x39 k) ∧
      (n.wprev < k → k ≤ n.c + 2 ^ n.f 10 4 0 → s.takeIndex q k = seen.makeVisible q (k - n.wprev) n.wprev)) ∧
    s.takeIndex q n.wprev = s) ∧
  (∀ (s : Machine.State) (q k : Nat) (n : Node), Map.find s.sch.nodes q = some n → Map.find (s.packetsOf q) k = some .visible →
    s.devHeld (s.queueCtx q) (s.home (n.ringAt k)) 128 = true → Machine.exec (.launchPacketRead q k) s = .next s) ∧
  (∀ (s : Machine.State) (q k : Nat) (w : List W64), Map.find ((s.readPacket q k).packetsOf q) k = some (.read w) →
    (∀ n, Map.find s.sch.nodes q = some n → Map.find (s.packetsOf q) k = some .visible →
      s.devHeld (s.queueCtx q) (s.home (n.ringAt k)) 128 = false) →
    let s1 := s.readPacket q k
    (∀ st, fld (wordAt w 0) 63 60 = 1 → s1.packetStatus q w = some st →
      Machine.exec (.launchPacketRead q k) s = .next (s1.complete q k st 0)) ∧
    (fld (wordAt w 0) 63 60 = 1 → s1.packetStatus q w = none →
      ∃ t l, Machine.exec (.launchPacketRead q k) s = .next t ∧ t.launch (launchKey q k) = some l ∧ l.q = q ∧ l.k = k ∧
        l.ctx = s1.queueCtx q ∧ l.par = packetParams w ∧ l.next = 0 ∧ l.dead = none ∧ t.mem = s1.mem ∧ t.waves = s.waves) ∧
    (fld (wordAt w 0) 63 60 = 0 →
      let reserved := fld (wordAt w 7) 63 57 ≠ 0 ∨ fld (wordAt w 7) 3 0 ≠ 0
      let waits := bitAt (wordAt w 0) 57 = true ∧ k ≠ 0 ∧ s1.packetOver q (k - 1) = false
      (reserved → Machine.exec (.launchPacketRead q k) s = .next (s1.complete q k 3 0)) ∧
      (¬reserved → waits → Machine.exec (.launchPacketRead q k) s = .next s1) ∧
      (¬reserved → ¬waits → Machine.exec (.launchPacketRead q k) s = .next (s1.complete q k 0 0))) ∧
    (2 ≤ fld (wordAt w 0) 63 60 → Machine.exec (.launchPacketRead q k) s = .next (s1.complete q k 3 0))) ∧
  (∀ (s : Machine.State) (q k : Nat),
    (∀ l core slot, s.nextLaunch q = some (launchKey q k, l) → s.pickCore (launchKey q k) l = some (core, slot) →
      ∃ t, Machine.exec (.workgroupPlace q k) s = .next t ∧ t = s.place (launchKey q k) l core slot ∧
        ∃ m, t.launch (launchKey q k) = some m ∧ m.next = l.next + 1 ∧ m.par = l.par ∧ m.phase = l.phase) ∧
    (∀ l, s.nextLaunch q = some (launchKey q k, l) → s.pickCore (launchKey q k) l = none →
      Machine.exec (.workgroupPlace q k) s = .next s) ∧
    (s.nextLaunch q = none → Machine.exec (.workgroupPlace q k) s = .next s)) ∧
  (∀ (s : Machine.State) (q k : Nat) (l : Launch), s.launch (launchKey q k) = some l →
    let i := launchKey q k
    let r := s.startCommit .launch i (s.tagsOf i) true
    (l.phase = .run → s.launchDrained i l = false → Machine.exec (.launchEnd q k) s = .next s) ∧
    (l.phase = .run → s.launchDrained i l = true → (r.2.commitDone r.1 = false ∨ s.resultHeld l = true) →
      ∃ t, Machine.exec (.launchEnd q k) s = .next t ∧ t.launch i = some { l with phase := .commit r.1 }) ∧
    (l.phase = .run → s.launchDrained i l = true → r.2.commitDone r.1 = true → s.resultHeld l = false →
      Machine.exec (.launchEnd q k) s = .next ((r.2.finishCommit r.1).closeLaunch i l)) ∧
    (∀ n, l.phase = .commit n → s.resultHeld l = true → Machine.exec (.launchEnd q k) s = .next s) ∧
    (∀ n, l.phase = .commit n → s.resultHeld l = false → s.commitDone n = true →
      Machine.exec (.launchEnd q k) s = .next ((s.finishCommit n).closeLaunch i l))) ∧
  (∀ (s : Machine.State) (core u : Nat),
    let k := s.core core
    let go := u = 32768 ∧ k.inSlice = true ∧ k.active.isSome = true
    let now := k.slice + BitVec.ofNat 64 u
    let s1 := ((s.setCore core { k with cyc := if u ≤ k.run then k.cyc else now }).charge k.queue u).boundary core
    (¬go → Machine.exec (.sliceEnd core u) s = .next s) ∧
    (go → Machine.exec (.sliceEnd core u) s = .next (s1.rechoose core now))) ∧
  (∀ (s : Machine.State) (core : Nat) (now : W64),
    let k := s.core core
    let t := s.rechoose core now
    let stays := ∀ q, s.choose core = some q → k.active = some (s.queueCtx q)
    (stays → (t.core core).slice = now ∧ (t.core core).inSlice = !s.fullPending ∧ (t.core core).active = k.active ∧
      (t.core core).req = k.req ∧ ∀ q, s.choose core = some q → (t.core core).queue = q) ∧
    (∀ q, s.choose core = some q → k.active ≠ some (s.queueCtx q) → (t.core core).req = some (s.queueCtx q, q) ∧
      (t.core core).inSlice = false ∧ (t.core core).active = k.active) ∧ t.spad = s.spad ∧ t.threads = s.threads) ∧
  (∀ (s : Machine.State) (core x q : Nat),
    let s1 := s.refreshReady
    let y := s1.queueCtx q
    (s1.core core).active = some x → s1.choose core = some q →
    ((s1.core core).req = none → y ≠ x → s1.beats q x core = true →
      ∃ t, Machine.exec (.preemptionRequest core) s = .next t ∧ (t.core core).req = some (y, q) ∧ (t.core core).filled = false ∧
        (t.core core).active = some x) ∧
    ((s1.core core).req = none → (y = x ∨ s1.beats q x core = false) → Machine.exec (.preemptionRequest core) s = .next s1) ∧
    (∀ z p, (s1.core core).req = some (z, p) → y ≠ z → s1.effPrio p < s1.effPrio q →
      Machine.exec (.preemptionRequest core) s = .next (s1.request core y q)) ∧
    (∀ z p, (s1.core core).req = some (z, p) → (y = z ∨ s1.effPrio q ≤ s1.effPrio p) →
      Machine.exec (.preemptionRequest core) s = .next s1)) ∧
  (∀ (s : Machine.State) (core : Nat),
    ((s.core core).req = none → Machine.exec (.bankFlip core) s = .next s ∧ Machine.exec (.shadowFillComplete core) s = .next s) ∧
    ((s.core core).spill = none → Machine.exec (.bankSpillComplete core) s = .next s) ∧
    (∀ x q, (s.core core).req = some (x, q) →
      (s.flipReady core x = false → Machine.exec (.bankFlip core) s = .next s) ∧
      (s.flipReady core x = true → ∃ t, Machine.exec (.bankFlip core) s = .next t ∧ (t.core core).active = some x ∧
        (t.core core).queue = q ∧ (t.core core).req = none ∧ (t.core core).filled = false ∧ t.spad = s.spad ∧
        ∀ w v, s.wave w = some v → t.wave w = some (if v.core = core ∧ v.ended = false then
          (if v.ctx = x ∧ v.bank = .filled then { v with bank := .active } else if v.ctx ≠ x ∧ v.bank = .active then v.leave else v)
          else v)) ∧
      (((s.core core).filled = true ∨ (s.core core).spill ≠ none) → Machine.exec (.shadowFillComplete core) s = .next s) ∧
      ((s.core core).filled = false → (s.core core).spill = none → (s.waves.map (·.1)).Pairwise (· < ·) →
        (∀ e ∈ s.sch.wgs, e.2.ctx = x → e.2.core = core → e.2.out = true → s.wgThere e.2 = true) →
        ∃ t, Machine.exec (.shadowFillComplete core) s = .next t ∧ (t.core core).filled = true ∧ t.spad = s.spad ∧ t.threads = s.threads ∧
          ∀ w v, s.wave w = some v → t.wave w = some (if v.ctx = x ∧ v.core = core ∧ v.bank = .saved then s.fillWave v else v))) ∧
    (∀ x, (s.core core).spill = some x → (s.waves.map (·.1)).Pairwise (· < ·) →
      ∃ t, Machine.exec (.bankSpillComplete core) s = .next t ∧ (t.core core).spill = none ∧ t.spad = s.spad ∧ t.threads = s.threads ∧
        ∀ w v, s.wave w = some v →
          t.wave w = some (if v.ctx = x ∧ v.core = core ∧ v.bank = .out then { v with bank := .saved } else v)))

/-! ### The deferred path, the fabric and the device -/

/-- Belfry units, staging and replay (R268, R270, R272 to R277, R279, R292): the oldest record of a core log is filed in the
open bin of its destination, a marker does its work, and where a bin must ship first the log waits; a due bin ships and the
notices that waited for it follow; a bin that arrives is staged in the lowest free slot of its pseudo-channel, which holds
its records; a replay applies each covered record as Table 21-2 says, or fails it with its cause, in that order of checks. A
bin of another device is staged, acknowledged and filed, one whose handle no permit carries fails, and a repeated one is
acknowledged again. The order of arrivals is the model's reading, which inbound slot a bin takes its choice, and so are the waits for
the budgets (log entries 37, 53, 54). -/
def Obligations.DeferredPath : Prop :=
  (∀ (s : Machine.State) (core : Nat),
    let popped (r : List LogEntry) : Machine.State := { s with dfd := { s.dfd with logs := Map.put s.dfd.logs core r } }
    (s.log core = [] → Machine.exec (.belfryDrain core) s = .next s) ∧
    (∀ n r, s.log core = .marker n :: r → Machine.exec (.belfryDrain core) s = .next (((popped r).markerDone n core).enterMarkers core)) ∧
    (∀ x r, s.log core = .record x :: r →
      let b := binRec x.w0 x.w1 (Map.at s.dfd.groups core 0) x.launch
      (s.file (core / 40) x.dest x.ctx s.selfDev s.dev.inc b = none → Machine.exec (.belfryDrain core) s = .next s) ∧
      (∀ g, x.dest = .pch g → s.inReplica (recAddr x.w0) = false →
        s.dfd.bins.find? (fun c => c.holds (core / 40) x.dest x.ctx s.dev.inc) = none →
        ∃ t : Machine.State, Machine.exec (.belfryDrain core) s = .next (t.enterMarkers core) ∧ t.log core = r ∧ t.mem = s.mem ∧
          t.waves = s.waves ∧ t.dfd.bins = s.dfd.bins ++ [⟨core / 40, x.dest, x.ctx, s.binHandle x.ctx x.dest, s.selfDev, s.dev.inc, [b], false⟩]))) ∧
  (∀ (s : Machine.State) (die g key : Nat) (b : Bin),
    s.dfd.bins.find? (fun c => c.die == die && c.dest == .pch g && c.key == key) = some b →
    ((b.due = true ∨ 128 ≤ b.recs.length) → ∃ t : Machine.State,
      Machine.exec (.binShip die (.pch g) key) s = .next ((t.fileAll die).freeNotices die (.pch g)) ∧ t = s.shipBin b ∧
      (s.dfd.inb = [] → t.fileAll die = t) ∧ t.dfd.bins = s.dfd.bins.filter (fun c => !(c.holds b.die b.dest b.key b.inc)) ∧
      (∃ c ∈ t.dfd.chans, c.die = die ∧ c.dest = .pch g ∧ Shipment.bin b ∈ c.sent) ∧ t.mem = s.mem ∧ t.waves = s.waves) ∧
    (b.due = false → b.recs.length < 128 → Machine.exec (.binShip die (.pch g) key) s = .next (s.freeNotices die (.pch g)))) ∧
  (∀ (s : Machine.State) (die pch : Nat) (c : Chan), s.dfd.chans.find? (fun c => c.die == die && c.dest == .pch pch) = some c →
    let popped (t : Machine.State) (r : List Shipment) : Machine.State := t.modChan die (.pch pch) (fun k => { k with sent := r })
    (c.sent = [] → Machine.exec (.binStage die pch) s = .next s) ∧
    (∀ nt r, c.sent = .notice nt :: r → s.cut die (pch / 192) = false →
      ∃ t, Machine.exec (.binStage die pch) s = .next t ∧ Map.at t.dfd.inbox pch [] = Map.at s.dfd.inbox pch [] ++ [nt] ∧ t.mem = s.mem) ∧
    (∀ b r, c.sent = .bin b :: r → b.recs ≠ [] → s.cut die (pch / 192) = true → Machine.exec (.binStage die pch) s =
      .next (popped (s.failRecs b.key b.srcdev b.inc b.dest b.recs 0x35) r).freeInbound) ∧
    (∀ b r, c.sent = .bin b :: r → b.recs ≠ [] → s.cut die (pch / 192) = false →
      let later := s.hbmFull (pch / 64 * 2 ^ 36) (16 * b.recs.length + 16)
      (Map.find s.dfd.areas (pch / 64) = none →
        Machine.exec (.binStage die pch) s = .next (popped (s.failRecs b.key b.srcdev b.inc b.dest b.recs 0x33) r).freeInbound) ∧
      (∀ base n i, Map.find s.dfd.areas (pch / 64) = some (base, n) → s.freeRing pch n = some i → later = true →
        Machine.exec (.binStage die pch) s = .next s) ∧
      (∀ base n i, Map.find s.dfd.areas (pch / 64) = some (base, n) → s.freeRing pch n = some i → later = false → b.recs.length ≤ 128 →
        ∃ t, Machine.exec (.binStage die pch) s = .next t ∧
          (∃ e ∈ t.dfd.staged, e.pch = pch ∧ e.slot = i ∧ e.key = b.key ∧ e.hcap = b.hcap ∧ e.recs = b.recs.map (fun r => (r, false))) ∧
          (∀ j r, b.recs[j]? = some r → Memory.w64 t.mem (slotAt pch base i + 16 * j) = r.w0 ∧
            Memory.w64 t.mem (slotAt pch base i + 16 * j + 8) = r.w1) ∧
          fld (Memory.w64 t.mem (slotHead pch base n i)) 31 0 = b.hcap.toNat))) ∧
  (∀ (s : Machine.State) (x : ReplayRec) (pch : Nat),
    let a := recAddr x.r.w0
    let n := recBytes x.r.w0
    let bad := s.badBytes (.mem x.at_) 16
    let lost := recOp x.r.w0 ≠ 1 ∧ s.badBytes (.mem a) n = true
    let fails (k : Nat) : Prop := s.applyRec x pch = s.failRec x.key x.srcdev x.inc (.pch pch) x.r k
    (bad = true → fails 0x32) ∧ (bad = false → recValid x.r.w0 x.r.w1 = false → fails 0x30) ∧
    (bad = false → recValid x.r.w0 x.r.w1 = true → x.allowed = false → fails 0x31) ∧
    (bad = false → recValid x.r.w0 x.r.w1 = true → x.allowed = true → lost → fails 0x32) ∧
    (bad = false → recValid x.r.w0 x.r.w1 = true → x.allowed = true → ¬lost →
      ((∀ i, i < n → s.barred false (a + i) = false) → Memory.num (s.applyRec x pch).mem a n =
        (recNew (recOp x.r.w0) (n == 8) (BitVec.ofNat 64 (Memory.num s.mem a n)) x.r.w1).toNat % 256 ^ n) ∧
      ∀ y, (y < a ∨ a + n ≤ y) → Memory.get (s.applyRec x pch).mem y = Memory.get s.mem y)) ∧
  (∀ (s : Machine.State) (pch : Nat), (Map.at s.dfd.inbox pch [] = [] → Machine.exec (.commitNoticeReplay pch) s = .next s) ∧
    ∀ nt r, Map.at s.dfd.inbox pch [] = nt :: r →
      let s1 := { s with dfd := { s.dfd with inbox := Map.put s.dfd.inbox pch r } }
      let n := replayBytes (s.replaySet pch nt)
      let later := n ≠ 0 ∧ s.hbmFull (pch / 64 * 2 ^ 36) n = true
      (later → Machine.exec (.commitNoticeReplay pch) s = .next s) ∧
      (¬later → Machine.exec (.commitNoticeReplay pch) s = .next ((((regroup (s1.replaySet pch nt)).foldl (fun t x => t.applyRec x pch)
        (s1.useHbm (pch / 64 * 2 ^ 36) n)).markReplayed pch nt).noticeDone nt).freeInbound)) ∧
  (∀ (s s0 : Machine.State) (b : RemoteBin),
    (s.meet b.dev b.inc = none → Machine.exec (.remoteBinReceive b) s = .next s) ∧
    (s.meet b.dev b.inc = some s0 → b.notice = none → s0.fab.binSeen.contains (b.dev, b.bseq) = true →
      Machine.exec (.remoteBinReceive b) s = .next (s0.say (.ack ⟨b.dev, b.inc, 40, b.bseq⟩))) ∧
    (∀ tags n, s.meet b.dev b.inc = some s0 → b.notice = some (tags, n) →
      let t := s0.fileAll (inboundDie b.dev)
      let again := s0.fab.seen.find? (fun k => k.f == ⟨b.dev, b.inc, noticeQueue, n⟩)
      (∀ k, again = some k → Machine.exec (.remoteBinReceive b) s = .next (s0.say (.noticeAck b.dev n k.old.toNat))) ∧
      (again = none → Machine.exec (.remoteBinReceive b) s =
        .next (if t.fab.waiting.any (fun w => w.2.dev == b.dev && w.2.inc == b.inc && w.2.req == n)
            || t.dfd.inb.any (fun q => q.b.dev == b.dev && decide (q.filed < q.b.recs.length)) then t
          else t.remoteNotice b.dev n b.inc tags))) ∧
    (∀ base nslot, s.meet b.dev b.inc = some s0 → b.notice = none → s0.fab.binSeen.contains (b.dev, b.bseq) = false →
      let d := inboundDie b.dev
      let s1 := { s0 with fab := { s0.fab with binSeen := s0.fab.binSeen ++ [(b.dev, b.bseq)] } }
      let bytes := 16 * b.recs.length + 16
      Map.find s0.dfd.areas (3 * d) = some (base, nslot) →
      (s0.permitted b.dev b.ctx b.hcap = false → Machine.exec (.remoteBinReceive b) s =
        .next (((s1.failRecs (remoteKey b.dev b.ctx) b.dev b.inc (.pch (192 * d)) (b.recs.map (fun w => binRec w.w0 w.w1 s.fresh 0)) 0x31).say
          (.ack ⟨b.dev, b.inc, 40, b.bseq⟩)).returnPermit b.dev b.ctx b.hcap)) ∧
      (∀ g i, s0.permitted b.dev b.ctx b.hcap = true → s1.inboundSlot d nslot = some (g, i) →
        let t := s1.stageInbound b base nslot g i
        (s.hbmFull (3 * d * 2 ^ 36) bytes = true → Machine.exec (.remoteBinReceive b) s = .next s) ∧
        (s.hbmFull (3 * d * 2 ^ 36) bytes = false → Machine.exec (.remoteBinReceive b) s =
          .next (((t.useHbm (3 * d * 2 ^ 36) bytes).say (.ack ⟨b.dev, b.inc, 40, b.bseq⟩)).fileAll d)) ∧
        (∃ q ∈ t.dfd.inb, q.pch = g ∧ q.slot = i ∧ q.b = b ∧ q.filed = 0) ∧
        (b.recs.length ≤ 128 → ∀ j w, b.recs[j]? = some w → Memory.w64 t.mem (slotAt g base i + 16 * j) = w.w0 ∧
          Memory.w64 t.mem (slotAt g base i + 16 * j + 8) = w.w1))))

/-- Requests of other devices and answers to this device's (R262 to R264, R279, R280, R290, R291, R294): a write or an atomic
changes memory once and every repetition is answered alike; a read gives the bytes; an access outside assigned memory
changes nothing and is reported. A request that is answered, or fails, is over; one may be sent again while ports reach its
receiver. Leases are revoked and drained in their states, permits join those held, and the phases of recovery run in their
order. What a write leaves where software must not write is log entry 43, the waits for the HBM budgets are log entry 54, and the
other choices behind these events stand in log entries 10, 18, 21 and 39. -/
def Obligations.FabricEvents : Prop :=
  (∀ (s s0 : Machine.State) (f : RemoteFrom) (pa : Nat) (data : List Byte),
    (s.meet f.dev f.inc = none → Machine.exec (.remoteWriteReceive f pa data) s = .next s) ∧
    (s.meet f.dev f.inc = some s0 →
      ((s0.seenBefore f).isSome = true → Machine.exec (.remoteWriteReceive f pa data) s = .next (s0.say (.ack f))) ∧
      (s0.seenBefore f = none → s0.refuses f.dev pa = true →
        Machine.exec (.remoteWriteReceive f pa data) s = .next (s0.say (.refused f.dev pa))) ∧
      (s0.seenBefore f = none → s0.refuses f.dev pa = false → s0.inHbm pa data.length = true → s0.hbmFull pa data.length = true →
        Machine.exec (.remoteWriteReceive f pa data) s = .next s) ∧
      (s0.seenBefore f = none → s0.refuses f.dev pa = false → s0.inHbm pa data.length = true → s0.hbmFull pa data.length = false →
        s0.badPart pa data.length = false →
        ∃ t, Machine.exec (.remoteWriteReceive f pa data) s = .next t ∧ (t.seenBefore f).isSome = true ∧
          t.fab.replies = s0.fab.replies ++ [.ack f] ∧ t.spad = s0.spad ∧ t.waves = s0.waves ∧
          ∀ a, Memory.get t.mem a = if pa ≤ a ∧ a < pa + data.length then (s0.disown pa data).getD (a - pa) 0 else Memory.get s0.mem a) ∧
      (s0.seenBefore f = none → s0.refuses f.dev pa = false → s0.inHbm pa data.length = false →
        ∃ r : Machine.State, Machine.exec (.remoteWriteReceive f pa data) s = .next ((r.rootItem 0x23 pa f.dev).say (.ack f)) ∧
          SameBytes s0 r ∧ (r.seenBefore f).isSome = true))) ∧
  (∀ (s s0 : Machine.State) (f : RemoteFrom) (pa : Nat) (op : AtomOp) (ty : Ty) (v : W64), s.meet f.dev f.inc = some s0 →
    let n := tyBits ty / 8
    let old := BitVec.ofNat 64 (Memory.num s0.mem pa n)
    (∀ k, s0.seenBefore f = some k → Machine.exec (.remoteAtomicReceive f pa op ty v) s = .next (s0.say (.atomicOld f k.old))) ∧
    (s0.seenBefore f = none → s0.refuses f.dev pa = true →
      Machine.exec (.remoteAtomicReceive f pa op ty v) s = .next (s0.say (.refused f.dev pa))) ∧
    (s0.seenBefore f = none → s0.refuses f.dev pa = false → s0.inHbm pa n = true → s0.hbmFull pa n = true →
      Machine.exec (.remoteAtomicReceive f pa op ty v) s = .next s) ∧
    (s0.seenBefore f = none → s0.refuses f.dev pa = false → s0.inHbm pa n = true → s0.hbmFull pa n = false →
      s0.badBytes (.mem pa) n = false →
      ∃ t, Machine.exec (.remoteAtomicReceive f pa op ty v) s = .next t ∧ t.fab.replies = s0.fab.replies ++ [.atomicOld f old] ∧
        (t.seenBefore f).map (·.old) = some old ∧
        ((∀ i, i < n → s0.barred false (pa + i) = false) →
          Memory.num t.mem pa n = (atomNew (AtomOp.mop op) ty old v (AtomOp.cmp op)).toNat % 256 ^ n) ∧
        ∀ a, (a < pa ∨ pa + n ≤ a) → Memory.get t.mem a = Memory.get s0.mem a)) ∧
  (∀ (s : Machine.State) (src pa n : Nat),
    (s.refuses src pa = true → Machine.exec (.remoteReadReceive src pa n) s = .next (s.say (.refused src pa))) ∧
    (s.refuses src pa = false → s.inHbm pa n = true → s.hbmFull pa n = true → Machine.exec (.remoteReadReceive src pa n) s = .next s) ∧
    (s.refuses src pa = false → s.inHbm pa n = true → s.hbmFull pa n = false → s.badBytes (.mem pa) n = false →
      Machine.exec (.remoteReadReceive src pa n) s = .next ((s.useHbm pa n).say (.readData src pa (Memory.read s.mem pa n)))) ∧
    (s.refuses src pa = false → s.inHbm pa n = false → Machine.exec (.remoteReadReceive src pa n) s =
      .next ((s.rootItem 0x23 pa src).say (.readData src pa (List.replicate n 0))))) ∧
  (∀ (s : Machine.State) (n : Nat) (data : List Byte) (fails : Nat), s.req n = none →
    Machine.exec (.fabricAcknowledgement n data fails) s = .next s ∧ Machine.exec (.fabricResend n) s = .next s ∧
      Machine.exec (.fabricItemFail n) s = .next s) ∧
  (∀ (s : Machine.State) (n : Nat) (data : List Byte) (fails : Nat) (r : FabReq), s.req n = some r →
    (s.reached r = false → Machine.exec (.fabricAcknowledgement n data fails) s = .next s) ∧
    (s.reached r = true → ∀ d, r.kind = .write d → s.waiter n = none → ∃ t, Machine.exec (.fabricAcknowledgement n data fails) s = .next t ∧ t.req n = none ∧
      (Map.at t.fab.queues (r.ctx * 64 + r.queue) ⟨0, []⟩).done = (Map.at s.fab.queues (r.ctx * 64 + r.queue) ⟨0, []⟩).done ++ [r.seq] ∧
      t.mem = s.mem ∧ t.waves = s.waves ∧ t.threads = s.threads) ∧
    (s.reached r = true → ∀ d, r.kind = .write d → ∀ a l, s.waiter n = some (a, l) → Machine.exec (.fabricAcknowledgement n data fails) s =
      .next ((if r.keep then ((s.dropReq n).ackSeq r).farPut r.die r.dev r.pa d else (s.dropReq n).ackSeq r).answered a n)) ∧
    (s.reached r = true → ∀ b k, r.kind = .bin b k → Machine.exec (.fabricAcknowledgement n data fails) s = .next ((s.dropReq n).ackSeq r)) ∧
    (s.reached r = true → ∀ k, r.kind = .read k → s.waiter n = none → ∃ t, Machine.exec (.fabricAcknowledgement n data fails) s = .next t ∧
      t.req n = none ∧ t.mem = s.mem ∧ t.waves = s.waves ∧ t.threads = s.threads) ∧
    (0 < r.sends → r.sends < s.ports r.dev → ∃ t, Machine.exec (.fabricResend n) s = .next t ∧ (t.req n).map (·.sends) = some (r.sends + 1) ∧
      (t.req n).map (·.seq) = some r.seq ∧ t.mem = s.mem ∧ t.waves = s.waves) ∧
    ((r.sends = 0 ∨ s.ports r.dev ≤ r.sends) → Machine.exec (.fabricResend n) s = .next s) ∧
    (0 < r.sends → Machine.exec (.fabricItemFail n) s = .next (s.failReq r (s.reqCause r))) ∧
    (r.sends = 0 → Machine.exec (.fabricItemFail n) s = .next s)) ∧
  (∀ (s : Machine.State), ∃ t : Machine.State, Machine.exec .fabricWindow s = .next t.sendHeld ∧ SameBytes s t ∧ t.waves = s.waves ∧
    ((∀ r ∈ s.fab.out, r.sends ≠ 0) → t.sendHeld = t) ∧
    ∀ a, (Map.find t.sch.nodes a) = (Map.find s.sch.nodes a).map (fun m => { m with sent := 0 })) ∧
  (∀ (s : Machine.State) (port dev : Nat), port < 24 → ∃ t, Machine.exec (.lossOfPorts port dev) s = .next t ∧
    (port, dev) ∈ t.fab.lostPorts ∧ t.mem = s.mem ∧ t.waves = s.waves) ∧
  (∀ (s : Machine.State) (x dev n a : Nat) (h : W32), s.ctxNode x = some a →
    let room := (s.ancestry a).foldl (fun m e => min m (s.effStg e.1 * 2 - e.2.permits)) n
    ∃ t, Machine.exec (.permitGrant x dev n h) s = .next t ∧
      Map.at t.fab.permits (x * 1024 + dev) 0 = Map.at s.fab.permits (x * 1024 + dev) 0 + room ∧
      Map.at t.fab.handles (x * 1024 + dev) 0 = h ∧
      (room < n → t.fab.replies = s.fab.replies ++ [.permit dev x (n - room) h]) ∧ t.waves = s.waves) ∧
  (∀ (s s0 : Machine.State) (dev : Nat) (inc : BitVec 16), s.meet dev inc = some s0 →
    ∃ t, Machine.exec (.incarnationAnnounce dev inc) s = .next t ∧
      ∀ w l, Map.find s0.fab.leases w = some l → Map.find t.fab.leases w =
        some (if l.state = 1 ∧ l.lender = dev ∧ l.linc ≠ inc then { l with state := 2 } else l)) ∧
  (∀ (s : Machine.State) (lender : Nat) (lid : W32), ∃ t, Machine.exec (.leaseRevoke lender lid) s = .next t ∧ t.mem = s.mem ∧
    ∀ w l, Map.find s.fab.leases w = some l → Map.find t.fab.leases w =
      some (if l.state = 1 ∧ l.lender = lender ∧ l.lid = lid then { l with state := 2 } else l)) ∧
  (∀ (s : Machine.State) (w : Nat),
    ((s.lease w).state = 2 → s.inflight w = 0 → ∃ t, Machine.exec (.leaseDrained w) s = .next t ∧
      t.lease w = { s.lease w with state := 3 } ∧ t.fab.replies = s.fab.replies ++ [.leaseDrained (s.lease w).lender (s.lease w).lid]) ∧
    (((s.lease w).state ≠ 2 ∨ s.inflight w ≠ 0) → Machine.exec (.leaseDrained w) s = .next s)) ∧
  (∀ (s : Machine.State) (dev : Nat) (lid : W32), ∃ t, Machine.exec (.leaseDrainTimeout dev lid) s = .next t ∧
    t.fab.lent = s.fab.lent.map (fun l => if l.dev = dev ∧ l.lid = lid ∧ l.state = 1 then { l with state := 2 } else l) ∧
    SameBytes s t) ∧
  (∀ (s : Machine.State) (lost : List Nat) (ph : RecoveryPhase),
    let turn := match RecoveryPhase.prior ph with | none => s.fab.recovery = [] | some p => s.fab.recovery.getLast? = some p
    let mark (t : Machine.State) : Machine.State := { t with fab := { t.fab with recovery := t.fab.recovery ++ [ph] } }
    (¬turn → Machine.exec (.podRecovery lost ph) s = .next s) ∧
    (turn → ph = .announce → ∃ t, Machine.exec (.podRecovery lost ph) s = .next t ∧ t.fab.recovery = s.fab.recovery ++ [ph] ∧
      t.fab.members = s.fab.members.filter (fun m => !lost.contains m) ∧ t.dev.inc = s.dev.inc + 1 ∧
      t.fab.replies = s.fab.replies ++ [.announce (s.dev.inc + 1), .members t.fab.members] ∧ (∀ l ∈ t.fab.lent, l.state = 2) ∧
      SameBytes s t) ∧
    (turn → ph = .failItems → Machine.exec (.podRecovery lost ph) s = .next (mark (s.failTo lost))) ∧
    (turn → ph = .endDomains → Machine.exec (.podRecovery lost ph) s = .next (mark s.endBroken)) ∧
    (turn → ph = .drainLeases → ∃ t, Machine.exec (.podRecovery lost ph) s = .next t ∧ t.fab.recovery = s.fab.recovery ++ [ph] ∧
      (∀ l ∈ t.fab.lent, lost.contains l.dev = true → l.state = 2) ∧
      ∀ w l, Map.find s.fab.leases w = some l → lost.contains l.lender = true → l.state = 1 →
        Map.find t.fab.leases w = some { l with state := 2 }) ∧
    (turn → ph = .reroute → ∃ t, Machine.exec (.podRecovery lost ph) s = .next t ∧ t.fab.recovery = [] ∧
      ∀ p d, (p, d) ∈ t.fab.lostPorts ↔ (if d ∈ lost then p < 24 else (p, d) ∈ s.fab.lostPorts)))

/-- What happens to the device (R21, R29, R53, R280, R282, R286, R321, R322, R338, R339, R344): host writes and reads of host
memory and HBM, refresh and its handover, the power arbiter's tick, a die that is ready, a reset, a failed link, a held
fault record and an invalidation that is complete. That memory survives a reset is the model's choice (log entry 4), whether
a refresh is postponed is open (log entry 17), the arbiter's operands are its result (log entry 54), and whether the ROM accepts
the firmware image is open (log entry 9). What a host write leaves where software must not write is log entry 43, and the values of the
scheduler that a reset leaves are log entry 3. -/
def Obligations.DeviceEvents : Prop :=
  (∀ (s : Machine.State) (pa : Nat) (data : List Byte),
    let put := (s.softPut (.mem pa) data).hostWrote pa data.length
    let later := s.hbmFull pa data.length
    (2 ^ 40 ≤ pa → pa + data.length ≤ 2 ^ 41 → Machine.exec (.hostWriteInvalidate pa data) s = .next put) ∧
    ((pa < 2 ^ 40 ∨ 2 ^ 41 < pa + data.length) → Machine.exec (.hostWriteInvalidate pa data) s = .next s) ∧
    (∀ n, s.inHbm pa data.length = true → s.hostCut pa = false → later = true → Machine.exec (.hostMemAccess pa n (some data)) s = .next s) ∧
    (∀ n, s.inHbm pa data.length = true → s.hostCut pa = false → later = false → s.badPart pa data.length = false →
      Machine.exec (.hostMemAccess pa n (some data)) s =
        .next (((s.useHbm pa data.length).softPut (.mem pa) data).hostWrote pa data.length)) ∧
    (∀ n, s.inHbm pa data.length = true → s.hostCut pa = true →
      Machine.exec (.hostMemAccess pa n (some data)) s = .next (s.rootItem 0x35 pa s.selfDev)) ∧
    (∀ n, s.inHbm pa data.length = false → Machine.exec (.hostMemAccess pa n (some data)) s = .next (s.rootItem 0x23 pa s.selfDev)) ∧
    (∀ n, s.inHbm pa n = true → s.hostCut pa = false → s.hbmFull pa n = true → Machine.exec (.hostMemAccess pa n none) s = .next s) ∧
    (∀ n, s.inHbm pa n = true → s.hostCut pa = false → s.hbmFull pa n = false → s.badBytes (.mem pa) n = false → ∃ t, Machine.exec (.hostMemAccess pa n none) s = .next t ∧
      t.fab.replies = s.fab.replies ++ [.hostData pa (Memory.read s.mem pa n) false] ∧ SameBytes s t) ∧
    (∀ a, (∀ b n, Map.find s.sch.nodes b = some n → a < b + 112 ∨ b + 128 ≤ a) →
      Memory.get put.mem a = if pa ≤ a ∧ a < pa + data.length then (s.disown pa data).getD (a - pa) 0 else Memory.get s.mem a) ∧
    (((s.useHbm pa data.length).softPut (.mem pa) data).hostWrote pa data.length).mem = put.mem) ∧
  (∀ (s : Machine.State) (pch : Nat), ∃ t, Machine.exec (.refresh pch) s = .next t ∧ SameBytes s t ∧ t.waves = s.waves ∧
    let c := Map.at s.dev.refresh pch (0, 0)
    (Map.at t.dev.refresh pch (0, 0) = (c.1 + 1, c.2) ∨ (c.2 < 4 ∧ Map.at t.dev.refresh pch (0, 0) = (c.1, c.2 + 1))) ∧
    ∀ k, k ≠ pch → Map.at t.dev.refresh k (0, 0) = Map.at s.dev.refresh k (0, 0)) ∧
  (∀ (s : Machine.State) (stack : Nat),
    (s.computeMode stack = s.dev.cupolaRefresh.contains stack → Machine.exec (.refreshHandover stack) s = .next s) ∧
    (s.computeMode stack ≠ s.dev.cupolaRefresh.contains stack → ∃ t, Machine.exec (.refreshHandover stack) s = .next t ∧
      t.dev.cupolaRefresh.contains stack = s.computeMode stack ∧ SameBytes s t ∧
      ∀ g, g / 64 = stack → Map.at t.dev.refresh g (0, 0) =
        ((Map.at s.dev.refresh g (0, 0)).1 + (Map.at s.dev.refresh g (0, 0)).2, 0))) ∧
  (∀ (s : Machine.State) (mhz : Nat) (hbm pen : List Nat), 1200 ≤ mhz → mhz ≤ 2400 → mhz % 100 = 0 → (s.dev.full = true ∨ mhz = 1200) →
    hbm.length = 12 → pen.length = 160 → (∀ p ∈ pen, p < 64) →
    ∃ t, Machine.exec (.powerArbiterTick mhz hbm pen) s = .next t ∧ t.dev.clockMHz = mhz ∧ t.dev.hbmBudget = hbm ∧
      t.dev.powerCap = s.dev.nextCap ∧ t.dev.hbmUsed = [] ∧ t.dev.penalty = pen.mapIdx (fun i p => (i, max (p / 8) (p % 8))) ∧ SameBytes s t) ∧
  (∀ (s : Machine.State) (d : Nat), d < 4 → s.dieReady d = false → ∃ t, Machine.exec (.dieReady d) s = .next t ∧
    t.dev.ready = s.dev.ready ||| (1 <<< d) ∧
    (t.dev.full = true ↔ t.dev.ready = 15 ∧ ∀ e ∈ s.sch.cores, ¬(e.2.inSlice = true ∧ e.2.active.isSome = true)) ∧
    (∀ k, k ∈ t.dev.late ↔ t.dev.ready = 15 ∧ ∃ e ∈ s.sch.cores, e.1 = k ∧ e.2.inSlice = true ∧ e.2.active.isSome = true) ∧
    t.dev.clockMHz = (if t.dev.full then 2400 else s.dev.clockMHz) ∧
    t.dev.fwRuns = (if s.dev.ready = 0 then romAccepts else s.dev.fwRuns) ∧ SameBytes s t) ∧
  (∀ (s : Machine.State), ∃ t, Machine.exec .deviceReset s = .next t ∧ t.dev.inc = s.dev.inc + 1 ∧
    t.fab.replies = s.fab.replies ++ [.announce (s.dev.inc + 1)] ∧ t.mem = s.mem ∧ t.waves = [] ∧ t.threads = [] ∧ t.sch = Machine.State.reset.sch ∧
    t.dfd = Machine.State.reset.dfd ∧ t.spad = []) ∧
  (∀ (s : Machine.State) (a b : Nat), a < 4 → b < 4 → a ≠ b → ∃ t, Machine.exec (.rinestLinkFail a b) s = .next t ∧
    t.cut a b = true ∧ t.cut b a = true ∧ SameBytes s t) ∧
  (∀ (s : Machine.State) (b : FaultBox), Machine.exec (.heldFaultRecordWrite b) s = .next (s.writeHeld b) ∧
    (∀ f h, s.fbuf b = some f → s.flt.held.find? (fun h => h.box == b) = some h → s.fbufRoom f = true →
      (s.writeHeld b).flt.held = s.flt.held.erase h ∧ ((s.writeHeld b).fbuf b).map (·.wr) = some (f.wr + 1))) ∧
  (∀ (s : Machine.State) (n : Nat),
    (s.flt.invals.find? (fun v => v.n == n) = none → Machine.exec (.invalComplete n) s = .next s) ∧
    (∀ v, s.flt.invals.find? (fun v => v.n == n) = some v →
      ((s.pinned v.ctx v.va v.len = true ∨ s.draining v.ctx v.va v.len = true) → Machine.exec (.invalComplete n) s = .next s) ∧
      (s.pinned v.ctx v.va v.len = false → s.draining v.ctx v.va v.len = false → s.gap (v.a + 56) 8 = none →
        s.home (v.a + 56) = .mem (v.a + 56) → s.cut 0 (homeDie (v.a + 56)) = false →
        ∃ t, Machine.exec (.invalComplete n) s = .next t ∧ t.flt.invals = s.flt.invals.filter (fun k => k.n != n) ∧
          (∀ e ∈ t.path.tlb, ¬(e.ctx = v.ctx ∧ v.va < e.vpn * 4096 + 4096 ∧ e.vpn * 4096 < v.va + v.len)) ∧
          Memory.w64 t.mem (v.a + 56) = 0 ∧ ∀ y, (y < v.a + 56 ∨ v.a + 64 ≤ y) → Memory.get t.mem y = Memory.get s.mem y)))

/-! ### Firmware -/

/-- Firmware commands (R32, R296, R298, R320, R322, R336, R337, R341, R345, R346): a block outside assigned memory is reported;
one that cannot be read has no other effect; a reserved bit gives rejected-reserved and a mailbox without authority denied, with no
other effect; while the firmware is halted, or does not run, other commands wait. Each command has its effect, and its completion
word stands in w7. The order of the checks and the readings of commands, a block that cannot be read and one outside this device's
memory stand in log entry 24, what firmware leaves where software must not write in log entry 43, the firmware that waits in log
entry 5, its image and the keys in log entry 9. -/
def Obligations.FirmwareCommands : Prop :=
  (∀ (i : Instr) (s : Machine.State) (d r : Bool) (l : List Nat), i.commandRule = some (d, r, l) →
    (s.fw = none → Machine.exec i s = .next s) ∧
    (∀ b a, s.fw = some (b, a) → s.dev.fwRuns = false → Machine.exec i s = .next (s.idle.waitMail b a)) ∧
    (∀ b a, s.fw = some (b, a) → s.dev.fwRuns = true → s.okRange (s.ownWindow a) 64 = false →
      Machine.exec i s = .next (s.idle.rootItem 0x23 (s.ownWindow a) s.selfDev)) ∧
    (∀ b m w, s.takes b m w → s.dev.fwRuns = true →
      (s.dev.fwHalted = true → d = false → Machine.exec i s = .next (s.idle.waitMail b m)) ∧
      ((s.dev.fwHalted = true → d = true) → s.idle.devLost 0 (s.home m) = true → Machine.exec i s = .next (s.idle.fwNote m 7)) ∧
      ((s.dev.fwHalted = true → d = true) → s.idle.devLost 0 (s.home m) = false → ((d = true ∧ s.dev.form ≠ .e) ∨ cmdReserved w l = true) →
        Machine.exec i s = .next ((s.idle.fwNote m 7).reply m 1 0)) ∧
      ((s.dev.fwHalted = true → d = true) → s.idle.devLost 0 (s.home m) = false → (d = true → s.dev.form = .e) → cmdReserved w l = false →
        r = true → b ≠ .root → Machine.exec i s = .next ((s.idle.fwNote m 7).reply m 4 0)) ∧
      (s.home m = .mem m → s.cut 0 (homeDie m) = false → s.badBytes (.mem m) 56 = false →
        s.idle.devLost 0 (s.home m) = false ∧ w = Memory.words s.mem m 7 ∧ s.idle.fwNote m 7 = s.idle))) ∧
  (∀ (s : Machine.State) (b : MailBox) (a : Nat), (s.waitMail b a).agenda.Perm (.mail b a :: s.agenda)) ∧
  (∀ (s : Machine.State) (m st res : Nat), s.gap (m + 56) 8 = none → s.home (m + 56) = .mem (m + 56) → s.cut 0 (homeDie (m + 56)) = false →
    Memory.w64 (s.reply m st res).mem (m + 56) = BitVec.ofNat 64 (st * 2 ^ 56 + res % 2 ^ 56) ∧
    ∀ y, (y < m + 56 ∨ m + 64 ≤ y) → Memory.get (s.reply m st res).mem y = Memory.get s.mem y) ∧
  (∀ (s : Machine.State) (b : MailBox) (m : Nat) (w : List W64),
    let u := s.idle.fwNote m 7
    let a := u.namedNode w
    let z := if u.blockHere a = true then u.fwNote a 16 else u
    let n := Node.ofWords (u.blockWords a)
    let own := allows b (u.nodePart a) = true
    let x := arg w 1 9 0
    let ex := arg w 1 41 32
    let id := arg w 1 11 0
    let k := arg w 1 15 8
    let box := namedBox w
    (Served s .nodeAttach b m w → u.blockHere a = true → foreignBlock b n = false → z.node a = none → z.blockOk n = true →
      z.underParent n = true → z.countsBad n = false →
      (n.level ≠ 2 → (n.level = 3 → (z.atLevel 3).length < 4096) →
        Machine.exec .nodeAttach s = .next ((z.attach a n).reply m 0 ((z.attach a n).genOf a))) ∧
      (∀ t, n.level = 2 → z.flt.root ≠ none → Map.find z.flt.parts n.tenpart ≠ none → z.deferredEntries n.ctxid 12 = some t →
        Machine.exec .nodeAttach s = .next ((t.attach a n).reply m 0 ((t.attach a n).genOf a)))) ∧
    (∀ o, Served s .nodeUpdate b m w → (u.blockHere a = true → foreignBlock b n = false) → allows b (z.nodePart a) = true →
      z.node a = some o → z.blockOk n = true → n.level = o.level → n.parent = o.parent → n.tenpart = o.tenpart →
      (n.level = 2 → n.ctxid = o.ctxid) → z.underParent n = true →
      Machine.exec .nodeUpdate s = .next ((z.update a o (u.blockWords a)).reply m 0 ((z.update a o (u.blockWords a)).genOf a))) ∧
    (∀ o, Served s .nodeDetach b m w → u.node a = some o → foreignBlock b o = false → u.kids a = [] →
      (o.level = 2 → ∀ e ∈ u.eng.fetches, e.ctx ≠ o.ctxid) →
      let v := if o.level = 3 then u.endQueue a else if o.level = 2 then u.endCtx o.ctxid a else u
      let t := (v.modNode a (fun k => { k with state := 0 })).refreshReady
      Machine.exec .nodeDetach s = .next (((t.sch.cores.map (·.1)).foldl (fun t c => t.dropRequest a c) t).reply m 0 0)) ∧
    (Served s .faultbuf b m w → boxAllowed b box = true → 4 ≤ arg w 3 4 0 → arg w 3 4 0 ≤ 16 →
      let h := u.ownWindow (arg w 2 51 6 * 64)
      u.okRange h (64 + 64 * 2 ^ arg w 3 4 0) = true →
      ∃ f : FBuf, Machine.exec .faultbuf s = .next (((u.physWords 0 fwCtx h (List.replicate 8 0)).setFbuf box f).reply m 0 0) ∧
        ((u.physWords 0 fwCtx h (List.replicate 8 0)).setFbuf box f).fbuf box = some f ∧ f.header = h ∧ f.m = arg w 3 4 0 ∧ f.wr = 0 ∧
        (∀ o, u.fbuf box = some o → f.gen = o.gen + 1 ∧ f.lost = 0)) ∧
    (∀ f, Served s .faultflush b m w → boxAllowed b box = true → u.fbuf box = some f →
      (wordAt (u.fwWords (f.header + 8) 1) 0).toNat ≤ (wordAt w 2).toNat → (wordAt w 2).toNat ≤ f.wr →
      let v := ((u.fwNote (f.header + 8) 1).physPut 0 fwCtx (f.header + 8) (leBytes 8 (wordAt w 2).toNat)).setFbuf box { f with gen := f.gen + 1 }
      Machine.exec .faultflush s = .next (v.reply m 0 (f.gen + 1).toNat) ∧ v.fbuf box = some { f with gen := f.gen + 1 }) ∧
    (Served s .resume b m w → own → (u.node a).isSome = true → ∃ v : Machine.State, Machine.exec .resume s = .next (v.reply m 0 0) ∧
      v.flt.stops = u.flt.stops.filter (fun e => !(u.anc e.node).contains a) ∧
      (∀ e c k, e ∈ u.flt.stops → e.ag = .thread c k → (u.anc e.node).contains a = true → (v.thread c k).stop = false)) ∧
    (Served s .endDomain b m w → own → (u.node a).isSome = true →
      Machine.exec .endDomain s = .next (((u.endDomain (u.domainOf a) 0x3B none).refreshReady).reply m 0 0)) ∧
    (Served s .pool b m w → u.ctxAllowed b x = true → u.ctxNode x ≠ none →
      let psz := arg w 1 26 24
      let f := u.ownWindow (arg w 2 51 12 * 4096)
      let c := (wordAt w 3).toNat
      psz ≤ 5 → f % pageBytes psz = 0 → 0 < c → c < 2 ^ 32 → u.okRange f (pageBytes psz * c) = true →
      u.covered f (pageBytes psz * c) = false →
        let key := poolKey x (arg w 1 19 16) psz
        let p := Map.at u.flt.pools key ⟨[], none, []⟩
        let frames := u.stagingAreas.foldl (fun l e => carve e.1 e.2 (pageBytes psz) l) [(f, c)]
        Machine.exec .pool s = .next (if u.lentMeets f (pageBytes psz * c) = true then (u.bumpFree 1).reply m 6 0
          else ({ u with free := u.free + 1, flt := { u.flt with
            pools := Map.put u.flt.pools key { p with free := p.free ++ frames } } }).reply m 0 0)) ∧
    (Served s .save b m w → u.ctxAllowed b x = true → u.ctxNode x ≠ none → (∀ e ∈ u.banksFor x, u.bankBusy e.1 e.2 = false) →
      Machine.exec .save s = .next (((u.banksFor x).foldl (fun t e => t.emptyBank e.1 e.2) u).reply m 0 0)) ∧
    (Served s .inval b m w → u.ctxAllowed b x = true → u.ctxNode x ≠ none →
      let va := arg w 2 56 12 * 4096
      let len := (wordAt w 3).toNat
      0 < len → len % 4096 = 0 → va + len ≤ 2 ^ 57 → ∃ t, Machine.exec .inval s = .next t ∧ t.spad = u.spad ∧ t.waves = u.waves ∧
        t.threads = u.threads ∧ t.flt.invals = u.flt.invals ++ [⟨u.fresh, x, va, len, b, m⟩] ∧
        ∀ e ∈ t.path.tlb, ¬(e.ctx = x ∧ va < e.vpn * 4096 + 4096 ∧ e.vpn * 4096 < va + len)) ∧
    (Served s .staging b m w →
      let st := arg w 1 3 0
      let rb := (wordAt w 2).toNat
      let c := (wordAt w 3).toNat
      st < 12 → u.dieReady (st / 3) = true → rb % 2 ^ 17 = 0 → 16 ≤ c → c ≤ 65536 → c = 2 ^ c.log2 → rb + (2 ^ 17 + 1024) * c ≤ 2 ^ 36 →
      (∀ e ∈ u.dfd.staged, e.pch / 64 ≠ st) → (∀ e ∈ u.dfd.inb, e.pch / 64 ≠ st) →
      (∀ e ∈ u.dfd.inbox, e.1 / 64 = st → e.2 = []) →
      let out (k : Nat) (p : Pool) : Pool := { p with free := carve (st * 2 ^ 36 + rb) ((2 ^ 17 + 1024) * c) (pageBytes (k % 8)) p.free }
      Machine.exec .staging s = .next (({ u with dfd := { u.dfd with areas := Map.put u.dfd.areas st (rb, c) },
                                                 flt := { u.flt with pools := Map.each u.flt.pools out } }).reply m 0 0)) ∧
    (Served s .l2ways b m w → Machine.exec .l2ways s = .next (({ u with dev := { u.dev with
      l2ways := Map.put u.dev.l2ways (arg w 1 2 0) (BitVec.ofNat 16 (arg w 2 15 0)) } }).reply m 0 0)) ∧
    (Served s .replica b m w →
      let o := (wordAt w 2).toNat
      let c := (wordAt w 3).toNat
      o % 2 ^ 17 = 0 → c % 2 ^ 17 = 0 → o + c ≤ 2 ^ 36 →
        let reps := if c = 0 then Map.del u.dfd.replicas (arg w 1 5 0) else Map.put u.dfd.replicas (arg w 1 5 0) (o, c)
        Machine.exec .replica s = .next (({ u with dfd := { u.dfd with replicas := reps } }).reply m 0 0)) ∧
    (∀ e, Served s .exptableDeregister b m w → u.ctxAllowed b (arg w 5 9 0) = true → u.ctxNode (arg w 5 9 0) ≠ none →
      Map.find u.eng.tables (arg w 5 9 0) = some e → u.tableBusy (arg w 5 9 0) e = false →
      Machine.exec .exptableDeregister s =
        .next (({ u with eng := { u.eng with tables := Map.del u.eng.tables (arg w 5 9 0) } }).reply m 0 0)) ∧
    (Served s .exptableRegister b m w → descReserved w = false → u.ctxAllowed b (arg w 5 9 0) = true → u.ctxNode (arg w 5 9 0) ≠ none →
      let e : ExpTable := ⟨arg w 1 56 12 * 4096, arg w 2 47 32, arg w 2 31 0, arg w 3 56 5 * 32, []⟩
      0 < e.nent → e.nent ≤ 4096 → e.spcnt ≤ 2 ^ 20 → u.pagesOk (arg w 5 9 0) e.ertbase (512 * e.nent) = true →
      u.pagesOk (arg w 5 9 0) e.spbase (32 * e.spcnt) = true → Map.find u.eng.tables (arg w 5 9 0) = none →
      let frames := u.framesOf (arg w 5 9 0) e.ertbase (512 * e.nent) ++ u.framesOf (arg w 5 9 0) e.spbase (32 * e.spcnt)
      let v := ({ u with eng := { u.eng with tables := Map.put u.eng.tables (arg w 5 9 0) { e with frames := frames } } }).clearFetches
        (arg w 5 9 0) e.nent
      Machine.exec .exptableRegister s = .next (v.reply m 0 0) ∧ Map.find v.eng.tables (arg w 5 9 0) = some { e with frames := frames }) ∧
    (∀ y e, Served s .expfetch b m w → u.ctxAllowed b ex = true → u.ctxNode ex = some y → u.ertAddr ex id = some e →
      arg w 2 5 0 < 40 → u.dieReady (arg w 2 5 0 / 10) = true → (u.effClmask y).testBit (arg w 2 5 0) = true →
      let st := ertState (Memory.words u.mem e 1)
      Machine.exec .expfetch s = .next ((if st = 0 then u.beginFetch ex id (arg w 2 5 0) else u).reply m 0 st)) ∧
    (∀ y e, Served s .expevict b m w → u.ctxAllowed b ex = true → u.ctxNode ex = some y → u.ertAddr ex id = some e →
      let w0 := Memory.w64 u.mem e
      (fld w0 63 61 = 2 → fld w0 31 0 = 0 → Machine.exec .expevict s = .next ((u.putErt e 0 (withFld w0 63 61 4)).reply m 0 2)) ∧
      (fld w0 63 61 = 2 → fld w0 31 0 ≠ 0 →
        Machine.exec .expevict s = .next { u with eng := { u.eng with evicts := u.eng.evicts ++ [⟨ex, id, b, m⟩] } }) ∧
      (fld w0 63 61 = 3 → Machine.exec .expevict s = .next (u.reply m 5 3)) ∧
      (fld w0 63 61 ≠ 2 → fld w0 63 61 ≠ 3 → Machine.exec .expevict s = .next (u.reply m 0 (fld w0 63 61)))) ∧
    (Served s .podJoin b m w →
      let p := u.ownWindow (arg w 2 51 7 * 128)
      let has (j : Nat) : Bool := ((u.physGet 0 p 128).getD (j / 8) 0).toNat.testBit (j % 8)
      let v := u.fwNote p 16
      u.okRange p 128 = true → has x = true → ∃ l, Machine.exec .podJoin s =
          .next (({ v with fab := { v.fab with devno := some x, members := l } }).reply m 0 0) ∧
        ∀ j, j ∈ l ↔ j < 1024 ∧ has j = true) ∧
    (∀ t h, Served s .inbound b m w →
      let p := u.ownWindow (arg w 2 51 8 * 256)
      let ws := u.fwWords p 24
      let l := (List.range 12).map (fun st => (st, (wordAt ws (2 * st)).toNat, (wordAt ws (2 * st + 1)).toNat))
      let v := u.fwNote p 24
      u.okRange p 192 = true → (∀ e ∈ l, e.2.1 ≠ 0 ∧ e.2.1 % 64 = 0 ∧ e.2.2 ≠ 0 ∧ e.2.2 % 64 = 0 ∧ e.2.1 + e.2.2 ≤ 2 ^ 36) →
      (∀ d, d < 4 → Map.find v.dfd.areas (3 * d) ≠ none) → v.inboundEntries (arg w 1 25 16) l = some (t, h) →
      Machine.exec .inbound s = .next ((({ t with fab := { t.fab with inbound := Map.put t.fab.inbound (x * 1024 + arg w 1 25 16) h } }).grantPermits
        x (arg w 1 25 16)).reply m 0 0)) ∧
    (Served s .leaseGrant b m w → (wordAt w 4).toNat % 2 ^ 21 = 0 → (wordAt w 4).toNat ≤ 2 ^ 36 → (u.lease k).state = 0 →
      let l : Lease := ⟨1, bitAt (wordAt w 2) 61, bitAt (wordAt w 2) 60, arg w 2 59 50, BitVec.ofNat 16 (arg w 2 47 32),
        BitVec.ofNat 32 (arg w 2 31 0), arg w 3 51 21 * 2 ^ 21, wordAt w 4⟩
      ∃ v : Machine.State, Machine.exec .leaseGrant s = .next (v.reply m 0 0) ∧ v.lease k = l ∧ (∀ j, j ≠ k → v.lease j = u.lease j) ∧
        { v with fab := u.fab } = u) ∧
    (Served s .leaseRevokeCommand b m w →
      let dev := arg w 2 9 0
      let lid : W32 := BitVec.ofNat 32 (arg w 3 31 0)
      Machine.exec .leaseRevokeCommand s = .next (({ u with fab := { u.fab with
        lent := u.fab.lent.filter (fun (l : Lent) => !(l.dev == dev && l.lid == lid)) ++ [Lent.mk dev lid 1],
        replies := u.fab.replies ++ [Reply.leaseRevoke dev lid] } }).reply m 0 0)) ∧
    (Served s .leaseFree b m w → (u.lease k).state = 3 → ∃ v : Machine.State, Machine.exec .leaseFree s = .next (v.reply m 0 0) ∧
      v.lease k = Lease.free ∧ (∀ j, j ≠ k → v.lease j = u.lease j) ∧ { v with fab := u.fab } = u) ∧
    (Served s .leaseRead b m w →
      let p := u.ownWindow (arg w 2 51 5 * 32)
      u.okRange p 32 = true → Machine.exec .leaseRead s =
        .next ((u.fwPut p (wordBytes (leaseImage (u.lease k) (u.inflight k)))).reply m 0 0)) ∧
    (Served s .powercap b m w → 600 ≤ arg w 1 15 0 → arg w 1 15 0 ≤ 2800 →
      Machine.exec .powercap s = .next (({ u with dev := { u.dev with nextCap := arg w 1 15 0 } }).reply m 0 0)) ∧
    (Served s .attest b m w →
      let p := u.ownWindow (arg w 1 51 3 * 8)
      let c := u.ownWindow (arg w 2 51 6 * 64)
      u.okRange p 4827 = true → u.okRange c 64 = true →
      let body := ((u.report b (u.fwWords c 8)).map (fun x => leBytes 8 x.toNat)).flatten
      Machine.exec .attest s =
        .next (((u.fwNote c 8).fwPut p (body ++ (List.range 4627).map (Config.mldsaSign identityKey.2 body))).reply m 0 0)) ∧
    (Served s .status b m w →
      Machine.exec .status s = .next (u.reply m 0 ((if u.dev.full then 2 else 1) * 16 + u.dev.ready.toNat))) ∧
    (Served s .debugRead b m w → (wordAt w 1).toNat % 8 = 0 →
      let p := u.ownWindow (arg w 2 51 3 * 8)
      u.okRange p 8 = true → ∃ y, Machine.exec .debugRead s =
          .next (((u.bumpFree 1).fwPut p (leBytes 8 y.toNat)).reply m 0 0) ∧
        ∀ z, Map.find u.dev.ctlMem ((wordAt w 1).toNat / 8) = some z → y = z) ∧
    (Served s .debugWrite b m w → (wordAt w 1).toNat % 8 = 0 → Machine.exec .debugWrite s = .next (({ u with dev := { u.dev with
      ctlMem := Map.put u.dev.ctlMem ((wordAt w 1).toNat / 8) (wordAt w 2) } }).reply m 0 0)) ∧
    (Served s .debugHalt b m w → Machine.exec .debugHalt s = .next (({ u with dev := { u.dev with fwHalted := true } }).reply m 0 0)) ∧
    (Served s .debugStep b m w →
      Machine.exec .debugStep s = .next (({ u with dev := { u.dev with fwSteps := u.dev.fwSteps + 1 } }).reply m 0 0)) ∧
    (Served s .debugContinue b m w →
      Machine.exec .debugContinue s = .next (({ u with dev := { u.dev with fwHalted := false } }).reply m 0 0)) ∧
    (Served s .unknownCommand b m w → Machine.exec .unknownCommand s = .next (u.reply m 1 0)))
end

