-- ==== Sys2Proof/Laws/Device.lean ====
section
/-! SUPPORT. What the shared operations behind physical addresses do: the budgets they count against, and the bytes that firmware and
the command processor read and write in this device's memory (R21, R30, R33, R339, R344). -/

namespace Sys2Proof.Machine

open Sys2Proof

/-! ### Budgets -/

@[simp] theorem State.countNodes_mem (s : State) (l : List Nat) (f : Node → Node) : (s.countNodes l f).mem = s.mem := rfl
@[simp] theorem State.countNodes_spad (s : State) (l : List Nat) (f : Node → Node) : (s.countNodes l f).spad = s.spad := rfl
@[simp] theorem State.countNodes_waves (s : State) (l : List Nat) (f : Node → Node) : (s.countNodes l f).waves = s.waves := rfl
@[simp] theorem State.countNodes_threads (s : State) (l : List Nat) (f : Node → Node) : (s.countNodes l f).threads = s.threads := rfl

/-- A charge to `fabbud` changes nothing but what nodes have sent. -/
theorem State.chargeFab_frame (s : State) (x n : Nat) : { s.chargeFab x n with sch := s.sch } = s := by
  unfold State.chargeFab
  split
  · rfl
  · split <;> rfl

@[simp] theorem State.chargeFab_mem (s : State) (x n : Nat) : (s.chargeFab x n).mem = s.mem := by
  have h := congrArg State.mem (s.chargeFab_frame x n)
  exact h
@[simp] theorem State.chargeFab_spad (s : State) (x n : Nat) : (s.chargeFab x n).spad = s.spad := by
  have h := congrArg State.spad (s.chargeFab_frame x n)
  exact h

/-- A request to an HBM controller changes nothing but what has been used of its budget. -/
theorem State.useHbm_frame (s : State) (pa n : Nat) : { s.useHbm pa n with dev := { (s.useHbm pa n).dev with hbmUsed := s.dev.hbmUsed } } = s := by
  unfold State.useHbm
  split <;> rfl

@[simp] theorem State.useHbm_mem (s : State) (pa n : Nat) : (s.useHbm pa n).mem = s.mem := by
  have h := congrArg State.mem (s.useHbm_frame pa n)
  exact h
@[simp] theorem State.useHbm_spad (s : State) (pa n : Nat) : (s.useHbm pa n).spad = s.spad := by
  have h := congrArg State.spad (s.useHbm_frame pa n)
  exact h

/-! ### Bytes behind physical addresses -/

/-- Memory of this device that a unit of die d reaches, in an assigned range and without an uncorrectable error. -/
structure Sound (s : State) (d a n : Nat) : Prop where
  gap : s.gap a n = none
  home : s.home a = .mem a
  link : s.cut d (homeDie a) = false
  good : s.badBytes (.mem a) n = false

/-- Such a read neither fails nor is lost. -/
theorem Sound.devLost {s : State} {d a n : Nat} (h : Sound s d a n) : s.devLost d (s.home a) = false := by
  simp [State.devLost, State.reach, h.home, Home.die, h.link]

/-- Such a read gives the bytes of memory. -/
theorem Sound.physGet {s : State} {d a n : Nat} (h : Sound s d a n) : s.physGet d a n = Memory.read s.mem a n := by
  have := h.devLost
  rw [h.home] at this
  simp [State.physGet, h.gap, h.home, State.devBytes, this, h.good, State.bytesAt]

/-- Such a read does nothing beside its value. -/
theorem Sound.physNote {s : State} {d a n : Nat} (x : Nat) (h : Sound s d a n) : s.physNote d x a n = s := by
  have := h.devLost
  rw [h.home] at this
  simp [State.physNote, h.gap, h.home, this, h.good]

/-- The words that firmware reads there are those of memory. -/
theorem Sound.fwWords {s : State} {a n : Nat} (h : Sound s 0 a (8 * n)) : s.fwWords a n = Memory.words s.mem a n := by
  unfold State.fwWords Memory.words
  rw [h.physGet]
  refine List.map_congr_left (fun i hi => ?_)
  have hi : i < n := List.mem_range.1 hi
  congr 2
  refine List.ext_getElem (by simp [Memory.read]; omega) (fun j h1 h2 => ?_)
  simp [Memory.read, Nat.add_assoc]

/-- Bytes that firmware or a switch writes into such memory stand there, and no other part of the machine changes. -/
theorem State.physPut_mem (s : State) (d x a : Nat) (bs : List Byte) (hg : s.gap a bs.length = none) (hh : s.home a = .mem a)
    (hc : s.cut d (homeDie a) = false) : s.physPut d x a bs = s.writeMem a bs := by
  simp [State.physPut, hg, hh, State.devWrite, State.reach, Home.die, hc, State.putAt]

end Sys2Proof.Machine
end

