-- ==== Sys2Proof/Tests/Slice0.lean ====
section
/-! SUPPORT. Small tests of decoding and of single steps, with expected values from the examples and tables of spec/, and a
witness for the hypotheses of every statement. -/

namespace Sys2Proof

open Sys2Proof.Machine

/-! ### Small states -/

/-- A launch of one workgroup of one wave. -/
def tLaunch : Launch :=
  { q := 0, k := 0, ctx := 0, par := placeParams, next := 1, win := [(0, 4096)], uses := [], phase := .run, dead := none,
    failed := 0, snap := [] }

/-- A clause header for n slots of kind k. -/
def tHead (k n : Nat) : W64 := BitVec.ofNat 64 (n * 256 + k)

/-- A wave about to issue from slot 1 of a clause of seven slots. -/
def tWave (v : Wave) : Machine.State :=
  { Machine.State.reset with
    issue := some ⟨.wave 0, false⟩
    waves := [(0, v)]
    sch := { Machine.State.reset.sch with launches := [(0, tLaunch)], wgs := [(0, ⟨0, 0, 0, 0, 0, 0, 0, false, 0, 4096, 1, false⟩)] } }

/-- A fresh wave in a clause of seven slots. -/
def tV : Wave := freshWave 0 0 0 [tHead 0 7, 0, 0, 0, 0, 0, 0, 0]

/-- A running thread in a clause of seven slots. -/
def tH : Thread := { Thread.idle with st := .running, code := some [tHead 1 7, 0, 0, 0, 0, 0, 0, 0], used := true }

/-- A sequencer thread about to issue. -/
def tThread (h : Thread) : Machine.State :=
  { Machine.State.reset with
    issue := some ⟨.thread 0 0, false⟩
    threads := [(0, h)]
    sch := { Machine.State.reset.sch with launches := [(0, tLaunch)], wgs := [(0, ⟨0, 0, 0, 0, 0, 0, 0, false, 0, 4096, 1, false⟩)] } }

/-- The state that an outcome answers. -/
def tNext (o : Host.Outcome Machine.State Fault Refusal) : Machine.State :=
  match o with
  | .next t => t
  | _ => Machine.State.reset

/-- What an instruction leaves of the wave of `tWave`. -/
def tRun (i : Instr) (v : Wave) : Wave := ((tNext (Machine.exec i (tWave v))).wave 0).getD tV

/-! ### Ill-formed terms, which `Instr.wf` refuses -/

theorem test_wf_device_step : (Instr.fabricWindow).wf = false := rfl
theorem test_wf_command : Instr.nodeAttach.wf = false := rfl
/-- A store takes a scalar register as data in a wave, a tensor command is legal in a handler, and ACTX takes either `actx` (R97, R103,
R186). -/
theorem test_legal_operands :
    legal .wave (.st ⟨.s 5, .s 20, .none, .n32, .wave, .relaxed, false, 0⟩) = true ∧
    legal .wave (.st ⟨.v 4, .s 10, .none, .n32, .wave, .relaxed, false, 0⟩) = true ∧
    legal .handler (.txf ⟨.s 30, .s 20, .s 22, .s 24, .i32, .i32, 2, false, false, 1, 2⟩) = true ∧
    legal .seq (.actxSwap ⟨.none, .none, .none, .none, .i32, .i32, 0, false, true, 0, 3⟩) = true := by decide
theorem test_wf_two_literals : (Instr.iadd ⟨.s 0, .lit 1, .lit 2, .none, .i32, 0, 0⟩).wf = false := rfl
theorem test_wf_selector_s : (Instr.commitGrid ⟨.s 0, .none, .none, .none, .i32, 0, 0⟩).wf = false := rfl
theorem test_wf_selector_m : (Instr.cbacqCons ⟨.s 0, .s 1, .none, .i32, .wave, .relaxed, false, 0⟩).wf = false := rfl
theorem test_wf_selector_e : (Instr.txfcCons ⟨.none, .q 0, .q 1, .none, .i32, .i32, 0, false, false, 0, 0⟩).wf = false := rfl
theorem test_wf_miter : (Instr.miter ⟨.none, .none, .none, .q 8, .bf16, .bf16, 3, false, false, 0, 0⟩).wf = false := rfl
theorem test_wf_good : (Instr.iadd ⟨.s 0, .lit 1, .s 2, .none, .i32, 0, 0⟩).wf = true := rfl

/-! ### Words of the spec's examples -/

theorem test_decode_iadd : decodeWord 0x0194_94EF_FF00_0000 0 = .ok (.iadd ⟨.s 20, .s 20, .inl 15, .none, .i32, 0, 0⟩) := rfl
theorem test_decode_brc : decodeWord 0x29FF_F194_FF01_0000 0 = .ok (.brc ⟨.none, .imm, .s 20, .none, .i32, 1, 0⟩) := rfl
theorem test_decode_bsplit : decodeWord 0x2EFF_F198_FF01_0003 0 = .ok (.bsplit ⟨.none, .imm, .s 24, .none, .i32, 1, 3⟩) := rfl
theorem test_decode_mov : decodeWord 0x189F_F1FF_FF10_0022 0 = .ok (.mov ⟨.s 31, .imm, .none, .none, .n32, 0, 0x22⟩) := rfl
theorem test_decode_nop : decodeWord 0x35FF_FFFF_FF00_0000 0 = .ok (.nop ⟨.none, .none, .none, .none, .i32, 0, 0⟩) := rfl
theorem test_decode_vfma : decodeWord 0x5B08_028A_0880_0000 0 =
    .ok (.vfma ⟨.v 8, .v 2, .s 10, .v 8, .f32, 0, 0, false, false, 0, false, 0⟩) := rfl
theorem test_decode_vfmul_literal : decodeWord 0x5A07_07F0_FF80_0000 0x4060_0000 =
    .ok (.vfmul ⟨.v 7, .v 7, .lit 0x4060_0000, .none, .f32, 0, 0, false, false, 0, false, 0⟩) := rfl
theorem test_decode_dot4 : decodeWord 0x630C_0405_0CBB_0000 0 =
    .ok (.dot4 ⟨.v 12, .v 4, .v 5, .v 12, .e4m3, 11, 0, false, false, 0, false, 0⟩) := rfl
theorem test_decode_topk : decodeWord 0x7414_06FF_FF80_000A 0 =
    .ok (.topk ⟨.v 20, .v 6, .none, .none, .f32, 0, 0, false, false, 0, false, 10⟩) := rfl
theorem test_decode_ld : decodeWord 0x8004_8A02_1000_0000 0 =
    .ok (.ld ⟨.v 4, .s 10, .v 2, .n32, .wave, .relaxed, false, 0⟩) := rfl
theorem test_decode_atom : decodeWord 0x8708_9403_1600_0040 0 =
    .ok (.atom ⟨.v 8, .s 20, .v 3, .n32, .device, .relaxed, false, 0x40⟩) := rfl
theorem test_decode_waitc : decodeWord 0x90FF_FFFF_0682_0000 0 =
    .ok (.waitc ⟨.none, .none, .none, .i32, .device, .acquire, false, 0x20000⟩) := rfl
theorem test_decode_bar : decodeWord 0x92FF_FFFF_0200_0000 0 =
    .ok (.bar ⟨.none, .none, .none, .i32, .block, .relaxed, false, 0⟩) := rfl
theorem test_decode_commit_grid : decodeWord 0xA0A8_FFFF_FF01_0000 0 =
    .ok (.commitGrid ⟨.s 40, .none, .none, .none, .i32, 1, 0⟩) := rfl
theorem test_decode_dflush_pod : decodeWord 0xA1FF_FFFF_FF01_0000 0 =
    .ok (.dflushPod ⟨.none, .none, .none, .none, .i32, 1, 0⟩) := rfl
theorem test_decode_mred : decodeWord 0xA29E_94FF_0700_0000 0 =
    .ok (.mred ⟨.s 30, .s 20, .none, .i32, .device, .release, false, 0⟩) := rfl
theorem test_decode_capnew : decodeWord 0xA6A8_9496_FF00_0001 0 =
    .ok (.capnew ⟨.s 40, .s 20, .s 22, .none, .i32, 0, 1⟩) := rfl
theorem test_decode_mma : decodeWord 0xB0FF_C4C6_C899_0105 0 =
    .ok (.mma ⟨.none, .q 4, .q 6, .q 8, .bf16, .bf16, 0, false, false, 1, 5⟩) := rfl
theorem test_decode_miter : decodeWord 0xB3CC_FFFF_CA90_2003 0 =
    .ok (.miter ⟨.q 12, .none, .none, .q 10, .bf16, .i32, 2, false, false, 0, 3⟩) := rfl
theorem test_decode_txf : decodeWord 0xC09E_9496_9800_2102 0 =
    .ok (.txf ⟨.s 30, .s 20, .s 22, .s 24, .i32, .i32, 2, false, false, 1, 2⟩) := rfl
theorem test_decode_tnext : decodeWord 0xC4C6_C3FF_FF00_0000 0 =
    .ok (.tnext ⟨.q 6, .q 3, .none, .none, .i32, .i32, 0, false, false, 0, 0⟩) := rfl
theorem test_decode_park : decodeWord 0xC5DD_C3C6_FF00_0000 0 =
    .ok (.park ⟨.q 29, .q 3, .q 6, .none, .i32, .i32, 0, false, false, 0, 0⟩) := rfl
theorem test_decode_trap_seq : decodeWord 0xD0FF_FFFF_FF00_0055 0 =
    .ok (.trapSeq ⟨.none, .none, .none, .none, .i32, 0, 0x55⟩) := rfl
theorem test_decode_halt : decodeWord 0xD4FF_FFFF_FF00_0000 0 = .ok (.halt ⟨.none, .none, .none, .none, .i32, 0, 0⟩) := rfl
theorem test_decode_rep : decodeWord 0xE000_4080_8000_8000 0 = .ok (.rep ⟨4, 8, 8, 0, 8, 0⟩) := rfl
theorem test_decode_reserved_opcode : decodeWord 0x2100_0000_0000_0000 0 = .error .badOpcode := rfl
theorem test_decode_reserved_type : decodeWord 0x0194_94EF_FFE0_0000 0 = .error .badType := rfl
theorem test_decode_reserved_operand : decodeWord 0x0194_94F2_FF00_0000 0 = .error .badOperand := rfl
theorem test_decode_two_literals : decodeWord 0x0194_F0F0_FF00_0000 7 = .error .twoLiterals := rfl
theorem test_decode_command : decodeCommand 0x0C55_0000_0000_0000 0 0 = .exptableRegister := rfl

/-! ### Single steps on the values of the spec's examples -/

/-- The wave with scalar register n holding x. -/
def Machine.Wave.with (v : Wave) (n : Nat) (x : W32) : Wave := { v with sreg := v.sreg.setIfInBounds n x }

/-- The wave with vector register r holding the words of a list in its first lanes, and only the lanes of m active. -/
def Machine.Wave.withV (v : Wave) (r : Nat) (m : Mask) (l : List W32) : Wave :=
  { v with vreg := v.vreg.setIfInBounds r (Vector.ofFn (fun i : Fin 96 => l.getD i.val 0)), p0 := { v.p0 with mask := m } }

/-- Example 11-1: s20 counts down from 3. -/
theorem test_iadd_counts_down :
    (tRun (.iadd ⟨.s 20, .s 20, .inl 15, .none, .i32, 0, 0⟩) (tV.with 20 3)).getS 20 = 2 := by decide
theorem test_iadd_wraps :
    (tRun (.iadd ⟨.s 20, .s 20, .inl 15, .none, .i32, 0, 0⟩) tV).getS 20 = 0xFFFF_FFFF := by decide
theorem test_brc_taken : (tRun (.brc ⟨.none, .imm, .s 20, .none, .i32, 1, 0⟩) (tV.with 20 2)).path.pc = 0 := by decide
theorem test_brc_falls_through : (tRun (.brc ⟨.none, .imm, .s 20, .none, .i32, 1, 0⟩) tV).path.pc = 0x40 := by decide
/-- R113: a division by zero gives all ones, and the signed overflow its dividend. -/
theorem test_idiv_by_zero : (tRun (.idiv ⟨.s 1, .s 2, .s 3, .none, .i32, 0, 0⟩) (tV.with 2 7)).getS 1 = 0xFFFF_FFFF := by decide
theorem test_idiv_overflow :
    (tRun (.idiv ⟨.s 1, .s 2, .inl 15, .none, .i32, 0, 0⟩) (tV.with 2 0x8000_0000)).getS 1 = 0x8000_0000 := by decide
theorem test_irem_sign_of_dividend :
    (tRun (.irem ⟨.s 1, .s 2, .inl 3, .none, .i32, 0, 0⟩) (tV.with 2 0xFFFF_FFF9)).getS 1 = 0xFFFF_FFFF := by decide
theorem test_imulh_signed :
    (tRun (.imulh ⟨.s 1, .s 2, .inl 2, .none, .i32, 0, 0⟩) (tV.with 2 0xFFFF_FFFF)).getS 1 = 0xFFFF_FFFF := by decide
theorem test_imulh_unsigned :
    (tRun (.imulh ⟨.s 1, .s 2, .inl 2, .none, .n32, 0, 0⟩) (tV.with 2 0xFFFF_FFFF)).getS 1 = 1 := by decide
theorem test_shift_count_modulo_width :
    (tRun (.shl ⟨.s 1, .inl 1, .s 2, .none, .n32, 0, 0⟩) (tV.with 2 33)).getS 1 = 2 := by decide
theorem test_rot : (tRun (.rot ⟨.s 1, .s 2, .inl 4, .none, .n32, 0, 0⟩) (tV.with 2 0x1234_5678)).getS 1 = 0x2345_6781 := by decide
theorem test_clz_of_zero : (tRun (.clz ⟨.s 1, .s 2, .none, .none, .n32, 0, 0⟩) tV).getS 1 = 32 := by decide
theorem test_bfx_signed :
    (tRun (.bfx ⟨.s 1, .s 2, .s 3, .none, .i32, 0, 0⟩) ((tV.with 2 0x0000_0F00).with 3 0x0408)).getS 1 = 0xFFFF_FFFF := by decide
/-- R110: a 32-bit result of a thread is sign-extended for .i32 and zero-extended for .n32. -/
theorem test_thread_sign_extends :
    (((tNext (Machine.exec (.mov ⟨.q 1, .inl 15, .none, .none, .i32, 0, 0⟩) (tThread tH))).thread 0 0).getQ 1) =
      0xFFFF_FFFF_FFFF_FFFF := by decide
theorem test_thread_zero_extends :
    (((tNext (Machine.exec (.mov ⟨.q 1, .inl 15, .none, .none, .n32, 0, 0⟩) (tThread tH))).thread 0 0).getQ 1) =
      0xFFFF_FFFF := by decide

/-- Example 11-2: lanes 0 to 7 and 95 are taken. -/
theorem test_split_masks :
    let u := tRun (.bsplit ⟨.none, .imm, .s 24, .none, .i32, 1, 3⟩) ((tV.with 24 0xFF).with 26 0x8000_0000)
    u.path.mask = 0x7FFFFFFF_FFFFFFFF_FFFFFF00 ∧ u.other.mask = 0x80000000_00000000_000000FF ∧ u.path.depth = 1 ∧
      u.other.depth = 1 ∧ u.path.pc = 0x40 ∧ u.other.pc = 0xC0 ∧ u.dstkdepth = 0 := by decide
theorem test_split_none_taken :
    let u := tRun (.bsplit ⟨.none, .imm, .s 24, .none, .i32, 1, 3⟩) tV
    u.path.pc = 0x40 ∧ u.path.depth = 0 ∧ u.other.st = .empty := by decide
theorem test_mbcnt : (tRun (.mbcnt ⟨.s 30, .s 61, .s 31, .none, .i32, 0, 0⟩)
    ({ tV with p0 := { tV.p0 with mask := 0x80000000_00000000_000000FF } }.with 31 96)).getS 30 = 9 := by decide
theorem test_mfirst_of_nothing : (tRun (.mfirst ⟨.s 30, .s 24, .none, .none, .i32, 1, 0⟩) tV).getS 30 = 96 := by decide

/-- R115: 1.0 + 2^-24 rounds to the even neighbour and raises inx. -/
theorem test_sfadd_rounds_to_even :
    let u := tRun (.sfadd ⟨.s 1, .s 2, .s 3, .none, .f32, 0, 0⟩) ((tV.with 2 0x3F80_0000).with 3 0x3380_0000)
    u.getS 1 = 0x3F80_0000 ∧ u.fpstat ≠ 0 := by decide
/-- R79: with every trap bit set the same addition writes nothing. -/
theorem test_arithmetic_trap :
    let u := tRun (.sfadd ⟨.s 1, .s 2, .s 3, .none, .f32, 0, 0⟩)
      { ((tV.with 2 0x3F80_0000).with 3 0x3380_0000) with fpstat := 0x001F_0000 }
    u.getS 1 = 0 ∧ u.fpstat = 0x001F_0000 ∧ u.stop = .seq := by decide
/-- Example 07-2. -/
theorem test_rcpa_of_three : rcpaSeed 0x4040_0000 = 0x3EAA_8000 := by decide
set_option maxRecDepth 40000 in
/-- Example 12-1. -/
theorem test_dot4_rounds_once :
    (tRun (.dot4 ⟨.v 12, .v 4, .v 5, .v 12, .e4m3, 11, 0, false, false, 0, false, 0⟩)
      (((tV.withV 4 1 [0x3434]).withV 5 1 [0x3838]).withV 12 1 [0x4B80_0000])).lane 12 0 = 0x4B80_0001 := by decide
set_option maxRecDepth 40000 in
/-- Example 12-2: the tree rounds twice to 2^24. -/
theorem test_vred_fadd :
    (tRun (.vred ⟨.s 1, .v 6, .none, .none, .f32, 6, 0, false, false, 0, false, 0⟩)
      (tV.withV 6 7 [0x4B80_0000, 0x3F80_0000, 0x3F80_0000])).getS 1 = 0x4B80_0000 := by decide
set_option maxRecDepth 40000 in
theorem test_vred_fadd_other_order :
    (tRun (.vred ⟨.s 1, .v 6, .none, .none, .f32, 6, 0, false, false, 0, false, 0⟩)
      (tV.withV 6 7 [0x3F80_0000, 0x3F80_0000, 0x4B80_0000])).getS 1 = 0x4B80_0001 := by decide
set_option maxRecDepth 40000 in
/-- Example 12-3, lanes 0, 1, 2 and 10. -/
theorem test_topk :
    let u := tRun (.topk ⟨.v 20, .v 6, .none, .none, .f32, 0, 0, false, false, 0, false, 10⟩)
      (tV.withV 6 0x4FF [0x3F00_0000, 0x4000_0000, 0x7FC0_0000, 0x4000_0000, 0xBF80_0000, 0x4040_0000, 0x8000_0000, 0, 0, 0, 0x40A0_0000])
    u.lane 20 0 = 0x4040_0000 ∧ u.lane 21 0 = 5 ∧ u.lane 20 1 = 0x4000_0000 ∧ u.lane 21 1 = 1 ∧ u.lane 21 2 = 3 ∧
      u.lane 20 10 = 0x7FC0_0000 ∧ u.lane 21 10 = 0xFFFF_FFFF := by decide
/-- R128: a register beyond the allotment traps and nothing is written. -/
theorem test_operand_range :
    (tRun (.viadd ⟨.v 20, .inl 1, .inl 1, .none, .n32, 0, 0, false, false, 0, false, 0⟩) { tV with allot := 16 }).stop = .seq := by decide
set_option maxRecDepth 40000 in
/-- R41: an inactive lane keeps its value. -/
theorem test_inactive_lane_kept :
    let u := tRun (.vmov ⟨.v 3, .inl 5, .none, .none, .n32, 0, 0, false, false, 0, false, 0⟩) (tV.withV 3 2 [9, 9])
    u.lane 3 0 = 9 ∧ u.lane 3 1 = 5 := by decide

/-- R48: six arrivals with one remaining and four expected end two phases and leave three. -/
theorem test_barrier_object_arrivals : (BarObj.mk 4 1 9).arrive 6 = ⟨4, 3, 11⟩ := by decide
/-- R229. -/
theorem test_pseudo_channel : pchOf 0x60_0001_2800 = 421 := by decide
/-- Example 18-2. -/
theorem test_layout_element :
    (layoutOf ([0x1820_0000_0000_0000, 0x0040_1000, 0, 0, 0x0000_0400_0000_0000, 0x0000_0300_0000_0020] ++
      List.replicate 14 0 ++ [0x0001_0001])).at 13 = some (0x0040_1040, 0) := by decide
theorem test_layout_padding :
    (layoutOf ([0x1820_0000_0000_0000, 0x0040_1000, 0, 0, 0x0000_0400_0000_0000, 0x0000_0300_0000_0020] ++
      List.replicate 14 0 ++ [0x0001_0001])).at 17 = none := by decide
/-! ### Witnesses: states and operands that meet the hypotheses of the statements -/

/-- A wave of `tWave` is about to issue what its clause kind allows. -/
theorem tReady (s : Machine.State) (i : Instr) (h : s.issue = some ⟨.wave 0, false⟩) (p : (s.wave 0).isSome = true)
    (l : legal .wave i = true) : Ready s (.wave 0) i := ⟨h, p, .wave, nofun, l⟩

theorem tReadyHandler (s : Machine.State) (i : Instr) (h : s.issue = some ⟨.wave 0, false⟩) (p : (s.wave 0).isSome = true)
    (l : legal .handler i = true) : Ready s (.wave 0) i := ⟨h, p, .handler, nofun, l⟩

theorem tReadySeq (s : Machine.State) (i : Instr) (h : s.issue = some ⟨.thread 0 0, false⟩) (l : legal .seq i = true) :
    Ready s (.thread 0 0) i := ⟨h, trivial, .seq, rfl, l⟩

theorem tReadyIn (s : Machine.State) (i : Instr) (h : s.issue = some ⟨.wave 0, true⟩) (p : (s.wave 0).isSome = true)
    (l : legal .wave i = true) : ReadyIn s (.wave 0) true i := ⟨h, p, .wave, nofun, l⟩

/-- A wave in a clause of one given word in slot 1. -/
def tCode (n : Nat) (ws : List W64) : Wave := freshWave 0 0 0 (tHead 0 n :: ws)

theorem witness_round_trip : (Instr.iadd ⟨.s 0, .lit 1, .s 2, .none, .i32, 0, 0⟩).wf = true := rfl
theorem witness_decodes : ∃ i, decodeWord 0x35FF_FFFF_FF00_0000 0 = .ok i := ⟨_, rfl⟩

/-- A reserved opcode, an instruction that the clause kind does not allow, and one that its place does not. -/
theorem witness_illegal_words :
    (∃ s : Machine.State, s.issue = some ⟨.wave 0, false⟩ ∧
      ∀ i, decodeWord (wordAt (s.codeOf (.wave 0)) (s.pcOf (.wave 0)).2.1) 0 ≠ .ok i) ∧
    (∃ (s : Machine.State) (i : Instr), s.issue = some ⟨.wave 0, false⟩ ∧
      decodeWord (wordAt (s.codeOf (.wave 0)) (s.pcOf (.wave 0)).2.1) 0 = .ok i ∧
      legal (headerKind (wordAt (s.codeOf (.wave 0)) 0)) i = false) ∧
    (∃ (s : Machine.State) (i : Instr), s.issue = some ⟨.wave 0, false⟩ ∧
      decodeWord (wordAt (s.codeOf (.wave 0)) (s.pcOf (.wave 0)).2.1) 0 = .ok i ∧
      legal (headerKind (wordAt (s.codeOf (.wave 0)) 0)) i = true ∧
      placeOk i (s.pcOf (.wave 0)).2.1 (s.nslot (.wave 0)) = false) :=
  ⟨⟨tWave (tCode 1 [0, 0]), rfl, fun i e => by
      have h : decodeWord (wordAt ((tWave (tCode 1 [0, 0])).codeOf (.wave 0)) ((tWave (tCode 1 [0, 0])).pcOf (.wave 0)).2.1) 0 =
        .error .badOpcode := by decide
      rw [h] at e; cases e⟩,
    ⟨tWave (tCode 1 [0xB0FF_C4C6_C899_0105, 0]), .mma ⟨.none, .q 4, .q 6, .q 8, .bf16, .bf16, 0, false, false, 1, 5⟩, rfl,
      by decide, by decide⟩,
    ⟨tWave (tCode 2 [0x29FF_F194_FF01_0000, 0]), .brc ⟨.none, .imm, .s 20, .none, .i32, 1, 0⟩, rfl, by decide, by decide, by decide⟩⟩

/-- The lowest and highest opcode of each reserved range. -/
theorem witness_reserved_opcodes :
    ∀ op ∈ [0x00, 0x21, 0x27, 0x36, 0x3F, 0x55, 0x57, 0x6D, 0x6F, 0x76, 0x7F, 0x8B, 0x8F, 0x97, 0x9F, 0xAA, 0xAF, 0xBA, 0xBF,
      0xC3, 0xCA, 0xCB, 0xD6, 0xDF, 0xE1, 0xFF], fld (BitVec.ofNat 64 (op * 2 ^ 56)) 63 56 = op := by decide

/-- A decoded instruction, an iteration of a REP target, an event, a command and an empty agenda. -/
theorem witness_step_runs :
    (∃ (s : Machine.State) (i : Instr), s.issue = some ⟨.wave 0, false⟩ ∧
      decodeWord (wordAt (s.codeOf (.wave 0)) 1) (wordAt (s.codeOf (.wave 0)) 2) = .ok i ∧
      legal (headerKind (wordAt (s.codeOf (.wave 0)) 0)) i = true ∧ placeOk i 1 (s.nslot (.wave 0)) = true) ∧
    (∃ (s : Machine.State) (i j : Instr), s.issue = some ⟨.wave 0, true⟩ ∧
      decodeWord (wordAt (s.codeOf (.wave 0)) 2) (wordAt (s.codeOf (.wave 0)) 3) = .ok i ∧
      legal (headerKind (wordAt (s.codeOf (.wave 0)) 0)) i = true ∧ placeOk i 2 (s.nslot (.wave 0)) = true ∧
      Instr.iter i (s.sweep (.wave 0)) ((s.repctlOf (.wave 0)).toNat / 4096 % 4096) = some j) ∧
    ({ Machine.State.reset with agenda := [.event .fabricWindow] }).agenda = .event .fabricWindow :: [] ∧
    ({ Machine.State.reset with agenda := [.mail .root 64] }).agenda = .mail .root 64 :: [] ∧
    Machine.State.reset.issue = none ∧ Machine.State.reset.agenda = [] :=
  ⟨⟨tWave (tCode 1 [0x35FF_FFFF_FF00_0000, 0]), .nop ⟨.none, .none, .none, .none, .i32, 0, 0⟩, rfl, by decide, by decide, by decide⟩,
    ⟨{ tWave (tCode 2 [0xE000_4080_8000_8000, 0x5B08_028A_0880_0000]) with issue := some ⟨.wave 0, true⟩ },
      .vfma ⟨.v 8, .v 2, .s 10, .v 8, .f32, 0, 0, false, false, 0, false, 0⟩,
      .vfma ⟨.v 8, .v 2, .s 10, .v 8, .f32, 0, 0, false, false, 0, false, 0⟩, rfl, by decide, by decide, by decide, by decide⟩,
    rfl, rfl, rfl, rfl⟩

theorem witness_memory_inv : MemoryInv Machine.State.reset ∧ ∃ t, Machine.step Machine.State.reset = .next t := ⟨⟨rfl, rfl⟩, _, rfl⟩

/-- A context whose save area names a handler clause. -/
def tCtx : Node :=
  { w := Vector.ofFn (fun i : Fin 16 => if i.val = 0 then 0x2000_0000_0000_0000 else if i.val = 9 then 0x2000 else 0), state := 1,
    faults := 0, gen := 0, pass := 0, hbmuse := 0, sent := 0, permits := 0, ready := false, wprev := 0, c := 0, ptr := none,
    skip := [], stale := false }

/-- A state with that context attached. -/
def tHandled (s : Machine.State) : Machine.State :=
  { s with mem := [⟨0x2000, 0x40⟩], sch := { s.sch with nodes := [(0x1000, tCtx)] } }

/-- A wave that traps with a thread of its launch to take the trap. -/
theorem witness_wave_trap :
    (tWave tV).wave 0 = some tV ∧
    ({ tWave tV with threads := [(0, tH)] }).threadFor tV.launch tV.cluster = some 0 := ⟨rfl, rfl⟩

/-- A trap that a thread with a handler may take, one of a wave and one of its own that find none. -/
theorem witness_trap_delivery :
    (∃ (s : Machine.State) (q : Queued), (s.thread 0 0).queue.find? s.reaches = some q ∧ (s.thread 0 0).mayTake = true ∧
      (s.thread 0 0).tvec ≠ 0 ∧ q.wave = some 0 ∧ s.wave 0 = some tV) ∧
    (∃ (s : Machine.State) (q : Queued), (s.thread 0 0).queue.find? s.reaches = some q ∧ (s.thread 0 0).hears = true ∧
      (s.thread 0 0).tvec = 0 ∧ q.wave = some 0 ∧ s.wave 0 = some { tV with stop := .seq }) ∧
    (∃ (s : Machine.State) (q : Queued), (s.thread 0 0).queue.find? s.reaches = some q ∧ (s.thread 0 0).hears = true ∧
      (s.thread 0 0).tvec = 0 ∧ q.wave = none ∧ (s.thread 0 0).stop = false) :=
  ⟨⟨{ tWave tV with threads := [(0, { tH with queue := [⟨some 0, 0, ⟨0, 0, 0, 0⟩⟩], tvec := 0x40, code := none })] }, _, rfl, rfl, by decide, rfl, rfl⟩,
    ⟨{ tWave { tV with stop := .seq } with threads := [(0, { tH with queue := [⟨some 0, 0, ⟨0, 0, 0, 0⟩⟩] })] }, _, rfl, rfl, rfl, rfl, rfl⟩,
    ⟨tThread { tH with queue := [⟨none, 0x8000_0000, ⟨0, 0, 0, 0⟩⟩] }, _, rfl, rfl, rfl, rfl, rfl⟩⟩

/-- The fields of an instruction without operands. -/
def tNo : SF := ⟨.none, .none, .none, .none, .i32, 0, 0⟩

/-- A queue block in whose domains a stop leaves the record to the program. -/
def tHeldNode : Node :=
  { tCtx with w := Vector.ofFn (fun i : Fin 16 => if i.val = 0 then 0x3004_0080_0000_0000 else 0) }

/-- Launch 0 of that queue, with its thread in the handler and its wave's trap taken but not released. -/
def tUnreleased : Machine.State :=
  let s := tThread { tH with inh := true }
  { s with waves := [(0, { tV with stop := .seq, dlv := true })],
           sch := { s.sch with nodes := [(0, tHeldNode)] } }

/-- A return to running, to a halted thread with and without a workgroup, one past a trap that was not released, and one in no
handler. -/
theorem witness_rett : (∃ s : Machine.State, Ready s (.thread 0 0) (.rett tNo) ∧ (s.thread 0 0).inh = true ∧ s.handled 0 0 = none ∧
      (s.thread 0 0).wasHalted = false ∧ (s.thread 0 0).st = .running) ∧
    (∃ s : Machine.State, Ready s (.thread 0 0) (.rett tNo) ∧ (s.thread 0 0).inh = true ∧ s.handled 0 0 = none ∧
      (s.thread 0 0).wasHalted = true ∧ s.onCluster (s.thread 0 0).launch 0 = true) ∧
    (∃ s : Machine.State, Ready s (.thread 0 0) (.rett tNo) ∧ (s.thread 0 0).inh = true ∧ s.handled 0 0 = none ∧
      (s.thread 0 0).wasHalted = true ∧ s.onCluster (s.thread 0 0).launch 0 = false ∧ (s.thread 0 0).queue = []) ∧
    (∃ l v, Ready tUnreleased (.thread 0 0) (.rett tNo) ∧ (tUnreleased.thread 0 0).inh = true ∧ tUnreleased.handled 0 0 = some (0, v) ∧
      tUnreleased.wave 0 = some v ∧ v.bank = .active ∧ tUnreleased.launch v.launch = some l ∧ (tUnreleased.effFdom l.q).testBit 3 = true ∧
      (tUnreleased.thread 0 0).wasHalted = false ∧ (tUnreleased.thread 0 0).st = .running) ∧
    (∃ s : Machine.State, Ready s (.thread 0 0) (.rett tNo) ∧ (s.thread 0 0).inh = false) :=
  ⟨⟨tThread { tH with inh := true }, tReadySeq _ _ rfl rfl, rfl, rfl, rfl, rfl⟩,
    ⟨tThread { tH with inh := true, wasHalted := true }, tReadySeq _ _ rfl rfl, rfl, rfl, rfl, rfl⟩,
    ⟨tThread { tH with inh := true, wasHalted := true, launch := 9 }, tReadySeq _ _ rfl rfl, rfl, rfl, rfl, rfl, rfl⟩,
    ⟨tLaunch, { tV with stop := .seq, dlv := true }, tReadySeq _ _ rfl rfl, rfl, rfl, rfl, rfl, rfl, by decide, rfl, rfl⟩,
    ⟨tThread tH, tReadySeq _ _ rfl rfl, rfl⟩⟩

theorem witness_first_touch :
    (∃ s : Machine.State, s.wave 0 = some tV ∧ s.hentry tV.ctx ≠ 0 ∧ tV.inh = none) ∧
    (∃ f, Ready (tWave tV) (.wave 0) (.rett f) ∧ (tWave tV).wave 0 = some tV) :=
  ⟨⟨tHandled (tWave tV), rfl, by decide, rfl⟩,
    ⟨⟨.none, .none, .none, .none, .i32, 0, 0⟩, tReadyHandler _ _ rfl rfl rfl, rfl⟩⟩

theorem witness_trap_instructions :
    (∃ f, Ready (tWave tV) (.wave 0) (.trapSeq f)) ∧
    (∃ f, Ready (tThread { tH with tvec := 0x40 }) (.thread 0 0) (.trapSeq f) ∧ ({ tH with tvec := 0x40 }).inh = false) ∧
    (∃ f, Ready (tThread { tH with inh := true }) (.thread 0 0) (.trapSeq f) ∧ Ready (tThread tH) (.thread 0 0) (.trapSeq f) ∧ tH.tvec = 0) ∧
    (∃ f, Ready (tThread tH) (.thread 0 0) (.trapHost f) ∧ headerKind (wordAt ((tThread tH).codeOf (.thread 0 0)) 0) ≠ .handler) ∧
    (∃ f, Ready (tWave tV) (.wave 0) (.trapHost f) ∧ f.imm ≠ 0xFFFF) ∧
    (∃ (s : Machine.State) (f : SF), Ready s (.wave 0) (.trapHost f) ∧ f.imm = 0xFFFF ∧ headerKind (wordAt (s.codeOf (.wave 0)) 0) = .handler) ∧
    (∃ s : Machine.State, s.wave 0 = some { tV with step := true, stop := .seq }) :=
  ⟨⟨⟨.none, .none, .none, .none, .i32, 0, 0x55⟩, tReady _ _ rfl rfl rfl⟩,
    ⟨⟨.none, .none, .none, .none, .i32, 0, 0x55⟩, tReadySeq _ _ rfl rfl, rfl⟩,
    ⟨⟨.none, .none, .none, .none, .i32, 0, 0x55⟩, tReadySeq _ _ rfl rfl, tReadySeq _ _ rfl rfl, rfl⟩,
    ⟨⟨.none, .none, .none, .none, .i32, 1, 0x55⟩, tReadySeq _ _ rfl rfl, by decide⟩,
    ⟨⟨.none, .none, .none, .none, .i32, 1, 0xFFFE⟩, tReady _ _ rfl rfl rfl, by decide⟩,
    ⟨tWave (freshWave 0 0 0 [tHead 2 7]), ⟨.none, .none, .none, .none, .i32, 1, 0xFFFF⟩, tReadyHandler _ _ rfl rfl rfl, rfl, rfl⟩,
    ⟨tWave { tV with step := true, stop := .seq }, rfl⟩⟩

theorem witness_scalar_integer : ∃ (f : SF) (x : Int), Ready (tWave tV) (.wave 0) (.iadd f) ∧
    (Instr.iadd f).intResult ((tWave tV).srcBits (.wave 0) f.ty.bits f.imm f.sa) ((tWave tV).srcBits (.wave 0) f.ty.bits f.imm f.sb)
      ((tWave tV).srcBits (.wave 0) f.ty.bits f.imm f.sc) = some (f, x) :=
  ⟨⟨.s 1, .s 2, .inl 3, .none, .i32, 0, 0⟩, _, tReady _ _ rfl rfl rfl, rfl⟩

theorem witness_select_and_read : (∃ f, Ready (tWave tV) (.wave 0) (.sel f)) ∧ (∃ f, Ready (tWave tV) (.wave 0) (.lea f)) ∧
    (∃ f, Ready (tWave tV) (.wave 0) (.mfs f)) :=
  ⟨⟨⟨.s 1, .s 2, .inl 3, .s 4, .i32, 0, 0⟩, tReady _ _ rfl rfl rfl⟩, ⟨⟨.s 2, .s 4, .s 6, .none, .i32, 15, 8⟩, tReady _ _ rfl rfl rfl⟩,
    ⟨⟨.s 2, .none, .none, .none, .i32, 0, 7⟩, tReady _ _ rfl rfl rfl⟩⟩

theorem witness_mask_counts : (∃ f, Ready (tWave tV) (.wave 0) (.mbcnt f)) ∧ (∃ f, Ready (tWave tV) (.wave 0) (.mfirst f) ∧ f.fn ≠ 0) ∧
    (fld ((tWave (tCode 1 [0x349E_98FF_FF02_0000])).word (.wave 0)) 63 56 = 0x34 ∧
      2 ≤ fld ((tWave (tCode 1 [0x349E_98FF_FF02_0000])).word (.wave 0)) 19 16) ∧
    (fld ((tWave (tCode 1 [0x339E_98E1_FF01_0000])).word (.wave 0)) 63 56 = 0x33 ∧
      fld ((tWave (tCode 1 [0x339E_98E1_FF01_0000])).word (.wave 0)) 19 16 ≠ 0) :=
  ⟨⟨⟨.s 30, .s 61, .inl 5, .none, .i32, 0, 0⟩, tReady _ _ rfl rfl rfl⟩,
    ⟨⟨.s 30, .s 24, .none, .none, .i32, 1, 0⟩, tReady _ _ rfl rfl rfl, by decide⟩, by decide, by decide⟩

/-- Flags without and with their trap bit, for an addition and a conversion. -/
theorem witness_scalar_float :
    (∃ (s : Machine.State) (f : SF) (r : Nat × FFlags), Ready s (.wave 0) (.sfadd f) ∧
      (Instr.sfadd f).floatResult (s.f32 (.wave 0) f.sa) (s.f32 (.wave 0) f.sb) (s.f32 (.wave 0) f.sc) = some (f, r) ∧
      trapsOn (s.fpstatOf (.wave 0)) r.2 = false) ∧
    (∃ (s : Machine.State) (f : SF) (r : Nat × FFlags), Ready s (.wave 0) (.sfadd f) ∧
      (Instr.sfadd f).floatResult (s.f32 (.wave 0) f.sa) (s.f32 (.wave 0) f.sb) (s.f32 (.wave 0) f.sc) = some (f, r) ∧
      trapsOn (s.fpstatOf (.wave 0)) r.2 = true) ∧
    (∃ f, Ready (tWave tV) (.wave 0) (.scvt f) ∧ Ty.ofCode f.fn.toNat = some .i32) :=
  ⟨⟨tWave tV, ⟨.s 1, .s 2, .s 3, .none, .f32, 0, 0⟩, _, tReady _ _ rfl rfl rfl, rfl, by decide⟩,
    ⟨tWave { ((tV.with 2 0x3F80_0000).with 3 0x3380_0000) with fpstat := 0x001F_0000 }, ⟨.s 1, .s 2, .s 3, .none, .f32, 0, 0⟩, _,
      tReady _ _ rfl rfl rfl, rfl, by decide⟩,
    ⟨⟨.s 1, .s 2, .none, .none, .f32, 0, 1⟩, tReady _ _ rfl rfl rfl, rfl⟩⟩

theorem witness_arithmetic_trap : (∃ (v : Wave) (fl : FFlags), (tWave v).wave 0 = some v ∧
      ∃ n, n < 5 ∧ fl.getLsbD n = true ∧ v.fpstat.getLsbD (16 + n) = true) ∧
    (∃ (s : Machine.State) (fl : FFlags), ∃ n, n < 5 ∧ fl.getLsbD n = true ∧ (s.thread 0 0).fpstat.getLsbD (16 + n) = true) :=
  ⟨⟨{ tV with fpstat := 0x0010_0000 }, 0x10, rfl, 4, by decide, by decide, by decide⟩,
    ⟨tThread { tH with fpstat := 0x0010_0000 }, 0x10, 4, by decide, by decide, by decide⟩⟩

theorem witness_special_register_writes : ∀ n ∈ [0, 1, 2, 3, 4, 5, 6, 7, 8],
    ∃ f : SF, f.imm.toNat = n ∧ Ready (tWave tV) (.wave 0) (.mts f) := by
  intro n hn
  refine ⟨⟨.none, .inl 3, .none, .none, .i32, 0, BitVec.ofNat 16 n⟩, ?_, ?_⟩ <;>
    simp only [List.mem_cons, List.not_mem_nil, or_false] at hn <;>
    rcases hn with rfl | rfl | rfl | rfl | rfl | rfl | rfl | rfl | rfl <;> first | decide | exact tReady _ _ rfl rfl rfl

/-- Handler registers and those of a thread. -/
theorem witness_special_registers_of_kinds : (∃ f : SF, f.imm = 0x114 ∧ Ready (tWave tV) (.wave 0) (.mts f)) ∧
    (∃ f : SF, f.imm = 0x100 ∧ Ready (tThread tH) (.thread 0 0) (.mts f)) ∧
    (∃ f : SF, f.imm = 0x101 ∧ Ready (tThread tH) (.thread 0 0) (.mts f)) :=
  ⟨⟨⟨.none, .inl 3, .none, .none, .i32, 0, 0x114⟩, rfl, tReadyHandler _ _ rfl rfl rfl⟩,
    ⟨⟨.none, .inl 3, .none, .none, .i32, 0, 0x100⟩, rfl, tReadySeq _ _ rfl rfl⟩,
    ⟨⟨.none, .inl 3, .none, .none, .i32, 0, 0x101⟩, rfl, tReadySeq _ _ rfl rfl⟩⟩

/-- A target by displacement, by literal and by register, and a register that holds none. -/
theorem witness_control_transfers :
    (∃ f, Ready (tWave tV) (.wave 0) (.br f) ∧ f.sa = .imm) ∧
    (∃ (f : SF) (x : W64), Ready (tWave tV) (.wave 0) (.br f) ∧ f.sa = .lit x ∧ (tWave tV).target (.wave 0) f = some 0x80) ∧
    (∃ f, Ready (tWave tV) (.wave 0) (.brc f)) ∧ (∃ f, Ready (tWave tV) (.wave 0) (.call f)) ∧
    (∃ (s : Machine.State) (f : SF), Ready s (.wave 0) (.brx f) ∧ Ready s (.wave 0) (.ret f) ∧ s.target (.wave 0) f = some 0) ∧
    (∃ (s : Machine.State) (f : SF), Ready s (.wave 0) (.brx f) ∧ Ready s (.wave 0) (.ret f) ∧ s.target (.wave 0) f = none) ∧
    (∃ (s : Machine.State) (f : SF), Ready s (.wave 0) (.callx f) ∧ s.target (.wave 0) f = some 0) ∧
    (∃ (s : Machine.State) (f : SF), Ready s (.wave 0) (.callx f) ∧ s.target (.wave 0) f = none) :=
  ⟨⟨⟨.none, .imm, .none, .none, .i32, 0, 0⟩, tReady _ _ rfl rfl rfl, rfl⟩,
    ⟨⟨.none, .lit 0x80, .none, .none, .i32, 0, 0⟩, 0x80, tReady _ _ rfl rfl rfl, rfl, rfl⟩,
    ⟨⟨.none, .imm, .s 20, .none, .i32, 1, 0⟩, tReady _ _ rfl rfl rfl⟩,
    ⟨⟨.s 30, .imm, .none, .none, .i32, 0, 0⟩, tReady _ _ rfl rfl rfl⟩,
    ⟨tWave tV, ⟨.none, .s 20, .none, .none, .i32, 0, 0⟩, tReady _ _ rfl rfl rfl, tReady _ _ rfl rfl rfl, rfl⟩,
    ⟨tWave (tV.with 20 1), ⟨.none, .s 20, .none, .none, .i32, 0, 0⟩, tReady _ _ rfl rfl rfl, tReady _ _ rfl rfl rfl, by decide⟩,
    ⟨tWave tV, ⟨.s 30, .s 20, .none, .none, .i32, 0, 0⟩, tReady _ _ rfl rfl rfl, rfl⟩,
    ⟨tWave (tV.with 21 0x0200_0000), ⟨.s 30, .s 20, .none, .none, .i32, 0, 0⟩, tReady _ _ rfl rfl rfl, by decide⟩⟩

theorem witness_nop_yield : (∃ f, Ready (tWave tV) (.wave 0) (.nop f)) ∧ (∃ f, Ready (tThread tH) (.thread 0 0) (.yield f)) :=
  ⟨⟨⟨.none, .none, .none, .none, .i32, 0, 0⟩, tReady _ _ rfl rfl rfl⟩,
    ⟨⟨.none, .none, .none, .none, .i32, 0, 0⟩, tReadySeq _ _ rfl rfl⟩⟩

theorem witness_mask_combination : ∃ f : SF, Ready (tWave tV) (.wave 0) (.msk f) ∧ f.dst = .s 61 :=
  ⟨⟨.s 61, .s 0, .s 24, .none, .i32, 2, 0⟩, tReady _ _ rfl rfl rfl, rfl⟩

/-- The fields of BSPLIT on the triple at s24. -/
def tSplit : SF := ⟨.none, .imm, .s 24, .none, .i32, 1, 3⟩

/-- None taken; all taken; both sides with room and at depth 63. -/
theorem witness_split :
    (Ready (tWave tV) (.wave 0) (.bsplit tSplit) ∧ tV.splitLanes (tWave tV) (.wave 0) tSplit &&& tV.path.mask = 0) ∧
    (∃ v : Wave, v.splitLanes (tWave v) (.wave 0) tSplit &&& v.path.mask ≠ 0 ∧
      v.path.mask &&& ~~~(v.splitLanes (tWave v) (.wave 0) tSplit &&& v.path.mask) = 0) ∧
    (∃ v : Wave, v.splitLanes (tWave v) (.wave 0) tSplit &&& v.path.mask ≠ 0 ∧
      v.path.mask &&& ~~~(v.splitLanes (tWave v) (.wave 0) tSplit &&& v.path.mask) ≠ 0 ∧ v.path.depth = 62 ∧ v.other.st = .empty) ∧
    (∃ v : Wave, v.splitLanes (tWave v) (.wave 0) tSplit &&& v.path.mask ≠ 0 ∧
      v.path.mask &&& ~~~(v.splitLanes (tWave v) (.wave 0) tSplit &&& v.path.mask) ≠ 0 ∧ v.path.depth = 63) :=
  ⟨⟨tReady _ _ rfl rfl rfl, by decide⟩,
    ⟨{ tV.with 24 1 with p0 := { tV.p0 with mask := 1 } }, by decide, by decide⟩,
    ⟨{ tV.with 24 1 with p0 := { tV.p0 with mask := 3, depth := 62 } }, by decide, by decide, rfl, rfl⟩,
    ⟨{ tV.with 24 1 with p0 := { tV.p0 with mask := 3, depth := 63 } }, by decide, by decide, rfl⟩⟩

/-- Depth 0; the other slot empty; joined at the same depth; running at the same depth. -/
theorem witness_join : ∀ p ∈ [(0, PathSt.empty, 0), (1, .empty, 0), (2, .running, 1), (1, .joined, 1), (1, .running, 1), (1, .joined, 2)],
    ∃ v : Wave, Ready (tWave v) (.wave 0) (.bjoin ⟨.none, .none, .none, .none, .i32, 0, 0⟩) ∧ v.step = false ∧ v.dstkdepth = 0 ∧
      v.path.depth = p.1 ∧ v.other.st = p.2.1 ∧ v.other.depth = p.2.2 := by
  intro p _
  exact ⟨{ tV with p0 := { tV.p0 with depth := p.1 }, p1 := { tV.p1 with st := p.2.1, depth := p.2.2 } },
    tReady _ _ rfl rfl rfl, rfl, rfl, rfl, rfl, rfl⟩

/-- A page of context 0 at address 65,536, readable and writable, held by the TLBs of core 0 and of cluster 0's sequencer and engine. -/
def tPage (s : Machine.State) : Machine.State := { s with path := { s.path with tlb := [⟨0, 0, 16, 0x10007, 0x10000⟩, ⟨160, 0, 16, 0x10007, 0x10000⟩, ⟨200, 0, 16, 0x10007, 0x10000⟩] } }

/-- The same page deferred, with a staging area on its stack. -/
def tPageDeferred (s : Machine.State) : Machine.State :=
  { s with path := { s.path with tlb := [⟨0, 0, 16, 0x0020_0000_0001_0007, 0x10000⟩] }
           dfd := { s.dfd with areas := [(0, 0, 16)] } }

/-- A wave with both slots taken and room for two entries, one of them stored. -/
def tStacked : Wave :=
  { tV.with 24 1 with p0 := { tV.p0 with mask := 3, depth := 1 }, p1 := { tV.p1 with st := .joined, depth := 1 }, dstkbase := 0x10000,
                      dstklen := 2, dstkdepth := 1 }

/-- The page on which that wave pushes, and from which it pops an entry whose first word is given, of depth 1. -/
def tStack (e : Byte) : Machine.State := { tPage (tWave tStacked) with mem := [⟨0x10000, e⟩, ⟨0x10018, 1⟩] }

set_option maxRecDepth 40000 in
theorem tPushes (e : Byte) : Pushes (tStack e) 0 tStacked 0x10020 0x10007 := ⟨by decide, rfl, rfl, rfl, rfl⟩
set_option maxRecDepth 40000 in
theorem tPops (e : Byte) : Pops (tStack e) 0 tStacked 0x10000 := ⟨by decide, ⟨_, rfl⟩, rfl, rfl⟩
theorem tEntryAt (e : Byte) : EntryAt (tStack e) tStacked 0x10000 (Memory.words (tStack e).mem 0x10000 4) :=
  ⟨⟨0x10000, rfl, rfl, rfl, rfl⟩, rfl⟩

/-- Both sides taken with the other slot occupied: no room; a page that is not translated, a deferred one, and room. -/
theorem witness_split_push :
    tStacked.splitLanes (tWave tStacked) (.wave 0) tSplit &&& tStacked.path.mask = 1 ∧
    tStacked.path.depth ≠ 63 ∧ tStacked.other.st ≠ .empty ∧ tStacked.dstkdepth ≠ tStacked.dstklen ∧
    ({ tStacked with dstkdepth := 2 }).dstkdepth = ({ tStacked with dstkdepth := 2 }).dstklen ∧
    (∃ c, (tWave tStacked).xlate 0 0 (tStacked.entryVa 1) false true = .error c) ∧
    (∃ pa leaf, (tPageDeferred (tWave tStacked)).xlate 0 0 (tStacked.entryVa 1) false true = .ok (pa, leaf) ∧ bitAt leaf 53 = true) ∧
    Pushes (tStack 0) 0 tStacked 0x10020 0x10007 ∧ (tStack 0).home 0x10020 = .mem 0x10020 ∧ (tStack 0).path.l1 = [] :=
  ⟨by decide, by decide, by decide, by decide, rfl, ⟨_, rfl⟩, ⟨_, _, rfl, by decide⟩, tPushes 0, rfl, rfl⟩

/-- A merge that pops: an entry on no page, one with a reserved field set, a Joined one deeper and not deeper, a Running one. -/
theorem witness_join_pop : tStacked.path.depth = 1 ∧ tStacked.other.st = .joined ∧ tStacked.other.depth = 1 ∧
    (∃ c, (tWave tStacked).xlate 0 0 (tStacked.entryVa 0) true false = .error c) ∧
    (∀ e, Pops (tStack e) 0 tStacked 0x10000 ∧ EntryAt (tStack e) tStacked 0x10000 (Memory.words (tStack e).mem 0x10000 4)) ∧
    entryBad (Memory.words (tStack 2).mem 0x10000 4) = true ∧ entryBad (Memory.words (tStack 1).mem 0x10000 4) = false ∧
    fld (wordAt (Memory.words (tStack 1).mem 0x10000 4) 0) 0 0 = 1 ∧ fld (wordAt (Memory.words (tStack 1).mem 0x10000 4) 3) 5 0 = 1 ∧
    entryBad (Memory.words (tStack 0).mem 0x10000 4) = false ∧ fld (wordAt (Memory.words (tStack 0).mem 0x10000 4) 0) 0 0 = 0 :=
  ⟨rfl, rfl, rfl, ⟨_, rfl⟩, fun e => ⟨tPops e, tEntryAt e⟩, by decide, by decide, by decide, by decide, by decide, by decide⟩

/-- That wave at depth 3, where a Joined entry of depth 1 is one of an outer split. -/
def tDeep : Wave := { tStacked with p0 := { tStacked.p0 with depth := 3 }, p1 := { tStacked.p1 with depth := 3 } }

set_option maxRecDepth 40000 in
theorem witness_join_pop_deep :
    let s := { tPage (tWave tDeep) with mem := [⟨0x10000, 1⟩, ⟨0x10018, 1⟩] }
    let e := Memory.words s.mem 0x10000 4
    Ready s (.wave 0) (.bjoin ⟨.none, .none, .none, .none, .i32, 0, 0⟩) ∧ s.wave 0 = some tDeep ∧ tDeep.dstkdepth ≠ 0 ∧
      tDeep.other.st = .joined ∧ tDeep.other.depth = tDeep.path.depth ∧ Pops s 0 tDeep 0x10000 ∧ EntryAt s tDeep 0x10000 e ∧
      entryBad e = false ∧ fld (wordAt e 0) 0 0 = 1 ∧ fld (wordAt e 3) 5 0 ≠ 0 ∧ fld (wordAt e 3) 5 0 ≤ tDeep.path.depth - 1 :=
  ⟨tReady _ _ rfl rfl rfl, rfl, by decide, rfl, rfl, ⟨by decide, ⟨_, rfl⟩, rfl, rfl⟩, ⟨⟨0x10000, rfl, rfl, rfl, rfl⟩, rfl⟩, by decide, by decide,
    by decide, by decide⟩

/-- The other slot empty with an entry that may and may not be placed; no room; no page; a stored and a loaded entry; an empty
stack. -/
theorem witness_stack :
    (∃ v : Wave, Ready (tWave v) (.wave 0) (.dpush ⟨.none, .s 48, .none, .none, .i32, 0, 0⟩) ∧ v.other.st = .empty ∧
      entryBad (v.quad 48) = false ∧ fld (wordAt (v.quad 48) 0) 0 0 = 0) ∧
    (∃ v : Wave, v.other.st = .empty ∧ entryBad (v.quad 48) = true) ∧
    (∃ v : Wave, v.other.st ≠ .empty ∧ v.dstkdepth = v.dstklen) ∧
    (tStacked.other.st ≠ .empty ∧ ∃ c, (tWave tStacked).xlate 0 0 (tStacked.entryVa 1) false true = .error c) ∧
    (Ready (tStack 0) (.wave 0) (.dpush ⟨.none, .s 48, .none, .none, .i32, 0, 0⟩) ∧ Pushes (tStack 0) 0 tStacked 0x10020 0x10007) ∧
    (Ready (tWave tV) (.wave 0) (.dpop ⟨.s 0, .none, .none, .none, .i32, 0, 0⟩) ∧ tV.dstkdepth = 0) ∧
    (Ready (tStack 0) (.wave 0) (.dpop ⟨.s 0, .none, .none, .none, .i32, 0, 0⟩) ∧ Pops (tStack 0) 0 tStacked 0x10000 ∧
      EntryAt (tStack 0) tStacked 0x10000 (Memory.words (tStack 0).mem 0x10000 4)) :=
  ⟨⟨tV, tReady _ _ rfl rfl rfl, rfl, by decide, by decide⟩,
    ⟨tV.with 49 0x8000_0000, rfl, by decide⟩,
    ⟨{ tV with p1 := { tV.p1 with st := .running } }, by decide, rfl⟩,
    ⟨by decide, _, rfl⟩, ⟨tReady _ _ rfl rfl rfl, tPushes 0⟩, ⟨tReady _ _ rfl rfl rfl, rfl⟩,
    ⟨tReady _ _ rfl rfl rfl, tPops 0, tEntryAt 0⟩⟩

/-- The fields of a vector instruction of up to three sources. -/
def tVF (d a b c : Opnd) (ty : Ty) (fn aux : Nat) : VF := ⟨d, a, b, c, ty, BitVec.ofNat 4 fn, 0, false, false, 0, false, BitVec.ofNat 8 aux⟩

theorem witness_vector_integer : ∃ (f : VF) (x : Nat → Nat → Nat → Int),
    ReadyIn (tWave tV) (.wave 0) false (.viadd f) ∧ (∀ a b c, (Instr.viadd f).laneInt a b c = some (f, x a b c)) ∧
    (f.dst :: [f.sa, f.sb, f.sc]).all (fun o => tV.inRange o 0) = true :=
  ⟨tVF (.v 127) (.v 1) (.inl 8) .none .n16 0 0, _, tReady _ _ rfl rfl rfl, fun _ _ _ => rfl, by decide⟩

/-- The same in a sweep. -/
theorem witness_vector_integer_swept : ∃ f : VF, ReadyIn { tWave tV with issue := some ⟨.wave 0, true⟩ } (.wave 0) true (.viadd f) ∧
    (f.dst :: [f.sa, f.sb, f.sc]).all (fun o => tV.inRange o 0) = true :=
  ⟨tVF (.v 127) (.v 1) (.inl 8) .none .n16 0 0, tReadyIn _ _ rfl rfl rfl, by decide⟩

/-- A wave with one active lane in which v1 holds 1.0 and v2 holds 2^-24. -/
def tInexact (fp : W32) : Wave := { (tV.withV 1 1 [0x3F80_0000]).withV 2 1 [0x3380_0000] with fpstat := fp }

/-- Every lane but lane 0 is inactive. -/
theorem tInexact_active (fp : W32) (l : Nat) (h : (tInexact fp).active l = true) : l = 0 := by
  have h : BitVec.getLsbD (1 : Mask) l = true := h
  simpa using h

/-- The result of that addition in lane 0. -/
def tSum (fp : W32) : Nat × FFlags :=
  let g := ffmt .f32
  let x (o : Opnd) : FV := g.value (modify g false false (elemOf ((tInexact fp).src (.fl g) o 0) g.width 0))
  g.addOp false (x (.v 1)) (x (.v 2))

theorem witness_vector_float : ∀ fp : W32, ∃ (f : VF) (x : Nat → Nat → Nat → Nat × FFlags),
    let v := tInexact fp
    let g := ffmt f.ty
    let e (n : Nat) (abs : Bool) (o : Opnd) (l j : Nat) : Nat := modify g (f.neg.getLsbD n) abs (elemOf (v.src (.fl g) o l) g.width j)
    let res (l j : Nat) : Nat × FFlags := x (e 2 f.abs f.sa l j) (e 1 false f.sb l j) (e 0 false f.sc l j)
    ReadyIn (tWave v) (.wave 0) false (.vfadd f) ∧ (tWave v).wave 0 = some v ∧
      (∀ a b c, (Instr.vfadd f).laneFloat a b c = some (f, x a b c)) ∧
      (f.dst :: [f.sa, f.sb, f.sc]).all (fun o => v.inRange o 0) = true ∧
      (∀ n, (tSum fp).2.getLsbD n = true ↔
        ∃ l j, l < 96 ∧ j < perLane g.width ∧ v.active l = true ∧ (res l j).2.getLsbD n = true) := by
  intro fp
  refine ⟨tVF (.v 3) (.v 1) (.v 2) .none .f32 0 0,
    fun a b _ => (ffmt .f32).addOp false ((ffmt .f32).value a) ((ffmt .f32).value b),
    tReady _ _ rfl rfl rfl, rfl, fun _ _ _ => rfl, rfl, fun n => ⟨fun h => ⟨0, 0, by decide, by decide, ?_, h⟩, ?_⟩⟩
  · show BitVec.getLsbD (1 : Mask) 0 = true
    rfl
  · rintro ⟨l, j, _, hj, ha, h⟩
    have hl := tInexact_active fp l ha
    have hj : j = 0 := by have : j < 1 := hj; omega
    subst hl hj
    exact h

set_option maxRecDepth 40000 in
/-- Its flag without and with a trap bit. -/
theorem witness_vector_float_traps : trapsOn (tInexact 0).fpstat (tSum 0).2 = false ∧
    trapsOn (tInexact 0x001F_0000).fpstat (tSum 0x001F_0000).2 = true := by decide

theorem witness_vector_words : ∃ (f : VF) (x : Nat → W32 × FFlags), ReadyIn (tWave tV) (.wave 0) false (.vfclass f) ∧
    (∀ l, (Instr.vfclass f).laneWord tV l = some (f, x l)) ∧
    (f.dst :: [f.sa, f.sb]).all (fun o => tV.inRange o 0) = true ∧
    (∀ n, (0 : FFlags).getLsbD n = true ↔ ∃ l, l < 96 ∧ tV.active l = true ∧ (x l).2.getLsbD n = true) ∧
    trapsOn tV.fpstat 0 = false :=
  ⟨tVF (.v 3) (.v 1) .none .none .f32 0 0, _, tReady _ _ rfl rfl rfl, fun _ => rfl, by decide,
    fun n => ⟨fun h => by simp at h, fun ⟨_, _, _, h⟩ => by simp at h⟩, by decide⟩

theorem witness_pack_and_dot :
    (∃ (f : VF) (d : Fin 128), ReadyIn (tWave tV) (.wave 0) false (.vpack f) ∧ f.dst = .v d ∧
      [f.dst, f.sa, f.sb].all (fun o => tV.inRange o 0) = true) ∧
    (∃ f : VF, ReadyIn (tWave tV) (.wave 0) false (.dot4 f) ∧ isIntTy f.ty = true ∧
      [f.dst, f.sa, f.sb, f.sc].all (fun o => tV.inRange o 0) = true) ∧
    (∃ f : VF, ReadyIn (tWave tV) (.wave 0) false (.dot8 f) ∧ isIntTy f.ty = false ∧
      [f.dst, f.sa, f.sb, f.sc].all (fun o => tV.inRange o 0) = true) :=
  ⟨⟨tVF (.v 3) (.v 1) (.v 2) .none .bf16 8 0, 3, tReady _ _ rfl rfl rfl, rfl, by decide⟩,
    ⟨tVF (.v 3) (.v 1) (.v 2) (.v 3) .i8 6 0, tReady _ _ rfl rfl rfl, rfl, by decide⟩,
    ⟨tVF (.v 3) (.v 1) (.v 2) (.v 3) .e2m1 13 0, tReady _ _ rfl rfl rfl, rfl, by decide⟩⟩

theorem witness_broadcast : (∃ f : VF, ReadyIn (tWave tV) (.wave 0) false (.bcast f) ∧ tV.inRange f.dst 0 = true ∧ tV.inRange f.sa 0 = true) ∧
    (fld ((tWave (tCode 1 [0x7103_0102_FF10_0000])).word (.wave 0)) 63 56 = 0x71 ∧
      fld ((tWave (tCode 1 [0x7103_0102_FF10_0000])).word (.wave 0)) 39 32 < 0x80) :=
  ⟨⟨tVF (.v 3) (.v 1) (.lit 95) .none .n32 0 0, tReady _ _ rfl rfl rfl, rfl, rfl⟩, by decide⟩

theorem witness_reductions : (∃ f : VF, ReadyIn (tWave tV) (.wave 0) false (.vred f) ∧ f.dst = .v 3 ∧ tV.inRange f.sa 0 = true) ∧
    (∃ f : VF, ReadyIn (tWave tV) (.wave 0) false (.vred f) ∧ f.dst = .s 3 ∧ tV.inRange f.sa 0 = true) ∧
    (∃ f : VF, ReadyIn (tWave tV) (.wave 0) false (.vscan f) ∧ tV.inRange f.dst 0 = true ∧ tV.inRange f.sa 0 = true) ∧
    (∃ f : VF, ReadyIn (tWave tV) (.wave 0) false (.ballot f) ∧ f.dst = .s 61 ∧ tV.inRange f.sa 0 = true) :=
  ⟨⟨tVF (.v 3) (.v 1) .none .none .f32 6 0, tReady _ _ rfl rfl rfl, rfl, rfl⟩,
    ⟨tVF (.s 3) (.v 1) .none .none .n32 0 0, tReady _ _ rfl rfl rfl, rfl, rfl⟩,
    ⟨tVF (.v 3) (.v 1) .none .none .f32 8 1, tReady _ _ rfl rfl rfl, rfl, rfl⟩,
    ⟨tVF (.s 61) (.v 1) .none .none .i32 0 0, tReady _ _ rfl rfl rfl, rfl, rfl⟩⟩

theorem witness_topk : ∃ f : VF, ReadyIn (tWave tV) (.wave 0) false (.topk f) ∧ f.dst = .v 126 ∧ tV.inRange f.dst 1 = true ∧
    tV.inRange f.sa 0 = true :=
  ⟨tVF (.v 126) (.v 6) .none .none .f32 0 10, tReady _ _ rfl rfl rfl, rfl, rfl, rfl⟩

/-- A register at the allotment, and the second register of TOPK at it. -/
theorem witness_operand_range :
    (∃ (v : Wave) (f : VF), ReadyIn (tWave v) (.wave 0) false (.viadd f) ∧ (Instr.viadd f).view = .v 0x40 f ∧ v.inRange f.dst 0 = false) ∧
    (∃ (v : Wave) (f : VF), ReadyIn (tWave v) (.wave 0) false (.topk f) ∧ (Instr.topk f).view = .v 0x74 f ∧ v.inRange f.dst 0 = true ∧
      v.inRange f.dst 1 = false) :=
  ⟨⟨{ tV with allot := 16 }, tVF (.v 16) (.v 1) (.inl 8) .none .n16 0 0, tReady _ _ rfl rfl rfl, rfl, rfl⟩,
    ⟨{ tV with allot := 7 }, tVF (.v 6) (.v 6) .none .none .f32 0 10, tReady _ _ rfl rfl rfl, rfl, rfl, rfl⟩⟩

/-- A wave at a REP of four iterations of VFMA. -/
def tRep : Wave := tCode 2 [0xE000_4080_8000_8000, 0x5B08_028A_0880_0000]

/-- A count of zero; no target; a faulting sweep; a sweep that begins; iterations before the last and the last. -/
theorem witness_rep :
    (∃ f, Ready (tWave tRep) (.wave 0) (.rep f) ∧ f.count = 0) ∧
    (∃ v f, Ready (tWave v) (.wave 0) (.rep f) ∧ f.count ≠ 0 ∧ (tWave v).repTarget (.wave 0) f = none) ∧
    (∃ v f i c, Ready (tWave v) (.wave 0) (.rep f) ∧ (tWave v).repTarget (.wave 0) f = some i ∧ v.repctl.getLsbD 31 = false ∧
      (tWave v).repFault (.wave 0) f i = some c) ∧
    (∃ f i, Ready (tWave tRep) (.wave 0) (.rep f) ∧ (tWave tRep).repTarget (.wave 0) f = some i ∧ tRep.repctl.getLsbD 31 = false ∧
      (tWave tRep).repFault (.wave 0) f i = none) ∧
    (∃ v : Wave, v.repctl = repctlWord v.alt 2 4) ∧ (∃ v : Wave, v.repctl = repctlWord v.alt 3 4) :=
  ⟨⟨⟨0, 8, 8, 0, 8, 0⟩, tReady _ _ rfl rfl rfl, rfl⟩,
    ⟨tCode 2 [0xE000_4080_8000_8000, 0], ⟨4, 8, 8, 0, 8, 0⟩, tReady _ _ rfl rfl rfl, by decide, by decide⟩,
    ⟨{ tRep with allot := 16 }, ⟨4, 8, 8, 0, 8, 0⟩, .vfma ⟨.v 8, .v 2, .s 10, .v 8, .f32, 0, 0, false, false, 0, false, 0⟩, (0x02, none, 0),
      tReady _ _ rfl rfl rfl, by decide, rfl, by decide⟩,
    ⟨⟨4, 8, 8, 0, 8, 0⟩, .vfma ⟨.v 8, .v 2, .s 10, .v 8, .f32, 0, 0, false, false, 0, false, 0⟩, tReady _ _ rfl rfl rfl, by decide, rfl, by decide⟩,
    ⟨{ tV with repctl := repctlWord false 2 4 }, rfl⟩, ⟨{ tV with repctl := repctlWord false 3 4 }, rfl⟩⟩

/-- The fields of a memory instruction. -/
def tMF (d a b : Opnd) (ty : Ty) (sc : Scope) (od : Order) (off : Nat) : MF := ⟨d, a, b, ty, sc, od, false, BitVec.ofNat 20 off⟩

/-- A wave with one active lane whose s10 holds an address. -/
def tAt (a : W32) : Wave := { tV.with 10 a with p0 := { tV.p0 with mask := 1 } }

/-- LD of v4 at s10. -/
def tLd : MF := tMF (.v 4) (.s 10) .none .n32 .wave .relaxed 0

set_option maxRecDepth 40000 in
/-- A load, a store and an atomic on a page that a TLB holds. -/
theorem witness_access_issues :
    (∃ f r regs ea val cmp tr, Ready (tPage (tWave (tAt 0x10000))) (.wave 0) (.ld f) ∧ (tPage (tWave (tAt 0x10000))).banked (.wave 0) ∧
      (Instr.ld f).accessOf (tPage (tWave (tAt 0x10000))) (.wave 0) = some (f, r, regs, ea, val, cmp) ∧
      (tPage (tWave (tAt 0x10000))).regsOk (.wave 0) regs = true ∧
      (∀ l ∈ (tPage (tWave (tAt 0x10000))).accLanes (.wave 0) r.vec, ea l % (f.ty.bits / 8) = 0) ∧
      (tPage (tWave (tAt 0x10000))).xlateLanes 0 0 r.rd r.wr ea ((tPage (tWave (tAt 0x10000))).accLanes (.wave 0) r.vec) = .ok tr ∧
      r.dfr = none ∧ (tPage (tWave (tAt 0x10000))).countRoom (.wave 0) ((tPage (tWave (tAt 0x10000))).flagFor (.wave 0) f.fs) r.ld r.st = true) ∧
    (∃ f : MF, Ready (tPage (tWave (tAt 0x10000))) (.wave 0) (.st f)) ∧ (∃ f : MF, Ready (tPage (tWave (tAt 0x10000))) (.wave 0) (.sld f)) ∧
    (∃ f : MF, Ready (tPage (tWave (tAt 0x10000))) (.wave 0) (.sst f)) ∧ (∃ f : MF, Ready (tPage (tWave (tAt 0x10000))) (.wave 0) (.ldx f)) ∧
    (∃ f : MF, Ready (tPage (tWave (tAt 0x10000))) (.wave 0) (.atom f)) ∧ (∃ f : MF, Ready (tPage (tWave (tAt 0x10000))) (.wave 0) (.red f)) ∧
    (∃ f : MF, Ready (tPage (tWave (tAt 0x10000))) (.wave 0) (.cas f)) ∧ (∃ f : MF, Ready (tPage (tWave (tAt 0x10000))) (.wave 0) (.satom f)) :=
  ⟨⟨tLd, _, _, _, _, _, [⟨0, 0x10000, 0x10000, 0x10007⟩], tReady _ _ rfl rfl rfl, ⟨_, rfl, by decide⟩, rfl, by decide, by decide, by rfl, rfl, by decide⟩,
    ⟨tLd, tReady _ _ rfl rfl rfl⟩, ⟨tMF (.s 4) (.s 10) .none .n32 .wave .relaxed 0, tReady _ _ rfl rfl rfl⟩,
    ⟨tMF (.s 4) (.s 10) .none .n32 .wave .relaxed 0, tReady _ _ rfl rfl rfl⟩,
    ⟨tMF (.v 4) (.s 10) (.v 5) .n32 .wave .relaxed 0, tReady _ _ rfl rfl rfl⟩,
    ⟨tMF (.v 4) (.s 10) .none .n32 .wave .relaxed 0, tReady _ _ rfl rfl rfl⟩,
    ⟨tMF (.v 4) (.s 10) .none .n32 .wave .relaxed 0, tReady _ _ rfl rfl rfl⟩,
    ⟨tMF (.v 4) (.s 10) .none .n32 .wave .relaxed 0, tReady _ _ rfl rfl rfl⟩,
    ⟨tMF (.s 4) (.s 10) .none .n32 .wave .relaxed 0, tReady _ _ rfl rfl rfl⟩⟩

set_option maxRecDepth 40000 in
/-- A register at the allotment; a misaligned lane; a lane that no page maps; an atomic on a deferred page; a full count. -/
theorem witness_access_stops :
    (tWave { tAt 0x10000 with allot := 4 }).regsOk (.wave 0) [(.v 4, 0)] = false ∧
    ((tWave (tAt 0x10002)).accLanes (.wave 0) true).find? (fun k => (tWave (tAt 0x10002)).ea (.wave 0) tLd false k % 4 != 0) = some 0 ∧
    (∃ c, (tWave (tAt 0x10000)).xlateLanes 0 0 true false (fun l => (tWave (tAt 0x10000)).ea (.wave 0) tLd false l) [0] = .error c) ∧
    (∃ tr x, (tPageDeferred (tWave (tAt 0x10000))).xlateLanes 0 0 true true (fun _ => 0x10000) [0] = .ok tr ∧ tr.find? (fun y => bitAt y.leaf 53) = some x) ∧
    (tWave { tV with ldcnt := 65535 }).countRoom (.wave 0) none true false = false :=
  ⟨by decide, by decide, ⟨_, rfl⟩, ⟨[⟨0, 0x10000, 0x10000, 0x0020_0000_0001_0007⟩], _, by rfl, rfl⟩, by decide⟩

/-- An access of one lane at address 65,536 of this device. -/
def tAcc (op : AccOp) (od : Order) : Access :=
  { n := 5, ag := .wave 0, seat := (tWave tV).seat (.wave 0), alt := false, ctx := 0, launch := 0, op := op, ty := .n32, scope := .device, ord := od, dst := .v 4,
    lanes := [⟨0, 0x10000, .mem 0x10000, true, true, 7, 0⟩], sent := [], recs := [], flag := none, ld := true, st := true }

/-- A load, a store and an atomic that may be performed, one that the HBM budget holds, and a release that waits for an earlier
load. -/
theorem witness_access_performed :
    (∀ op ∈ [AccOp.load, .store, .rmw 0 true, .rmw 0 false],
      let s := { tWave tV with path := { Machine.State.reset.path with acc := [tAcc op .relaxed] } }
      let a := tAcc op .relaxed
      s.findAcc 5 = some a ∧ s.mayPerform a = true ∧ s.here a.ag a.seat = true ∧
        (s.earlier a).any (fun b => b.touches (.mem 0x10000) 4) = false ∧ s.severed a.seat.cluster (.mem 0x10000) = false ∧
        s.badBytes (.mem 0x10000) 4 = false ∧ s.hbmFull 0x10000 4 = false ∧ s.fab.broken = [] ∧ s.l1Owner a.seat a.scope = none ∧ s.path.l1 = []) ∧
    destOk (.wave 0) (.v 4) 0 false ∧
    (let s := { tWave tV with path := { Machine.State.reset.path with acc := [tAcc .load .relaxed] }
                              dev := { Machine.State.reset.dev with hbmBudget := [0] } }
     s.findAcc 5 = some (tAcc .load .relaxed) ∧ s.mayPerform (tAcc .load .relaxed) = true ∧ s.hbmFull 0x10000 4 = true) ∧
    (let s := { tWave tV with path := { Machine.State.reset.path with acc := [{ tAcc .load .relaxed with n := 4 }, tAcc .store .release] } }
     s.findAcc 5 = some (tAcc .store .release) ∧ s.mayPerform (tAcc .store .release) = false ∧ (tAcc .store .release).lanes ≠ []) := by
  refine ⟨?_, ⟨by decide, nofun⟩, by decide, by decide⟩
  decide

/-- LDSP and STSP whose lane is in its window, beyond it, held by an earlier access, and out of the allotment. -/
theorem witness_scratchpad :
    let f := tMF (.v 4) (.s 10) .none .n32 .block .relaxed 0
    ReadyIn (tWave (tAt 4092)) (.wave 0) false (.ldsp f) ∧ ReadyIn (tWave (tAt 4092)) (.wave 0) false (.stsp f) ∧
    (tWave (tAt 4092)).regsOk (.wave 0) [(f.dst, 0), (f.sb, 0)] = true ∧
    (tWave (tAt 4092)).spadCheck (.wave 0) 4 4 (fun l => (tWave (tAt 4092)).spadEa (.wave 0) f false l 0) [0] = none ∧
    (∃ e, (tWave (tAt 4096)).spadCheck (.wave 0) 4 4 (fun l => (tWave (tAt 4096)).spadEa (.wave 0) f false l 0) [0] = some e) ∧
    (∃ e, (tWave (tAt 2)).spadCheck (.wave 0) 4 4 (fun l => (tWave (tAt 2)).spadEa (.wave 0) f false l 0) [0] = some e) ∧
    (tWave { tAt 0 with allot := 4 }).regsOk (.wave 0) [(f.dst, 0), (f.sb, 0)] = false ∧
    destOk (.wave 0) f.dst 0 false ∧
    ({ tWave (tAt 0) with path := { Machine.State.reset.path with acc :=
      [{ tAcc .store .relaxed with lanes := [⟨0, 0, .spad 0 0, false, false, 7, 0⟩] }] } }).held (.wave 0) (.spad 0 0) 4 = true :=
  ⟨tReady _ _ rfl rfl rfl, tReady _ _ rfl rfl rfl, by decide, by decide, ⟨(0, 0x04, 4096), by decide⟩, ⟨(0, 0x03, 2), by decide⟩,
    by decide, ⟨by decide, nofun⟩, by decide⟩

/-- Waits that hold and do not; a timeline that does not exist; barriers; sleeps. -/
theorem witness_waits :
    (Ready (tWave tV) (.wave 0) (.waitc (tMF .none .none .none .i32 .wave .relaxed 0)) ∧
      (tWave tV).waitcReady (.wave 0) (tMF .none .none .none .i32 .wave .relaxed 0) = true ∧
      (tWave { tV with ldcnt := 1 }).waitcReady (.wave 0) (tMF .none .none .none .i32 .wave .relaxed 0) = false) ∧
    Ready (tWave tV) (.wave 0) (.waittl (tMF .none (.s 4) (.s 6) .i32 .device .acquire 0)) ∧
    ((tWave tV).timeline (.wave 0) 3 = some 0 ∧ (tWave tV).timeline (.wave 0) 4 = none ∧
      (tWave (tV.with 6 1)).srcBits (.wave 0) 64 0 (.s 6) = 1) ∧
    (Ready (tWave tV) (.wave 0) (.bar (tMF .none .none .none .i32 .block .relaxed 15)) ∧ (tWave tV).drained (.wave 0) = true ∧
      ({ tV with dstkdepth := 1 } : Wave).dstkdepth ≠ 0) ∧
    ({ tWave tV with path := { Machine.State.reset.path with acc := [tAcc .load .relaxed] } }).drained (.wave 0) = false ∧
    Ready (tWave tV) (.wave 0) (.sleep ⟨.none, .s 4, .none, .none, .i32, 0, 0⟩) ∧
    (∃ v : Wave, v.arrived 3 = true ∧ v.ended = false ∧ v.bank = .active ∧ (tWave v).wave 0 = some v) ∧
    (∃ v : Wave, (v.slotAt false).wait = .sleep 9) ∧ (∃ h : Thread, h.wait = .sleep 9) :=
  ⟨⟨tReady _ _ rfl rfl rfl, by decide, by decide⟩, tReady _ _ rfl rfl rfl, by decide, ⟨tReady _ _ rfl rfl rfl, by decide, by decide⟩,
    by decide, tReady _ _ rfl rfl rfl, ⟨{ tV with p0 := { tV.p0 with wait := .bar 3 } }, by decide, by decide, rfl, rfl⟩,
    ⟨{ tV with p0 := { tV.p0 with wait := .sleep 9 } }, rfl⟩, ⟨{ tH with wait := .sleep 9 }, rfl⟩⟩

/-- A wave with a scratchpad of the given bytes, and s10 zero. -/
def tPad (m : Mem) : Machine.State := { tWave (tAt 0) with spad := m }

/-- A barrier object of four arrivals with one remaining. -/
def tBarMem : Mem := [⟨8, 1⟩, ⟨12, 4⟩]

/-- A circular buffer of two slots of 16 bytes with the given free and filled counts, at most one of each. -/
def tCirMem (free filled : Nat) : Mem :=
  (if filled = 0 then [] else [⟨2, 1⟩]) ++ (if free = 0 then [] else [⟨4, 1⟩]) ++ [⟨6, 2⟩, ⟨8, 16⟩, ⟨17, 1⟩]

theorem witness_shared_objects :
    let fa := tMF (.s 5) (.s 10) .none .i32 .block .relaxed 0
    let fb := tMF (.s 4) (.s 10) (.s 6) .i32 .block .relaxed 0
    let fc := tMF (.s 5) (.s 10) .none .i32 .block .relaxed 0
    let fp := tMF .none (.s 10) .none .i32 .block .relaxed 0
    (Ready (tPad tBarMem) (.wave 0) (.arrv fa) ∧ (tPad tBarMem).srcBits (.wave 0) 32 0 fa.dst = 0 ∧
      (tPad tBarMem).srcBits (.wave 0) 32 0 (.inl 1) ≠ 0 ∧
      (tPad tBarMem).arrvCheck (.wave 0) (fun l => (tPad tBarMem).spadEa (.wave 0) fa false l 0) [0] = none ∧
      ((tPad []).arrvCheck (.wave 0) (fun l => (tPad []).spadEa (.wave 0) fa false l 0) [0]).isSome = true) ∧
    (tPad tBarMem).barObj (.spad 0 0) = some ⟨4, 1, 0⟩ ∧
    (Ready (tPad tBarMem) (.wave 0) (.bowait fb) ∧ (tPad tBarMem).boOf (.wave 0) fb = .ok ⟨4, 1, 0⟩ ∧ phaseDone 0 0 = true ∧
      phaseDone 0 1 = false ∧ ∃ e, (tPad []).boOf (.wave 0) fb = .error e) ∧
    (Ready (tPad (tCirMem 1 0)) (.wave 0) (.cbacqProd fc) ∧
      (∃ c, (tPad (tCirMem 1 0)).cbOf (.wave 0) fc = .ok (.spad 0 0, c) ∧ c.free ≠ 0 ∧ c.filled = 0 ∧ c.free + c.filled ≠ c.slots) ∧
      (∃ c, (tPad (tCirMem 1 1)).cbOf (.wave 0) fc = .ok (.spad 0 0, c) ∧ c.free + c.filled = c.slots) ∧
      ∃ e, (tPad []).cbOf (.wave 0) fc = .error e) ∧
    Ready (tPad (tCirMem 1 0)) (.wave 0) (.cbacqCons { fc with off := 0x10000 }) ∧ Ready (tPad (tCirMem 1 0)) (.wave 0) (.cbrelProd fp) ∧
    Ready (tPad (tCirMem 1 0)) (.wave 0) (.cbrelCons { fp with off := 0x10000 }) := by
  refine ⟨⟨tReady _ _ rfl rfl rfl, ?_, ?_, ?_, ?_⟩, ?_, ⟨tReady _ _ rfl rfl rfl, ?_, ?_, ?_, ⟨(0x0D, 0), ?_⟩⟩,
    ⟨tReady _ _ rfl rfl rfl, ⟨⟨2, 1, 0, 0, 0, 16, 256⟩, ?_⟩, ⟨⟨2, 1, 1, 0, 0, 16, 256⟩, ?_⟩, ⟨(0x0E, 0), ?_⟩⟩, tReady _ _ rfl rfl rfl,
    tReady _ _ rfl rfl rfl, tReady _ _ rfl rfl rfl⟩ <;> decide


/-- A log record of tag 0 that has not been binned. -/
def tRec : Rec := ⟨0, 0, .pch 0, 0, 0, 0x10000⟩

/-- A commit of wave 0 with nothing left to wait for. -/
def tCommit : Commit := ⟨5, .agent (.wave 0) ((tWave tV).seat (.wave 0)) false (.s 2) false, 0, 0, [0], false, [], [], 0, 3, []⟩

/-- A state of `tWave` with a deferred path of its own. -/
def tDfd (v : Wave) (f : Deferred → Deferred) : Machine.State := { tWave v with dfd := f Machine.State.reset.dfd }

/-- Commits that wait, that are over at once and that are refused for now; a flush; a commit that is over and one that is not. -/
theorem witness_commits :
    (∃ s f, Ready s (.wave 0) (.commitBlock f) ∧ s.recsPending (.wave 0) = false ∧
      (s.startCommit (.agent (.wave 0) (s.seat (.wave 0)) false f.dst false) 0 [s.tagOf (.wave 0)] false).2.commitDone s.fresh = false) ∧
    (∃ s f, Ready s (.wave 0) (.commitBlock f) ∧ s.recsPending (.wave 0) = false ∧
      (s.startCommit (.agent (.wave 0) (s.seat (.wave 0)) false f.dst false) 0 [s.tagOf (.wave 0)] false).2.commitDone s.fresh = true) ∧
    (∃ s f, Ready s (.wave 0) (.commitGrid f) ∧ Ready s (.wave 0) (.commitPod f) ∧ s.recsPending (.wave 0) = false) ∧
    (∃ s f, Ready s (.wave 0) (.commitBlock f) ∧ Ready s (.wave 0) (.commitGrid f) ∧ Ready s (.wave 0) (.commitPod f) ∧
      s.recsPending (.wave 0) = true) ∧
    ((tWave tV).tagsOf 0 = [0] ∧ (tWave tV).tagOf (.wave 0) = 0 ∧ (tWave tV).logRoom (tagCore 0) = true) ∧
    (∃ f, Ready (tWave tV) (.wave 0) (.dflushGrid f) ∧ Ready (tWave tV) (.wave 0) (.dflushPod f)) ∧
    (let s := tDfd tV (fun d => { d with commits := [tCommit] })
     s.dfd.commits.find? (fun c => c.n == 5) = some tCommit ∧ s.banked (.wave 0) ∧ s.here (.wave 0) (s.seat (.wave 0)) = true ∧ s.path.l1 = [] ∧
      destOk (.wave 0) (.s 2) 0 false ∧ s.commitDone 6 = false) :=
  ⟨⟨tDfd tV (fun d => { d with logs := [(0, [.record tRec])] }), ⟨.s 2, .none, .none, .none, .i32, 0, 0⟩, tReady _ _ rfl rfl rfl, by decide, by decide⟩,
    ⟨tWave tV, ⟨.s 2, .none, .none, .none, .i32, 0, 0⟩, tReady _ _ rfl rfl rfl, by decide, by decide⟩,
    ⟨tWave tV, ⟨.s 2, .none, .none, .none, .i32, 1, 0⟩, tReady _ _ rfl rfl rfl, tReady _ _ rfl rfl rfl, by decide⟩,
    ⟨{ tWave tV with path := { Machine.State.reset.path with acc := [{ tAcc (.rmw 0 false) .relaxed with recs := [tRec] }] } },
      ⟨.s 2, .none, .none, .none, .i32, 0, 0⟩, tReady _ _ rfl rfl rfl, tReady _ _ rfl rfl rfl, tReady _ _ rfl rfl rfl, by decide⟩,
    ⟨by decide, by decide, by decide⟩,
    ⟨⟨.none, .none, .none, .none, .i32, 0, 0⟩, tReady _ _ rfl rfl rfl, tReady _ _ rfl rfl rfl⟩,
    rfl, ⟨_, rfl, by decide⟩, by decide, rfl, nofun, by decide⟩

/-- Entries of stack 0 from 0 on, of context 0. -/
def tCaps (l : List Cap) : Deferred → Deferred := fun d => { d with caps := (List.range l.length).zip l }

/-- A live region of 4,096 bytes, readable and writable. -/
def tCap : Cap := ⟨1, true, true, 1, 0, 0, 0, 0, 0x10000, 4096⟩

/-- An MFILL block of one 32-bit element of entry 0, with its completion word at offset 2,048. -/
def tBlock : Vector W64 8 := ⟨#[0x0410_0000_0000_0007, 0x0000_0001_0000_0000, 1, 0, 0, 0, 0x800, 9], rfl⟩

/-- Its offer by wave 0. -/
def tOffer (w : Vector W64 8) : Offer := ⟨5, .wave 0, (tWave tV).seat (.wave 0), false, 0, 0, 4, w, 0x10000, .device, .relaxed, .s 2, none⟩

set_option maxRecDepth 40000 in
theorem witness_capability_handles :
    let f : SF := ⟨.s 40, .s 20, .s 22, .none, .i32, 0, 3⟩
    let s := tPage (tWave ((tV.with 20 0x10000).with 22 0x1000))
    (Ready s (.wave 0) (.capnew f) ∧ s.srcBits (.wave 0) 64 0 f.sa = 0x10000 ∧ s.srcBits (.wave 0) 64 0 f.sb = 0x1000 ∧
      s.xlate 0 0 0x10000 true true = .ok (0x10000, 0x10007) ∧ s.offered (.wave 0) 0 = false ∧ (s.cap 0 0).state = 0) ∧
    (∃ c, (tWave tV).xlate 0 0 0x20000 true true = .error c) ∧
    (∃ v : Wave, (tWave v).srcBits (.wave 0) 64 0 f.sa % 64 ≠ 0) ∧
    (∃ s : Machine.State, ∃ p q, s.resolve 0 1 = some p ∧ s.resolve 0 0x2_0001 = some q ∧ q.busy = 0 ∧ q.old = 0) ∧
    (∃ s : Machine.State, ∃ p q, s.resolve 0 1 = some p ∧ s.resolve 0 0x2_0001 = some q ∧ q.busy ≠ 0) ∧
    (tWave tV).resolve 0 1 = none ∧ capStack 1 = capStack 0x2_0001 ∧ capEntry 1 ≠ capEntry 0x2_0001 ∧
    Ready s (.wave 0) (.capswap { f with imm := 0 }) ∧ Ready s (.wave 0) (.caprev ⟨.s 40, .s 20, .none, .none, .i32, 0, 0⟩) ∧
    Ready s (.wave 0) (.capqry ⟨.s 40, .s 20, .none, .none, .i32, 0, 0⟩) ∧
    (tDfd tV (fun d => { d with offers := [tOffer tBlock] })).offered (.wave 0) 0 = true ∧
    (∃ s : Machine.State, (s.cap 0 0).state = 2 ∧ (s.cap 0 0).busy = 0 ∧ (s.cap 0 0).old = 0) ∧
    (∃ s : Machine.State, (s.cap 0 0).state = 2 ∧ (s.cap 0 0).busy ≠ 0) := by
  refine ⟨⟨tReady _ _ rfl rfl rfl, ?_, ?_, by rfl, ?_, ?_⟩, ⟨_, rfl⟩, ⟨tV.with 20 1, ?_⟩,
    ⟨tDfd tV (tCaps [tCap, tCap]), tCap, tCap, rfl, rfl, rfl, rfl⟩, ⟨tDfd tV (tCaps [tCap, { tCap with busy := 1 }]), _, _, rfl, rfl, ?_⟩, ?_, ?_, ?_,
    tReady _ _ rfl rfl rfl, tReady _ _ rfl rfl rfl, tReady _ _ rfl rfl rfl, ?_,
    ⟨tDfd tV (tCaps [{ tCap with state := 2 }]), ?_⟩, ⟨tDfd tV (tCaps [{ tCap with state := 2, busy := 1 }]), ?_⟩⟩ <;> decide

/-- The command of that block. -/
def tCmd (item st : Nat) : Cmd :=
  ⟨1, .wave 0, (tWave tV).seat (.wave 0), 5, 0, 0, 0, tBlock, .device, ⟨0, 0, 0x10000, 4096, true, true, 0⟩, none, none, [], item, st⟩

set_option maxRecDepth 40000 in
/-- A block with and without an engine; an offer rejected and one accepted; a head command with items left and one that is done. -/
theorem witness_command_blocks :
    (let s (m : Mem) : Machine.State := { tPage (tWave (tAt 0x10000)) with mem := m }
     let f := tMF (.s 2) (.s 10) .none .i32 .device .relaxed 0
     Ready (s []) (.wave 0) (.mfill f) ∧ (s []).banked (.wave 0) ∧ (s []).ea (.wave 0) f false 0 = 0x10000 ∧
      (s []).xlate 0 0 0x10000 true false = .ok (0x10000, 0x10007) ∧ (s []).home 0x10000 = .mem 0x10000 ∧
      (s []).severed ((s []).clusterOf (.wave 0)) (.mem 0x10000) = false ∧ (s []).here (.wave 0) ((s []).seat (.wave 0)) = true ∧ (s []).badBytes (.mem 0x10000) 64 = false ∧
      (s []).held (.wave 0) (.mem 0x10000) 64 = false ∧ (s []).countRoom (.wave 0) ((s []).flagFor (.wave 0) f.fs) false false = true ∧
      Memory.w64 (s [⟨0x1000C, 1⟩]).mem 0x10008 = 0x0000_0001_0000_0000 ∧ Memory.w64 (s []).mem 0x10008 = 0 ∧
      fld (Memory.w64 (s [⟨0x10013, 1⟩]).mem 0x10010) 31 24 ≠ 0 ∧
      Ready (s []) (.wave 0) (.mred f) ∧ Ready (s []) (.wave 0) (.mired f) ∧ Ready (s []) (.wave 0) (.meval f)) ∧
    (let s := tDfd tV (fun d => { tCaps [tCap] d with offers := [tOffer tBlock] })
     s.dfd.offers.find? (fun p => p.n == 5) = some (tOffer tBlock) ∧ s.firstOffer (tOffer tBlock) = true ∧ s.offerReady (tOffer tBlock) = true ∧
      s.banked (.wave 0) ∧ s.here (.wave 0) (tOffer tBlock).seat = true ∧
      ∃ d, ({ s with dfd := { s.dfd with offers := s.dfd.offers.filter (fun p => p.n != 5) } }).judge 0 4 tBlock = .accept d none none [] false) ∧
    (tDfd tV id).judge 0 4 tBlock = .reject 0x02 ∧
    (let s := tDfd tV (fun d => { d with cmds := [tCmd 0 0] })
     let c := tCmd 0 0
     s.headCmd 0 0 = some c ∧ c.item < blockFld c.w 2 23 0 ∧ c.rows s.mem 0 = [] ∧ c.srcOffs 0 [] = [] ∧ c.dstOff 0 = (0, 4) ∧
      c.dst.inside 0 4 c.dst.wr = true ∧ s.cmdWaits c [] = false ∧ s.cmdWaits c [(0x10000, 4)] = false ∧ s.badPart 0x10000 4 = false) ∧
    (let s := tDfd tV (fun d => { d with cmds := [tCmd 1 0] })
     s.headCmd 0 0 = some (tCmd 1 0) ∧ blockFld (tCmd 1 0).w 2 23 0 ≤ (tCmd 1 0).item ∧ s.cmdWaits (tCmd 1 0) [(0x10800, 8)] = false) := by
  refine ⟨⟨tReady _ _ rfl rfl rfl, ⟨_, rfl, by decide⟩, ?_, by rfl, by rfl, ?_, ?_, ?_, ?_, ?_, ?_, ?_, ?_, tReady _ _ rfl rfl rfl,
    tReady _ _ rfl rfl rfl, tReady _ _ rfl rfl rfl⟩, ⟨rfl, ?_, ?_, ⟨_, rfl, by decide⟩, ?_, ⟨⟨0, 0, 0x10000, 4096, true, true, 0⟩, ?_⟩⟩, ?_,
    ⟨rfl, ?_, ?_, ?_, ?_, ?_, ?_, ?_, ?_⟩, ⟨rfl, ?_, ?_⟩⟩ <;> decide

/-- The state of a thread whose launch has a workgroup on core 0, the context being selected there and unit 1's banks its own. -/
def tMx (h : Thread) (f : Matrix → Matrix) : Machine.State :=
  { tThread h with
    mx := f { Machine.State.reset.mx with banks := [(1, ⟨some (0, 0), 0⟩, ⟨some (0, 1), 0⟩)] }
    sch := { (tThread h).sch with cores := [(0, { Machine.State.reset.core 0 with active := some 0 })] } }

/-- A running thread of launch 0 and context 0. -/
def tHM : Thread := { tH with launch := 0, ctx := 0 }

/-- ACLR of tile 0 of unit 1. -/
def tAclr : EF := ⟨.none, .none, .none, .none, .f32, .i32, 0, false, false, 0, 1⟩

/-- An operation of a thread on unit 1, its operands as they stand in a state. -/
def tOp (i : Instr) (more : Bool) : MOp :=
  let m : MOp := ⟨3, i, 0, 0, (tThread tHM).seat (.thread 0 0), 0, 0, .none, 0, 0, 0, 0, 0, 0, 0, 0, none, more, 0, ⟨0, 0, 0, 0⟩, [], [], []⟩
  { m with snap := (tMx tHM id).opReads m }

set_option maxRecDepth 40000 in
/-- No workgroup on the unit's core; the unit busy; a misaligned address; all as it should be. -/
theorem witness_matrix_issue :
    (∃ f, Ready (tThread tHM) (.thread 0 0) (.aclr f) ∧ (tThread tHM).banked (.thread 0 0) ∧ (tThread tHM).opFaults ((tThread tHM).mopOf (.aclr f) 0 0) = [] ∧
      (tThread tHM).sch.wgs.filter (fun e => e.2.launch == (tHM).launch && e.2.core == f.aux.toNat % 16 / 4) = []) ∧
    (∃ s : Machine.State, s.sch.wgs ≠ [] ∧ Map.find s.mx.mops 1 ≠ none) ∧
    (let s := tMx tHM id
     let f := tAclr
     Ready s (.thread 0 0) (.aclr f) ∧ s.banked (.thread 0 0) ∧
      s.sch.wgs.filter (fun e => e.2.launch == 0 && e.2.core == 0) ≠ [] ∧ Map.find s.mx.mops 1 = none ∧
      (s.sch.wgs.filter (fun e => e.2.launch == 0 && e.2.core == 0)).all (fun e => e.2.out) = false ∧ (s.core 0).active = some 0 ∧
      (s.core 0).req = none ∧ s.acquiring (.thread 0 0) = false ∧ s.opFaults (s.mopOf (.aclr f) 0 0) = [] ∧
      pickCause (s.opFaults (s.mopOf (.aclr f) 0 0)) = none ∧ s.countRoom (.thread 0 0) (s.flagFor (.thread 0 0) f.fs) false false = true ∧
      s.inBank 0 1 0 = true ∧ s.inBank 0 1 1 = true) ∧
    (∃ f, Ready (tMx tHM id) (.thread 0 0) (.kldAll f) ∧
      (pickCause ((tMx tHM id).opFaults ((tMx tHM id).mopOf (.kldAll f) 0 0))).isSome = true) := by
  refine ⟨⟨{ tAclr with aux := 5 }, tReadySeq _ _ rfl rfl, ?_, ?_, ?_⟩, ⟨tMx tHM (fun m => { m with mops := [(1, tOp (.aclr tAclr) false)] }), ?_, ?_⟩,
    ⟨tReadySeq _ _ rfl rfl, ?_, ?_, ?_, ?_, ?_, ?_, ?_, ?_, ?_, ?_, ?_, ?_⟩, ⟨⟨.none, .lit 1, .none, .none, .f32, .i32, 1, false, false, 0, 1⟩, tReadySeq _ _ rfl rfl, ?_⟩⟩
  all_goals first | decide | exact nofun

/-- What an operation reads does not rest on the operations in flight. -/
theorem opReads_mops (s : Machine.State) (l : Map MOp) (m : MOp) (x : List (Nat × List Nat)) :
    ({ s with mx := { s.mx with mops := l } }).opReads { m with snap := x } = s.opReads m := rfl

/-- An operation on unit 1 with its operands unchanged since its issue, for each instruction that the statement names. -/
theorem witness_matrix_operations (i : Instr) :
    let s := tMx tHM (fun m => { m with mops := [(1, tOp i false)] })
    Map.find s.mx.mops 1 = some (tOp i false) ∧ (tOp i false).more = false ∧ (tOp i false).i = i ∧
      (∀ f, i = .mma f ∨ i = .aclr f ∨ i = .ain f ∨ i = .kldAll f → f.aux = 1 → (tOp i false).unit = 1) ∧
      (tOp i false).snap = s.opReads (tOp i false) ∧ s.banked (.thread 0 0) := by
  refine ⟨rfl, rfl, rfl, ?_, (opReads_mops _ _ _ _).symm, nofun⟩
  rintro f (rfl | rfl | rfl | rfl) h <;> (show 16 * 0 + f.aux.toNat % 16 = 1; rw [h]; rfl)

/-- An operation with iterations left, and a bank move with its bank free and at work. -/
theorem witness_matrix_steps :
    (∃ m, Map.find (tMx tHM (fun x => { x with mops := [(1, tOp (.aclr tAclr) true)] })).mx.mops 1 = some m ∧ m.more = true) ∧
    (let s (b : Map (AccBank × AccBank)) : Machine.State :=
      { tMx tHM (fun m => { m with mops := [(1, tOp (.aclr tAclr) false)], banks := b, accs := [(accKey 7 1 0, Machine.State.reset.acc 7 1 0)] }) with
        sch := { (tMx tHM id).sch with cores := [(0, { Machine.State.reset.core 0 with req := some (7, 0) })] } }
     (s []).core 0 = { Machine.State.reset.core 0 with req := some (7, 0) } ∧ (s []).missing 7 1 = some 0 ∧
      (s []).bankBusy 1 ((s []).victimBank 1 7 1024 1) = false ∧
      (let b := [(1, (⟨some (0, 0), 0⟩, ⟨some (7, 1), 1⟩))]
       (s b).missing 7 1 = some 0 ∧ (s b).bankBusy 1 ((s b).victimBank 1 7 1024 1) = true)) :=
  ⟨⟨_, rfl, rfl⟩, by decide, by decide, by decide, by decide, by decide⟩

/-- A thread with records named by q2 and q4. -/
def tHX : Thread := (tHM.putQ 2 0x10000).putQ 4 0x10100

/-- Two layout records of one FP32 element each, at 65,536 and 65,792, of elements at 66,560 and 66,816. -/
def tLayouts : Mem := [⟨0x10007, 8⟩, ⟨0x10009, 4⟩, ⟨0x1000A, 1⟩, ⟨0x10025, 1⟩, ⟨0x10107, 8⟩, ⟨0x10109, 5⟩, ⟨0x1010A, 1⟩, ⟨0x10125, 1⟩]

/-- The record of one FP32 element at an address. -/
def tLayout (base : W64) : List W64 := [0x0800_0000_0000_0000, base, 0, 0, 0x0000_0100_0000_0000] ++ List.replicate 27 0

/-- A thread that holds the page of those records. -/
def tTx : Machine.State := { tPage (tThread tHX) with mem := tLayouts }

/-- TXF COPY from the record that q2 names to that of q4. -/
def tCopy : EF := ⟨.q 8, .q 2, .q 4, .q 6, .i32, .i32, 0, false, false, 0, 0⟩

set_option maxRecDepth 40000 in
theorem test_read_record : (tTx.readRecord (.thread 0 0) 0x10000).1 = .words (tLayout 0x10400) := by decide

/-- A copy of the element at 66,560 to 66,816, as accepted. -/
def tTxCmd : TxfCmd :=
  ⟨1, false, 0, 0, false, false, 0, 0, 0, [], tLayout 0x10400, tLayout 0x10500, .thread 0 0, tTx.seat (.thread 0 0), 5, 0, none, [(16, .mem 0x10000)], [], [], 4,
    256⟩

/-- Stream 0 of context 0 on cluster 0 with the given commands. -/
def tStreams (l : List TxfCmd) : Engines := { Machine.State.reset.eng with streams := [(streamKey 0 0 0, ⟨0, 1, 0, l, false, []⟩)] }

set_option maxRecDepth 40000 in
/-- A TXF that is accepted; a TXFC with and without a circular buffer; a reading of status; a full stream; bad records. -/
theorem witness_tensor_commands :
    let s := tTx
    let ag : Agent := .thread 0 0
    let src := tLayout 0x10400
    let dst := tLayout 0x10500
    (Ready s ag (.txf tCopy) ∧ s.banked ag ∧ (s.stream (s.streamOf ag tCopy)).cmds.length < 16 ∧ (s.reg ag (.q 2) true).toNat = 0x10000 ∧
      (s.reg ag (.q 4) true).toNat = 0x10100 ∧ s.recordHeld ag 0x10000 = false ∧ s.recordHeld ag 0x10100 = false ∧
      s.countRoom ag (s.flagFor ag false) false false = true ∧ (s.readRecord ag 0x10000).1 = .words src ∧ (s.readRecord ag 0x10100).1 = .words dst ∧
      pickCause (s.txfFaults ag 0 false 0 (.words src) (.words dst)) = none ∧
      s.pinAll (engTlb 0) 0 (vaddrs (layoutOf src) [0] false false ++ vaddrs (layoutOf dst) [0] false true) =
        ⟨[], [(16, .mem 0x10000), (16, .mem 0x10000)], [], [(16, 4096)]⟩) ∧
    (pickCause (s.txfFaults ag 0 false 2 (.words src) (.words dst))).isSome = true ∧
    (∃ s : Machine.State, Ready s ag (.txf tCopy) ∧ 16 ≤ (s.stream (s.streamOf ag tCopy)).cmds.length) ∧
    Ready s ag (.txfcProd { tCopy with sc := .none }) ∧ Ready s ag (.txfcCons { tCopy with sc := .none, fn := 1 }) ∧
    Ready s ag (.txfsRd ⟨.q 8, .none, .none, .none, .i32, .i32, 0, false, false, 0, 0⟩) ∧
    Ready s ag (.txfsClr ⟨.q 8, .none, .none, .none, .i32, .i32, 1, false, false, 0, 0⟩) ∧
    (pickCause (s.txfcFaults ag 0 ++ s.recordFaults ag (.words src))).isSome = true ∧
    pickCause (({ s with spad := tCirMem 1 0 ++ [⟨19, 1⟩] } : Machine.State).txfcFaults ag 0x1000000 ++ s.recordFaults ag (.words src)) = none := by
  refine ⟨⟨tReadySeq _ _ rfl rfl, nofun, ?_, ?_, ?_, ?_, ?_, ?_, test_read_record, ?_, ?_, ?_⟩, ?_, ⟨{ tTx with eng := tStreams (List.replicate 16 tTxCmd) }, tReadySeq _ _ rfl rfl, ?_⟩,
    tReadySeq _ _ rfl rfl, tReadySeq _ _ rfl rfl, tReadySeq _ _ rfl rfl, tReadySeq _ _ rfl rfl, ?_, ?_⟩ 
  all_goals decide

/-- A piece of the element at 66,560, into slots of 16 bytes. -/
def tTxPiece : TxfCmd := { tTxCmd with txfc := true, pads := [(0, 0)] }

/-- An MXQUANT of 32 FP32 elements at 66,560 to E4M3 at 66,816 with its scale at 67,072. -/
def tTxQuant : TxfCmd :=
  { tTxCmd with fn := 3, total := 32,
                srec := [0x0800_0000_0000_0000, 0x10400, 0, 0, 0x0000_2000_0000_0000] ++ List.replicate 27 0,
                drec := [0x0B40_0000_0000_0000, 0x10500, 0x10600, 0, 0x0000_2000_0000_0000] ++ List.replicate 27 0 }

set_option maxRecDepth 40000 in
/-- A burst that may run, one that must wait, one that cannot reach its place. -/
theorem witness_tensor_burst :
    let s := { tTx with eng := tStreams [tTxCmd] }
    let m := tTxCmd
    let b := layoutOf m.drec
    let its := [((0, some 0) : Nat × Option Nat)]
    let reads := m.readPlaces 0 its
    let writes := m.writePlaces 0 its
    s.txfHead 0 0 0 = some m ∧ m.txfc = false ∧ m.fn ≠ 3 ∧ s.path.l1 = [] ∧
      (List.range (txfItems m.fn b m.idx)).map (txfItem m.fn b m.idx) = its ∧
      s.before m (reads ++ writes) = false ∧ s.placesHeld 0 reads writes = false ∧ s.moveFault 0 reads writes = none ∧
      m.cell 0 b 0 = some (.mem 0x10500, 0) ∧ m.clash 0 b [0] (m.readRanges 0) 0 = false ∧
      (({ s with path := { s.path with acc := [{ tAcc .store .relaxed with
            n := 4, ag := .thread 0 0, seat := tTx.seat (.thread 0 0), lanes := [⟨0, 0x10400, .mem 0x10400, true, true, 7, 0⟩] }] } }
        : Machine.State).before m (reads ++ writes) = true) ∧
      (({ s with uncorr := [0x4100] } : Machine.State).moveFault 0 reads writes).isSome = true := by
  refine ⟨rfl, rfl, ?_⟩
  decide

set_option maxRecDepth 40000 in
/-- A block of MXQUANT with its scale apart from its elements. -/
theorem witness_tensor_quantise :
    let s := { tTx with eng := tStreams [tTxQuant] }
    let m := tTxQuant
    let b := layoutOf m.drec
    let its := (List.range 32).map (fun k => ((k, some k) : Nat × Option Nat))
    s.txfHead 0 0 0 = some m ∧ (List.range (txfItems m.fn b m.idx)).map (txfItem m.fn b m.idx) = its ∧
      s.before m (m.readPlaces 0 its ++ m.writePlaces 0 its) = false ∧ s.moveFault 0 (m.readPlaces 0 its) (m.writePlaces 0 its) = none ∧
      m.home 0 b.spc (b.scaleAt 0) = some (.mem 0x10600) ∧
      (List.range 32).all (fun k => match m.cell 0 b k with | some (.mem a, _) => decide (a + 1 ≤ 0x10600) | _ => false) = true := by
  refine ⟨rfl, ?_⟩
  decide

set_option maxRecDepth 40000 in
/-- A command that is done, plain, with sums, and with an arrival at an object and at none. -/
theorem witness_tensor_done :
    (∃ s : Machine.State, ∃ m, s.txfHead 0 0 0 = some m ∧ m.total ≤ m.cursor ∧ s.txfFar (streamKey 0 0 0) m = false ∧ s.banked m.ag ∧
      s.here m.ag m.seat = true ∧ m.sums = false ∧ bitAt m.par 0 = false) ∧
    (∃ s : Machine.State, ∃ m, s.txfHead 0 0 0 = some m ∧ m.total ≤ m.cursor ∧ s.txfFar (streamKey 0 0 0) m = false ∧ s.banked m.ag ∧
      s.here m.ag m.seat = true ∧ m.sums = true ∧ m.txfc = false ∧ bitAt m.par 0 = false ∧
      m.home 0 true ((fld m.par 63 32 + 4 * 0 : Nat) : Int) = some (.spad 0 0) ∧ m.home 0 true ((fld m.par 63 32 + 4 * 1 : Nat) : Int) = some (.spad 0 4) ∧
      (layoutOf m.drec).rows = 1 ∧ (layoutOf m.drec).d0.size = 1 ∧ (Home.spad 0 0).meets 4 (.spad 0 4) 4 = false) ∧
    (∃ s : Machine.State, ∃ m h o, s.txfHead 0 0 0 = some m ∧ m.total ≤ m.cursor ∧ s.txfFar (streamKey 0 0 0) m = false ∧ s.banked m.ag ∧
      s.here m.ag m.seat = true ∧ m.sums = false ∧ bitAt m.par 0 = true ∧ m.home 0 true ((fld m.par 31 4 * 16 : Nat) : Int) = some h ∧
      s.barObj h = some o) ∧
    (∃ s : Machine.State, ∃ m, s.txfHead 0 0 0 = some m ∧ m.total ≤ m.cursor ∧ s.txfFar (streamKey 0 0 0) m = false ∧ s.banked m.ag ∧
      s.here m.ag m.seat = true ∧ m.sums = false ∧ bitAt m.par 0 = true ∧
      m.home 0 true ((fld m.par 31 4 * 16 : Nat) : Int) = some (.spad 0 0) ∧ s.barObj (.spad 0 0) = none) := by
  refine ⟨⟨{ tTx with eng := tStreams [{ tTxCmd with cursor := 4 }] }, { tTxCmd with cursor := 4 }, rfl, ?_, ?_, nofun, ?_, rfl, ?_⟩,
    ⟨{ tTx with eng := tStreams [{ tTxCmd with cursor := 4, sums := true, pads := [(0, 0)] }] },
      { tTxCmd with cursor := 4, sums := true, pads := [(0, 0)] }, rfl, ?_, ?_, nofun, ?_, rfl, rfl, ?_, ?_, ?_, ?_, ?_, ?_⟩,
    ⟨{ tTx with eng := tStreams [{ tTxCmd with cursor := 4, par := 1, pads := [(0, 0)] }], spad := tBarMem },
      { tTxCmd with cursor := 4, par := 1, pads := [(0, 0)] }, .spad 0 0, ⟨4, 1, 0⟩, rfl, ?_, ?_, nofun, ?_, rfl, ?_, ?_, ?_⟩,
    ⟨{ tTx with eng := tStreams [{ tTxCmd with cursor := 4, par := 1, pads := [(0, 0)] }] },
      { tTxCmd with cursor := 4, par := 1, pads := [(0, 0)] }, rfl, ?_, ?_, nofun, ?_, rfl, ?_, ?_, ?_⟩⟩ <;> decide

set_option maxRecDepth 40000 in
/-- Pieces in both directions that may run, one without a slot, one on a descriptor that is none; an idle stream. -/
theorem witness_tensor_pieces :
    (∀ prod : Bool, let s := { tTx with spad := if prod then tCirMem 1 0 else tCirMem 0 1,
                                        eng := tStreams [{ tTxPiece with fn := if prod then 0 else 1 }] }
      let m : TxfCmd := { tTxPiece with fn := if prod then 0 else 1 }
      ∃ cb c1 c2, s.cirBuf (.spad 0 0) = some cb ∧ s.txfHead 0 0 0 = some m ∧
        m.home 0 true 0 = some (.spad 0 0) ∧ cb.acquire prod = some (0, c1) ∧ c1.release prod = some c2 ∧ cb.acquire (!prod) = none ∧
        s.before m ((m.place 0 (layoutOf m.srec) 0).toList ++ (m.place 0 (layoutOf m.drec) 0).toList ++ m.slotPlaces 0 cb.base 4) = false ∧
        s.moveFault 0 ((m.place 0 (layoutOf m.srec) 0).toList ++ m.slotPlaces 0 cb.base 4) (m.place 0 (layoutOf m.drec) 0).toList = none) ∧
    (let s := { tTx with eng := tStreams [tTxPiece] }
     s.txfHead 0 0 0 = some tTxPiece ∧ tTxPiece.cursor < tTxPiece.total ∧ tTxPiece.home 0 true (tTxPiece.cbaddr.toNat : Int) = some (.spad 0 0) ∧
      s.cirBuf (.spad 0 0) = none) ∧
    (∃ s : Machine.State, s.txfHead 0 0 0 = none) := by
  refine ⟨?_, ⟨rfl, by decide, by decide, by decide⟩, ⟨tTx, rfl⟩⟩
  rintro (_ | _)
  · exact ⟨⟨2, 0, 1, 0, 0, 16, 256⟩, _, _, by decide, rfl, by decide, rfl, rfl, by decide, by decide, by decide⟩
  · exact ⟨⟨2, 1, 0, 0, 0, 16, 256⟩, _, _, by decide, rfl, by decide, rfl, rfl, by decide, by decide, by decide⟩

/-- A tile-queue block at the start of a workgroup's window: rings of two places at 256 and 512, one counter at 768, whose
object has phase 0; the given bytes beside. -/
def tBlockMem (filled : Nat) (m : Mem) : Mem :=
  [⟨0, 1⟩] ++ (if filled = 3 then [⟨3, 0x80⟩] else []) ++ [⟨4, 2⟩, ⟨6, 2⟩] ++ (if filled = 2 then [⟨8, 2⟩] else [])
    ++ (if filled = 1 then [⟨12, 1⟩] else []) ++ [⟨17, 2⟩, ⟨19, 1⟩, ⟨21, 1⟩, ⟨23, 1⟩, ⟨29, 3⟩, ⟨31, 1⟩] ++ m

/-- The valid counter object. -/
def tCounter : Mem := [⟨0x308, 1⟩, ⟨0x30C, 4⟩]

/-- A table of one entry at 65,536. -/
def tTable : ExpTable := ⟨0x10000, 1, 0, 0, [(16, 0x10000)]⟩

/-- A thread whose q2 names that block and whose q4 and q5 hold an entry; the context has an expert table of one entry with the
given bytes. -/
def tTq (e : W64) (pad mem : Mem) : Machine.State :=
  { tPage (tThread ((tHM.putQ 2 0x1000000).putQ 4 e)) with
    spad := pad, mem := mem, eng := { Machine.State.reset.eng with tables := [(0, tTable)] } }

/-- A shared entry, and one of expert 0. -/
def tShared : W64 := 0x0101_0101_0000_0000
def tRouted : W64 := 0x8001_0101_0000_0000

/-- The block of `tBlockMem` with its rings' counts. -/
def tTile (sh rt : Nat) (closed : Bool) : TileQ := ⟨⟨0x1000100, 2, 0, sh⟩, ⟨0x1000200, 2, 0, rt⟩, closed, 1, 0x1000300, 0⟩

set_option maxRecDepth 40000 in
/-- No block; an invalid counter; an entry that waits, one that is taken, the end of a tape. -/
theorem witness_tnext :
    let f : EF := ⟨.q 6, .q 2, .none, .none, .i32, .i32, 0, false, false, 0, 0⟩
    let ag : Agent := .thread 0 0
    Ready (tTq 0 [] []) ag (.tnext f) ∧ ((tTq 0 [] []).blockOf ag f.sa).toOption = none ∧
    (let s := tTq 0 (tBlockMem 1 []) []
     s.blockOf ag f.sa = .ok (.spad 0 0, tTile 1 0 false) ∧ s.tape 0 0 (tTile 1 0 false) = .bad) ∧
    (tTq 0 (tBlockMem 1 (⟨0x100, 1⟩ :: tCounter)) []).tape 0 0 (tTile 1 0 false) = .wait ∧
    (tTq 0 (tBlockMem 1 tCounter) []).tape 0 0 (tTile 1 0 false) = .take false 0 ∧
    (tTq 0 (tBlockMem 2 tCounter) []).tape 0 0 (tTile 0 2 false) = .take true 0 ∧
    (tTq 0 (tBlockMem 3 tCounter) []).tape 0 0 (tTile 0 0 true) = .ended ∧
    (tTq 0 (tBlockMem 3 tCounter) []).blockOf ag f.sa = .ok (.spad 0 0, tTile 0 0 true) := by
  refine ⟨tReadySeq _ _ rfl rfl, ?_⟩
  decide

set_option maxRecDepth 40000 in
/-- A bad entry; a full ring and one with room; an absent expert, a resident one, and places that are all taken. -/
theorem witness_queueing :
    let f : EF := ⟨.q 6, .q 2, .q 4, .none, .i32, .i32, 0, false, false, 0, 0⟩
    let ag : Agent := .thread 0 0
    let s := tTq tShared (tBlockMem 2 tCounter) []
    let r := tTq tRouted (tBlockMem 0 tCounter) []
    Ready s ag (.tqaddSh f) ∧ Ready s ag (.tqaddRt { f with fn := 1 }) ∧ Ready r ag (.park f) ∧ s.path.l1 = [] ∧
    (s.blockOf ag f.sa = .ok (.spad 0 0, tTile 0 2 false) ∧ tapeBad (tTile 0 2 false) (s.qPairOf ag f.sb) true = true ∧
      tapeBad (tTile 0 2 false) (s.qPairOf ag f.sb) false = false ∧ (tTile 0 2 false).sh.cnt ≠ (tTile 0 2 false).sh.cap ∧
      tapeBad (tTile 0 2 false) (tRouted, 0) true = false ∧ (tTile 0 2 false).rt.cnt = (tTile 0 2 false).rt.cap) ∧
    (r.blockOf ag f.sa = .ok (.spad 0 0, tTile 0 0 false) ∧ tapeBad (tTile 0 0 false) (r.qPairOf ag f.sb) true = false ∧
      (∃ w, r.expert 0 0 = some (0x10000, w) ∧ ertState w = 0) ∧ r.expert 0 1 = none ∧ r.parkPlace 0 0 = some (linkWord 1 0)) ∧
    (∃ w, (tTq tRouted (tBlockMem 0 tCounter) [⟨0x10007, 0x40⟩]).expert 0 0 = some (0x10000, w) ∧ ertState w = 2) ∧
    ({ r with eng := { r.eng with hwq := (List.range 64).map (fun k => (k, ⟨0, 0, 0, 0, 0, 0, 0⟩)) } } : Machine.State).parkPlace 0 0 = none := by
  refine ⟨tReadySeq _ _ rfl rfl, tReadySeq _ _ rfl rfl, tReadySeq _ _ rfl rfl, rfl, ?_, ⟨?_, ?_, ⟨_, by rfl, ?_⟩, ?_, ?_⟩, ⟨_, by rfl, ?_⟩, ?_⟩ <;>
    decide

/-- A fetch of one page from expander memory to 69,632. -/
def tFetch (running : Bool) (copied : Nat) (bad : Option (Nat × Nat)) : Fetch :=
  ⟨0, 0, 0, running, 1, 0x200_0000_0000, 4096, 0x11000, [(17, .mem 0x11000)], bad, copied⟩

/-- The state of `tTq` with fetches. -/
def tFx (mem : Mem) (l : List Fetch) : Machine.State :=
  let s := tTq 0 [] mem
  { s with eng := { s.eng with fetches := l } }

/-- No word has an uncorrectable error. -/
theorem tBad (s : Machine.State) (h : s.uncorr = []) (a n : Nat) : s.badBytes (.mem a) n = false := by
  simp [Machine.State.badBytes, h]

set_option maxRecDepth 40000 in
/-- An id that names no entry; an absent, a resident and an evicting entry; fetches that run, wait and failed. -/
theorem witness_experts :
    let ag : Agent := .thread 0 0
    let f (n : Nat) (b : Nat) : EF := ⟨.q 6, .lit (BitVec.ofNat 64 n), .none, .none, .i32, .i32, BitVec.ofNat 4 b, false, false, 0, 0⟩
    let s := tFx [] []
    Ready s ag (.erqQry (f 1 0)) ∧ Ready s ag (.erqAcq (f 0 1)) ∧ Ready s ag (.erqRel (f 0 2)) ∧ Ready s ag (.erpin (f 0 0)) ∧
      Ready s ag (.erunpin (f 0 0)) ∧ s.eng.evicts = [] ∧ s.path.l1 = [] ∧ s.expertId ag (f 1 0).sa = 1 ∧ s.expert 0 1 = none ∧
      s.expertId ag (f 0 0).sa = 0 ∧ s.ertAddr 0 0 = some 0x10000 ∧ s.expertHeld ag 0 = false ∧
    (∃ w, s.expert 0 0 = some (0x10000, w) ∧ ertState w = 0 ∧ fld (wordAt w 0) 31 0 = 0) ∧
    (∃ w, (tFx [⟨0x10000, 1⟩, ⟨0x10007, 0x40⟩] []).expert 0 0 = some (0x10000, w) ∧ ertState w = 2 ∧ fld (wordAt w 0) 31 0 = 1) ∧
    (let e := tFetch true 0 none
     let s := tFx [] [e]
     s.fetchOf 0 0 = some e ∧ s.fetchSrc e = .mem e.bpa ∧ e.dest = some (.mem 0x11000) ∧ s.badBytes (.mem e.bpa) 4096 = false ∧
      s.fetchRevoked e = false ∧ s.severed 0 (.mem e.bpa) = false ∧ s.severed 0 (.mem 0x11000) = false ∧ s.copyHeld e 4096 = false) ∧
    (let e := tFetch true 4096 none
     let s := tFx [] [e]
     s.fetchOf 0 0 = some e ∧ e.blen ≤ e.copied ∧ s.fetchFar e = false ∧ s.fetchesOf 0 < 16 ∧ fld (Memory.w64 s.mem (0x10000 + 32)) 63 32 = 0) ∧
    (let e := tFetch false 0 none
     (tFx [] [e]).fetchOf 0 0 = some e ∧ (tFx [] [e]).fetchesOf 0 < 16) ∧
    (let e := tFetch true 0 (some (5, 0x200_0000_0000))
     (tFx [] [e]).fetchOf 0 0 = some e ∧ (tFx [] [e]).fbuf ((tFx [] [e]).boxOf 0) = none) ∧
    (let s := tFx [⟨0x10007, 0x80⟩] []
     let w := Memory.words s.mem 0x10000 8
     ertState w = 4 ∧ fld (wordAt w 0) 31 0 = 0 ∧ s.pinned 0 (ertRange w).1 (ertRange w).2 = false ∧ fld (wordAt w 4) 63 32 = 0) := by
  refine ⟨tReadySeq _ _ rfl rfl, tReadySeq _ _ rfl rfl, tReadySeq _ _ rfl rfl, tReadySeq _ _ rfl rfl, tReadySeq _ _ rfl rfl, rfl, rfl, ?_, ?_, ?_, ?_, ?_,
    ⟨_, by rfl, ?_, ?_⟩, ⟨_, by rfl, ?_, ?_⟩, ⟨?_, ?_, ?_, tBad _ rfl _ _, ?_, ?_, ?_, ?_⟩, ?_, ⟨?_, ?_⟩, ⟨?_, ?_⟩, ?_⟩ <;> decide

/-- A thread of a launch with wave 0, stopped for it, in the given state. -/
def tDbg (v : Wave) : Machine.State := { tThread tHM with waves := [(0, v)] }

/-- A wave stopped for the sequencer. -/
def tStopped : Wave := { tV with stop := .seq }

set_option maxRecDepth 40000 in
/-- Handles that name no stopped wave and one; a workgroup switched out; selectors that name nothing; waves that halt. -/
theorem witness_debug :
    let ag : Agent := .thread 0 0
    let s := tDbg tStopped
    let f (d a b c : Opnd) (n i : Nat) : SF := ⟨d, a, b, c, .i32, BitVec.ofNat 4 n, BitVec.ofNat 16 i⟩
    (Ready s ag (.dwrd (f (.q 6) (.q 2) (.inl 3) .none 2 5)) ∧ Ready s ag (.dwwr (f .none (.q 2) .none (.q 4) 0 5)) ∧
      Ready s ag (.dwresResume (f .none (.q 2) .none .none 0 0)) ∧ Ready s ag (.dwresKill (f .none (.q 2) .none .none 1 0)) ∧
      Ready s ag (.dwstep (f .none (.q 2) .none .none 0 0))) ∧
    (s.stoppedWave ag (s.reg ag (.q 2) true) = some (0, tStopped) ∧ s.waveOut tStopped = false ∧ tStopped.ended = false ∧
      (∀ x, (0, x) ∈ s.waves → x = tStopped) ∧ (s.debugRead 0 tStopped 2 5 3).isSome = true ∧ s.debugRead 0 tStopped 2 5 96 = none ∧ s.debugRead 0 tStopped 0 61 0 = none ∧
      (debugWrite tStopped 0 60 0 7).isSome = true ∧ debugWrite tStopped 1 3 0 7 = none) ∧
    (tDbg tV).stoppedWave ag 0 = none ∧
    (∃ s : Machine.State, s.stoppedWave ag 0 = some (0, tStopped) ∧ s.waveOut tStopped = true) ∧
    (∃ v : Wave, Ready (tWave v) (.wave 0) (.halt (f .none .none .none .none 0 0)) ∧ v.dstkdepth = 0 ∧ v.inh = none ∧ v.other.st ≠ .empty) ∧
    (Ready (tWave tV) (.wave 0) (.halt (f .none .none .none .none 0 0)) ∧ tV.dstkdepth = 0 ∧ tV.inh = none ∧ tV.other.st = .empty) ∧
    (Ready s ag (.halt (f .none .none .none .none 0 0)) ∧ s.onCluster 0 0 = true) := by
  refine ⟨⟨tReadySeq _ _ rfl rfl, tReadySeq _ _ rfl rfl, tReadySeq _ _ rfl rfl, tReadySeq _ _ rfl rfl, tReadySeq _ _ rfl rfl⟩,
    ⟨rfl, by decide, by decide, fun x h => by simpa [tDbg] using h, ?_, ?_, ?_, ?_, ?_⟩, rfl,
    ⟨{ tDbg tStopped with sch := { (tDbg tStopped).sch with wgs := [(0, ⟨0, 0, 0, 0, 0, 0, 0, false, 0, 4096, 1, true⟩)] } }, rfl, ?_⟩,
    ⟨{ tV with p1 := { tV.p1 with st := .running } }, tReady _ _ rfl rfl rfl, rfl, rfl, ?_⟩, ⟨tReady _ _ rfl rfl rfl, rfl, rfl, rfl⟩,
    ⟨tReadySeq _ _ rfl rfl, ?_⟩⟩ <;> decide

/-- Tables of five levels for page 0, with the given bytes of its leaf. -/
def tWalk (leaf : Mem) : Mem :=
  [⟨0, 1⟩, ⟨1, 0x10⟩, ⟨0x1000, 1⟩, ⟨0x1001, 0x20⟩, ⟨0x2000, 1⟩, ⟨0x2001, 0x30⟩, ⟨0x3000, 1⟩, ⟨0x3001, 0x40⟩] ++ leaf

/-- A wave with those tables and the pages of a pool; the dies are ready. -/
def tMap (a : W32) (leaf : Mem) (p : Pool) : Machine.State :=
  { tWave (tV.with 11 a) with mem := tWalk leaf, dev := { Machine.State.reset.dev with ready := 0xF }, flt := { Machine.State.reset.flt with pools := [(0, p)] } }

/-- That state as PGMAP of address 0 walks it. -/
def tHere (leaf : Mem) (p : Pool) : Machine.State :=
  let s := tMap 0 leaf p
  (s.l1Sync (.wave 0)).readsMade 0 (s.walkPath 0 4 (s.ptroot 0) 0)

set_option maxRecDepth 40000 in
/-- PGMAP: an access to wait for, an address too high, no leaf, one present, one that is neither, and first-touch leaves without a frame, with frames
and with none but the reserve, which another wave holds. -/
theorem witness_pgmap :
    let f : SF := ⟨.s 2, .s 10, .none, .none, .i32, 0, 0⟩
    let e : W64 := 0x0010_0000_0000_0008
    let ft : Mem := [⟨0x4000, 8⟩, ⟨0x4006, 0x10⟩]
    Ready (tMap 0 ft ⟨[], none, []⟩) (.wave 0) (.pgmap f) ∧
    (2 ^ 57 ≤ (tMap 0x0200_0000 [] ⟨[], none, []⟩).srcBits (.wave 0) 64 0 f.sa ∧ (tMap 0 [] ⟨[], none, []⟩).srcBits (.wave 0) 64 0 f.sa = 0) ∧
    (let s := tMap 0 ft ⟨[], none, []⟩
     s.drained (.wave 0) = true ∧ s.readsHeld 0 (s.walkPath 0 4 (s.ptroot 0) 0) = false ∧ s.path.l1 = [] ∧
      ({ s with path := { s.path with acc := [tAcc .load .relaxed] } } : Machine.State).drained (.wave 0) = false) ∧
    (∃ z, (tHere [] ⟨[], none, []⟩).walk 0 0 0 = .err z) ∧
    (let s := tHere [⟨0x4000, 9⟩] ⟨[], none, []⟩
     s.walk 0 0 0 = .leaf 0x4000 0 9 ∧ s.leafFault 0 0 9 false false ≠ some 0x21) ∧
    (tHere [⟨0x4000, 8⟩] ⟨[], none, []⟩).walk 0 0 0 = .leaf 0x4000 0 8 ∧
    (let s := tHere ft ⟨[], none, []⟩
     s.walk 0 0 0 = .leaf 0x4000 0 e ∧ ∃ t, s.firstTouch 0 0 0x4000 e = some (2, t)) ∧
    (let s := tHere ft ⟨[(0x100000, 100)], none, []⟩
     s.walk 0 0 0 = .leaf 0x4000 0 e ∧ ∃ t, s.firstTouch 0 0 0x4000 e = some (0, t)) ∧
    (let s := tHere ft ⟨[(0x100000, 1)], some 9, []⟩
     s.walk 0 0 0 = .leaf 0x4000 0 e ∧ (s.firstTouch 0 0 0x4000 e).isNone = true) ∧
    (let s := tMap 0 ft ⟨[(0x100000, 100)], none, []⟩
     fld e 11 9 % 2 = 0 ∧ 0x4000 + 8 ≤ 0x100000 ∧ s.path.l1 = [] ∧ s.home 0x100000 = .mem 0x100000 ∧ s.home 0x4000 = .mem 0x4000 ∧
      s.severed (s.clusterOf (.wave 0)) (.mem 0x4000) = false ∧ (∀ y, y < 8 → s.barred true (0x4000 + y) = false) ∧ s.ctxNode 0 = none) := by
  refine ⟨tReadyHandler _ _ rfl rfl rfl, ?_, ?_, ⟨0x21, ?_⟩, ?_, ?_, ⟨?_, _, rfl⟩, ⟨?_, _, by rfl⟩, ?_, ?_⟩ <;> decide

/-- Words as they stood at the start of a launch and as they are read now, where the two agree. -/
theorem freshOrOld_self (n : Nat) (l : List W64) : freshOrOld n l l = l := by
  refine List.ext_getElem (by simp [freshOrOld]) (fun i h1 h2 => ?_)
  simp only [freshOrOld, List.getElem_mapIdx]
  split
  · simp [wordAt, h2]
  · rfl

/-- A wave at the clause at 65,536, which it has not fetched. -/
def tVC : Wave := { tV with p0 := { tV.p0 with pc := 0x10000, code := none } }

/-- The state of a wave in its core's active context, code at 65,536, in an uncached page. -/
def tSel (v : Wave) (m : Mem) : Machine.State :=
  let s := tWave v
  { s with
    mem := m
    path := { s.path with tlb := [⟨0, 0, 16, 0x0180_0000_0001_0007, 0x10000⟩] }
    sch := { s.sch with launches := [(0, { tLaunch with snap := m })], cores := [(0, { Machine.State.reset.core 0 with active := some 0 })] } }

set_option maxRecDepth 40000 in
/-- A clause of one slot and one of none, as the wave fetches them. -/
theorem tSelFetch (m : Mem) (hm : m = [⟨0x10001, 1⟩] ∨ m = []) (s : Machine.State)
    (h : s = tSel tVC m ∨ s = ((tSel tVC m).setWave 0 { tVC with age := 1 }).tickCore 0) :
    ∃ t, s.fetch (.wave 0) 0x10000 = .ok (Memory.words m 0x10000 8, t) := by
  have hx : s.xlate 0 0 0x10000 true false = .ok (0x10000, 0x0180_0000_0001_0007) := by
    rcases hm with rfl | rfl <;> rcases h with rfl | rfl <;> rfl
  have hb : ∀ i, s.badBytes ((Home.mem 0x10000).plus (8 * i)) 8 = false := fun i => tBad _ (by rcases h with rfl | rfl <;> rfl) _ _
  have hh : s.home 0x10000 = .mem 0x10000 := by rcases h with rfl | rfl <;> rfl
  have hn : (List.range 8).map (fun i => BitVec.ofNat 64 (leNat (((Memory.read m 0x10000 64).drop (8 * i)).take 8))) =
      Memory.words m 0x10000 8 := by
    rcases hm with rfl | rfl <;> decide
  have hc : s.ctxOf (.wave 0) = 0 := by rcases h with rfl | rfl <;> rfl
  have hu : s.tlbOf (.wave 0) = 0 := by rcases h with rfl | rfl <;> rfl
  have hf : (List.range 8).find? (fun _ => false) = none := rfl
  have hl : s.launch (s.launchOf (.wave 0)) = some { tLaunch with snap := m } := by rcases h with rfl | rfl <;> rfl
  have hw (l : List W64) : l.mapIdx (fun _ w => w) = l := by
    apply List.ext_getElem <;> simp
  obtain ⟨t, ht⟩ : ∃ t, (s.keepTlb 0 0 0x10000 0x0180_0000_0001_0007).agentGet (.wave 0) .wave 0x0180_0000_0001_0007 (.mem 0x10000) 64 =
      (Memory.read m 0x10000 64, t) := by
    rcases hm with rfl | rfl <;> rcases h with rfl | rfl <;> exact ⟨_, rfl⟩
  unfold Machine.State.fetch
  simp only [hc, hu, hx, hh, hb, hf, hl, ht, hn, freshOrOld_self, hw, Bool.false_eq_true, if_false]
  exact ⟨_, rfl⟩

set_option maxRecDepth 40000 in
/-- Such a wave may be selected. -/
theorem tSelReady (m : Mem) (hm : m = [⟨0x10001, 1⟩] ∨ m = []) : (tSel tVC m).waveReady 0 tVC = true := by
  obtain ⟨t, ht⟩ := tSelFetch m hm _ (.inl rfl)
  have h1 : (tSel tVC m).waveRuns tVC = true := by rcases hm with rfl | rfl <;> rfl
  have h2 : (tSel tVC m).slotReady 0 tVC (!tVC.alt) = false := rfl
  have h3 : tVC.slotMay tVC.alt = true := rfl
  have h4 : (tVC.slotAt tVC.alt).code = none := rfl
  have h5 : (tVC.slotAt tVC.alt).pc.toNat = 0x10000 := rfl
  have h6 : ∀ k b, ((tSel tVC m).setWave 0 { tVC with alt := tVC.alt }).clauseReady (.wave 0) (Memory.words m 0x10000 8) k b false 1 = true := by
    rcases hm with rfl | rfl <;> decide
  have h7 : (tSel tVC m).slotReady 0 tVC tVC.alt = true := by
    have h8 : sweepOf tVC.repctl (!tVC.alt) = false := rfl
    have h9 : (tVC.slotAt tVC.alt).slot = 1 := rfl
    have h10 : (tSel tVC m).fetchHeld (.wave 0) 0x10000 = false := by rcases hm with rfl | rfl <;> rfl
    simp only [Machine.State.slotReady, h3, h4, h5, h10, ht, h8, h9, h6, Bool.not_false, Bool.and_self]
  simp only [Machine.State.waveReady, Machine.State.pickSlot, h1, h2, h7]
  rfl

set_option maxRecDepth 40000 in
/-- No ready wave; one inside a clause; ones whose clause has a good and a bad header, and one whose code no page maps; a ready
thread. -/
theorem witness_selection :
    Machine.State.reset.waves.filter (fun e => e.2.part == 0 && Machine.State.reset.waveReady e.1 e.2) = [] ∧
    (let s := tSel tV []
     s.waves.filter (fun e => e.2.part == 0 && s.waveReady e.1 e.2) = [(0, tV)] ∧ s.badAgents.contains (.wave 0) = false ∧
      ({ tV with alt := (s.pickSlot 0 tV).getD tV.alt } : Wave).path.code.isSome = true) ∧
    (∀ m : Mem, m = [⟨0x10001, 1⟩] ∨ m = [] → let s := tSel tVC m
      (0, tVC) ∈ s.waves.filter (fun e => e.2.part == 0 && s.waveReady e.1 e.2) ∧
      ∃ t, (((tSel tVC m).setWave 0 { tVC with age := 1 }).tickCore 0).fetch (.wave 0) 0x10000 = .ok (Memory.words m 0x10000 8, t)) ∧
    (headerBad (wordAt (Memory.words [⟨0x10001, 1⟩] 0x10000 8) 0) = false ∧ headerBad (wordAt (Memory.words [] 0x10000 8) 0) = true ∧
      (tSel tVC [⟨0x10001, 1⟩]).waveKind tVC false 0x100 = true) ∧
    (∃ z, (tWave tVC).fetch (.wave 0) 0x10000 = .error z) ∧
    (let s := tThread tHM
     ((List.range 4).map (fun k => (k, s.thread 0 k))).filter (fun e => s.threadReady 0 e.1) = [(0, tHM)] ∧
      s.badAgents.contains (.thread 0 0) = false ∧ tHM.code.isSome = true) := by
  refine ⟨rfl, ?_, fun m hm => ⟨?_, tSelFetch m hm _ (.inr rfl)⟩, ?_, ⟨_, rfl⟩, ?_⟩
  · decide
  · exact List.mem_filter.2 ⟨by simp [tSel, tWave], by simp only [tSelReady m hm]; rfl⟩
  · decide
  · decide

/-- A region control block with the given words 0, 1, 4 and 8. -/
def tNode (w0 w1 w4 w8 : W64) : Node :=
  { w := #v[w0, w1, 0, 0, w4, 0, 0, 0, w8, 0, 0, 0, 0, 0, 0, 0], state := 1, faults := 0, gen := 0, pass := 0, hbmuse := 0, sent := 0,
    permits := 0, ready := false, wprev := 0, c := 0, ptr := none, skip := [], stale := false }

/-- A root of priority 5 with every core, a tenant, contexts 0 and 1, and a queue of each: 512, of priority 1, and 768. -/
def tTree : Map Node :=
  [(0x080, tNode 0x0000_0500_0001_0000 0 0x00FF_FFFF_FFFF_FFA0 0), (0x100, tNode 0x1000_0000_0000_0000 0x080 0 0),
   (0x180, tNode 0x2000_0000_0000_0000 0x100 0 0), (0x200, tNode 0x3001_0100_0000_0000 0x180 0 0),
   (0x280, tNode 0x2000_0000_0000_0000 0x100 0 1), (0x300, tNode 0x3000_0000_0000_0000 0x280 0 0)]

/-- That tree on a device whose dies are ready, with launches, workgroups and core 0 as given. -/
def tPlan (l : Map Launch) (g : Map WG) (k : Core → Core) : Machine.State :=
  let s := Machine.State.reset
  { s with
    dev := { s.dev with ready := 0xF }
    sch := { s.sch with nodes := tTree, launches := l, wgs := g, cores := [(0, k (s.core 0))] } }

/-- A workgroup of launch i on core 0. -/
def tWG (i x slot : Nat) : WG := ⟨i, x, 0, 0, 0, 0, slot, false, 4096 * slot, 4096, 1, false⟩

/-- Packets of queue 512. -/
def tPackets (l : Map PacketSt) : Machine.State := let s := tPlan [] [] id; { s with sch := { s.sch with packets := [(0x200, l)] } }

/-- A launch packet that asks for one workgroup of one wave. -/
def tPacket : List W64 := [0x1000_2100_0000_0000, 0x0000_0001_0001_0001, 0, 64] ++ List.replicate 12 0

set_option maxRecDepth 40000 in
/-- A stale and a current queue; packets that are rejected, become launches and are of no known type. -/
theorem witness_packets :
    (∃ s : Machine.State, ∃ n, s.node 0x200 = some n ∧ n.stale = true ∧ n.level = 3) ∧
    (∃ n, (tPlan [] [] id).node 0x200 = some n ∧ n.stale = false ∧ n.wprev ≤ 7 ∧ n.c + 2 ^ n.f 10 4 0 < 7) ∧
    (∃ s : Machine.State, ∃ n, s.node 0x200 = some n ∧ 6 < n.wprev) ∧
    (let s := tPackets [(0, .read tPacket)]
     Map.find ((s.readPacket 0x200 0).packetsOf 0x200) 0 = some (.read tPacket) ∧ fld (wordAt tPacket 0) 63 60 = 1 ∧
      s.packetStatus 0x200 tPacket = none ∧ s.packetStatus 0x200 [0x1000_0000_0000_0000] = some 1) ∧
    2 ≤ fld (wordAt ([0x2000_0000_0000_0000] : List W64) 0) 63 60 := by
  refine ⟨⟨{ tPlan [] [] id with sch := { (tPlan [] [] id).sch with nodes := [(0x200, { tNode 0x3001_0100_0000_0000 0x180 0 0 with stale := true })] } },
      _, rfl, ?_, ?_⟩, ⟨_, rfl, ?_, ?_, ?_⟩,
    ⟨{ tPlan [] [] id with sch := { (tPlan [] [] id).sch with nodes := [(0x200, { tNode 0x3001_0100_0000_0000 0x180 0 0 with wprev := 7 })] } },
      _, rfl, ?_⟩, ?_, ?_⟩ <;> decide

/-- A launch of queue 512 with none of its workgroups placed. -/
def tNew : Launch := { tLaunch with q := 0x200, next := 0 }

set_option maxRecDepth 40000 in
/-- A workgroup that a core can take and one that none can; launches that are not drained, drained, and committed. -/
theorem witness_launches :
    (let s := tPlan [(launchKey 0x200 0, tNew)] [] id
     s.nextLaunch 0x200 = some (launchKey 0x200 0, tNew) ∧ (s.pickCore (launchKey 0x200 0) tNew).isSome = true) ∧
    (let s := { tPlan [(launchKey 0x200 0, tNew)] [] id with dev := Machine.State.reset.dev }
     s.nextLaunch 0x200 = some (launchKey 0x200 0, tNew) ∧ (s.pickCore (launchKey 0x200 0) tNew).isNone = true) ∧
    (tPlan [] [] id).nextLaunch 0x200 = none ∧
    (let s := tPlan [(launchKey 0x200 0, tNew)] [] id
     s.launch (launchKey 0x200 0) = some tNew ∧ tNew.phase = .run ∧ s.launchDrained (launchKey 0x200 0) tNew = false) ∧
    (let l := { tNew with next := 1 }
     let s := tPlan [(launchKey 0x200 0, l)] [] id
     s.launch (launchKey 0x200 0) = some l ∧ s.launchDrained (launchKey 0x200 0) l = true ∧
      (let r := s.startCommit .launch (launchKey 0x200 0) (s.tagsOf (launchKey 0x200 0)) true; r.2.commitDone r.1 = true)) ∧
    (∃ s : Machine.State, ∃ l n, s.launch (launchKey 0x200 0) = some l ∧ l.phase = .commit n ∧ s.commitDone n = true) := by
  refine ⟨⟨?_, ?_⟩, ⟨?_, ?_⟩, ?_, ⟨rfl, rfl, ?_⟩, ⟨rfl, ?_, ?_⟩,
    ⟨{ tPlan [(launchKey 0x200 0, { tNew with phase := .commit 5 })] [] id with
        dfd := { Machine.State.reset.dfd with commits := [tCommit] } }, _, 5, rfl, rfl, ?_⟩⟩ <;> decide

set_option maxRecDepth 40000 in
/-- A slice that is charged and one that is not; requests that are made, kept and replaced. -/
theorem witness_requests :
    (let k := (tPlan [] [] (fun k => { k with inSlice := true, active := some 0 })).core 0
     k.inSlice = true ∧ k.active.isSome = true ∧ k.req = none) ∧ (tPlan [] [] id).core 1 = Machine.State.reset.core 1 ∧
    (let s (k : Core → Core) : Machine.State :=
      (tPlan [(7, { tNew with next := 1 }), (8, { tNew with q := 0x300, ctx := 1, next := 1 })] [(1, tWG 7 0 0), (2, tWG 8 1 1)] k).refreshReady
     (∀ k : Option Nat × Option (Nat × Nat), k ∈ [(some 0, none), (some 1, none), (some 5, some (0, 0x200)), (some 5, some (1, 0x300))] →
       ((s (fun c => { c with active := k.1, req := k.2 })).core 0).active = k.1 ∧ ((s (fun c => { c with active := k.1, req := k.2 })).core 0).req = k.2 ∧
       (s (fun c => { c with active := k.1, req := k.2 })).choose 0 = some 0x300) ∧
      (s id).queueCtx 0x300 = 1 ∧ (s id).beats 0x300 0 0 = true ∧ (s id).effPrio 0x200 < (s id).effPrio 0x300) := by
  refine ⟨?_, ?_, ?_, ?_, ?_, ?_⟩ <;> decide

/-- Core 0 in a state, with the waves given and context 7 in a bank of each of its units. -/
def tCore (f : Core → Core) (w : Map Wave) : Machine.State := 
  { tPlan [] [] f with
    waves := w
    mx := { Machine.State.reset.mx with banks := (List.range 4).map (fun u => (u, ⟨some (7, 0), 0⟩, ⟨none, 0⟩)) } }

set_option maxRecDepth 40000 in
/-- No request; one that may be met and one that may not; a shadow bank to fill and a bank to spill. -/
theorem witness_switches :
    ((tCore id []).core 0).req = none ∧ ((tCore id []).core 0).spill = none ∧
    (let s := tCore (fun k => { k with req := some (7, 0x200), filled := true, begun := true }) [(0, tV), (1, { tV with ctx := 7, bank := .filled })]
     (s.core 0).req = some (7, 0x200) ∧ s.flipReady 0 7 = true) ∧
    (let s := tCore (fun k => { k with req := some (7, 0x200) }) [(0, tV), (1, { tV with ctx := 7, bank := .saved })]
     (s.core 0).req = some (7, 0x200) ∧ s.flipReady 0 7 = false ∧ (s.core 0).filled = false ∧ (s.core 0).spill = none ∧
      (s.waves.map (·.1)).Pairwise (· < ·)) ∧
    (let s := tCore (fun k => { k with spill := some 7 }) [(1, { tV with ctx := 7, bank := .out })]
     (s.core 0).spill = some 7 ∧ (s.waves.map (·.1)).Pairwise (· < ·)) := by
  refine ⟨rfl, rfl, ⟨rfl, ?_⟩, ⟨rfl, ?_, rfl, rfl, ?_⟩, ⟨rfl, ?_⟩⟩ <;> decide

/-- Memory that holds the given words. -/
def tWords (l : List (Nat × W64)) : Mem := l.foldl (fun m e => Memory.putW64 m e.1 e.2) []

/-- The device of `tPlan` in its evaluation form, its firmware looking at a block at 4,096 in the root mailbox. -/
def tFw (l : List (Nat × W64)) : Machine.State :=
  let s := tPlan [] [] id
  { s with fw := some (.root, 0x1000), mem := tWords l, dev := { s.dev with form := .e, fwRuns := true } }

/-- The block of that state is in memory that firmware reads without failure. -/
theorem tFwSound (s : Machine.State) (h : s.uncorr = []) (d : s.dev.linksDown = []) (g : s.gap 0x1000 56 = none)
    (e : s.home 0x1000 = .mem 0x1000) : Machine.Sound s 0 0x1000 (8 * 7) :=
  ⟨g, e, by simp [Machine.State.cut, d], tBad s h _ _⟩

/-- A command block of that state whose reserved bits are zero is served. -/
theorem tServed (i : Instr) (l : List (Nat × W64)) (c : Bool × Bool × List Nat) (h : i.commandRule = some c)
    (g : cmdReserved (Memory.words (tWords l) 0x1000 7) c.2.2 = false) : Served (tFw l) i .root 0x1000 (Memory.words (tWords l) 0x1000 7) :=
  have q : Machine.Sound (tFw l).idle 0 0x1000 (8 * 7) := tFwSound _ rfl rfl ((rfl : _ = (tPlan [] [] id).gap 0x1000 56).trans (by decide)) rfl
  ⟨⟨0x1000, rfl, rfl, (rfl : _ = (tPlan [] [] id).okRange 0x1000 64).trans (by decide), q.fwWords.symm⟩, rfl, q.devLost,
    c.1, c.2.1, c.2.2, h, nofun, fun _ => rfl, g, fun _ => rfl⟩

set_option maxRecDepth 40000 in
/-- A command of each kind that is served. -/
theorem witness_firmware_served :
    Served (tFw [(0x1008, 0x400)]) .nodeAttach .root 0x1000 (Memory.words (tWords [(0x1008, 0x400)]) 0x1000 7) ∧
    Served (tFw [(0x1008, 0x200)]) .nodeUpdate .root 0x1000 (Memory.words (tWords [(0x1008, 0x200)]) 0x1000 7) ∧
    Served (tFw [(0x1008, 0x200)]) .nodeDetach .root 0x1000 (Memory.words (tWords [(0x1008, 0x200)]) 0x1000 7) ∧
    Served (tFw [(0x1008, 2 ^ 63), (0x1018, 4)]) .faultbuf .root 0x1000 (Memory.words (tWords [(0x1008, 2 ^ 63), (0x1018, 4)]) 0x1000 7) ∧
    Served (tFw []) .faultflush .root 0x1000 (Memory.words (tWords []) 0x1000 7) ∧
    Served (tFw [(0x1008, 0x200)]) .resume .root 0x1000 (Memory.words (tWords [(0x1008, 0x200)]) 0x1000 7) ∧
    Served (tFw [(0x1008, 0x200)]) .endDomain .root 0x1000 (Memory.words (tWords [(0x1008, 0x200)]) 0x1000 7) ∧
    Served (tFw [(0x1018, 4)]) .pool .root 0x1000 (Memory.words (tWords [(0x1018, 4)]) 0x1000 7) ∧
    Served (tFw []) .save .root 0x1000 (Memory.words (tWords []) 0x1000 7) ∧
    Served (tFw [(0x1018, 4096)]) .inval .root 0x1000 (Memory.words (tWords [(0x1018, 4096)]) 0x1000 7) ∧
    Served (tFw [(0x1018, 16)]) .staging .root 0x1000 (Memory.words (tWords [(0x1018, 16)]) 0x1000 7) ∧
    Served (tFw [(0x1030, 1)]) .exptableDeregister .root 0x1000 (Memory.words (tWords [(0x1030, 1)]) 0x1000 7) ∧
    Served (tFw [(0x1008, 0x10000), (0x1010, 0x1_0000_0000)]) .exptableRegister .root 0x1000
      (Memory.words (tWords [(0x1008, 0x10000), (0x1010, 0x1_0000_0000)]) 0x1000 7) ∧
    Served (tFw []) .expfetch .root 0x1000 (Memory.words (tWords []) 0x1000 7) ∧
    Served (tFw []) .expevict .root 0x1000 (Memory.words (tWords []) 0x1000 7) ∧
    Served (tFw [(0x1010, 255)]) .l2ways .root 0x1000 (Memory.words (tWords [(0x1010, 255)]) 0x1000 7) ∧
    Served (tFw [(0x1018, 0x20000)]) .replica .root 0x1000 (Memory.words (tWords [(0x1018, 0x20000)]) 0x1000 7) ∧
    Served (tFw [(0x1008, 3), (0x1010, 0x2000)]) .podJoin .root 0x1000 (Memory.words (tWords [(0x1008, 3), (0x1010, 0x2000)]) 0x1000 7) ∧
    Served (tFw [(0x1010, 0x2000)]) .inbound .root 0x1000 (Memory.words (tWords [(0x1010, 0x2000)]) 0x1000 7) ∧
    Served (tFw [(0x1020, 0x200000)]) .leaseGrant .root 0x1000 (Memory.words (tWords [(0x1020, 0x200000)]) 0x1000 7) ∧
    Served (tFw [(0x1008, 1)]) .leaseRevokeCommand .root 0x1000 (Memory.words (tWords [(0x1008, 1)]) 0x1000 7) ∧
    Served (tFw [(0x1008, 2)]) .leaseFree .root 0x1000 (Memory.words (tWords [(0x1008, 2)]) 0x1000 7) ∧
    Served (tFw [(0x1008, 3)]) .leaseRead .root 0x1000 (Memory.words (tWords [(0x1008, 3)]) 0x1000 7) ∧
    Served (tFw [(0x1008, 600)]) .powercap .root 0x1000 (Memory.words (tWords [(0x1008, 600)]) 0x1000 7) ∧
    Served (tFw []) .attest .root 0x1000 (Memory.words (tWords []) 0x1000 7) ∧
    Served (tFw []) .status .root 0x1000 (Memory.words (tWords []) 0x1000 7) ∧
    Served (tFw []) .debugRead .root 0x1000 (Memory.words (tWords []) 0x1000 7) ∧
    Served (tFw []) .debugWrite .root 0x1000 (Memory.words (tWords []) 0x1000 7) ∧
    Served (tFw []) .debugHalt .root 0x1000 (Memory.words (tWords []) 0x1000 7) ∧
    Served (tFw []) .debugStep .root 0x1000 (Memory.words (tWords []) 0x1000 7) ∧
    Served (tFw []) .debugContinue .root 0x1000 (Memory.words (tWords []) 0x1000 7) ∧
    Served (tFw []) .unknownCommand .root 0x1000 (Memory.words (tWords []) 0x1000 7) := by
  refine ⟨tServed _ _ _ rfl ?_, tServed _ _ _ rfl ?_, tServed _ _ _ rfl ?_, tServed _ _ _ rfl ?_, tServed _ _ _ rfl ?_, tServed _ _ _ rfl ?_,
    tServed _ _ _ rfl ?_, tServed _ _ _ rfl ?_, tServed _ _ _ rfl ?_, tServed _ _ _ rfl ?_, tServed _ _ _ rfl ?_, tServed _ _ _ rfl ?_,
    tServed _ _ _ rfl ?_, tServed _ _ _ rfl ?_, tServed _ _ _ rfl ?_, tServed _ _ _ rfl ?_, tServed _ _ _ rfl ?_, tServed _ _ _ rfl ?_,
    tServed _ _ _ rfl ?_, tServed _ _ _ rfl ?_, tServed _ _ _ rfl ?_, tServed _ _ _ rfl ?_, tServed _ _ _ rfl ?_, tServed _ _ _ rfl ?_,
    tServed _ _ _ rfl ?_, tServed _ _ _ rfl ?_, tServed _ _ _ rfl ?_, tServed _ _ _ rfl ?_, tServed _ _ _ rfl ?_, tServed _ _ _ rfl ?_,
    tServed _ _ _ rfl ?_, tServed _ _ _ rfl ?_⟩ <;> decide

set_option maxRecDepth 40000 in
/-- Blocks that are outside memory, halted, out of reach, with a reserved bit and without authority. -/
theorem witness_firmware_refusals :
    (∃ s : Machine.State, s.fw = none) ∧
    (∃ s : Machine.State, s.fw = some (.root, 0x1000) ∧ s.dev.fwRuns = false) ∧
    (∃ s : Machine.State, s.fw = some (.root, 2 ^ 46) ∧ s.dev.fwRuns = true ∧ s.okRange (s.ownWindow (2 ^ 46)) 64 = false) ∧
    (let s := { tFw [] with dev := { (tFw []).dev with fwHalted := true } }
     s.takes .root 0x1000 (Memory.words [] 0x1000 7) ∧ s.dev.fwHalted = true) ∧
    (∃ (s : Machine.State) (w : List W64), s.takes .root (3 * 2 ^ 36) w ∧ s.dev.fwRuns = true ∧ s.dev.fwHalted = false ∧
      s.idle.devLost 0 (s.home (3 * 2 ^ 36)) = true) ∧
    cmdReserved (Memory.words (tWords [(0x1030, 1)]) 0x1000 7) [] = true ∧
    (let s := { tFw [] with fw := some (.part 0, 0x1000) }
     s.takes (.part 0) 0x1000 (Memory.words [] 0x1000 7) ∧ s.idle.devLost 0 (s.home 0x1000) = false ∧
      cmdReserved (Memory.words [] 0x1000 7) [15, 2 ^ 64 - 1, 2 ^ 64 - 1] = false) := by
  have g : (tPlan [] [] id).gap 0x1000 56 = none := by decide
  have o : (tPlan [] [] id).okRange 0x1000 64 = true := by decide
  have q1 : Machine.Sound { tFw [] with fw := none, dev := { (tFw []).dev with fwHalted := true } } 0 0x1000 (8 * 7) := tFwSound _ rfl rfl g rfl
  have q2 : Machine.Sound (tFw []).idle 0 0x1000 (8 * 7) := tFwSound _ rfl rfl g rfl
  exact ⟨⟨Machine.State.reset, rfl⟩, ⟨{ Machine.State.reset with fw := some (.root, 0x1000) }, rfl, rfl⟩,
    ⟨{ tFw [] with fw := some (.root, 2 ^ 46) }, rfl, rfl, by decide⟩, ⟨⟨0x1000, rfl, rfl, o, q1.fwWords.symm⟩, rfl⟩,
    ⟨{ tFw [] with fw := some (.root, 3 * 2 ^ 36), dev := { (tFw []).dev with linksDown := [(0, 1)] } }, _,
      ⟨3 * 2 ^ 36, rfl, rfl, by decide, rfl⟩, rfl, rfl, by decide⟩, by decide,
    ⟨0x1000, rfl, rfl, o, q2.fwWords.symm⟩, q2.devLost, by decide⟩

/-- A queue's block for 1,024, its parent context 0. -/
def tQueueBlock : List (Nat × W64) := [(0x1008, 0x400), (0x400, 0x3000_0000_0000_0000), (0x408, 0x180), (0x450, 4)]

/-- The block of queue 512 as `tTree` has it, with a ring. -/
def tUpdateBlock : List (Nat × W64) := [(0x1008, 0x200), (0x200, 0x3001_0100_0000_0000), (0x208, 0x180), (0x250, 4)]

set_option maxRecDepth 40000 in
/-- What the node, fault-buffer, pool and invalidation commands ask for besides. -/
theorem witness_firmware_nodes :
    (let u := (tFw tQueueBlock).idle
     let n := Node.ofWords (u.blockWords 0x400)
     u.namedNode (Memory.words u.mem 0x1000 7) = 0x400 ∧ u.assigned 0x400 = true ∧ foreignBlock .root n = false ∧ (u.node 0x400).isNone = true ∧
      u.blockOk n = true ∧ u.underParent n = true ∧ u.countsBad n = false ∧ n.level = 3 ∧ (u.atLevel 3).length < 4096) ∧
    (let u := (tFw tUpdateBlock).idle
     let n := Node.ofWords (u.blockWords 0x200)
     (u.node 0x200).isSome = true ∧ u.blockOk n = true ∧ n.level = 3 ∧ n.parent = 0x180 ∧ u.underParent n = true ∧ u.kids 0x200 = []) ∧
    (let u := (tFw [(0x1008, 2 ^ 63), (0x1018, 4)]).idle
     u.okRange (u.ownWindow 0) (64 + 64 * 2 ^ 4) = true ∧
      boxAllowed .root (namedBox (Memory.words u.mem 0x1000 7)) = true) ∧
    (let u := (tFw [(0x1018, 4)]).idle
     u.ctxAllowed .root 0 = true ∧ (u.ctxNode 0).isSome = true ∧ u.okRange (u.ownWindow 0) (pageBytes 0 * 4) = true ∧
      u.covered (u.ownWindow 0) (pageBytes 0 * 4) = false) ∧
    (let u := (tFw []).idle
     (u.banksFor 0 = [] ∨ ∀ e ∈ u.banksFor 0, u.bankBusy e.1 e.2 = false) ∧ u.dfd.staged = [] ∧ u.dfd.inbox = []) := by
  refine ⟨?_, ?_, ?_, ?_, ?_⟩ <;> decide

/-- A record of an exact addition at 65,536 in pseudo-channel 0, of tag 0. -/
def tRecW : W64 := BitVec.ofNat 64 (2 * 2 ^ 46 + 0x10000 / 4)

/-- A record of the given words in a bin. -/
def tBinRec (w0 w1 : W64) : BinRec := ⟨w0, w1, [], 0, 0, []⟩

/-- A bin of that record for pseudo-channel 0. -/
def tBin (due : Bool) : Bin := ⟨0, .pch 0, 0, 1, 0, 0, [tBinRec tRecW 3], due⟩

/-- A device with a deferred path of its own. -/
def tDef (f : Deferred → Deferred) : Machine.State := { Machine.State.reset with dfd := f Machine.State.reset.dfd }

/-- A notice of tag 0. -/
def tNotice : Notice := ⟨5, [0], 0, 0, 0, [], 0, 0⟩

set_option maxRecDepth 40000 in
/-- Logs, bins and shipments in each of their cases. -/
theorem witness_deferred_path :
    Machine.State.reset.log 0 = [] ∧
    (∃ s : Machine.State, s.log 0 = [.marker 5]) ∧
    (let s := tDef (fun d => { d with logs := [(0, [.record tRec])] })
     s.log 0 = [.record tRec] ∧ tRec.dest = .pch 0 ∧ s.inReplica (recAddr tRec.w0) = false ∧ s.dfd.bins = []) ∧
    (let s := tDef (fun d => { d with logs := [(0, [.record tRec])], bins := [tBin true] })
     (s.file 0 tRec.dest tRec.ctx s.selfDev s.dev.inc (binRec tRec.w0 tRec.w1 0 tRec.launch)).isNone = true) ∧
    (∀ due, (tDef (fun d => { d with bins := [tBin due] })).dfd.bins.find? (fun c => c.die == 0 && c.dest == .pch 0 && c.key == 0) = some (tBin due)) ∧
    (∀ l, let s := tDef (fun d => { d with chans := [⟨0, .pch 0, l, []⟩] })
      s.dfd.chans.find? (fun c => c.die == 0 && c.dest == .pch 0) = some ⟨0, .pch 0, l, []⟩ ∧ s.cut 0 0 = false ∧
        Map.find s.dfd.areas 0 = none) ∧
    (let s := tDef (fun d => { d with areas := [(0, 0, 16)] })
     Map.find s.dfd.areas 0 = some (0, 16) ∧ s.freeRing 0 16 = some 0 ∧ (tBin true).recs ≠ [] ∧ (tBin true).recs.length ≤ 128) := by
  refine ⟨rfl, ⟨tDef (fun d => { d with logs := [(0, [.marker 5])] }), rfl⟩, ⟨rfl, rfl, ?_, rfl⟩, ?_, fun due => rfl, fun l => ⟨rfl, rfl, rfl⟩,
    rfl, ?_, ?_, ?_⟩ <;> decide

set_option maxRecDepth 40000 in
/-- A record that is applied, and ones that fail for each cause; notices; bins of other devices. -/
theorem witness_replay :
    (let x (w1 : W64) (reg : Option Region) : ReplayRec := ⟨0, 0, 0, reg, 0x8000, tBinRec tRecW w1⟩
     let reg : Region := ⟨0, 0, 0x10000, 4096, true, true, 0⟩
     recValid tRecW 3 = true ∧ (x 3 (some reg)).allowed = true ∧ recValid tRecW (2 ^ 32) = false ∧ (x 3 none).allowed = false ∧ recOp tRecW ≠ 1 ∧
      Machine.State.reset.badBytes (.mem 0x8000) 16 = false ∧ Machine.State.reset.badBytes (.mem 0x10000) 4 = false ∧
      ({ Machine.State.reset with uncorr := [0x2000, 0x4000] } : Machine.State).badBytes (.mem 0x8000) 16 = true ∧
      ({ Machine.State.reset with uncorr := [0x2000, 0x4000] } : Machine.State).badBytes (.mem 0x10000) 4 = true) ∧
    Map.at Machine.State.reset.dfd.inbox 0 [] = [] ∧
    Map.at (tDef (fun d => { d with inbox := [(0, [tNotice])] })).dfd.inbox 0 [] = [tNotice] ∧
    (let s := { Machine.State.reset with fab := { Machine.State.reset.fab with incs := [(3, 7)], binSeen := [(3, 1)] } }
     (s.meet 3 6).isNone = true ∧ s.meet 3 7 = some s ∧ s.fab.binSeen.contains (3, 1) = true) := by
  refine ⟨⟨?_, ?_, ?_, ?_, ?_, tBad _ rfl _ _, tBad _ rfl _ _, ?_, ?_⟩, rfl, rfl, ?_, rfl, ?_⟩ <;> decide

/-- A device whose dies are ready, with a fabric of its own. -/
def tFab (f : Fabric → Fabric) : Machine.State := let s := tPlan [] [] id; { s with fab := f s.fab }

/-- A write of this device that device 3 has not answered. -/
def tReq (sends : Nat) : FabReq := ⟨5, 0, 0, 1, 0, 3, 0x10000, .write [1], sends, none, 0, none, none, false⟩

set_option maxRecDepth 40000 in
/-- Requests that arrive and answers; leases in their states; permits; the phases of recovery. -/
theorem witness_fabric :
    (let f : RemoteFrom := ⟨3, 7, 0, 1⟩
     let s := tFab (fun b => { b with incs := [(3, 7)] })
     (s.meet 3 6).isNone = true ∧ s.meet 3 7 = some s ∧ s.seenBefore f = none ∧ s.inHbm 0x10000 4 = true ∧ s.badPart 0x10000 4 = false ∧
      s.inHbm (2 ^ 45) 4 = false ∧ s.fbuf .root = none ∧ s.badBytes (.mem 0x10000) 4 = false ∧
      ((tFab (fun b => { b with seen := [⟨f, 9⟩] })).seenBefore f).isSome = true) ∧
    (Machine.State.reset.req 5 = none ∧
      (let s := tFab (fun b => { b with out := [tReq 1] })
       s.req 5 = some (tReq 1) ∧ s.waiter 5 = none ∧ (tReq 1).sends < s.ports 3) ∧
      (let s := tFab (fun b => { b with out := [tReq 24] })
       s.req 5 = some (tReq 24) ∧ s.ports 3 ≤ (tReq 24).sends)) ∧
    (let s := { tFab (fun b => { b with out := [tReq 1] }) with
        path := { Machine.State.reset.path with acc := [{ tAcc .store .relaxed with lanes := [], sent := [(5, ⟨0, 0, .dev 3 0 none, false, false, 7, 0⟩)] }] } }
     (s.waiter 5).isSome = true) ∧
    (∃ a, (tFab id).ctxNode 0 = some a) ∧
    (let l : Lease := ⟨2, true, true, 3, 7, 9, 0, 0x200000⟩
     let s := tFab (fun b => { b with leases := [(1, l)] })
     (s.lease 1).state = 2 ∧ s.inflight 1 = 0 ∧ (s.lease 0).state ≠ 2) ∧
    (RecoveryPhase.prior .announce = none ∧ Machine.State.reset.fab.recovery = [] ∧
      (∃ p, RecoveryPhase.prior .drainLeases = some p ∧ (tFab (fun b => { b with recovery := [p] })).fab.recovery.getLast? = some p) ∧
      (∃ p, RecoveryPhase.prior .reroute = some p ∧ (tFab (fun b => { b with recovery := [p] })).fab.recovery.getLast? = some p)) := by
  refine ⟨⟨?_, rfl, rfl, ?_, ?_, ?_, rfl, tBad _ rfl _ _, rfl⟩, ⟨rfl, ⟨rfl, rfl, ?_⟩, rfl, ?_⟩, ?_, ⟨0x180, ?_⟩, ?_, ⟨rfl, rfl, ⟨_, rfl, rfl⟩, ⟨_, rfl, rfl⟩⟩⟩ <;> decide

/-- A fault buffer of the root box with a record held for it. -/
def tHeld : Machine.State :=
  { Machine.State.reset with flt := { Machine.State.reset.flt with root := some ⟨0x8000, 4, 0, 0, 0⟩, held := [⟨.root, Vector.replicate 8 0⟩] } }

set_option maxRecDepth 40000 in
/-- Host accesses; refreshes issued and postponed; a handover and none; a tick; a die; a held record; invalidations. -/
theorem witness_device_events :
    (2 ^ 40 ≤ 2 ^ 40 + 64 ∧ (tPlan [] [] id).inHbm 0x10000 4 = true ∧ (tPlan [] [] id).badPart 0x10000 4 = false ∧
      (tPlan [] [] id).inHbm (2 ^ 45) 4 = false ∧ (tPlan [] [] id).badBytes (.mem 0x10000) 4 = false ∧ Machine.State.reset.sch.nodes = []) ∧
    ((Map.at Machine.State.reset.dev.refresh 0 (0, 0)).2 < 4 ∧ Machine.State.reset.computeMode 0 = Machine.State.reset.dev.cupolaRefresh.contains 0 ∧
      (tDef (fun d => { d with cmds := [tCmd 0 0] })).computeMode 0 ≠ (tDef (fun d => { d with cmds := [tCmd 0 0] })).dev.cupolaRefresh.contains 0) ∧
    ((1200 ≤ 1300 ∧ 1300 ≤ 2400 ∧ 1300 % 100 = 0) ∧ (List.replicate 12 0).length = 12 ∧ (∀ p ∈ List.replicate 160 7, p ≤ 7) ∧
      Machine.State.reset.dieReady 3 = false) ∧
    ((tHeld.fbuf .root).isSome = true ∧ (tHeld.flt.held.find? (fun h => h.box == .root)).isSome = true ∧ tHeld.fbufRoom ⟨0x8000, 4, 0, 0, 0⟩ = true) ∧
    (Machine.State.reset.flt.invals.find? (fun v => v.n == 5) = none ∧
      (let v : Inval := ⟨5, 0, 0x10000, 4096, .root, 0x1000⟩
       let s := { Machine.State.reset with flt := { Machine.State.reset.flt with invals := [v] } }
       s.flt.invals.find? (fun v => v.n == 5) = some v ∧ s.pinned 0 0x10000 4096 = false ∧ s.draining 0 0x10000 4096 = false) ∧
      (let s := { Machine.State.reset with eng := tStreams [tTxCmd] }
       s.pinned 0 0x10000 4096 = true)) := by
  refine ⟨?_, ?_, ?_, ?_, rfl, ⟨rfl, ?_, ?_⟩, ?_⟩ <;> decide

set_option maxRecDepth 40000 in
/-- What the commands on experts, the pod and leases ask for besides. -/
theorem witness_firmware_rest :
    (∀ m : Mem, m = [] ∨ m = [⟨0x10000, 1⟩, ⟨0x10007, 0x40⟩] ∨ m = [⟨0x10007, 0x40⟩] ∨ m = [⟨0x10007, 0x60⟩] →
      let u : Machine.State := { tPage (tPlan [] [] id) with mem := m, eng := { Machine.State.reset.eng with tables := [(0, tTable)] } }
      u.ctxNode 0 = some 0x180 ∧ u.ertAddr 0 0 = some 0x10000 ∧ (u.effClmask 0x180).testBit 0 = true) ∧
    (fld (Memory.w64 [⟨0x10000, 1⟩, ⟨0x10007, 0x40⟩] 0x10000) 63 61 = 2 ∧ fld (Memory.w64 [⟨0x10000, 1⟩, ⟨0x10007, 0x40⟩] 0x10000) 31 0 ≠ 0 ∧
      fld (Memory.w64 [⟨0x10007, 0x60⟩] 0x10000) 63 61 = 3) ∧
    ((tFw []).idle.okRange 0x2000 128 = true ∧ (Memory.get (tWords [(0x2000, 8)]) 0x2000).toNat.testBit 3 = true) ∧
    ((tFw []).idle.lease 0).state = 0 ∧
    (∃ u : Machine.State, (u.lease 0).state = 3) ∧
    (tFw []).idle.okRange 0 4827 = true ∧ arg (Memory.words (tWords [(0x1008, 600)]) 0x1000 7) 1 15 0 = 600 := by
  refine ⟨?_, ?_, ?_, rfl, ⟨tFab (fun b => { b with leases := [(0, ⟨3, true, true, 3, 7, 9, 0, 0x200000⟩)] }), rfl⟩, ?_, ?_⟩
  · rintro m (rfl | rfl | rfl | rfl) <;> decide
  all_goals decide

/-! ### Further cases of the statements' hypotheses -/

set_option maxRecDepth 40000 in
/-- An iteration that gives up, of a thread in its handler. -/
theorem witness_matrix_traps :
    let m := { tOp (.miter tAclr) false with out := 4 }
    let s := tMx { tHM with inh := true } (fun x => { x with mops := [(1, m)] })
    Map.find s.mx.mops 1 = some m ∧ m.more = false ∧ m.snap = s.opReads m ∧ s.banked (.thread m.cluster m.thread) ∧
      s.here (.thread m.cluster m.thread) m.seat = true ∧ (s.thread m.cluster m.thread).inh = true ∧ m.i = .miter tAclr ∧ m.out = 4 := by
  refine ⟨rfl, rfl, by decide, nofun, by decide, rfl, rfl, rfl⟩

set_option maxRecDepth 40000 in
/-- An empty sweep before a word that decodes and one that does not; a sweep resumed that goes on, and one whose registers are
no longer there. -/
theorem witness_rep_resumed :
    (∃ i, decodeWord (wordAt ((tWave tRep).codeOf (.wave 0)) 2) (wordAt ((tWave tRep).codeOf (.wave 0)) 3) = .ok i) ∧
    (∀ i, decodeWord (wordAt ((tWave (tCode 2 [0, 0x2100_0000_0000_0000])).codeOf (.wave 0)) 2) 0 ≠ .ok i) ∧
    (let f : PF := ⟨4, 8, 8, 0, 8, 0⟩
     let v (n : Nat) : Wave := { tRep with allot := n, repctl := repctlWord false 2 4 }
     let i : Instr := .vfma ⟨.v 8, .v 2, .s 10, .v 8, .f32, 0, 0, false, false, 0, false, 0⟩
     Ready (tWave (v 64)) (.wave 0) (.rep f) ∧ (tWave (v 64)).repTarget (.wave 0) f = some i ∧ 2 < f.count.toNat ∧
      (tWave (v 64)).formFault (.wave 0) (repIters f i 2) = none ∧ (tWave (v 16)).formFault (.wave 0) (repIters f i 2) = some 2) := by
  refine ⟨⟨_, rfl⟩, fun i => ?_, tReady _ _ rfl rfl rfl, by decide, by decide, by decide, by decide⟩
  have h : (decodeWord (wordAt ((tWave (tCode 2 [0, 0x2100_0000_0000_0000])).codeOf (.wave 0)) 2) 0).toOption = none := rfl
  intro e
  rw [e] at h
  cases h

/-- A scratchpad word with an uncorrectable error. -/
theorem witness_scratchpad_error : ({ tWave (tAt 0) with spadBad := [0] } : Machine.State).badBytes ((tWave (tAt 0)).spadHome (.wave 0) 0 4) 4 = true ∧
    (tWave (tAt 0)).badBytes ((tWave (tAt 0)).spadHome (.wave 0) 0 4) 4 = false := by decide

set_option maxRecDepth 40000 in
/-- A thread with an acquire that is incomplete, on an expert's entry too. -/
theorem witness_acquire_pending :
    let s := tTq tShared [] []
    let p : Machine.State := { s with path := { s.path with acc := [{ tAcc .load .acquire with ag := .thread 0 0, seat := s.seat (.thread 0 0) }] } }
    s.acquiring (.thread 0 0) = false ∧ p.acquiring (.thread 0 0) = true ∧ p.expertHeld (.thread 0 0) 0 = true := by decide

set_option maxRecDepth 40000 in
/-- No-op packets with a reserved bit, behind an earlier packet, and done at once. -/
theorem witness_noops :
    let s (k : Nat) (w : List W64) := tPackets [(0, .read tPacket), (k, .read w)]
    let w : List W64 := List.replicate 16 0
    let b : List W64 := 2 ^ 57 :: List.replicate 15 0
    Map.find (((s 1 w).readPacket 0x200 1).packetsOf 0x200) 1 = some (.read w) ∧ fld (wordAt w 7) 63 57 = 0 ∧ fld (wordAt w 7) 3 0 = 0 ∧
      bitAt (wordAt w 0) 57 = false ∧ bitAt (wordAt b 0) 57 = true ∧ ((s 1 b).readPacket 0x200 1).packetOver 0x200 0 = false ∧
      fld (wordAt ([0, 0, 0, 0, 0, 0, 0, 1] : List W64) 7) 3 0 ≠ 0 := by decide

set_option maxRecDepth 40000 in
/-- A slice that ends with a request that is kept and one that is not. -/
theorem witness_slices :
    let s (r : Nat × Nat) := tPlan [(7, { tNew with next := 1 }), (8, { tNew with q := 0x300, ctx := 1, next := 1 })] [(1, tWG 7 0 0), (2, tWG 8 1 1)]
        (fun c => { c with active := some 5, req := some r, inSlice := true })
    let after (r : Nat × Nat) :=
      let k := (s r).core 0
      let now := k.slice + BitVec.ofNat 64 32768
      (((s r).setCore 0 { k with cyc := if 32768 ≤ k.run then k.cyc else now }).charge k.queue 32768).boundary 0
    ((s (1, 0x300)).core 0).inSlice = true ∧ (after (1, 0x300)).choose 0 = some 0x300 ∧ (after (1, 0x300)).queueCtx 0x300 = 1 ∧
      (after (0, 0x200)).choose 0 = some 0x300 ∧ (after (0, 0x200)).queueCtx 0x300 = 1 := by decide

set_option maxRecDepth 40000 in
/-- Requests that a live port reached and that none did; a recovery whose second and third phases are due. -/
theorem witness_fabric_reach :
    (tFab (fun b => { b with out := [tReq 1] })).reached (tReq 1) = true ∧ (tFab id).reached (tReq 0) = false ∧ (tReq 0).sends = 0 ∧
    (tFab id).refuses 3 0x10000 = false ∧
    (∀ ph ∈ [RecoveryPhase.failItems, .endDomains], ∃ p, RecoveryPhase.prior ph = some p ∧
      (tFab (fun b => { b with recovery := [p] })).fab.recovery.getLast? = some p) := by
  refine ⟨by decide, by decide, rfl, by decide, ?_⟩
  simp [RecoveryPhase.prior, tFab]

set_option maxRecDepth 40000 in
/-- HBM that the host reaches and that a failed link cuts off; the last die of a device with a core in a slice, and with none. -/
theorem witness_device_links :
    (tPlan [] [] id).hostCut (3 * 2 ^ 36) = false ∧
    (∃ s : Machine.State, s.hostCut (3 * 2 ^ 36) = true ∧ s.inHbm (3 * 2 ^ 36) 4 = true) ∧
    ({ tPlan [] [] id with dev := { (tPlan [] [] id).dev with ready := 7 } } : Machine.State).dieReady 3 = false ∧
    (∃ k : Core → Core, ∃ e ∈ (tPlan [] [] k).sch.cores, e.2.inSlice = true ∧ e.2.active.isSome = true) := by
  refine ⟨by decide, ⟨{ tPlan [] [] id with dev := { (tPlan [] [] id).dev with linksDown := [(0, 1)] } }, by decide, by decide⟩, by decide,
    ⟨fun c => { c with active := some 0, inSlice := true }, _, .head _, rfl, rfl⟩⟩

/-- A context's block for 1,024, its parent the tenant. -/
def tCtxBlock : List (Nat × W64) := [(0x1008, 0x400), (0x400, 0x2000_0000_0000_0000), (0x408, 0x100), (0x440, 2)]

set_option maxRecDepth 40000 in
/-- What attaching a context, detaching a queue, a flush of a fault buffer and deregistering ask for besides. -/
theorem witness_firmware_contexts :
    (let s := { tFw tCtxBlock with flt := { Machine.State.reset.flt with root := some ⟨0x8000, 4, 0, 0, 0⟩, parts := [(0, ⟨0xC000, 4, 0, 0, 0⟩)] } }
     let u := s.idle
     let n := Node.ofWords (u.blockWords 0x400)
     foreignBlock .root n = false ∧ (u.node 0x400).isNone = true ∧ u.blockOk n = true ∧ u.underParent n = true ∧ u.countsBad n = false ∧ n.level = 2 ∧
      u.flt.root.isSome = true ∧ (Map.find u.flt.parts n.tenpart).isSome = true ∧ (u.deferredEntries n.ctxid 12).isSome = true) ∧
    (let u := (tFw [(0x1008, 0x200)]).idle
     (u.node 0x200).isSome = true ∧ u.kids 0x200 = [] ∧ u.eng.fetches = [] ∧ allows .root (u.nodePart 0x200) = true) ∧
    (let u := ({ tFw [] with flt := { Machine.State.reset.flt with root := some ⟨0x8000, 4, 0, 0, 0⟩ } } : Machine.State).idle
     (u.fbuf .root).isSome = true ∧ Memory.num u.mem (0x8000 + 8) 8 = 0) ∧
    (let u := ({ tFw [(0x1030, 1)] with eng := { Machine.State.reset.eng with tables := [(0, tTable)] } } : Machine.State).idle
     (Map.find u.eng.tables 0).isSome = true ∧ u.tableBusy 0 tTable = false) := by decide

set_option maxRecDepth 40000 in
/-- INBOUND with an area on each die's fourth stack and a region on every stack. -/
theorem witness_inbound :
    let s := tFw ((List.range 24).map (fun k => (0x2000 + 8 * k, 64)))
    let u := ({ s with dfd := { Machine.State.reset.dfd with areas := [(0, 0, 16), (3, 0, 16), (6, 0, 16), (9, 0, 16)] } } : Machine.State).idle
    let ws := u.fwWords 0x2000 24
    let l := (List.range 12).map (fun st => (st, (wordAt ws (2 * st)).toNat, (wordAt ws (2 * st + 1)).toNat))
    u.okRange 0x2000 192 = true ∧
      (∀ e ∈ l, e.2.1 ≠ 0 ∧ e.2.1 % 64 = 0 ∧ e.2.2 ≠ 0 ∧ e.2.2 % 64 = 0 ∧ e.2.1 + e.2.2 ≤ 2 ^ 36) ∧
      ((u.fwNote 0x2000 24).inboundEntries 0 l).isSome = true ∧ (∀ d, d < 4 → Map.find (u.fwNote 0x2000 24).dfd.areas (3 * d) ≠ none) := by decide

/-! ### Waits for the budgets, failed links and debug writes -/

/-- A state whose HBM controller of stack 0 has no budget left. -/
def tStarved (s : Machine.State) : Machine.State := { s with dev := { s.dev with hbmBudget := [0] } }

set_option maxRecDepth 40000 in
/-- Lanes, handles, command blocks and records whose walks go on, and ones that wait for the budget. -/
theorem witness_walks_held :
    (let s := tPage (tWave (tAt 0x10000))
     s.lanesHeld 0 0 (fun l => s.ea (.wave 0) tLd false l) (s.accLanes (.wave 0) true) = false ∧
      (tStarved s).lanesHeld 0 0 (fun l => (tStarved s).ea (.wave 0) tLd false l) ((tStarved s).accLanes (.wave 0) true) = false) ∧
    (let s := tStarved (tWave (tAt 0x10000))
     (∀ l ∈ s.accLanes (.wave 0) true, s.ea (.wave 0) tLd false l % 4 = 0) ∧
      s.lanesHeld 0 0 (fun l => s.ea (.wave 0) tLd false l) (s.accLanes (.wave 0) true) = true) ∧
    (let s := tPage (tWave ((tV.with 20 0x10000).with 22 0x1000))
     s.walkHeld 0 0 0x10000 = false ∧ s.stackCut (.wave 0) 0 = false ∧ s.stackCut (.wave 0) 3 = false ∧
      (let z : Machine.State := { s with dev := { s.dev with linksDown := [(0, 1)] } }
       z.stackCut (.wave 0) 3 = true ∧ z.walkHeld 0 0 0x10000 = false)) ∧
    (let s := tStarved (tMap 0 [⟨0x4000, 0xF⟩] ⟨[], none, []⟩)
     s.xlate 0 0 0 true true = .ok (0, 0xF) ∧ s.walkHeld 0 0 0 = true) ∧
    (let s := tPage (tWave (tAt 0x10000))
     s.walkHeld 0 0 0x10000 = false) := by
  refine ⟨?_, ?_, ?_, ⟨?_, ?_⟩, ?_⟩ <;> decide

set_option maxRecDepth 40000 in
/-- Handles on a stack that a failed link cuts off; a commit with no bin on its way. -/
theorem witness_cut_handles :
    (let s : Machine.State := { tWave ((tV.with 20 0x10000).with 22 0x1000) with
        path := { Machine.State.reset.path with tlb := [⟨0, 0, 16, 0x30_0000_0007, 0x30_0000_0000⟩] }
        dev := { Machine.State.reset.dev with linksDown := [(0, 1)] } }
     let f : SF := ⟨.s 40, .s 20, .s 22, .none, .i32, 0, 3⟩
     Ready s (.wave 0) (.capnew f) ∧ s.xlate 0 0 0x10000 true true = .ok (0x30_0000_0000, 0x30_0000_0007) ∧ s.offered (.wave 0) 3 = false ∧
      s.walkHeld 0 0 0x10000 = false ∧ s.stackCut (.wave 0) 3 = true) ∧
    (let s : Machine.State := { tWave ((tV.with 20 0x3000_0001).with 22 0x3000_0001) with dev := { Machine.State.reset.dev with linksDown := [(0, 1)] } }
     let f : SF := ⟨.s 40, .s 20, .s 22, .none, .i32, 0, 0⟩
     Ready s (.wave 0) (.capswap f) ∧ s.offered (.wave 0) (capStack (s.srcBits (.wave 0) 32 0 f.sa)) = false ∧
      s.stackCut (.wave 0) (capStack (s.srcBits (.wave 0) 32 0 f.sa)) = true) ∧
    (tDfd tV (fun d => { d with commits := [tCommit] })).binsOut tCommit = false := by
  refine ⟨⟨tReady _ _ rfl rfl rfl, by rfl, ?_, ?_, ?_⟩, ⟨tReady _ _ rfl rfl rfl, ?_, ?_⟩, ?_⟩ <;> decide

set_option maxRecDepth 40000 in
/-- Command blocks whose stack is in reach and whose items and completion words the budget lets through, and ones it does not. -/
theorem witness_command_budgets :
    let s := tDfd tV (fun d => { d with cmds := [tCmd 0 0], offers := [tOffer tBlock] })
    s.cut ((tOffer tBlock).seat.cluster / 10) (capStack (blockFld (tOffer tBlock).w 1 63 32) / 3) = false ∧ s.fab.broken = [] ∧
      s.hbmFull ((tCmd 0 0).stack * 2 ^ 36) 4 = false ∧ s.hbmFull 0x10800 8 = false ∧
      (tStarved s).hbmFull ((tCmd 0 0).stack * 2 ^ 36) 4 = true := by decide

/-- Tables for page 16, whose leaf gives it all rights. -/
def tWalk16 : Mem := tWalk [⟨0x4080, 0xF⟩, ⟨0x4082, 1⟩]

set_option maxRecDepth 40000 in
/-- Tensor commands whose pages need no walk and ones whose walks wait; bursts for which the budget has room and has none. -/
theorem witness_tensor_budgets :
    let src := tLayout 0x10400
    let dst := tLayout 0x10500
    let vas := vaddrs (layoutOf src) [0] false false ++ vaddrs (layoutOf dst) [0] false true
    tTx.pinHeld (engTlb 0) 0 vas = false ∧
    (let s := tStarved { tThread tHX with mem := tWalk16 ++ tLayouts.map (fun c => ⟨c.1 + 2 ^ 36, c.2⟩), dev := { Machine.State.reset.dev with ready := 0xF },
                                          path := { Machine.State.reset.path with tlb := [⟨160, 0, 16, 0x10_0001_000F, 0x10_0001_0000⟩] } }
     Ready s (.thread 0 0) (.txf tCopy) ∧ (s.readRecord (.thread 0 0) 0x10000).1 = .words src ∧ s.recordHeld (.thread 0 0) 0x10000 = false ∧
      pickCause (s.pinAll (engTlb 0) 0 vas).errs = none ∧ s.pinHeld (engTlb 0) 0 vas = true) ∧
    (let s := tStarved { tTx with eng := tStreams [tTxCmd] }
     s.txfHead 0 0 0 = some tTxCmd ∧ s.placesHeld 0 (tTxCmd.readPlaces 0 [(0, some 0)]) (tTxCmd.writePlaces 0 [(0, some 0)]) = true) := by
  refine ⟨?_, ⟨tReadySeq _ _ rfl rfl, ?_, ?_, ?_, ?_⟩, rfl, ?_⟩ <;> decide

set_option maxRecDepth 40000 in
/-- Fetches that a bad word stops and one that waits for its answers. -/
theorem witness_fetch_stops :
    (let e := tFetch true 0 none
     let s : Machine.State := { tFx [] [e] with uncorr := [0x200_0000_0000 / 4] }
     s.fetchOf 0 0 = some e ∧ s.ertAddr 0 0 = some 0x10000 ∧ e.copied < e.blen ∧ s.badBytes (s.fetchSrc e) 4096 = true) ∧
    (let e := tFetch true 0 none
     let s := tStarved (tFx [] [e])
     s.fetchOf 0 0 = some e ∧ s.copyHeld e 4096 = true) ∧
    (let e := tFetch true 4096 none
     let s : Machine.State := { tFx [] [e] with fab := { Machine.State.reset.fab with out := [⟨5, 0, 0, 1, 0, 3, 0x10000, .write [1], 1, none, 0, none, some (fetchKey e), false⟩] } }
     s.fetchOf 0 0 = some e ∧ e.blen ≤ e.copied ∧ s.fetchFar e = true) := by
  refine ⟨⟨rfl, ?_, ?_, ?_⟩, ⟨rfl, ?_⟩, rfl, ?_, ?_⟩ <;> decide

/-- A stopped wave with one entry on its stack. -/
def tStoppedDeep : Wave := { tStacked with stop := .seq }

set_option maxRecDepth 40000 in
/-- Debug writes of PCS that end a wave, that pop an entry, and whose pop waits for an earlier access. -/
theorem witness_debug_pops :
    (∃ u, debugWrite tStopped 4 0 0 8 = some u ∧ tStopped.newlyEmpty u = none ∧ u.ended = true) ∧
    (∃ u, debugWrite tStopped 0 3 0 8 = some u ∧ tStopped.newlyEmpty u = none ∧ u.ended = false) ∧
    (∃ u, debugWrite tStoppedDeep 4 256 0 8 = some u ∧ tStoppedDeep.newlyEmpty u = some true ∧
      (let s : Machine.State := { tStack 0 with waves := [(0, tStoppedDeep)], threads := [(0, tHM)], issue := some ⟨.thread 0 0, false⟩ }
       s.stoppedWave (.thread 0 0) (s.reg (.thread 0 0) (.q 2) true) = some (0, tStoppedDeep) ∧
        (∃ t0 x, s.popInto 0 u true 3 = .ok (t0, x) ∧ x.ended = false) ∧
        ({ s with path := { s.path with acc := [tAcc .load .relaxed] } } : Machine.State).popInto 0 u true 3 = .wait)) :=
  ⟨⟨_, rfl, by decide, by decide⟩, ⟨_, rfl, by decide, by decide⟩, ⟨_, rfl, by decide, rfl, ⟨_, _, rfl, by decide⟩, rfl⟩⟩

set_option maxRecDepth 40000 in
/-- Write indexes and packets that are read and that wait for the budget; a packet read from its ring. -/
theorem witness_queue_reads :
    (let s := tPlan [] [] id
     let t : Machine.State := { s with sch := { s.sch with nodes := Map.put s.sch.nodes 0x200 { tNode 0x3001_0100_0000_0000 0x180 0 0 with stale := true } } }
     ∃ n, t.node 0x200 = some n ∧ n.stale = true ∧ n.level = 3 ∧ t.devHeld (t.queueCtx 0x200) (t.home (n.f 11 51 6 * 64)) 8 = false ∧
      (tStarved t).devHeld (t.queueCtx 0x200) (t.home (n.f 11 51 6 * 64)) 8 = true) ∧
    (let s : Machine.State := { tPackets [(0, .visible)] with mem := [⟨7, 0x10⟩] }
     ∃ n w, Map.find s.sch.nodes 0x200 = some n ∧ Map.find (s.packetsOf 0x200) 0 = some .visible ∧
      s.devHeld (s.queueCtx 0x200) (s.home (n.ringAt 0)) 128 = false ∧
      Map.find ((s.readPacket 0x200 0).packetsOf 0x200) 0 = some (.read w) ∧ fld (wordAt w 0) 63 60 = 1 ∧
      (tStarved s).devHeld (s.queueCtx 0x200) (s.home (n.ringAt 0)) 128 = true) := by
  refine ⟨⟨_, rfl, ?_, ?_, ?_, ?_⟩, ⟨_, _, rfl, rfl, ?_, rfl, ?_, ?_⟩⟩ <;> decide

set_option maxRecDepth 40000 in
/-- Results of conditional launches that are read and that wait for the budget. -/
theorem witness_result_reads :
    (tPlan [(launchKey 0x200 0, tNew)] [] id).resultHeld tNew = false ∧
    (let l : Launch := { tNew with ctx := 9, par := { placeParams with cond := true, resaddr := 0 }, next := 1 }
     let s : Machine.State := tStarved { tPlan [(launchKey 0x200 0, l)] [] id with mem := tWalk [⟨0x4000, 0xF⟩] }
     s.launch (launchKey 0x200 0) = some l ∧ s.launchDrained (launchKey 0x200 0) l = true ∧ s.resultHeld l = true) := by
  refine ⟨?_, rfl, ?_, ?_⟩ <;> decide

set_option maxRecDepth 40000 in
/-- A slice that ends; a choice after it that keeps the context and one that asks for another; workgroups whose saved records
are there. -/
theorem witness_rechoice :
    (let s (x : Nat) := tPlan [(7, { tNew with next := 1 }), (8, { tNew with q := 0x300, ctx := 1, next := 1 })] [(1, tWG 7 0 0), (2, tWG 8 1 1)]
        (fun c => { c with active := some x, inSlice := true })
     ((s 1).core 0).inSlice = true ∧ ((s 1).core 0).active.isSome = true ∧
      (∀ x ∈ [1, 5], (s x).choose 0 = some 0x300 ∧ (s x).queueCtx 0x300 = 1 ∧ ((s x).core 0).active = some x) ∧
      (tPlan [] [] id).choose 0 = none) ∧
    (let g : WG := { tWG 7 7 0 with out := true }
     let s := { tCore (fun k => { k with req := some (7, 0x200) }) [(0, tV), (1, { tV with ctx := 7, bank := .saved })] with
        mem := [⟨0x4000007, 0x80⟩], sch := { (tPlan [] [] (fun k => { k with req := some (7, 0x200) })).sch with wgs := [(1, g)] } }
     (s.core 0).req = some (7, 0x200) ∧ (s.core 0).filled = false ∧ (s.core 0).spill = none ∧ g.ctx = 7 ∧ g.core = 0 ∧ s.wgThere g = true) := by
  refine ⟨?_, ?_⟩ <;> decide

/-- A staged bin of one record of tag 0 that no commit has covered. -/
def tStaged : Staged := ⟨0, 0, 0, 0, 1, 0, [(tBinRec tRecW 3, false)], none⟩

set_option maxRecDepth 40000 in
/-- Bins that are staged, that wait for the budget and that a failed link stops; replays that wait and that do not. -/
theorem witness_staging :
    (let s := tDef (fun d => { d with chans := [⟨0, .pch 0, [.bin (tBin true)], []⟩], areas := [(0, 0, 16)] })
     s.cut 0 (0 / 192) = false ∧ s.freeRing 0 16 = some 0 ∧ s.hbmFull (0 / 64 * 2 ^ 36) (16 * (tBin true).recs.length + 16) = false ∧
      (tStarved s).hbmFull (0 / 64 * 2 ^ 36) (16 * (tBin true).recs.length + 16) = true) ∧
    (let s := { Machine.State.reset with dev := { Machine.State.reset.dev with linksDown := [(0, 1)] } }
     s.cut 0 (192 / 192) = true ∧ (tBin true).recs ≠ []) ∧
    (let s := tDef (fun d => { d with inbox := [(0, [tNotice])], staged := [tStaged], areas := [(0, 0, 16)] })
     Map.at s.dfd.inbox 0 [] = [tNotice] ∧ replayBytes (s.replaySet 0 tNotice) ≠ 0 ∧
      s.hbmFull (0 / 64 * 2 ^ 36) (replayBytes (s.replaySet 0 tNotice)) = false ∧
      (tStarved s).hbmFull (0 / 64 * 2 ^ 36) (replayBytes (s.replaySet 0 tNotice)) = true) ∧
    (∀ i, i < 4 → Machine.State.reset.barred false (0x10000 + i) = false) := by
  refine ⟨?_, ?_, ?_, ?_⟩ <;> decide

set_option maxRecDepth 40000 in
/-- A bin that arrives with a handle that is out to its sender and a free inbound slot, with and without the budget for it; one with
another handle; a notice for the first and for the second time. -/
theorem witness_inbound_bin :
    let s := { Machine.State.reset with
      fab := { Machine.State.reset.fab with incs := [(3, 7)], granted := [(3 * 1024, [(4, 1)])] }
      dfd := { Machine.State.reset.dfd with areas := [(9, 0, 16)] } }
    let s1 := { s with fab := { s.fab with binSeen := s.fab.binSeen ++ [(3, 1)] } }
    s.meet 3 7 = some s ∧ s.fab.binSeen.contains (3, 1) = false ∧ Map.find s.dfd.areas (3 * inboundDie 3) = some (0, 16) ∧
      s.permitted 3 0 4 = true ∧ s.permitted 3 0 5 = false ∧ s1.inboundSlot (inboundDie 3) 16 = some (576, 0) ∧
      s.hbmFull (3 * inboundDie 3 * 2 ^ 36) 32 = false ∧
      ({ s with dev := { s.dev with hbmBudget := List.replicate 12 0 } } : Machine.State).hbmFull (3 * inboundDie 3 * 2 ^ 36) 32 = true ∧
      s.fab.seen.find? (fun k => k.f == ⟨3, 7, noticeQueue, 1⟩) = none ∧
      (∃ k, ([⟨⟨3, 7, noticeQueue, 1⟩, 2⟩] : List Seen).find? (fun k => k.f == ⟨3, 7, noticeQueue, 1⟩) = some k) := by
  refine ⟨rfl, ?_, ?_, ?_, ?_, ?_, ?_, ?_, rfl, ⟨_, rfl⟩⟩ <;> decide

set_option maxRecDepth 40000 in
/-- Requests of other devices and of the host for which the budget has room and has none; an invalidation whose block is in reach. -/
theorem witness_outside_budgets :
    (tFab (fun b => { b with incs := [(3, 7)] })).hbmFull 0x10000 4 = false ∧
    (tStarved (tFab (fun b => { b with incs := [(3, 7)] }))).hbmFull 0x10000 4 = true ∧
    (tStarved (tFab id)).inHbm 0x10000 4 = true ∧ (tStarved (tFab id)).hostCut 0x10000 = false ∧
    (let s := { tFab id with flt := { Machine.State.reset.flt with invals := [⟨5, 0, 0x10000, 4096, .root, 0x1000⟩] } }
     s.pinned 0 0x10000 4096 = false ∧ s.draining 0 0x10000 4096 = false ∧ s.gap (0x1000 + 56) 8 = none ∧ s.home (0x1000 + 56) = .mem (0x1000 + 56) ∧
      s.cut 0 (homeDie (0x1000 + 56)) = false) := by
  refine ⟨?_, ?_, ?_, ?_, ?_⟩ <;> decide

set_option maxRecDepth 40000 in
/-- Blocks in this device's memory; a stack of a ready die; a fault buffer to flush; a record of members; areas for INBOUND. -/
theorem witness_firmware_reads :
    (let u := (tFw tQueueBlock).idle.fwNote 0x1000 7
     u.blockHere 0x400 = true ∧ Machine.foreignBlock .root (Node.ofWords (u.blockWords 0x400)) = false) ∧
    ((tFw []).idle.dieReady (0 / 3) = true ∧ (tFw []).idle.dfd.inb = []) ∧
    (let u := ({ tFw [] with flt := { Machine.State.reset.flt with root := some ⟨0x8000, 4, 0, 0, 0⟩ } } : Machine.State).idle
     (wordAt (u.fwWords (0x8000 + 8) 1) 0).toNat ≤ 0) ∧
    (((tFw [(0x2000, 8)]).idle.physGet 0 (0x2000) 128).getD (3 / 8) 0).toNat.testBit (3 % 8) = true := by
  refine ⟨?_, ?_, ?_, ?_⟩ <;> decide

/-! ### A command of more than 1,024 pages -/

/-- The first addresses of pages are among the addresses, one for each page. -/
theorem firstInPages_spec (l : List Nat) :
    (∀ y ∈ firstInPages l, y ∈ l) ∧ ∀ x ∈ l, ∃ y ∈ firstInPages l, y / 4096 = x / 4096 := by
  unfold firstInPages
  generalize hf : (fun (a : List Nat) (x : Nat) => if a.any (fun y => y / 4096 == x / 4096) then a else x :: a) = f
  have key : ∀ (l a : List Nat), (∀ y ∈ l.foldl f a, y ∈ a ∨ y ∈ l) ∧ (∀ y ∈ a, y ∈ l.foldl f a) ∧
      ∀ x ∈ l, ∃ y ∈ l.foldl f a, y / 4096 = x / 4096 := by
    intro l
    induction l with
    | nil => simp
    | cons z r ih =>
      intro a
      have hz : (∀ y ∈ f a z, y ∈ a ∨ y = z) ∧ (∀ y ∈ a, y ∈ f a z) ∧ ∃ y ∈ f a z, y / 4096 = z / 4096 := by
        subst hf
        by_cases h : a.any (fun y => y / 4096 == z / 4096) = true
        · simp only [h, if_true]
          obtain ⟨y, hy, e⟩ := List.any_eq_true.1 h
          exact ⟨fun y hy => .inl hy, fun _ h => h, y, hy, by simpa using e⟩
        · simp only [h]
          exact ⟨fun y hy => by simpa [or_comm] using hy, fun y hy => by simp [hy], z, by simp, rfl⟩
      obtain ⟨h1, h2, h3⟩ := ih (f a z)
      refine ⟨fun y hy => ?_, fun y hy => h2 y (hz.2.1 y hy), fun x hx => ?_⟩
      · rcases h1 y hy with h | h
        · rcases hz.1 y h with h | h <;> simp [h]
        · simp [h]
      · rcases List.mem_cons.1 hx with rfl | hx
        · obtain ⟨y, hy, e⟩ := hz.2.2
          exact ⟨y, h2 y hy, e⟩
        · exact h3 x hx
  obtain ⟨h1, _, h3⟩ := key l []
  exact ⟨fun y hy => by simpa using h1 y (List.mem_reverse.1 hy), fun x hx => by simpa using h3 x hx⟩

/-- Addresses that all translate, through pages of 4 KiB, fault nowhere and pin the page of each. -/
theorem pinAll_small (s : Machine.State) (u x : Nat) (l : List (Nat × Bool))
    (h : ∀ e ∈ l, ∃ pa leaf, s.xlate u x e.1 (!e.2) e.2 = .ok (pa, leaf) ∧ pageBytes (fld leaf 11 9) = 4096) :
    (s.pinAll u x l).errs = [] ∧ ∀ e ∈ l, (e.1 / 4096, 4096) ∈ (s.pinAll u x l).dist := by
  unfold Machine.State.pinAll
  generalize hf : (fun (a : Pins) (e : Nat × Bool) =>
    match s.xlate u x e.1 (!e.2) e.2 with
    | .error c => { a with errs := a.errs ++ [(c, e.1)] }
    | .ok (pa, leaf) =>
      let sz := pageBytes (fld leaf 11 9)
      { a with pages := a.pages ++ [(e.1 / 4096, s.home (pa / 4096 * 4096))],
               bypass := if s.l2Holds leaf then a.bypass else a.bypass ++ [e.1 / 4096],
               dist := (a.dist ++ [(e.1 / sz, sz)]).eraseDups }) = f
  have key : ∀ (l : List (Nat × Bool)) (a : Pins), a.errs = [] →
      (∀ e ∈ l, ∃ pa leaf, s.xlate u x e.1 (!e.2) e.2 = .ok (pa, leaf) ∧ pageBytes (fld leaf 11 9) = 4096) →
      (l.foldl f a).errs = [] ∧ (∀ d ∈ a.dist, d ∈ (l.foldl f a).dist) ∧ ∀ e ∈ l, (e.1 / 4096, 4096) ∈ (l.foldl f a).dist := by
    intro l
    induction l with
    | nil => intro a ha _; exact ⟨ha, fun _ h => h, nofun⟩
    | cons e r ih =>
      intro a ha hl
      obtain ⟨pa, leaf, hx, hp⟩ := hl e (by simp)
      have he : (f a e).errs = [] ∧ (∀ d ∈ a.dist, d ∈ (f a e).dist) ∧ (e.1 / 4096, 4096) ∈ (f a e).dist := by
        subst hf
        simp only [hx, hp, ha, List.mem_eraseDups, List.mem_append, true_and]
        exact ⟨fun d h => .inl h, .inr (by simp)⟩
      obtain ⟨h1, h2, h3⟩ := ih (f a e) he.1 (fun k hk => hl k (by simp [hk]))
      refine ⟨h1, fun d hd => h2 d (he.2.1 d hd), fun k hk => ?_⟩
      rcases List.mem_cons.1 hk with rfl | hk
      · exact h2 _ he.2.2
      · exact h3 k hk
  have := key l ⟨[], [], [], []⟩ rfl h
  exact ⟨this.1, this.2.2⟩

/-- The record of 1,025 FP32 elements, one in each page from the one of `base` on. -/
def tWideRec (base : W64) : List W64 := [0x0800_0000_0000_0000, base, 0, 0, 0x0004_0100_0000_1000] ++ List.replicate 27 0

/-- Two such records, and the pages of their elements in the engine's TLB. -/
def tWide : Machine.State :=
  { tPage (tThread tHX) with
    mem := [⟨0x10007, 8⟩, ⟨0x1000A, 0x10⟩, ⟨0x10021, 0x10⟩, ⟨0x10025, 1⟩, ⟨0x10026, 4⟩,
      ⟨0x10107, 8⟩, ⟨0x10109, 4⟩, ⟨0x1010A, 0x10⟩, ⟨0x10121, 0x10⟩, ⟨0x10125, 1⟩, ⟨0x10126, 4⟩]
    path := { Machine.State.reset.path with tlb :=
      ⟨160, 0, 16, 0x10007, 0x10000⟩ :: (List.range 1025).map (fun k => ⟨200, 0, 256 + k, 0x10007, 0x10000⟩) } }

/-- The page of an element of those records translates. -/
theorem tWide_xlate (va : Nat) (rd wr : Bool) (h : 256 ≤ va / 4096) (g : va / 4096 < 1281) :
    ∃ pa, tWide.xlate 200 0 va rd wr = .ok (pa, 0x10007) := by
  have ht : tWide.tlbHit 200 0 va = some 0x10007 := by
    have hm : ∃ t ∈ tWide.path.tlb, (t.unit == 200 && t.ctx == 0 && t.vpn == va / 4096) = true :=
      ⟨⟨200, 0, va / 4096, 0x10007, 0x10000⟩, by
        show _ ∈ _ :: _
        exact .tail _ (List.mem_map.2 ⟨va / 4096 - 256, List.mem_range.2 (by omega), by simp; omega⟩), by simp⟩
    have hs := List.find?_isSome.2 hm
    obtain ⟨t, e⟩ := Option.isSome_iff_exists.1 hs
    have hl : t.leaf = 0x10007 := by
      have : t ∈ _ :: _ := List.mem_of_find?_eq_some e
      rcases List.mem_cons.1 this with rfl | this
      · rfl
      · obtain ⟨_, _, rfl⟩ := List.mem_map.1 this
        rfl
    unfold Machine.State.tlbHit
    rw [e]
    exact congrArg some hl
  have hp : leafPa 0x10007 va = 0x10000 + va % 4096 := rfl
  have hw : tWide.ownWindow (leafPa 0x10007 va) = 0x10000 + va % 4096 := by
    rw [hp]
    unfold Machine.State.ownWindow
    rw [if_neg (by omega)]
  have hr : tWide.leafRights va 0x10007 rd wr = none := by
    unfold Machine.State.leafRights
    simp only [hw]
    have hn : leaseWindow (0x10000 + va % 4096) = none := by unfold leaseWindow; rw [if_neg (by omega)]
    rw [hn]
    cases rd <;> cases wr <;> rfl
  refine ⟨0x10000 + va % 4096, ?_⟩
  unfold Machine.State.xlate
  rw [if_neg (by omega), ht]
  simp only [hr, hw]

/-- What such a record says. -/
theorem tWide_layout (base : W64) (hb : base = 0x100000 ∨ base = 0x100400) :
    layoutOf (tWideRec base) = ⟨.f32, numFmt .f32 false, false, false, base.toNat, 0, 0, ⟨1025, 4096, 0, 1025⟩, []⟩ := by
  rcases hb with rfl | rfl <;> decide

/-- The addresses of those records' elements lie in as many pages. -/
theorem tWide_reach (base : W64) (hb : base = 0x100000 ∨ base = 0x100400) :
    let l := (layoutOf (tWideRec base)).reach (List.range 1025) false
    (∀ y ∈ l, 256 ≤ y / 4096 ∧ y / 4096 < 1281) ∧ ∀ k, k < 1025 → ∃ y ∈ l, y / 4096 = 256 + k := by
  have hn : ∃ o, base.toNat = 0x100000 + o ∧ o < 4096 := by
    rcases hb with rfl | rfl
    · exact ⟨0, rfl, by decide⟩
    · exact ⟨0x400, rfl, by decide⟩
  obtain ⟨o, ho, hlt⟩ := hn
  have ha : ∀ n, n < 1025 → (layoutOf (tWideRec base)).at n = some (((base.toNat + n * 4096 : Nat) : Int), 0) := by
    intro n hn
    rw [tWide_layout base hb]
    have h1 : n % 1025 = n := Nat.mod_eq_of_lt hn
    have h2 : (numFmt .f32 false).width = 32 := rfl
    simp [Layout.at, h1, h2, hn, offsetOf]
  have hl : (List.range 1025).filterMap (fun n => ((layoutOf (tWideRec base)).at n).map (fun p => p.1.toNat)) =
      (List.range 1025).map (fun n => base.toNat + n * 4096) := by
    rw [← List.filterMap_eq_map]
    refine List.filterMap_congr fun n hn => ?_
    rw [ha n (List.mem_range.1 hn)]
    rfl
  have hm : (layoutOf (tWideRec base)).mx = false := by rw [tWide_layout base hb]
  have hr : (layoutOf (tWideRec base)).reach (List.range 1025) false =
      firstInPages ((List.range 1025).map (fun n => base.toNat + n * 4096)) := by
    unfold Layout.reach
    rw [hl]
    simp
  obtain ⟨f1, f2⟩ := firstInPages_spec ((List.range 1025).map (fun n => base.toNat + n * 4096))
  simp only [hr]
  constructor
  · intro y hy
    obtain ⟨n, hn, rfl⟩ := List.mem_map.1 (f1 y hy)
    have := List.mem_range.1 hn
    omega
  · intro k hk
    obtain ⟨y, hy, e⟩ := f2 _ (List.mem_map.2 ⟨k, List.mem_range.2 hk, rfl⟩)
    exact ⟨y, hy, by omega⟩

set_option maxRecDepth 100000 in
/-- A TXF that passes its checks and names 1,025 pages. -/
theorem witness_tensor_pages :
    let s := tWide
    let ag : Agent := .thread 0 0
    let a := layoutOf (tWideRec 0x100000)
    let b := layoutOf (tWideRec 0x100400)
    let idx := s.indexList ag 0 0 (listRows 0 (some a) (some b)).1
    let its := (List.range (txfItems 0 b idx)).map (txfItem 0 b idx)
    let vas := vaddrs a (its.filterMap (·.2)) false false ++ vaddrs b (its.map (·.1)) false true
    Ready s ag (.txf tCopy) ∧ s.banked ag ∧ (s.stream (s.streamOf ag tCopy)).cmds.length < 16 ∧ s.recordHeld ag 0x10000 = false ∧
      s.recordHeld ag 0x10100 = false ∧ s.countRoom ag (s.flagFor ag false) false false = true ∧
      (s.readRecord ag 0x10000).1 = .words (tWideRec 0x100000) ∧ (s.readRecord ag 0x10100).1 = .words (tWideRec 0x100400) ∧
      pickCause (s.txfFaults ag 0 false 0 (.words (tWideRec 0x100000)) (.words (tWideRec 0x100400))) = none ∧
      pickCause (s.pinAll (engTlb 0) 0 vas).errs = none ∧ 1024 < (s.pinAll (engTlb 0) 0 vas).dist.length := by
  intro s ag a b idx its vas
  have hi : idx = [] := by
    show s.indexList ag 0 0 (listRows 0 (some a) (some b)).1 = []
    rfl
  have hc : txfItems 0 b idx = 1025 := by rw [show b = _ from tWide_layout _ (.inr rfl)]; rfl
  have ht : its = (List.range 1025).map (fun n => (n, some n)) := by
    show (List.range (txfItems 0 b idx)).map (txfItem 0 b idx) = _
    rw [hc]
    rfl
  have h1 : its.filterMap (·.2) = List.range 1025 := by rw [ht, List.filterMap_map]; exact List.filterMap_some
  have h2 : its.map (·.1) = List.range 1025 := by rw [ht, List.map_map]; exact List.map_id _
  have hv : vas = ((a.reach (List.range 1025) false).map (fun y => (y, false))) ++ ((b.reach (List.range 1025) false).map (fun y => (y, true))) := by
    show vaddrs a (its.filterMap (·.2)) false false ++ vaddrs b (its.map (·.1)) false true = _
    rw [h1, h2]
    have ha : a.spc = false := by rw [show a = _ from tWide_layout _ (.inl rfl)]
    have hb : b.spc = false := by rw [show b = _ from tWide_layout _ (.inr rfl)]
    simp only [vaddrs, ha, hb, Bool.false_eq_true, if_false]
  obtain ⟨a1, a2⟩ := tWide_reach 0x100000 (.inl rfl)
  obtain ⟨b1, _⟩ := tWide_reach 0x100400 (.inr rfl)
  obtain ⟨p1, p2⟩ := pinAll_small s 200 0 vas (fun e he => by
    have hr : 256 ≤ e.1 / 4096 ∧ e.1 / 4096 < 1281 := by
      rw [hv] at he
      rcases List.mem_append.1 he with he | he <;> obtain ⟨y, hy, rfl⟩ := List.mem_map.1 he
      · exact a1 y hy
      · exact b1 y hy
    obtain ⟨pa, h⟩ := tWide_xlate e.1 (!e.2) e.2 hr.1 hr.2
    exact ⟨pa, _, h, rfl⟩)
  have hn : 1025 ≤ (s.pinAll 200 0 vas).dist.length := by
    have hs : (List.range 1025).map (fun k => (256 + k, 4096)) ⊆ (s.pinAll 200 0 vas).dist := by
      intro d hd
      obtain ⟨k, hk, rfl⟩ := List.mem_map.1 hd
      obtain ⟨y, hy, e⟩ := a2 k (List.mem_range.1 hk)
      have := p2 (y, false) (by rw [hv]; exact List.mem_append_left _ (List.mem_map.2 ⟨y, hy, rfl⟩))
      rwa [e] at this
    have hd : ((List.range 1025).map (fun k => (256 + k, 4096))).Nodup :=
      List.nodup_range.map (fun i j h => by simpa using h)
    simpa using (hd.subperm hs).length_le
  refine ⟨tReadySeq _ _ rfl rfl, nofun, ?_, ?_, ?_, ?_, ?_, ?_, ?_, ?_, hn⟩
  · decide
  · decide
  · decide
  · decide
  · decide
  · decide
  · decide
  · show pickCause (s.pinAll 200 0 vas).errs = none
    rw [p1]
    rfl

/-! ### Values of the deferred path and of the firmware -/

set_option maxRecDepth 40000 in
/-- The first eight bytes of SHA3-512 of the empty message (FIPS 202). -/
theorem test_sha3_of_nothing : (Sha3.sha512 []).head? = some 0xc59a3aa2cc739fa6 := by decide

set_option maxRecDepth 40000 in
/-- Two additions of 2^-24 to 1.0 are one of their sum (R86, R271). -/
theorem test_record_run : recNew 0x0A false 0x3F80_0000 (runSum [0x3380_0000, 0x3380_0000]) = 0x3F80_0001 := by decide

/-- A byte written over another, and one written back to what an unlisted address reads as. -/
theorem test_memory_form : Memory.write [⟨4, 1⟩] 4 [0, 7] = [⟨5, 7⟩] := by decide
end Sys2Proof
end

/-! The scalar instructions of R125, R126 and R225: where an agent stands after an instruction, a result that stands in its
destination, the set lanes of a mask, and the words that no clause may hold. -/

namespace Sys2Proof

open Sys2Proof.Machine

/-! ### The place of an agent after an instruction (R90) -/

@[simp] theorem pcOf_unlatch (s : Machine.State) (ag : Agent) : s.unlatch.pcOf ag = s.pcOf ag := by
  cases ag <;> rfl

/-- A wave that stops stays where it stands (R217). -/
theorem halt_place (v : Wave) (st : Stop) (r : TRec) :
    (v.halt st r).path.pc = v.path.pc ∧ (v.halt st r).path.slot = v.path.slot ∧ (v.halt st r).alt = v.alt := by
  cases h : v.alt <;> simp [Wave.halt, Wave.setPath, Wave.path, h]

/-- A wave released for one instruction stops where that instruction left it (R221). -/
@[simp] theorem pcOf_stepped (s : Machine.State) (ag : Agent) : (s.stepped ag).pcOf ag = s.pcOf ag := by
  cases ag with
  | thread c k => rfl
  | wave w =>
    cases hv : s.wave w with
    | none => simp [State.stepped, hv]
    | some v =>
      obtain ⟨hpc, hslot, halt⟩ := halt_place v .seq v.trec
      cases hs : v.step with
      | false => simp [State.stepped, hv, hs]
      | true => simpa [State.stepped, State.pcOf, hv, hs] using ⟨hpc, hslot, halt⟩

theorem pcOf_toSlot (s : Machine.State) (ag : Agent) (n : Nat) (hp : ag.present s) :
    (s.toSlot ag n).pcOf ag = ((s.pcOf ag).1, n, (s.pcOf ag).2.2) := by
  cases ag with
  | thread c k => simp [State.toSlot, State.pcOf]
  | wave w =>
    obtain ⟨v, hv⟩ := Option.isSome_iff_exists.1 hp
    simp [State.toSlot, State.pcOf, hv]

theorem pcOf_goto (s : Machine.State) (ag : Agent) (pc : BitVec 57) (w : Wait) (hp : ag.present s) :
    (s.goto ag pc w).pcOf ag = (pc, 1, (s.pcOf ag).2.2) := by
  cases ag with
  | thread c k => simp [State.goto, State.pcOf]
  | wave w =>
    obtain ⟨v, hv⟩ := Option.isSome_iff_exists.1 hp
    simp [State.goto, State.pcOf, hv]

/-- An instruction of n slots outside a sweep leaves its agent n slots further, or at the clause that follows (R90). -/
theorem after_retire (s : Machine.State) (ag : Agent) (n : Nat) (w : Wait) (h : s.issue = some ⟨ag, false⟩)
    (hp : ag.present s) : After s (s.retire n w) ag n := by
  have hr : (s.retire n w).pcOf ag = (s.advance ag n w).pcOf ag := by simp [State.retire, h]
  unfold After
  rw [hr, State.advance]
  by_cases hn : (s.pcOf ag).2.1 + n ≤ s.nslot ag
  · simp [hn, pcOf_toSlot s ag _ hp]
  · simp [hn, pcOf_goto s ag _ w hp]

/-! ### A result that stands in its destination (R97, R110) -/

theorem holds_putReg (s : Machine.State) (ag : Agent) (k : ClauseKind) (o : Opnd) (ty : Ty) (x : W64)
    (hp : ag.present s) (hf : ag.fits k) (ho : regOk k (ty.bits == 64) o = true) :
    Holds (s.putReg ag o (ty.bits == 64) ty.signed x) ag o ty x := by
  refine ⟨by simpa using reg_putReg s ag k o (ty.bits == 64) ty.signed x hp hf ho, ?_⟩
  rintro c j n rfl rfl
  simp [State.putReg, Thread.getQ, Thread.putQ, qValue]

/-- A result still stands once the agent has gone on. -/
theorem Holds.retire {s : Machine.State} {ag : Agent} {o : Opnd} {ty : Ty} {x : W64} (hx : Holds s ag o ty x)
    (k : ClauseKind) (n : Nat) (w : Wait) (h : s.issue = some ⟨ag, false⟩) (hp : ag.present s)
    (ho : regOk k (ty.bits == 64) o = true) : Holds (s.retire n w) ag o ty x := by
  refine ⟨(reg_retire s ag k o _ n w h hp ho).trans hx.1, fun c j m hag hom => ?_⟩
  have hk := Kept.retire ag s n w [] [] false false h
  exact ((hk.thread c j hag).q m.val (by simp)).trans (hx.2 c j m hag hom)

theorem Kept.present {ag : Agent} {s t : Machine.State} {a b : List Nat} {f k : Bool} (h : Kept ag s t a b f k)
    (hp : ag.present s) : ag.present t := by
  cases ag with
  | thread c j => trivial
  | wave w =>
    obtain ⟨v, hv⟩ := Option.isSome_iff_exists.1 hp
    obtain ⟨u, hu, -⟩ := h.wave w v rfl hv
    simp [Agent.present, hu]

/-- An instruction that writes one 32-bit number and goes on: the number stands in its destination, and nothing else changes
but the place of the agent. -/
theorem put32_retire {s : Machine.State} {ag : Agent} {k : ClauseKind} {o : Opnd} {x : Nat} (n : Nat)
    (h : s.issue = some ⟨ag, false⟩) (hp : ag.present s) (hf : ag.fits k) (ho : regOk k false o = true) (hx : x < 2 ^ 32) :
    Holds ((s.put32 ag o x).retire n .none) ag o .n32 (BitVec.ofNat 64 x) ∧
      Kept ag s ((s.put32 ag o x).retire n .none) (dstRegs ag o false) [] false false := by
  unfold State.put32
  rw [Nat.mod_eq_of_lt hx]
  have hkept := Kept.putReg ag s o false false (BitVec.ofNat 64 x) (dstRegs ag o false) [] false false (fun _ hm => hm)
  exact ⟨(holds_putReg s ag k o .n32 _ hp hf ho).retire k n .none (by simpa using h) (hkept.present hp) ho,
    kept_scalar s ag o false false _ n .none h⟩

/-! ### The set lanes of a mask (R125) -/

theorem length_maskLanes_filter (m : Mask) (p : Nat → Bool) :
    ((maskLanes m).filter p).length = (List.range 96).countP (fun i => m.getLsbD i && p i) := by
  simp [maskLanes, List.countP_eq_length_filter, List.filter_filter, Bool.and_comm]

theorem headD_maskLanes (m : Mask) : (maskLanes m).headD 96 = lowLane m := by
  simp only [maskLanes, lowLane, List.headD_eq_head?_getD, List.head?_filter]

theorem getLastD_maskLanes (m : Mask) : (maskLanes m).getLastD 96 = highLane m := by
  simp only [maskLanes, highLane, List.getLastD_eq_getLast?, List.getLast?_eq_head?_reverse, ← List.filter_reverse,
    List.head?_filter]

theorem find_lane_le (l : List Nat) (p : Nat → Bool) (hl : ∀ i ∈ l, i < 96) : (l.find? p).getD 96 ≤ 96 := by
  cases h : l.find? p with
  | none => simp
  | some i => exact (hl i (List.mem_of_find?_eq_some h)).le

theorem lowLane_le (m : Mask) : lowLane m ≤ 96 := find_lane_le _ _ (by simp)

theorem highLane_le (m : Mask) : highLane m ≤ 96 := find_lane_le _ _ (by simp)

/-! ### Words of format S that no clause may hold (R95, R104) -/

/-- Where no reading of the word at its slot is legal in the clause, an agent takes illegal-instruction there (R104). -/
theorem step_of_no_legal (s : Machine.State) (ag : Agent) (h : s.issue = some ⟨ag, false⟩)
    (hl : ∀ k lit i, decodeWord (s.word ag) lit = .ok i → legal k i = false) :
    Machine.step s = .next (s.trap ag 0x01 none 0 0) := by
  have hn : s.next ⟨ag, false⟩ = .trapped (s.trap ag 0x01 none 0 0) := by
    unfold State.next
    cases hd : decodeWord (s.word ag) (wordAt (s.codeOf ag) ((s.pcOf ag).2.1 + 1)) with
    | error e =>
      unfold Machine.State.word at hd
      simp [hd]
    | ok i =>
      have hk := hl (headerKind (wordAt (s.codeOf ag) 0)) _ i hd
      unfold Machine.State.word at hd
      simp [hd, hk]
  simp [Machine.step, h, hn]

theorem ofCode_of_rdOpnd {w lit : W64} {hi lo : Nat} {o : Opnd} (h : rdOpnd w hi lo lit = .ok o) :
    Opnd.ofCode (fld w hi lo) lit = some o := by
  unfold rdOpnd at h
  cases hc : Opnd.ofCode (fld w hi lo) lit with
  | none => simp [hc] at h
  | some o' => simpa [hc] using h

/-- The fields that a word of format S is read to (Table 09-2, Table 09-3). -/
theorem readS_fields {w lit : W64} {f : SF} (h : readS w lit = .ok f) :
    Opnd.ofCode (fld w 39 32) lit = some f.sb ∧ f.fn = BitVec.ofNat 4 (fld w 19 16) := by
  unfold readS at h
  split at h
  case h_1 hb _ _ =>
    cases h
    exact ⟨ofCode_of_rdOpnd hb, rfl⟩
  all_goals cases h

/-- What decodes from an opcode of format S is the row of Table 09-7 with the fields read. -/
theorem decodeWord_S {w lit : W64} {i : Instr} (hf : fmtOf (fld w 63 56) = .s) (h : decodeWord w lit = .ok i) :
    ∃ f, readS w lit = .ok f ∧ sCtor (fld w 63 56) f = some i := by
  unfold decodeWord at h
  rw [hf] at h
  cases hr : readS w lit with
  | error e => simp [hr] at h
  | ok f =>
    refine ⟨f, rfl, ?_⟩
    simp only [hr, View.ctor] at h
    split at h
    · cases hc : sCtor (fld w 63 56) f with
      | none => simp [hc] at h
      | some j => simpa [hc] using h
    · cases h

theorem code_of_no_operand {c : Nat} {lit : W64} (h : Opnd.ofCode c lit = some .none) : c = 0xFF := by
  by_contra hc
  unfold Opnd.ofCode at h
  split_ifs at h
  all_goals cases h

theorem fn_field_toNat (w : W64) : (BitVec.ofNat 4 (fld w 19 16)).toNat = fld w 19 16 := by
  simp [fld]

/-- What a clause asks of MBCNT. -/
theorem legal_mbcnt {k : ClauseKind} {f : SF} (h : legal k (.mbcnt f) = true) : f.fn = 0 ∧ regOk k false f.dst = true := by
  simp only [legal, Instr.view, legalS, Bool.and_eq_true, beq_iff_eq] at h
  simp [h]

/-- What a clause asks of MFIRST. -/
theorem legal_mfirst {k : ClauseKind} {f : SF} (h : legal k (.mfirst f) = true) :
    f.fn.toNat ≤ 1 ∧ f.sb = .none ∧ regOk k false f.dst = true := by
  simp only [legal, Instr.view, legalS, isNone, Bool.and_eq_true, beq_iff_eq, decide_eq_true_eq] at h
  simp [h]

/-- MBCNT has no form with `fn` set (R125). -/
theorem mbcnt_word_not_legal {w lit : W64} {i : Instr} (k : ClauseKind) (hop : fld w 63 56 = 0x33) (hfn : fld w 19 16 ≠ 0)
    (h : decodeWord w lit = .ok i) : legal k i = false := by
  obtain ⟨f, hr, hi⟩ := decodeWord_S (by rw [hop]; rfl) h
  obtain ⟨-, hfield⟩ := readS_fields hr
  rw [hop] at hi
  obtain rfl : Instr.mbcnt f = i := Option.some.inj hi
  by_contra hl
  obtain ⟨h0, -⟩ := legal_mbcnt (Bool.eq_true_of_not_eq_false hl)
  exact hfn (by rw [← fn_field_toNat, ← hfield, h0]; rfl)

/-- MFIRST has no form with an `fn` past 1 and none with a second source (R125). -/
theorem mfirst_word_not_legal {w lit : W64} {i : Instr} (k : ClauseKind) (hop : fld w 63 56 = 0x34)
    (hbad : 2 ≤ fld w 19 16 ∨ fld w 39 32 ≠ 0xFF) (h : decodeWord w lit = .ok i) : legal k i = false := by
  obtain ⟨f, hr, hi⟩ := decodeWord_S (by rw [hop]; rfl) h
  obtain ⟨hsb, hfn⟩ := readS_fields hr
  rw [hop] at hi
  obtain rfl : Instr.mfirst f = i := Option.some.inj hi
  by_contra hl
  obtain ⟨hle, hnone, -⟩ := legal_mfirst (Bool.eq_true_of_not_eq_false hl)
  rw [hfn, fn_field_toNat] at hle
  rw [hnone] at hsb
  rcases hbad with h2 | hne
  · omega
  · exact hne (code_of_no_operand hsb)

/-! ### MBCNT, MFIRST, NOP and YIELD at issue -/

theorem exec_mbcnt {s : Machine.State} {ag : Agent} (f : SF) (h : s.issue = some ⟨ag, false⟩) :
    Machine.exec (.mbcnt f) s = .next ((s.put32 ag f.dst ((List.range 96).countP (fun i =>
      (s.triple ag f.sa).getLsbD i && decide (i < min (s.srcBits ag 32 f.imm f.sb) 96)))).retire (SF.nslot f) .none) := by
  show execMbcnt f s = _
  simp only [execMbcnt, issued, h, length_maskLanes_filter]

theorem exec_mfirst {s : Machine.State} {ag : Agent} (f : SF) (h : s.issue = some ⟨ag, false⟩) :
    Machine.exec (.mfirst f) s = .next ((s.put32 ag f.dst (if f.fn = 0 then lowLane (s.triple ag f.sa)
      else highLane (s.triple ag f.sa))).retire 1 .none) := by
  show execMfirst f s = _
  simp only [execMfirst, issued, h, headD_maskLanes, getLastD_maskLanes]

theorem exec_nop {s : Machine.State} {ag : Agent} (f : SF) (h : s.issue = some ⟨ag, false⟩) :
    Machine.exec (.nop f) s = .next (s.retire 1 .none) := by
  show execNop f s = _
  simp only [execNop, issued, h]

theorem exec_yield {s : Machine.State} {ag : Agent} (f : SF) (h : s.issue = some ⟨ag, false⟩) :
    Machine.exec (.yield f) s = .next (s.retire 1 .none) := by
  show execYield f s = _
  simp only [execYield, issued, h]

/-! ### The statements -/

/-- Settles O17: the counts through `put32_retire`, the refused encodings because no reading of such a word is legal in any
clause. -/
theorem maskCounts : Obligations.MaskCounts := by
  refine ⟨?_, ?_, ?_⟩
  · rintro s ag f ⟨hi, hp, k, hf, hl⟩
    obtain ⟨-, hd⟩ := legal_mbcnt hl
    have hcount : ∀ p : Nat → Bool, (List.range 96).countP p < 2 ^ 32 := fun p =>
      List.countP_le_length.trans_lt (by simp)
    exact ⟨_, exec_mbcnt f hi, put32_retire (SF.nslot f) hi hp hf hd (hcount _)⟩
  · rintro s ag f ⟨hi, hp, k, hf, hl⟩
    obtain ⟨-, -, hd⟩ := legal_mfirst hl
    refine ⟨_, exec_mfirst f hi, put32_retire 1 hi hp hf hd ?_⟩
    have hlow := lowLane_le (s.triple ag f.sa)
    have hhigh := highLane_le (s.triple ag f.sa)
    split <;> omega
  · rintro s ag hi (⟨hop, hbad⟩ | ⟨hop, hfn⟩)
    · exact step_of_no_legal s ag hi (fun k _ _ => mfirst_word_not_legal k hop hbad)
    · exact step_of_no_legal s ag hi (fun k _ _ => mbcnt_word_not_legal k hop hfn)

/-- NOP as its word reads, with no operand and every field zero (R126). -/
def nopFields : SF := ⟨.none, .none, .none, .none, .i32, 0, 0⟩

theorem decodeWord_nop (lit : W64) : decodeWord 0x35FF_FFFF_FF00_0000 lit = .ok (.nop nopFields) := rfl

theorem legal_nop (k : ClauseKind) : legal k (.nop nopFields) = true := by cases k <;> rfl

/-- Going on after one slot has no effect but the place of the agent. -/
theorem retire_one {s : Machine.State} {ag : Agent} (h : s.issue = some ⟨ag, false⟩) (hp : ag.present s) :
    Kept ag s (s.retire 1 .none) [] [] false false ∧ After s (s.retire 1 .none) ag 1 :=
  ⟨Kept.retire ag s 1 .none [] [] false false h, after_retire s ag 1 .none h hp⟩

/-- Settles O24: both instructions do no more than go on after one slot. -/
theorem nopAndYield : Obligations.NopAndYield := by
  refine ⟨⟨nopFields, decodeWord_nop 0, rfl⟩, fun k lit => ⟨nopFields, decodeWord_nop lit, legal_nop k⟩, fun _ => rfl, ?_⟩
  intro s ag f
  constructor
  · rintro ⟨hi, hp, -⟩
    exact ⟨_, exec_nop f hi, retire_one hi hp⟩
  · rintro ⟨hi, hp, -⟩
    exact ⟨_, exec_yield f hi, retire_one hi hp⟩

end Sys2Proof

/-! The broadcast of R141: the lanes that a vector instruction leaves in its destination, a source that is the same in every
lane, and the words with a vector register as b, which no clause may hold. -/

namespace Sys2Proof

open Sys2Proof.Machine

/-! ### Lanes of a vector register (R39, R41) -/

theorem lane_eq_vec (v : Wave) (r i : Nat) : v.lane r i = (v.vec r).toList.getD i 0 := rfl

/-- A register written under the mask: its active lanes hold the new values and the others what they held. -/
theorem lane_putVec (v : Wave) (r : Fin 128) (x : Lanes) (l : Fin 96) :
    (v.putVec r.val x).lane r.val l.val = if v.active l.val then x[l] else v.lane r.val l.val := by
  simp [lane_eq_vec, Wave.putVec, Wave.vec, Wave.active]

/-- Every register of a wave keeps its lanes while the wave goes on. -/
theorem lane_retire {s : Machine.State} {w : Nat} {v : Wave} {r : Bool} (n : Nat) (hi : s.issue = some ⟨.wave w, r⟩)
    (hv : s.wave w = some v) : ∃ u, (s.retire n .none).wave w = some u ∧ ∀ d l, u.lane d l = v.lane d l := by
  obtain ⟨u, hu, hk⟩ := (Kept.retireSwept (.wave w) r s n .none [] [] false hi).wave w v rfl hv
  exact ⟨u, hu, fun d l => by rw [lane_eq_vec, hk.vreg d List.not_mem_nil, ← lane_eq_vec]⟩

/-! ### What a vector instruction leaves in its destination (R39, R129) -/

theorem trapsOn_zero (fp : W32) : trapsOn fp 0 = false := by simp [trapsOn]

theorem flagsOf_zero (v : Wave) : v.flagsOf (fun _ => 0) = 0 := by
  simp [Wave.flagsOf]

theorem wave_setFpstat {s : Machine.State} {w : Nat} {v : Wave} (x : W32) (hv : s.wave w = some v) :
    (s.setFpstat (.wave w) x).wave w = some { v with fpstat := x } := by
  simp [State.setFpstat, hv]

/-- A vector instruction whose registers are in range and whose flags trap on nothing writes its destination under the mask,
with its flags in `fpstat`, and goes on. -/
theorem vector_of_no_trap {s : Machine.State} {w : Nat} {v : Wave} {d : Fin 128} {regs : List Opnd}
    {op : Wave → Nat → W32 × FFlags} (hv : s.wave w = some v)
    (hr : (Opnd.v d :: regs).all (fun o => v.inRange o 0) = true)
    (ht : trapsOn v.fpstat (v.flagsOf (fun i => (op v i).2)) = false) :
    ∃ x, s.vector (.wave w) (.v d) regs op = ((s.setFpstat (.wave w) x).setWave w
      (Wave.putVec { v with fpstat := x } d.val (Vector.ofFn (fun i : Fin 96 => (op v i.val).1)))).retire (nSlots regs)
      .none := by
  have hf : s.fpstatOf (.wave w) = v.fpstat := by simp only [State.fpstatOf, hv]
  refine ⟨v.fpstat ||| (v.flagsOf (fun i => (op v i).2)).zeroExtend 32, ?_⟩
  simp only [State.vector, hv, hr, if_true, State.withFlags, hf, ht, Bool.false_eq_true, if_false, wave_setFpstat _ hv]

/-- Each active lane of its destination then holds the result of that lane, formed from the values before the instruction,
and each other lane what it held. -/
theorem vector_lanes {s : Machine.State} {w : Nat} {v : Wave} {r : Bool} {d : Fin 128} {regs : List Opnd}
    {op : Wave → Nat → W32 × FFlags} (hi : s.issue = some ⟨.wave w, r⟩) (hv : s.wave w = some v)
    (hr : (Opnd.v d :: regs).all (fun o => v.inRange o 0) = true)
    (ht : trapsOn v.fpstat (v.flagsOf (fun i => (op v i).2)) = false) :
    ∃ u, (s.vector (.wave w) (.v d) regs op).wave w = some u ∧
      ∀ l, l < 96 → u.lane d.val l = if v.active l then (op v l).1 else v.lane d.val l := by
  obtain ⟨x, hx⟩ := vector_of_no_trap hv hr ht
  obtain ⟨u, hu, hl⟩ := lane_retire (nSlots regs) (by simpa using hi) (State.setWave_wave_same (s.setFpstat (.wave w) x) w
    (Wave.putVec { v with fpstat := x } d.val (Vector.ofFn (fun i : Fin 96 => (op v i.val).1))))
  refine ⟨u, hx ▸ hu, fun l h96 => ?_⟩
  rw [hl, lane_putVec { v with fpstat := x } d _ ⟨l, h96⟩, Fin.getElem_fin, Vector.getElem_ofFn]
  rfl

/-! ### A source that is no vector register (R128) -/

theorem src_of_not_v {o : Opnd} (v : Wave) (n : NumFmt) (i j : Nat) (h : isV o = false) : v.src n o i = v.src n o j := by
  cases o with
  | v r => cases h
  | _ => rfl

theorem inRange_of_not_v {o : Opnd} (v : Wave) (n : Nat) (h : isV o = false) : v.inRange o n = true := by
  cases o with
  | v r => cases h
  | _ => rfl

/-! ### BCAST at issue and in a word (R95, R104, R141) -/

/-- What a clause asks of the lane number of BCAST. -/
theorem legal_bcast {k : ClauseKind} {f : VF} (h : legal k (.bcast f) = true) : isV f.sb = false := by
  simp only [legal, Instr.view, legalV, Bool.and_eq_true, Bool.not_eq_true'] at h
  simp [h]

/-- BCAST raises no flag, so it takes no arithmetic trap, and b reads alike in every lane. -/
theorem bcast_lanes {s : Machine.State} {w : Nat} {v : Wave} {r : Bool} {f : VF} {d : Fin 128}
    (hi : s.issue = some ⟨.wave w, r⟩) (hv : s.wave w = some v) (hd : f.dst = .v d) (hdr : v.inRange f.dst 0 = true)
    (har : v.inRange f.sa 0 = true) (hb : isV f.sb = false) :
    ∃ t u, Machine.exec (.bcast f) s = .next t ∧ t.wave w = some u ∧ ∀ l, l < 96 → v.active l = true →
      u.lane d.val l = v.src (.int 32 false) f.sa
        (if (v.src (.int 32 false) f.sb 0).toNat < 96 then (v.src (.int 32 false) f.sb 0).toNat else l) := by
  have hr : (f.dst :: [f.sa, f.sb]).all (fun o => v.inRange o 0) = true := by
    simp [hdr, har, inRange_of_not_v v 0 hb]
  obtain ⟨u, hu, hl⟩ := vector_lanes (op := fun v i => (v.src (.int 32 false) f.sa
    (if (v.src (.int 32 false) f.sb i).toNat < 96 then (v.src (.int 32 false) f.sb i).toNat else i), 0))
    hi hv (hd ▸ hr) (by rw [flagsOf_zero, trapsOn_zero])
  refine ⟨_, u, ?_, hu, fun l h96 ha => ?_⟩
  · show execBcast f s = _
    simp only [execBcast, issued, hi, hd]
  · rw [hl l h96, if_pos ha, src_of_not_v v _ l 0 hb]

/-- What decodes from an opcode of format V is the row of Table 09-7 with the fields read. -/
theorem decodeWord_V {w lit : W64} {i : Instr} (hf : fmtOf (fld w 63 56) = .v) (h : decodeWord w lit = .ok i) :
    ∃ f, readV w lit = .ok f ∧ vCtor (fld w 63 56) f = some i := by
  unfold decodeWord at h
  rw [hf] at h
  cases hr : readV w lit with
  | error e => simp [hr] at h
  | ok f =>
    refine ⟨f, rfl, ?_⟩
    simp only [hr, View.ctor] at h
    split at h
    · cases hc : vCtor (fld w 63 56) f with
      | none => simp [hc] at h
      | some j => simpa [hc] using h
    · cases h

/-- The second source that a word of format V is read to (Table 09-2). -/
theorem readV_sb {w lit : W64} {f : VF} (h : readV w lit = .ok f) : Opnd.ofCode (fld w 39 32) lit = some f.sb := by
  unfold readV at h
  split at h
  case h_1 hb _ _ =>
    cases h
    exact ofCode_of_rdOpnd hb
  all_goals cases h

/-- The codes below 0x80 are the vector registers (Table 09-4). -/
theorem isV_of_ofCode {c : Nat} {lit : W64} {o : Opnd} (hc : c < 0x80) (h : Opnd.ofCode c lit = some o) : isV o = true := by
  rw [Opnd.ofCode, dif_pos hc] at h
  cases h
  rfl

/-- BCAST has no form with a vector register as b (R141). -/
theorem bcast_word_not_legal {w lit : W64} {i : Instr} (k : ClauseKind) (hop : fld w 63 56 = 0x71) (hb : fld w 39 32 < 0x80)
    (h : decodeWord w lit = .ok i) : legal k i = false := by
  obtain ⟨f, hr, hi⟩ := decodeWord_V (by rw [hop]; rfl) h
  rw [hop] at hi
  obtain rfl : Instr.bcast f = i := Option.some.inj hi
  by_contra hl
  have hnot := legal_bcast (Bool.eq_true_of_not_eq_false hl)
  rw [isV_of_ofCode hb (readV_sb hr)] at hnot
  cases hnot

/-! ### The statement -/

/-- Settles O33: the broadcast through the lanes that a vector instruction leaves, with a lane number that is the same in
every lane; the refused encodings because no reading of such a word is legal in any clause. -/
theorem broadcastOfLane : Obligations.BroadcastOfLane := by
  refine ⟨?_, ?_⟩
  · rintro f s w v r d ⟨hi, -, k, -, hlegal⟩ hv hd hdr har
    obtain ⟨t, u, ht, hu, hl⟩ := bcast_lanes hi hv hd hdr har (legal_bcast hlegal)
    refine ⟨t, u, ht, hu, fun l h96 ha => ?_⟩
    rw [hl l h96 ha, ← ite_not, apply_ite (v.src _ f.sa)]
    simp only [not_lt]
  · intro s ag hi hop hb
    exact step_of_no_legal s ag hi (fun k _ _ => bcast_word_not_legal k hop hb)

end Sys2Proof

/-! The special registers 0x103 to 0x10F of a sequencer thread (R117, R313): what a read returns, which writes are ignored, and
the width they have. -/

namespace Sys2Proof

open Sys2Proof.Machine

/-- No special register of a thread stands above `trec3`. -/
theorem spr_thread_eq_zero_above_trec (s : Machine.State) (c k : Nat) {n : Nat} (hn : 0x107 ≤ n) : s.spr (.thread c k) n = 0 := by
  dsimp only [State.spr]
  split
  case h_12 => rfl
  all_goals omega

/-- The special registers of a thread that an MTS changes are `fpstat`, `tvec` and `tret` (R117, R217). -/
theorem setSpr_thread_eq_self_of_readOnly (s : Machine.State) (c k : Nat) {n : Nat} (x : W64) (hfp : n ≠ 0x006) (hvec : n ≠ 0x100)
    (hret : n ≠ 0x101) : s.setSpr (.thread c k) n x = s := by
  dsimp only [State.setSpr]
  split
  case h_4 => rfl
  all_goals contradiction

/-- A sequencer clause has every register from `trec0` to 0x10F, 64 bits wide. -/
theorem sprWidth_trec {n : Nat} (hlo : 0x103 ≤ n) (hhi : n ≤ 0x10F) : sprWidth .seq n = some 64 := by
  have h32 : ¬(n = 5 ∨ n = 6 ∨ n = 0x102) := by omega
  simp only [sprWidth, if_neg h32, hlo, hhi, and_self, or_true, if_true]

/-- Settles O22: the four words are what `spr` reads by its definition; the ranges are the three lemmas above. -/
theorem trapRecordRegisters : Obligations.TrapRecordRegisters := by
  intro s c k
  refine ⟨rfl, rfl, rfl, rfl, ?zeros, ?readOnly, ?widths⟩
  case zeros => exact fun n hlo _ => spr_thread_eq_zero_above_trec s c k hlo
  case readOnly => exact fun n x hlo _ => setSpr_thread_eq_self_of_readOnly s c k x (by omega) (by omega) (by omega)
  case widths => exact fun n => sprWidth_trec

end Sys2Proof

/-! The round trip of words and instructions (R94 to R99): every instruction is read back from its words, and every word that is
read is the encoding of what it is read to. -/

namespace Sys2Proof

open Sys2Proof.Machine

/-- The words of every well-formed instruction decode to it: the laws of the single instructions, put together. -/
theorem roundTrip : ∀ i : Instr, Laws.RoundTrip.Statement i
  | .iadd f => Laws.RoundTrip.iadd f
  | .isub f => Laws.RoundTrip.isub f
  | .imul f => Laws.RoundTrip.imul f
  | .imulh f => Laws.RoundTrip.imulh f
  | .imad f => Laws.RoundTrip.imad f
  | .idiv f => Laws.RoundTrip.idiv f
  | .irem f => Laws.RoundTrip.irem f
  | .imin f => Laws.RoundTrip.imin f
  | .imax f => Laws.RoundTrip.imax f
  | .andS f => Laws.RoundTrip.andS f
  | .orS f => Laws.RoundTrip.orS f
  | .xorS f => Laws.RoundTrip.xorS f
  | .notS f => Laws.RoundTrip.notS f
  | .shl f => Laws.RoundTrip.shl f
  | .shr f => Laws.RoundTrip.shr f
  | .sar f => Laws.RoundTrip.sar f
  | .rot f => Laws.RoundTrip.rot f
  | .clz f => Laws.RoundTrip.clz f
  | .popc f => Laws.RoundTrip.popc f
  | .bfx f => Laws.RoundTrip.bfx f
  | .bfi f => Laws.RoundTrip.bfi f
  | .icmp f => Laws.RoundTrip.icmp f
  | .sel f => Laws.RoundTrip.sel f
  | .mov f => Laws.RoundTrip.mov f
  | .lea f => Laws.RoundTrip.lea f
  | .sfadd f => Laws.RoundTrip.sfadd f
  | .sfmul f => Laws.RoundTrip.sfmul f
  | .sfma f => Laws.RoundTrip.sfma f
  | .sfcmp f => Laws.RoundTrip.sfcmp f
  | .scvt f => Laws.RoundTrip.scvt f
  | .mfs f => Laws.RoundTrip.mfs f
  | .mts f => Laws.RoundTrip.mts f
  | .br f => Laws.RoundTrip.br f
  | .brc f => Laws.RoundTrip.brc f
  | .brx f => Laws.RoundTrip.brx f
  | .call f => Laws.RoundTrip.call f
  | .callx f => Laws.RoundTrip.callx f
  | .ret f => Laws.RoundTrip.ret f
  | .bsplit f => Laws.RoundTrip.bsplit f
  | .bjoin f => Laws.RoundTrip.bjoin f
  | .dpush f => Laws.RoundTrip.dpush f
  | .dpop f => Laws.RoundTrip.dpop f
  | .msk f => Laws.RoundTrip.msk f
  | .mbcnt f => Laws.RoundTrip.mbcnt f
  | .mfirst f => Laws.RoundTrip.mfirst f
  | .nop f => Laws.RoundTrip.nop f
  | .commitBlock f => Laws.RoundTrip.commitBlock f
  | .commitGrid f => Laws.RoundTrip.commitGrid f
  | .commitPod f => Laws.RoundTrip.commitPod f
  | .dflushGrid f => Laws.RoundTrip.dflushGrid f
  | .dflushPod f => Laws.RoundTrip.dflushPod f
  | .capnew f => Laws.RoundTrip.capnew f
  | .capswap f => Laws.RoundTrip.capswap f
  | .caprev f => Laws.RoundTrip.caprev f
  | .capqry f => Laws.RoundTrip.capqry f
  | .dwrd f => Laws.RoundTrip.dwrd f
  | .dwwr f => Laws.RoundTrip.dwwr f
  | .dwresResume f => Laws.RoundTrip.dwresResume f
  | .dwresKill f => Laws.RoundTrip.dwresKill f
  | .dwstep f => Laws.RoundTrip.dwstep f
  | .trapSeq f => Laws.RoundTrip.trapSeq f
  | .trapHost f => Laws.RoundTrip.trapHost f
  | .rett f => Laws.RoundTrip.rett f
  | .yield f => Laws.RoundTrip.yield f
  | .sleep f => Laws.RoundTrip.sleep f
  | .halt f => Laws.RoundTrip.halt f
  | .pgmap f => Laws.RoundTrip.pgmap f
  | .viadd f => Laws.RoundTrip.viadd f
  | .visub f => Laws.RoundTrip.visub f
  | .vimul f => Laws.RoundTrip.vimul f
  | .vimad f => Laws.RoundTrip.vimad f
  | .vimin f => Laws.RoundTrip.vimin f
  | .vimax f => Laws.RoundTrip.vimax f
  | .viabs f => Laws.RoundTrip.viabs f
  | .viadds f => Laws.RoundTrip.viadds f
  | .visubs f => Laws.RoundTrip.visubs f
  | .vand f => Laws.RoundTrip.vand f
  | .vor f => Laws.RoundTrip.vor f
  | .vxor f => Laws.RoundTrip.vxor f
  | .vnot f => Laws.RoundTrip.vnot f
  | .vshl f => Laws.RoundTrip.vshl f
  | .vshr f => Laws.RoundTrip.vshr f
  | .vsar f => Laws.RoundTrip.vsar f
  | .vbfx f => Laws.RoundTrip.vbfx f
  | .vpopc f => Laws.RoundTrip.vpopc f
  | .vicmp f => Laws.RoundTrip.vicmp f
  | .vsel f => Laws.RoundTrip.vsel f
  | .vmov f => Laws.RoundTrip.vmov f
  | .vfadd f => Laws.RoundTrip.vfadd f
  | .vfsub f => Laws.RoundTrip.vfsub f
  | .vfmul f => Laws.RoundTrip.vfmul f
  | .vfma f => Laws.RoundTrip.vfma f
  | .vfmin f => Laws.RoundTrip.vfmin f
  | .vfmax f => Laws.RoundTrip.vfmax f
  | .vfcmp f => Laws.RoundTrip.vfcmp f
  | .vfclass f => Laws.RoundTrip.vfclass f
  | .vcvt f => Laws.RoundTrip.vcvt f
  | .vpack f => Laws.RoundTrip.vpack f
  | .vunpk f => Laws.RoundTrip.vunpk f
  | .dot4 f => Laws.RoundTrip.dot4 f
  | .dot8 f => Laws.RoundTrip.dot8 f
  | .rcpF32 f => Laws.RoundTrip.rcpF32 f
  | .rsqF32 f => Laws.RoundTrip.rsqF32 f
  | .exp2 f => Laws.RoundTrip.exp2 f
  | .log2 f => Laws.RoundTrip.log2 f
  | .sinPi f => Laws.RoundTrip.sinPi f
  | .cosPi f => Laws.RoundTrip.cosPi f
  | .tanh f => Laws.RoundTrip.tanh f
  | .rcpa f => Laws.RoundTrip.rcpa f
  | .shfl f => Laws.RoundTrip.shfl f
  | .bcast f => Laws.RoundTrip.bcast f
  | .vred f => Laws.RoundTrip.vred f
  | .vscan f => Laws.RoundTrip.vscan f
  | .topk f => Laws.RoundTrip.topk f
  | .ballot f => Laws.RoundTrip.ballot f
  | .ld f => Laws.RoundTrip.ld f
  | .st f => Laws.RoundTrip.st f
  | .sld f => Laws.RoundTrip.sld f
  | .sst f => Laws.RoundTrip.sst f
  | .ldsp f => Laws.RoundTrip.ldsp f
  | .stsp f => Laws.RoundTrip.stsp f
  | .ldx f => Laws.RoundTrip.ldx f
  | .atom f => Laws.RoundTrip.atom f
  | .red f => Laws.RoundTrip.red f
  | .cas f => Laws.RoundTrip.cas f
  | .satom f => Laws.RoundTrip.satom f
  | .waitc f => Laws.RoundTrip.waitc f
  | .waittl f => Laws.RoundTrip.waittl f
  | .bar f => Laws.RoundTrip.bar f
  | .arrv f => Laws.RoundTrip.arrv f
  | .bowait f => Laws.RoundTrip.bowait f
  | .cbacqProd f => Laws.RoundTrip.cbacqProd f
  | .cbacqCons f => Laws.RoundTrip.cbacqCons f
  | .cbrelProd f => Laws.RoundTrip.cbrelProd f
  | .cbrelCons f => Laws.RoundTrip.cbrelCons f
  | .mred f => Laws.RoundTrip.mred f
  | .mired f => Laws.RoundTrip.mired f
  | .meval f => Laws.RoundTrip.meval f
  | .mfill f => Laws.RoundTrip.mfill f
  | .mma f => Laws.RoundTrip.mma f
  | .mmaSp f => Laws.RoundTrip.mmaSp f
  | .mmaChk f => Laws.RoundTrip.mmaChk f
  | .miter f => Laws.RoundTrip.miter f
  | .miterCont f => Laws.RoundTrip.miterCont f
  | .aclr f => Laws.RoundTrip.aclr f
  | .ain f => Laws.RoundTrip.ain f
  | .aout f => Laws.RoundTrip.aout f
  | .aoutClr f => Laws.RoundTrip.aoutClr f
  | .epi f => Laws.RoundTrip.epi f
  | .kld f => Laws.RoundTrip.kld f
  | .kldAll f => Laws.RoundTrip.kldAll f
  | .actxSwap f => Laws.RoundTrip.actxSwap f
  | .actxRel f => Laws.RoundTrip.actxRel f
  | .txf f => Laws.RoundTrip.txf f
  | .txfcProd f => Laws.RoundTrip.txfcProd f
  | .txfcCons f => Laws.RoundTrip.txfcCons f
  | .txfsRd f => Laws.RoundTrip.txfsRd f
  | .txfsClr f => Laws.RoundTrip.txfsClr f
  | .tnext f => Laws.RoundTrip.tnext f
  | .tqaddSh f => Laws.RoundTrip.tqaddSh f
  | .tqaddRt f => Laws.RoundTrip.tqaddRt f
  | .park f => Laws.RoundTrip.park f
  | .erqQry f => Laws.RoundTrip.erqQry f
  | .erqAcq f => Laws.RoundTrip.erqAcq f
  | .erqRel f => Laws.RoundTrip.erqRel f
  | .erpin f => Laws.RoundTrip.erpin f
  | .erunpin f => Laws.RoundTrip.erunpin f
  | .rep f => Laws.RoundTrip.rep f
  | .waveSelect p => Laws.RoundTrip.waveSelect p
  | .sequencerSelect c => Laws.RoundTrip.sequencerSelect c
  | .trapDelivery c t => Laws.RoundTrip.trapDelivery c t
  | .stepTrap w => Laws.RoundTrip.stepTrap w
  | .sleepExpire a alt => Laws.RoundTrip.sleepExpire a alt
  | .accessComplete n => Laws.RoundTrip.accessComplete n
  | .barrierComplete w b => Laws.RoundTrip.barrierComplete w b
  | .commitComplete n => Laws.RoundTrip.commitComplete n
  | .hostWriteInvalidate pa data => Laws.RoundTrip.hostWriteInvalidate pa data
  | .writeIndexReread q => Laws.RoundTrip.writeIndexReread q
  | .launchPacketRead q k => Laws.RoundTrip.launchPacketRead q k
  | .workgroupPlace q k => Laws.RoundTrip.workgroupPlace q k
  | .launchEnd q k => Laws.RoundTrip.launchEnd q k
  | .sliceEnd core u => Laws.RoundTrip.sliceEnd core u
  | .preemptionRequest core => Laws.RoundTrip.preemptionRequest core
  | .bankFlip core => Laws.RoundTrip.bankFlip core
  | .bankSpillComplete core => Laws.RoundTrip.bankSpillComplete core
  | .shadowFillComplete core => Laws.RoundTrip.shadowFillComplete core
  | .accumulatorBankMove u => Laws.RoundTrip.accumulatorBankMove u
  | .matrixOpComplete u => Laws.RoundTrip.matrixOpComplete u
  | .miterIteration u => Laws.RoundTrip.miterIteration u
  | .txfBurst ctx c st => Laws.RoundTrip.txfBurst ctx c st
  | .txfCommandComplete ctx c st => Laws.RoundTrip.txfCommandComplete ctx c st
  | .txfcPiece ctx c st => Laws.RoundTrip.txfcPiece ctx c st
  | .cupolaItem ctx stack => Laws.RoundTrip.cupolaItem ctx stack
  | .commandCompletionWord ctx stack => Laws.RoundTrip.commandCompletionWord ctx stack
  | .capEntryFree stack e => Laws.RoundTrip.capEntryFree stack e
  | .belfryDrain core => Laws.RoundTrip.belfryDrain core
  | .binShip die dest ctx => Laws.RoundTrip.binShip die dest ctx
  | .binStage die pch => Laws.RoundTrip.binStage die pch
  | .remoteBinReceive b => Laws.RoundTrip.remoteBinReceive b
  | .commitNoticeReplay pch => Laws.RoundTrip.commitNoticeReplay pch
  | .refresh pch => Laws.RoundTrip.refresh pch
  | .refreshHandover stack => Laws.RoundTrip.refreshHandover stack
  | .expertFetchComplete ctx x => Laws.RoundTrip.expertFetchComplete ctx x
  | .expertFetchFail ctx x done cause => Laws.RoundTrip.expertFetchFail ctx x done cause
  | .expertFetchStart ctx x => Laws.RoundTrip.expertFetchStart ctx x
  | .expertEvictComplete ctx x => Laws.RoundTrip.expertEvictComplete ctx x
  | .remoteWriteReceive f pa data => Laws.RoundTrip.remoteWriteReceive f pa data
  | .remoteAtomicReceive f pa op ty v => Laws.RoundTrip.remoteAtomicReceive f pa op ty v
  | .remoteReadReceive src pa n => Laws.RoundTrip.remoteReadReceive src pa n
  | .fabricAcknowledgement n data fails => Laws.RoundTrip.fabricAcknowledgement n data fails
  | .fabricResend n => Laws.RoundTrip.fabricResend n
  | .fabricItemFail n => Laws.RoundTrip.fabricItemFail n
  | .fabricWindow => Laws.RoundTrip.fabricWindow
  | .permitGrant ctx dev n h => Laws.RoundTrip.permitGrant ctx dev n h
  | .incarnationAnnounce dev inc => Laws.RoundTrip.incarnationAnnounce dev inc
  | .leaseRevoke lender lid => Laws.RoundTrip.leaseRevoke lender lid
  | .leaseDrained w => Laws.RoundTrip.leaseDrained w
  | .leaseDrainTimeout borrower lid => Laws.RoundTrip.leaseDrainTimeout borrower lid
  | .hostMemAccess pa n data => Laws.RoundTrip.hostMemAccess pa n data
  | .powerArbiterTick mhz hbm pen => Laws.RoundTrip.powerArbiterTick mhz hbm pen
  | .dieReady d => Laws.RoundTrip.dieReady d
  | .deviceReset => Laws.RoundTrip.deviceReset
  | .rinestLinkFail a b => Laws.RoundTrip.rinestLinkFail a b
  | .podRecovery lost ph => Laws.RoundTrip.podRecovery lost ph
  | .heldFaultRecordWrite b => Laws.RoundTrip.heldFaultRecordWrite b
  | .invalComplete n => Laws.RoundTrip.invalComplete n
  | .commandBlockAcceptance n => Laws.RoundTrip.commandBlockAcceptance n
  | .lossOfPorts port dev => Laws.RoundTrip.lossOfPorts port dev
  | .nodeAttach => Laws.RoundTrip.nodeAttach
  | .nodeUpdate => Laws.RoundTrip.nodeUpdate
  | .nodeDetach => Laws.RoundTrip.nodeDetach
  | .faultbuf => Laws.RoundTrip.faultbuf
  | .faultflush => Laws.RoundTrip.faultflush
  | .resume => Laws.RoundTrip.resume
  | .endDomain => Laws.RoundTrip.endDomain
  | .pool => Laws.RoundTrip.pool
  | .save => Laws.RoundTrip.save
  | .inval => Laws.RoundTrip.inval
  | .staging => Laws.RoundTrip.staging
  | .exptableRegister => Laws.RoundTrip.exptableRegister
  | .exptableDeregister => Laws.RoundTrip.exptableDeregister
  | .expfetch => Laws.RoundTrip.expfetch
  | .expevict => Laws.RoundTrip.expevict
  | .l2ways => Laws.RoundTrip.l2ways
  | .replica => Laws.RoundTrip.replica
  | .podJoin => Laws.RoundTrip.podJoin
  | .inbound => Laws.RoundTrip.inbound
  | .leaseGrant => Laws.RoundTrip.leaseGrant
  | .leaseRevokeCommand => Laws.RoundTrip.leaseRevokeCommand
  | .leaseFree => Laws.RoundTrip.leaseFree
  | .leaseRead => Laws.RoundTrip.leaseRead
  | .powercap => Laws.RoundTrip.powercap
  | .attest => Laws.RoundTrip.attest
  | .status => Laws.RoundTrip.status
  | .debugRead => Laws.RoundTrip.debugRead
  | .debugWrite => Laws.RoundTrip.debugWrite
  | .debugHalt => Laws.RoundTrip.debugHalt
  | .debugStep => Laws.RoundTrip.debugStep
  | .debugContinue => Laws.RoundTrip.debugContinue
  | .unknownCommand => Laws.RoundTrip.unknownCommand

/-- Settles O2: the round trip of each constructor is a law of its own. -/
theorem encodeThenDecode : Obligations.EncodeThenDecode := roundTrip

/-! ### The opcode rows read back (Table 09-7) -/

/-- The row of an opcode of format S is the instruction with that opcode and those fields, its selector fixed. -/
theorem view_of_sCtor {op : Nat} {f : SF} {i : Instr} (h : sCtor op f = some i) : i.view = .s op f ∧ i.selectorOk = true := by
  unfold sCtor at h
  split at h
  all_goals first
    | cases h <;> exact ⟨rfl, rfl⟩
    | split at h <;> cases h <;> simp_all [Instr.view, Instr.selectorOk, ← BitVec.toNat_inj]

theorem view_of_vCtor {op : Nat} {f : VF} {i : Instr} (h : vCtor op f = some i) : i.view = .v op f ∧ i.selectorOk = true := by
  unfold vCtor at h
  split at h <;> cases h <;> exact ⟨rfl, rfl⟩

theorem view_of_mCtor {op : Nat} {f : MF} {i : Instr} (h : mCtor op f = some i) : i.view = .m op f ∧ i.selectorOk = true := by
  unfold mCtor at h
  split at h
  all_goals first
    | cases h <;> exact ⟨rfl, rfl⟩
    | split at h <;> cases h <;> simp_all [Instr.view, Instr.selectorOk]

theorem view_of_eCtor {op : Nat} {f : EF} {i : Instr} (h : eCtor op f = some i) : i.view = .e op f ∧ i.selectorOk = true := by
  unfold eCtor at h
  split at h
  all_goals first
    | cases h <;> exact ⟨rfl, rfl⟩
    | split at h <;> cases h <;> simp_all [Instr.view, Instr.selectorOk, ← BitVec.toNat_inj]

/-! ### The fields of a word put together again -/

/-- Two neighbouring fields of a word as one. -/
theorem unpeel (n k m : Nat) : n / 2 ^ (k + m) * 2 ^ m + n / 2 ^ k % 2 ^ m = n / 2 ^ k := by
  rw [Nat.pow_add, ← Nat.div_div_eq_div_mul, Nat.div_add_mod']

theorem fld_eq (w : W64) (hi lo : Nat) : fld w hi lo = w.toNat / 2 ^ lo % 2 ^ (hi + 1 - lo) := by
  rw [fld, Nat.shiftRight_eq_div_pow]

/-- The topmost field of a word has nothing above it. -/
theorem fld_top (w : W64) : fld w 63 56 = w.toNat / 2 ^ 56 := by
  rw [fld_eq]
  exact Nat.mod_eq_of_lt (by have := w.isLt; omega)

theorem toNat_ofNat_fld (w : W64) (hi lo : Nat) : (BitVec.ofNat (hi + 1 - lo) (fld w hi lo)).toNat = w.toNat / 2 ^ lo % 2 ^ (hi + 1 - lo) := by
  rw [fld_eq, BitVec.toNat_ofNat, Nat.mod_mod]

theorem toNat_bitAt (w : W64) (n : Nat) : (bitAt w n).toNat = w.toNat / 2 ^ n % 2 ^ 1 := by
  rw [bitAt, BitVec.getLsbD, Nat.testBit_eq_decide_div_mod_eq]
  rcases Nat.mod_two_eq_zero_or_one (w.toNat / 2 ^ n) with h | h <;> simp [h]

theorem code_of_ofCode {c : Nat} {lit : W64} {o : Opnd} (h : Opnd.ofCode c lit = some o) : o.code = c := by
  unfold Opnd.ofCode at h
  split_ifs at h <;> cases h <;> simp [Opnd.code, Fin.ofNat] <;> omega

theorem Ty.code_of_ofCode {c : Nat} {t : Ty} (h : Ty.ofCode c = some t) : t.code = c := by
  unfold Ty.ofCode at h
  split at h <;> cases h <;> rfl

theorem Scope.code_of_ofCode {c : Nat} {t : Scope} (h : Scope.ofCode c = some t) : t.code = c := by
  unfold Scope.ofCode at h
  split at h <;> cases h <;> rfl

theorem Order.code_of_ofCode {c : Nat} {t : Order} (h : Order.ofCode c = some t) : t.code = c := by
  unfold Order.ofCode at h
  split at h <;> cases h <;> rfl

theorem code_of_rdOpnd {w lit : W64} {hi lo : Nat} {o : Opnd} (h : rdOpnd w hi lo lit = .ok o) :
    o.code = w.toNat / 2 ^ lo % 2 ^ (hi + 1 - lo) := by
  rw [code_of_ofCode (ofCode_of_rdOpnd h), fld_eq]

theorem code_of_rdTy {w : W64} {hi lo : Nat} {t : Ty} (h : rdTy w hi lo = .ok t) :
    t.code = w.toNat / 2 ^ lo % 2 ^ (hi + 1 - lo) := by
  unfold rdTy at h
  split at h <;> cases h
  next ht => rw [Ty.code_of_ofCode ht, fld_eq]

/-- The upper half of a word from its fields. -/
theorem upperN_eq {w : W64} {d a b : Opnd} (hd : d.code = w.toNat / 2 ^ 48 % 2 ^ 8) (ha : a.code = w.toNat / 2 ^ 40 % 2 ^ 8)
    (hb : b.code = w.toNat / 2 ^ 32 % 2 ^ 8) : upperN (fld w 63 56) d a b = w.toNat / 2 ^ 32 := by
  unfold upperN
  rw [hd, ha, hb, fld_top, unpeel _ 48 8, unpeel _ 40 8, unpeel _ 32 8]

theorem wordS_of_readS {w lit : W64} {f : SF} (h : readS w lit = .ok f) : wordS (fld w 63 56) f = w.toNat := by
  unfold readS at h
  split at h <;> cases h
  next hd ha hb hc ht =>
    unfold wordS
    rw [upperN_eq (code_of_rdOpnd hd) (code_of_rdOpnd ha) (code_of_rdOpnd hb), code_of_rdOpnd hc, code_of_rdTy ht,
      toNat_ofNat_fld w 19 16, toNat_ofNat_fld w 15 0, unpeel _ 24 8, unpeel _ 20 4, unpeel _ 16 4, unpeel _ 0 16, Nat.pow_zero, Nat.div_one]

theorem wordV_of_readV {w lit : W64} {f : VF} (h : readV w lit = .ok f) : wordV (fld w 63 56) f = w.toNat := by
  unfold readV at h
  split at h <;> cases h
  next hd ha hb hc ht =>
    unfold wordV
    rw [upperN_eq (code_of_rdOpnd hd) (code_of_rdOpnd ha) (code_of_rdOpnd hb), code_of_rdOpnd hc, code_of_rdTy ht,
      toNat_ofNat_fld w 19 16, toNat_ofNat_fld w 15 14, toNat_bitAt, toNat_bitAt, toNat_ofNat_fld w 11 9, toNat_bitAt,
      toNat_ofNat_fld w 7 0, unpeel _ 24 8, unpeel _ 20 4, unpeel _ 16 4, unpeel _ 14 2, unpeel _ 13 1, unpeel _ 12 1,
      unpeel _ 9 3, unpeel _ 8 1, unpeel _ 0 8, Nat.pow_zero, Nat.div_one]

theorem wordM_of_readM {w lit : W64} {f : MF} (h : readM w lit = .ok f) : wordM (fld w 63 56) f 0 = w.toNat := by
  unfold readM at h
  split at h
  case h_1 hd ha hb ht =>
    split at h
    case h_1 hs ho =>
      split_ifs at h with hz
      have hword : wordM (fld w 63 56) f (fld w 21 20) = w.toNat := by
        cases h
        unfold wordM
        rw [upperN_eq (code_of_rdOpnd hd) (code_of_rdOpnd ha) (code_of_rdOpnd hb), code_of_rdTy ht,
          Scope.code_of_ofCode hs, Order.code_of_ofCode ho, toNat_bitAt, toNat_ofNat_fld w 19 0, fld_eq, fld_eq, fld_eq,
          unpeel _ 28 4, unpeel _ 25 3, unpeel _ 23 2, unpeel _ 22 1, unpeel _ 20 2, unpeel _ 0 20, Nat.pow_zero, Nat.div_one]
      rwa [hz] at hword
    case h_2 => cases h
  all_goals cases h

theorem wordE_of_readE {w lit : W64} {f : EF} (h : readE w lit = .ok f) : wordE (fld w 63 56) f = w.toNat := by
  unfold readE at h
  split at h <;> cases h
  next hd ha hb hc ht hu =>
    unfold wordE
    rw [upperN_eq (code_of_rdOpnd hd) (code_of_rdOpnd ha) (code_of_rdOpnd hb), code_of_rdOpnd hc, code_of_rdTy ht,
      code_of_rdTy hu, toNat_ofNat_fld w 15 12, toNat_bitAt, toNat_bitAt, toNat_ofNat_fld w 9 8, toNat_ofNat_fld w 7 0,
      unpeel _ 24 8, unpeel _ 20 4, unpeel _ 16 4, unpeel _ 12 4, unpeel _ 11 1, unpeel _ 10 1, unpeel _ 8 2, unpeel _ 0 8,
      Nat.pow_zero, Nat.div_one]

theorem fmtOf_eq_p {op : Nat} (h : fmtOf op = .p) : op = 0xE0 := by
  simp only [fmtOf, ite_eq_iff, reduceCtorEq, and_false, and_true, false_or, or_false] at h
  omega

theorem wordP_of_readP {w : W64} {f : PF} (hop : fld w 63 56 = 0xE0) (h : readP w = .ok f) : wordP f = w.toNat := by
  unfold readP at h
  split_ifs at h with hz
  cases h
  have hlow : w.toNat / 2 ^ 8 * 2 ^ 8 + 0 = w.toNat := by
    have h := unpeel w.toNat 0 8
    rwa [show w.toNat / 2 ^ 0 % 2 ^ 8 = 0 from (fld_eq w 7 0).symm.trans hz, Nat.pow_zero, Nat.div_one] at h
  have htop : 0xE0 * 2 ^ 12 + w.toNat / 2 ^ 44 % 2 ^ 12 = w.toNat / 2 ^ 44 := by
    have h := unpeel w.toNat 44 12
    rwa [show 44 + 12 = 56 from rfl, ← fld_top, hop] at h
  unfold wordP
  rw [toNat_ofNat_fld w 55 44, toNat_ofNat_fld w 43 36, toNat_ofNat_fld w 35 28, toNat_ofNat_fld w 27 20,
    toNat_ofNat_fld w 19 12, toNat_ofNat_fld w 11 8, htop, unpeel _ 36 8, unpeel _ 28 8, unpeel _ 20 8, unpeel _ 12 8,
    unpeel _ 8 4, hlow]

/-! ### The statement -/

/-- The first word of an instruction, from its view. -/
def View.word : View → Nat
  | .s op f => wordS op f
  | .v op f => wordV op f
  | .m op f => wordM op f 0
  | .e op f => wordE op f
  | .p f => wordP f
  | .step => 0

theorem wordAt_encode (i : Instr) : wordAt (encode i) 0 = BitVec.ofNat 64 i.view.word := by
  unfold encode
  cases i.view with
  | s op f => exact congrArg (BitVec.ofNat 64) (encode_S op f)
  | v op f => exact congrArg (BitVec.ofNat 64) (encode_V op f)
  | m op f => exact congrArg (BitVec.ofNat 64) (encode_M op f)
  | e op f => exact congrArg (BitVec.ofNat 64) (encode_E op f)
  | p f => exact congrArg (BitVec.ofNat 64) (encode_P f)
  | step => rfl

/-- A view names its instruction: that has the view, suits its selector and holds at most one literal. -/
theorem view_of_ctor {v : View} {i : Instr} (h : v.ctor = .ok i) :
    i.view = v ∧ i.selectorOk = true ∧ litCount v.opnds ≤ 1 ∧ v ≠ .step := by
  cases v with
  | s op f =>
    simp only [View.ctor] at h
    split_ifs at h with hl
    split at h <;> cases h
    next hc => exact ⟨(view_of_sCtor hc).1, (view_of_sCtor hc).2, hl, nofun⟩
  | v op f =>
    simp only [View.ctor] at h
    split_ifs at h with hl
    split at h <;> cases h
    next hc => exact ⟨(view_of_vCtor hc).1, (view_of_vCtor hc).2, hl, nofun⟩
  | m op f =>
    simp only [View.ctor] at h
    split_ifs at h with hl
    split at h <;> cases h
    next hc => exact ⟨(view_of_mCtor hc).1, (view_of_mCtor hc).2, hl, nofun⟩
  | e op f =>
    simp only [View.ctor] at h
    split_ifs at h with hl
    split at h <;> cases h
    next hc => exact ⟨(view_of_eCtor hc).1, (view_of_eCtor hc).2, hl, nofun⟩
  | p f =>
    cases h
    exact ⟨rfl, rfl, Nat.zero_le 1, nofun⟩
  | step => cases h

theorem wf_of_ctor {v : View} {i : Instr} (h : v.ctor = .ok i) : i.wf = true := by
  obtain ⟨hv, hs, hl, hne⟩ := view_of_ctor h
  unfold Instr.wf
  rw [hv]
  cases v with
  | step => exact absurd rfl hne
  | _ => simp [hs, hl]

/-- What decodes is the instruction of a view whose first word is the word read. -/
theorem ctor_of_decodeWord {w lit : W64} {i : Instr} (h : decodeWord w lit = .ok i) :
    ∃ v : View, v.ctor = .ok i ∧ v.word = w.toNat := by
  unfold decodeWord at h
  split at h
  case h_1 =>
    split at h
    · next hr => exact ⟨_, h, wordS_of_readS hr⟩
    · cases h
  case h_2 =>
    split at h
    · next hr => exact ⟨_, h, wordV_of_readV hr⟩
    · cases h
  case h_3 =>
    split at h
    · next hr => exact ⟨_, h, wordM_of_readM hr⟩
    · cases h
  case h_4 =>
    split at h
    · next hr => exact ⟨_, h, wordE_of_readE hr⟩
    · cases h
  case h_5 hf =>
    split at h
    · next f hr => exact ⟨.p f, h, wordP_of_readP (fmtOf_eq_p hf) hr⟩
    · cases h
  case h_6 => cases h

/-- Settles O3: the view that a word is read to has that word, and the instruction of a view has the view. -/
theorem decodeThenEncode : Obligations.DecodeThenEncode := by
  intro w lit i h
  obtain ⟨v, hv, hw⟩ := ctor_of_decodeWord h
  refine ⟨wf_of_ctor hv, ?_⟩
  obtain ⟨rfl, -⟩ := view_of_ctor hv
  rw [wordAt_encode, hw, BitVec.ofNat_toNat, BitVec.setWidth_eq]

end Sys2Proof

/-! Fixed words, what a step runs and what the machine holds at reset (R94 to R104, R37, R277, R288). -/

namespace Sys2Proof

open Sys2Proof.Machine

/-- Settles O1: each word is read by computation. -/
theorem specWordsDecode : Obligations.SpecWordsDecode := ⟨rfl, rfl, rfl, rfl, rfl, rfl, rfl, rfl⟩

/-! ### What the latched agent does next (R101, R104) -/

theorem next_of_undecoded {s : Machine.State} {ag : Agent}
    (h : ∀ i, decodeWord (wordAt (s.codeOf ag) (s.pcOf ag).2.1) (wordAt (s.codeOf ag) ((s.pcOf ag).2.1 + 1)) ≠ .ok i) :
    s.next ⟨ag, false⟩ = .trapped (s.trap ag 0x01 none 0 0) := by
  unfold State.next
  cases hd : decodeWord (wordAt (s.codeOf ag) (s.pcOf ag).2.1) (wordAt (s.codeOf ag) ((s.pcOf ag).2.1 + 1)) with
  | error e => simp only [Bool.toNat_false, Nat.add_zero, hd]
  | ok i => exact absurd hd (h i)

theorem next_of_not_allowed {s : Machine.State} {ag : Agent} {i : Instr}
    (h : decodeWord (wordAt (s.codeOf ag) (s.pcOf ag).2.1) (wordAt (s.codeOf ag) ((s.pcOf ag).2.1 + 1)) = .ok i)
    (hno : (legal (headerKind (wordAt (s.codeOf ag) 0)) i && placeOk i (s.pcOf ag).2.1 (s.nslot ag)) = false) :
    s.next ⟨ag, false⟩ = .trapped (s.trap ag 0x01 none 0 0) := by
  simp only [State.next, Bool.toNat_false, Nat.add_zero, h, hno, Bool.false_eq_true, if_false]

theorem next_of_allowed {s : Machine.State} {ag : Agent} {i : Instr}
    (h : decodeWord (wordAt (s.codeOf ag) (s.pcOf ag).2.1) (wordAt (s.codeOf ag) ((s.pcOf ag).2.1 + 1)) = .ok i)
    (hl : legal (headerKind (wordAt (s.codeOf ag) 0)) i = true) (hp : placeOk i (s.pcOf ag).2.1 (s.nslot ag) = true) :
    s.next ⟨ag, false⟩ = .run i := by
  simp only [State.next, Bool.toNat_false, Nat.add_zero, h, hl, hp, Bool.and_self, if_true, Bool.false_eq_true, if_false]

/-- Under REP the word behind it is read, and its instruction runs with its operands stepped (R101). -/
theorem next_of_swept {s : Machine.State} {ag : Agent} {i j : Instr}
    (h : decodeWord (wordAt (s.codeOf ag) ((s.pcOf ag).2.1 + 1)) (wordAt (s.codeOf ag) ((s.pcOf ag).2.1 + 2)) = .ok i)
    (hl : legal (headerKind (wordAt (s.codeOf ag) 0)) i = true) (hp : placeOk i ((s.pcOf ag).2.1 + 1) (s.nslot ag) = true)
    (hj : Instr.iter i (s.sweep ag) ((s.repctlOf ag).toNat / 4096 % 4096) = some j) :
    s.next ⟨ag, true⟩ = .run j := by
  simp only [State.next, Bool.toNat_true, Nat.add_assoc, Nat.reduceAdd, h, hl, hp, hj, Bool.and_self, if_true]

theorem step_of_run {s : Machine.State} {l : Latch} {i : Instr} (hl : s.issue = some l) (h : s.next l = .run i) :
    Machine.step s = Machine.exec i s := by
  simp only [Machine.step, hl, h]

theorem step_of_trapped {s t : Machine.State} {l : Latch} (hl : s.issue = some l) (h : s.next l = .trapped t) :
    Machine.step s = .next t := by
  simp only [Machine.step, hl, h]

/-- Settles O5: the two cases of the latch through what its agent does next, the three of the agenda by the step's definition. -/
theorem stepRunsDecoded : Obligations.StepRunsDecoded := by
  intro s
  refine ⟨?plain, ?swept, ?event, ?mail, ?idle⟩
  case plain => exact fun ag i hs hd hl hp => step_of_run hs (next_of_allowed hd hl hp)
  case swept => exact fun ag i j hs hd hl hp hj => step_of_run hs (next_of_swept hd hl hp hj)
  case event =>
    intro i r hs ha
    simp only [Machine.step, hs, ha]
  case mail =>
    intro b a r hs ha
    simp only [Machine.step, hs, ha]
  case idle =>
    intro hs ha
    simp only [Machine.step, hs, ha]

/-- The major opcodes that are reserved or unassigned (R103). -/
def Unassigned (op : Nat) : Prop :=
  op = 0 ∨ (0x21 ≤ op ∧ op ≤ 0x27) ∨ (0x36 ≤ op ∧ op ≤ 0x3F) ∨ (0x55 ≤ op ∧ op ≤ 0x57) ∨ (0x6D ≤ op ∧ op ≤ 0x6F) ∨
    (0x76 ≤ op ∧ op ≤ 0x7F) ∨ (0x8B ≤ op ∧ op ≤ 0x8F) ∨ (0x97 ≤ op ∧ op ≤ 0x9F) ∨ (0xAA ≤ op ∧ op ≤ 0xAF) ∨
    (0xBA ≤ op ∧ op ≤ 0xBF) ∨ op = 0xC3 ∨ (0xCA ≤ op ∧ op ≤ 0xCB) ∨ (0xD6 ≤ op ∧ op ≤ 0xDF) ∨ 0xE1 ≤ op

theorem assigned_of_sCtor {op : Nat} {f : SF} {i : Instr} (h : sCtor op f = some i) : ¬Unassigned op := by
  unfold sCtor at h
  split at h <;> first | cases h; done | (unfold Unassigned; omega)

theorem assigned_of_vCtor {op : Nat} {f : VF} {i : Instr} (h : vCtor op f = some i) : ¬Unassigned op := by
  unfold vCtor at h
  split at h <;> first | cases h; done | (unfold Unassigned; omega)

theorem assigned_of_mCtor {op : Nat} {f : MF} {i : Instr} (h : mCtor op f = some i) : ¬Unassigned op := by
  unfold mCtor at h
  split at h <;> first | cases h; done | (unfold Unassigned; omega)

theorem assigned_of_eCtor {op : Nat} {f : EF} {i : Instr} (h : eCtor op f = some i) : ¬Unassigned op := by
  unfold eCtor at h
  split at h <;> first | cases h; done | (unfold Unassigned; omega)

/-- What is read from a word has the row of its major opcode (Table 09-7). -/
theorem assigned_of_decodeWord {w lit : W64} {i : Instr} (h : decodeWord w lit = .ok i) : ¬Unassigned (fld w 63 56) := by
  unfold decodeWord at h
  split at h
  case h_5 hf => rw [fmtOf_eq_p hf]; unfold Unassigned; omega
  case h_6 => cases h
  all_goals
    split at h
    · simp only [View.ctor] at h
      split_ifs at h
      split at h <;> cases h
      next hc => first
        | exact assigned_of_sCtor hc
        | exact assigned_of_vCtor hc
        | exact assigned_of_mCtor hc
        | exact assigned_of_eCtor hc
    · cases h

/-- Settles O4: a word without a reading or a place goes to the trap; no word with a reserved opcode has a
row. -/
theorem illegalWordTraps : Obligations.IllegalWordTraps := by
  refine ⟨?_, ?_⟩
  · rintro s ag hs code slot (hno | ⟨i, hd, hbad⟩)
    · exact step_of_trapped hs (next_of_undecoded hno)
    · refine step_of_trapped hs (next_of_not_allowed hd ?_)
      rcases hbad with hl | hp
      · rw [hl, Bool.false_and]
      · rw [hp, Bool.and_false]
  · rintro w lit op rfl hno i hd
    exact assigned_of_decodeWord hd hno

/-! ### Reset -/

/-- Settles O8: no byte is listed. -/
theorem resetMemoryInv : Obligations.ResetMemoryInv := ⟨rfl, rfl⟩

/-- Settles O7: the maps are empty, so every entry reads as its default. -/
theorem resetValues : Obligations.ResetValues := by
  have hq : ∀ n, Thread.idle.getQ n = 0 := fun n => by
    show (Vector.replicate 32 (0 : W64)).toList.getD n 0 = 0
    rw [Vector.toList_replicate, List.getD_eq_getElem?_getD, List.getElem?_replicate]
    split <;> rfl
  exact ⟨fun _ _ n => ⟨rfl, hq n⟩, fun _ _ => ⟨rfl, rfl⟩, rfl, rfl, fun _ => rfl, fun _ => rfl, rfl, rfl, rfl, rfl, rfl, rfl,
    fun _ => rfl⟩

end Sys2Proof

/-! Every step answers: an encoded instruction where an agent is latched, a device step always (log entry 1). -/

namespace Sys2Proof

open Sys2Proof.Machine

theorem eq_with_issue {s : Machine.State} {l : Option Latch} (h : s.issue = l) : { s with issue := l } = s := by
  rw [← h]

/-- An encoded instruction of a latched agent has a meaning. -/
theorem exec_of_latched {i : Instr} {s : Machine.State} {l : Latch} (hv : i.view ≠ .step) (hs : s.issue = some l) :
    ∃ t, Machine.exec i s = .next t := by
  rw [← eq_with_issue hs]
  cases i
  all_goals first
    | exact ⟨_, rfl⟩
    | exact absurd rfl hv

/-- No agent issues an encoded instruction that stands in an agenda. -/
theorem exec_of_no_latch {i : Instr} {s : Machine.State} (hv : i.view ≠ .step) (hs : s.issue = none) :
    Machine.exec i s = .refused .noAgent := by
  rw [← eq_with_issue hs]
  cases i
  all_goals first
    | exact rfl
    | exact absurd rfl hv

/-- A firmware command is answered, waits or is reported. -/
theorem command_answers (s : Machine.State) (d r : Bool) (masks : List Nat)
    (act : Machine.State → MailBox → Nat → List W64 → Machine.State) : ∃ t, command s d r masks act = .next t := by
  unfold command
  cases s.fw with
  | none => exact ⟨_, rfl⟩
  | some x =>
    dsimp only
    repeat' split
    all_goals exact ⟨_, rfl⟩

/-- A device step has a meaning. -/
theorem exec_of_deviceStep {i : Instr} (s : Machine.State) (hv : i.view = .step) : ∃ t, Machine.exec i s = .next t := by
  cases i
  all_goals first
    | cases hv; done
    | exact ⟨_, rfl⟩
    | simp only [Machine.exec,
        execNodeAttach, execNodeUpdate, execNodeDetach, execFaultbuf, execFaultflush, execResume, execEndDomain,
        execPool, execSave, execInval, execStaging, execL2ways, execReplica, execExptableRegister,
        execExptableDeregister, execExpfetch, execExpevict, execPodJoin, execInbound, execLeaseGrant,
        execLeaseRevokeCommand, execLeaseFree, execLeaseRead, execPowercap, execAttest, execStatus, execDebugRead,
        execDebugWrite, execDebugHalt, execDebugStep, execDebugContinue, execUnknownCommand]
      exact command_answers _ _ _ _ _

/-- A firmware command is a device step. -/
theorem view_commandAt (s : Machine.State) (a : Nat) : (s.commandAt a).view = .step := by
  unfold State.commandAt decodeCommand
  dsimp only
  repeat' split
  all_goals rfl

theorem view_of_legal {k : ClauseKind} {i : Instr} (h : legal k i = true) : i.view ≠ .step := by
  intro hv
  rw [legal, hv] at h
  cases h

/-- A REP target that is stepped is still encoded (R101). -/
theorem view_of_iter {i j : Instr} {p : PF} {n : Nat} (h : Instr.iter i p n = some j) : j.view ≠ .step := by
  have hne : ∀ {v : View}, v.ctor = .ok j → j.view ≠ .step := fun hv => by
    obtain ⟨rfl, -, -, hne⟩ := view_of_ctor hv
    exact hne
  unfold Instr.iter at h
  repeat' split at h
  all_goals first
    | cases h; done
    | (next hc => cases h; exact hne hc)

/-- What an agent runs is an encoded instruction. -/
theorem view_of_next_run {s : Machine.State} {l : Latch} {i : Instr} (h : s.next l = .run i) : i.view ≠ .step := by
  unfold State.next at h
  dsimp only at h
  split at h
  · cases h
  · split at h
    · next hok =>
      rw [Bool.and_eq_true] at hok
      split at h
      · split at h <;> cases h
        next hj => exact view_of_iter hj
      · cases h
        exact view_of_legal hok.1
    · cases h

/-- Settles O6: the latched agent runs an encoded instruction or has trapped; an entry of the agenda is a device step or refused. -/
theorem stepAnswers : Obligations.StepAnswers := by
  intro s
  obtain ⟨-, -, hevent, hmail, hidle⟩ := stepRunsDecoded s
  cases hs : s.issue with
  | some l =>
    left
    cases hn : s.next l with
    | run i =>
      rw [step_of_run hs hn]
      exact exec_of_latched (view_of_next_run hn) hs
    | trapped t => exact ⟨t, step_of_trapped hs hn⟩
  | none =>
    cases ha : s.agenda with
    | nil => exact .inl ⟨s, hidle hs ha⟩
    | cons a r =>
      cases a with
      | mail b x =>
        obtain ⟨t, ht⟩ := exec_of_deviceStep { s with agenda := r, fw := some (b, x) } (view_commandAt s x)
        exact .inl ⟨t, (hmail b x r hs ha).trans ht⟩
      | event i =>
        by_cases hv : i.view = .step
        · obtain ⟨t, ht⟩ := exec_of_deviceStep { s with agenda := r } hv
          exact .inl ⟨t, (hevent i r hs ha).trans ht⟩
        · refine .inr ⟨?_, rfl, i, r, rfl, hv⟩
          exact (hevent i r hs ha).trans (exec_of_no_latch (s := { s with agenda := r }) hv hs)

end Sys2Proof

/-! Traps of waves and threads (R105, R218, R219, R311; Table 27-2): the record, the queue of the launch's thread, and the
arithmetic trap of R79. -/

namespace Sys2Proof

open Sys2Proof.Machine

/-! ### The queue of a launch's thread (R218) -/

@[simp] theorem queueTrap_waves (s : Machine.State) (l c : Nat) (q : Queued) : (s.queueTrap l c q).waves = s.waves := by
  unfold State.queueTrap
  split <;> rfl

@[simp] theorem queueTrap_rest (s : Machine.State) (l c : Nat) (q : Queued) : (s.queueTrap l c q).rest = s.rest := by
  unfold State.queueTrap
  split <;> rfl

theorem queueTrap_thread {s : Machine.State} {l c k : Nat} (q : Queued) (h : s.threadFor l c = some k) :
    (s.queueTrap l c q).thread c k = { s.thread c k with queue := (s.thread c k).queue ++ [q] } := by
  simp only [State.queueTrap, h, State.setThread_thread_same]

theorem queueTrap_find_other {s : Machine.State} {l c : Nat} (q : Queued) {j : Nat}
    (h : ∀ k, s.threadFor l c = some k → 4 * c + k ≠ j) :
    Map.find (s.queueTrap l c q).threads j = Map.find s.threads j := by
  unfold State.queueTrap
  split
  · next k hk => exact State.setThread_find_other s c k j _ (h k hk)
  · rfl

/-- A trap in the queue is a trap of the thread only. -/
@[simp] theorem queueTrap_wave (s : Machine.State) (l c i : Nat) (q : Queued) : (s.queueTrap l c q).wave i = s.wave i := by
  simp only [State.wave, queueTrap_waves]

/-! ### A wave that traps (R105, R219) -/

/-- The state after a trap of a wave at its instruction. -/
theorem trap_of_wave {s : Machine.State} {w : Nat} {v : Wave} (cause : Nat) (lane : Option Nat) (code addr : Nat)
    (hv : s.wave w = some v) :
    s.trap (.wave w) cause lane code addr = ((s.setWave w (v.halt .seq (s.trapRec (.wave w) cause v.path.slot lane code addr))).queueTrap
      v.launch v.cluster ⟨some w, BitVec.ofNat 32 v.handle, s.trapRec (.wave w) cause v.path.slot lane code addr⟩).unlatch := by
  simp only [State.trap, State.trapAt, State.pcOf, hv]

/-- The record of a trap of a wave (Table 27-2). -/
theorem trapRec_of_wave {s : Machine.State} {w : Nat} {v : Wave} (cause slot : Nat) (lane : Option Nat) (code addr : Nat)
    (hv : s.wave w = some v) :
    s.trapRec (.wave w) cause slot lane code addr =
      { w0 := BitVec.ofNat 64 (cause * 2 ^ 56 + slot % 8 * 2 ^ 53 + v.alt.toNat * 2 ^ 52 + lane.getD 0x1FF * 2 ^ 32 +
          code % 65536 * 2 ^ 16 + v.handle)
        w1 := v.path.pc.zeroExtend 64, w2 := BitVec.ofNat 64 addr, w3 := BitVec.ofNat 64 (v.repctl.toNat * 2 ^ 32) } := by
  simp only [State.trapRec, State.pcOf, State.repctlOf, hv]

/-- What a stop of a wave and a record in its thread's queue leave alone. -/
theorem stop_and_queue (s : Machine.State) (w : Nat) (u : Wave) (l c : Nat) (q : Queued) :
    let t := ((s.setWave w u).queueTrap l c q).unlatch
    t.wave w = some u ∧ t.issue = none ∧ t.rest = s.rest ∧ SameBytes s t ∧ (∀ j, w ≠ j → t.wave j = s.wave j) ∧
      (∀ k, s.threadFor l c = some k → t.thread c k = { s.thread c k with queue := (s.thread c k).queue ++ [q] }) ∧
      (∀ j, (∀ k, s.threadFor l c = some k → 4 * c + k ≠ j) → Map.find t.threads j = Map.find s.threads j) := by
  intro t
  have hrest : t.rest = s.rest := queueTrap_rest (s.setWave w u) l c q
  refine ⟨by simp [t], rfl, hrest, SameBytes.ofRest hrest, fun j hj => ?_, fun k hk => ?_, fun j hj => ?_⟩
  · simp [t, State.setWave_wave_other s w j u hj]
  · exact queueTrap_thread (s := s.setWave w u) q hk
  · exact queueTrap_find_other (s := s.setWave w u) q hj

/-- Settles O10: the wave stops as `halt` leaves it, and its record joins the queue. -/
theorem waveTrap : Obligations.WaveTrap := by
  intro s w v cause code addr lane hv
  rw [trap_of_wave cause lane code addr hv, trapRec_of_wave cause v.path.slot lane code addr hv]
  generalize hr : (TRec.mk _ _ _ _) = r
  obtain ⟨hw, hissue, hrest, hbytes, hwaves, hqueue, hthreads⟩ := stop_and_queue s w (v.halt .seq r) v.launch v.cluster
    ⟨some w, BitVec.ofNat 32 v.handle, r⟩
  obtain ⟨hpc, hslot, -⟩ := halt_place v .seq r
  subst hr
  exact ⟨⟨_, hw, halt_kept v .seq _, rfl, rfl, hpc, hslot, rfl, rfl, rfl, rfl, hqueue⟩, hissue, hrest, hbytes, hwaves, hthreads⟩

/-! ### The arithmetic trap (R79) -/

/-- A flag is raised and has its trap bit set. -/
theorem trapsOn_of_bit {fp : W32} {fl : FFlags} (h : ∃ n, n < 5 ∧ fl.getLsbD n = true ∧ fp.getLsbD (16 + n) = true) :
    trapsOn fp fl = true := by
  obtain ⟨n, hn, hf, hp⟩ := h
  rw [trapsOn, bne_iff_ne]
  intro h0
  have hbit : ((BitVec.ofNat 5 (fp.toNat / 2 ^ 16)) &&& fl).getLsbD n = true := by
    rw [BitVec.getLsbD_and, hf, BitVec.getLsbD_ofNat, Nat.testBit_div_two_pow, BitVec.testBit_toNat, Nat.add_comm, hp]
    simp [hn]
  rw [h0] at hbit
  simp at hbit

@[simp] theorem halt_sreg (v : Wave) (st : Stop) (r : TRec) : (v.halt st r).sreg = v.sreg := by simp [Wave.halt]
@[simp] theorem halt_vreg (v : Wave) (st : Stop) (r : TRec) : (v.halt st r).vreg = v.vreg := by simp [Wave.halt]
@[simp] theorem halt_fpstat (v : Wave) (st : Stop) (r : TRec) : (v.halt st r).fpstat = v.fpstat := by simp [Wave.halt]
@[simp] theorem halt_mask (v : Wave) (st : Stop) (r : TRec) : (v.halt st r).path.mask = v.path.mask := by
  cases h : v.alt <;> simp [Wave.halt, Wave.setPath, Wave.path, h]

theorem handle_lt (v : Wave) : v.handle < 2 ^ 16 := by
  unfold Wave.handle
  omega

/-- The cause and code of the first word of a record (Table 27-2). -/
theorem fields_of_trap_word {cause slot lane code handle : Nat} (b : Bool) (hc : cause < 2 ^ 8) (hl : lane < 2 ^ 9)
    (hh : handle < 2 ^ 16) :
    let w := BitVec.ofNat 64 (cause * 2 ^ 56 + slot % 8 * 2 ^ 53 + b.toNat * 2 ^ 52 + lane * 2 ^ 32 + code % 65536 * 2 ^ 16 + handle)
    fld w 63 56 = cause ∧ fld w 31 16 = code % 2 ^ 16 := by
  have hb := b.toNat_lt
  constructor <;> rw [fld_ofNat _ _ _ (by omega)] <;> omega

/-- The record of a trap without a lane names its cause and its code. -/
theorem fields_of_trapRec (s : Machine.State) (ag : Agent) {cause slot code addr : Nat} (hc : cause < 2 ^ 8) :
    fld (s.trapRec ag cause slot none code addr).w0 63 56 = cause ∧
      fld (s.trapRec ag cause slot none code addr).w0 31 16 = code % 2 ^ 16 := by
  refine fields_of_trap_word (s.pcOf ag).2.2 hc (by decide) ?_
  cases ag with
  | thread c k => exact Nat.two_pow_pos 16
  | wave w =>
    cases hv : s.wave w with
    | none => simp only [hv]; exact Nat.two_pow_pos 16
    | some v => simp only [hv]; exact handle_lt v

theorem flags_mod (fl : FFlags) : fl.toNat % 2 ^ 16 = fl.toNat :=
  Nat.mod_eq_of_lt (fl.isLt.trans (by decide))

/-- Where a raised flag has its trap bit, the instruction has no effect but the trap (R79). -/
theorem withFlags_of_trap {s : Machine.State} {ag : Agent} {fl : FFlags} (k : Machine.State → Machine.State)
    (h : trapsOn (s.fpstatOf ag) fl = true) : s.withFlags ag fl k = s.trap ag 0x11 none fl.toNat 0 := by
  rw [State.withFlags, if_pos h]

/-- Settles O20: the trap of a wave stops it as `halt` leaves it, that of a thread is a stop at tier 3. -/
theorem arithmeticTrap : Obligations.ArithmeticTrap := by
  refine ⟨?wave, ?thread⟩
  case wave =>
    intro s w v fl k hv hbit
    have hfp : s.fpstatOf (.wave w) = v.fpstat := by simp only [State.fpstatOf, hv]
    dsimp only
    rw [withFlags_of_trap k (hfp ▸ trapsOn_of_bit hbit), trap_of_wave 0x11 none fl.toNat 0 hv]
    obtain ⟨hw, -, hrest, hbytes, -, hqueue, -⟩ := stop_and_queue s w
      (v.halt .seq (s.trapRec (.wave w) 0x11 v.path.slot none fl.toNat 0)) v.launch v.cluster
      ⟨some w, BitVec.ofNat 32 v.handle, s.trapRec (.wave w) 0x11 v.path.slot none fl.toNat 0⟩
    obtain ⟨hpc, hslot, -⟩ := halt_place v .seq (s.trapRec (.wave w) 0x11 v.path.slot none fl.toNat 0)
    obtain ⟨hcause, hcode⟩ := fields_of_trapRec s (.wave w) (slot := v.path.slot) (code := fl.toNat) (addr := 0)
      (cause := 0x11) (by decide)
    refine ⟨_, hw, rfl, halt_fpstat _ _ _, halt_sreg _ _ _, halt_vreg _ _ _, halt_mask _ _ _, hpc, hslot, hcause,
      hcode.trans (flags_mod fl), hbytes, hrest, fun j hj => ?_⟩
    rw [hqueue j hj]
    rfl
  case thread =>
    intro s c j fl k hbit r h
    obtain ⟨hcause, hcode⟩ := fields_of_trapRec s (.thread c j) (slot := (s.thread c j).slot) (code := fl.toNat) (addr := 0)
      (cause := 0x11) (by decide)
    exact ⟨withFlags_of_trap k (trapsOn_of_bit hbit), rfl, rfl, rfl, rfl, rfl, hcause, hcode.trans (flags_mod fl)⟩

end Sys2Proof

/-! Delivery of traps, the first-touch handler and TRAP (R218, R221, R223, R224, R315 to R317). -/

namespace Sys2Proof

open Sys2Proof.Machine

/-! ### Delivery (R218) -/

theorem noteDelivery_waves (s : Machine.State) (q : Queued) :
    (∀ w v, q.wave = some w → s.wave w = some v → (s.noteDelivery q).wave w = some { v with dlv := true }) ∧
      (∀ w, q.wave ≠ some w → (s.noteDelivery q).wave w = s.wave w) := by
  constructor
  · intro w v hq hv
    simp only [State.noteDelivery, hq, hv, State.setWave_wave_same]
  · intro w hq
    unfold State.noteDelivery
    split
    · next i hi =>
      split
      · exact State.setWave_wave_other s i w _ (fun e => hq (e ▸ hi))
      · rfl
    · rfl

theorem noteDelivery_rest (s : Machine.State) (q : Queued) : (s.noteDelivery q).rest = s.rest := by
  unfold State.noteDelivery
  split
  · split <;> rfl
  · rfl

/-- A trap of a wave that reaches a thread while `tvec` is zero is forwarded (R317). -/
theorem exec_trapDelivery_forwarded {s : Machine.State} {c k w : Nat} {q : Queued}
    (hq : (s.thread c k).queue.find? s.reaches = some q) (hh : (s.thread c k).hears = true) (ht : (s.thread c k).tvec = 0)
    (hw : q.wave = some w) : Machine.exec (.trapDelivery c k) s =
      .next (((s.setThread c k ((s.thread c k).popTrap q)).forwardQueued w).freeThread c k) := by
  show execTrapDelivery c k s = _
  simp only [execTrapDelivery, hq, ht, hh, hw, if_true, Bool.not_true, Bool.false_eq_true, if_false]

/-- One of the thread's own stops it (R218). -/
theorem exec_trapDelivery_own {s : Machine.State} {c k : Nat} {q : Queued}
    (hq : (s.thread c k).queue.find? s.reaches = some q) (hh : (s.thread c k).hears = true) (ht : (s.thread c k).tvec = 0)
    (hw : q.wave = none) (hs : (s.thread c k).stop = false) : Machine.exec (.trapDelivery c k) s =
      .next ((s.setThread c k ((s.thread c k).popTrap q).halt).tier3 (.thread c k) 1 q.trec) := by
  show execTrapDelivery c k s = _
  simp only [execTrapDelivery, hq, ht, hh, hw, hs, if_true, Bool.not_true, Bool.false_eq_true, if_false]

theorem forwardQueued_of_stopped {s : Machine.State} {w : Nat} {v : Wave} (hv : s.wave w = some v) (hs : v.stop = .seq) :
    s.forwardQueued w = s.forwardTrap w v := by
  simp only [State.forwardQueued, hv, hs, beq_self_eq_true, if_true]

/-- A thread that may take a trap and has a handler enters it (R218). -/
theorem exec_trapDelivery_handler {s : Machine.State} {c k : Nat} {q : Queued}
    (hq : (s.thread c k).queue.find? s.reaches = some q) (hm : (s.thread c k).mayTake = true) (ht : (s.thread c k).tvec ≠ 0) :
    Machine.exec (.trapDelivery c k) s =
      .next ((s.noteDelivery q).setThread c k (((s.thread c k).popTrap q).enterTrap q)) := by
  show execTrapDelivery c k s = _
  simp only [execTrapDelivery, hq, if_neg ht, hm, if_true]

/-- Settles O11: a thread with a handler enters it; without one the record goes on to the host. -/
theorem trapDelivery : Obligations.TrapDelivery := by
  intro s c k q hq
  refine ⟨fun hm ht => ?handler, fun hh ht => ⟨fun w v hw hv hstop => ?wave, fun hw hstop => ?own⟩⟩
  case handler =>
    obtain ⟨hself, hothers⟩ := noteDelivery_waves s q
    refine ⟨_, exec_trapDelivery_handler hq hm ht, ?_⟩
    rw [State.setThread_thread_same]
    have hrest : ((s.noteDelivery q).setThread c k (((s.thread c k).popTrap q).enterTrap q)).rest = s.rest :=
      noteDelivery_rest s q
    refine ⟨rfl, rfl, rfl, rfl, ?_, rfl, rfl, rfl, rfl, rfl, rfl, hself, hothers, hrest, SameBytes.ofRest hrest⟩
    rw [Nat.mul_comm 8]
    rfl
  case wave =>
    have hfwd := forwardQueued_of_stopped (s := s.setThread c k ((s.thread c k).popTrap q)) hv hstop
    rw [exec_trapDelivery_forwarded hq hh ht hw, hfwd]
    rfl
  case own => exact exec_trapDelivery_own hq hh ht hw hstop

/-! ### The first-touch handler (R315, R224) -/

/-- The halves of a pair (R97). -/
theorem fld_pair32 (a b : Nat) : fld (pair32 a b) 31 0 = a % 2 ^ 32 ∧ fld (pair32 a b) 63 32 = b % 2 ^ 32 := by
  constructor <;> rw [pair32, fld_ofNat _ _ _ (by omega)] <;> omega

/-- A mask saved in the registers of the handler is given back (R315). -/
theorem maskOf_saved (m : Mask) :
    maskOf (fld (pair32 (maskWord m 0).toNat (maskWord m 1).toNat) 31 0)
      (fld (pair32 (maskWord m 0).toNat (maskWord m 1).toNat) 63 32) (maskWord m 2).toNat = m := by
  obtain ⟨hlo, hhi⟩ := fld_pair32 (maskWord m 0).toNat (maskWord m 1).toNat
  rw [hlo, hhi, Nat.mod_eq_of_lt (maskWord m 0).isLt, Nat.mod_eq_of_lt (maskWord m 1).isLt, maskOf_maskWord]

/-- Writing one wave and clearing the latch leaves the rest of the machine alone. -/
theorem Apart.setWave (s : Machine.State) (w : Nat) (u : Wave) : Apart (.wave w) s (s.setWave w u).unlatch where
  bytes := SameBytes.ofRest rfl
  rest := rfl
  waves i hi := State.setWave_wave_other s w i u (fun e => hi (e ▸ rfl))
  threads _ _ := rfl

theorem Apart.setThread (s : Machine.State) (c k : Nat) (h : Thread) : Apart (.thread c k) s (s.setThread c k h).unlatch where
  bytes := SameBytes.ofRest rfl
  rest := rfl
  waves _ _ := rfl
  threads j hj := State.setThread_find_other s c k j h (fun e => hj (e ▸ rfl))

theorem Apart.trans {ag : Agent} {s t u : Machine.State} (h : Apart ag s t) (g : Apart ag t u) : Apart ag s u where
  bytes x := ⟨(g.bytes x).1.trans (h.bytes x).1, (g.bytes x).2.trans (h.bytes x).2⟩
  rest := g.rest.trans h.rest
  waves w hw := (g.waves w hw).trans (h.waves w hw)
  threads j hj := (g.threads j hj).trans (h.threads j hj)

theorem Kept.apart {ag : Agent} {s t : Machine.State} {a b : List Nat} {f k : Bool} (h : Kept ag s t a b f k) : Apart ag s t :=
  ⟨h.bytes, h.rest, h.waves, h.threads⟩

/-- What the step trap's stop leaves of a wave: all but its stop and the clause it has to fetch again (R221). -/
theorem stepped_wave {s : Machine.State} {w : Nat} {v : Wave} (hv : s.wave w = some v) :
    ∃ u, (s.stepped (.wave w)).wave w = some u ∧ u.inh = v.inh ∧ u.path.pc = v.path.pc ∧ u.path.slot = v.path.slot ∧
      u.path.mask = v.path.mask ∧ u.sreg = v.sreg ∧ u.vreg = v.vreg ∧ u.hreg = v.hreg ∧ u.other = v.other := by
  cases hs : v.step with
  | false => exact ⟨v, by simp [State.stepped, hv, hs], rfl, rfl, rfl, rfl, rfl, rfl, rfl, rfl⟩
  | true =>
    obtain ⟨hpc, hslot, -⟩ := halt_place v .seq v.trec
    have hother : (v.halt .seq v.trec).other = v.other := (halt_kept v .seq v.trec).other
    refine ⟨{ v.halt .seq v.trec with step := true }, by simp [State.stepped, hv, hs], ?_, hpc, hslot,
      halt_mask v .seq v.trec, halt_sreg v .seq v.trec, halt_vreg v .seq v.trec, ?_, hother⟩ <;> simp [Wave.halt]

/-- First-touch outside a handler is an entry to the handler of its context (R314). -/
theorem faultHere_first_touch {s : Machine.State} {w : Nat} {v : Wave} (lane : Option Nat) (va : Nat) (m : Mask)
    (hv : s.wave w = some v) (hh : s.hentry v.ctx ≠ 0) (hi : v.inh = none) :
    s.faultHere (.wave w) 0x25 lane va m = s.enterHandler w v.path.slot v.path.slot va m := by
  have hslot : (if v.path.slot = 0 ∧ v.path.slot = 1 then 0 else v.path.slot) = v.path.slot := if_neg (by omega)
  simp only [State.faultHere, State.faultAt, State.pcOf, hv, hh, hi, hslot, ne_eq, not_false_eq_true, and_self, if_true]

/-- Settles O13: what the entry saves is what the return takes back. -/
theorem firstTouchHandler : Obligations.FirstTouchHandler := by
  refine ⟨?enter, ?leave⟩
  case enter =>
    intro s w v lane va m hv hh hi
    rw [faultHere_first_touch lane va m hv hh hi]
    simp only [State.enterHandler, hv, State.unlatch_wave, State.setWave_wave_same]
    refine ⟨_, rfl, rfl, rfl, rfl, maskOf_saved _, rfl, ?_, ?_, ?_, Wave.setPath_sreg _ _, Wave.setPath_vreg _ _,
      Wave.setPath_stop _ _, Wave.setPath_other _ _, Apart.setWave s w _⟩
    all_goals cases h : v.alt <;> simp [Wave.setPath, Wave.path, h]
  case leave =>
    rintro s w v f ⟨hissue, -⟩ hv
    have hexec : Machine.exec (.rett f) s = .next ((s.leaveHandler w).stepped (.wave w)) := by
      show execRett f s = _
      simp only [execRett, issued, hissue]
    have hleave : ∃ u, s.leaveHandler w = (s.setWave w u).unlatch ∧ u.inh = none ∧
        u.path.pc = BitVec.ofNat 57 (fld v.hreg.hpc 56 6 * 64) ∧
        u.path.slot = (if fld v.hreg.hpc 5 3 = 0 then 1 else fld v.hreg.hpc 5 3) ∧
        u.path.mask = maskOf (fld v.hreg.hmask01 31 0) (fld v.hreg.hmask01 63 32) v.hreg.hmask2.toNat ∧
        u.sreg = v.sreg ∧ u.vreg = v.vreg ∧ u.hreg = v.hreg ∧ u.other = v.other := by
      simp only [State.leaveHandler, hv]
      refine ⟨_, rfl, rfl, ?_, ?_, ?_, Wave.setPath_sreg _ _, Wave.setPath_vreg _ _, Wave.setPath_hreg _ _,
        Wave.setPath_other _ _⟩
      all_goals cases h : v.alt <;> simp [Wave.setPath, Wave.path, h]
    obtain ⟨u, hu, hinh, hpc, hslot, hmask, hsreg, hvreg, hhreg, hother⟩ := hleave
    obtain ⟨x, hx, xinh, xpc, xslot, xmask, xsreg, xvreg, xhreg, xother⟩ :=
      stepped_wave (s := (s.setWave w u).unlatch) (w := w) (v := u) (by simp)
    refine ⟨_, x, hexec, hu ▸ hx, xinh.trans hinh, xpc.trans hpc, xslot.trans hslot, xmask.trans hmask, xsreg.trans hsreg,
      xvreg.trans hvreg, xhreg.trans hhreg, xother.trans hother, ?_⟩
    rw [hu]
    exact (Apart.setWave s w u).trans (Kept.stepped _ _ [] [] false false).apart

/-! ### TRAP and the step trap (R221, R223) -/

/-- A wave that stops at its TRAP stands at the clause that follows (R223). -/
theorem trapped_place (v : Wave) (st : Stop) (r : TRec) :
    (v.trapped st r).path.pc = v.path.pc + 64 ∧ (v.trapped st r).path.slot = 1 ∧ (v.trapped st r).sreg = v.sreg ∧
      (v.trapped st r).vreg = v.vreg := by
  obtain ⟨hpc, hslot, -⟩ := halt_place
    (v.setPath { v.path with pc := v.path.pc + 64, slot := 1, code := none, named := false, wait := .none }) st r
  refine ⟨hpc.trans ?_, hslot.trans ?_, (halt_sreg _ _ _).trans (Wave.setPath_sreg _ _),
    (halt_vreg _ _ _).trans (Wave.setPath_vreg _ _)⟩ <;> rw [Wave.setPath_path]

theorem exec_trapSeq_wave {s : Machine.State} {w : Nat} {v : Wave} (f : SF) (hi : s.issue = some ⟨.wave w, false⟩)
    (hv : s.wave w = some v) :
    let r := s.trapRec (.wave w) 0x1A v.path.slot none f.imm.toNat 0
    Machine.exec (.trapSeq f) s = .next ((s.setWave w (v.trapped .seq r)).queueTrap v.launch v.cluster
      ⟨some w, BitVec.ofNat 32 v.handle, r⟩).unlatch := by
  show execTrapSeq f s = _
  simp only [execTrapSeq, issued, hi, State.pcOf, hv]

theorem exec_trapSeq_thread {s : Machine.State} {c k : Nat} (f : SF) (hi : s.issue = some ⟨.thread c k, false⟩) :
    let r := s.trapRec (.thread c k) 0x1A (s.thread c k).slot none f.imm.toNat 0
    let h := (s.thread c k).pastTrap
    Machine.exec (.trapSeq f) s = .next (if (s.thread c k).inh = true ∨ (s.thread c k).tvec = 0 then
      ((s.setThread c k h.halt).tier3 (.thread c k) 1 r).unlatch
      else (s.setThread c k { h with queue := h.queue ++ [⟨none, 0x40000000, r⟩] }).unlatch) := by
  show execTrapSeq f s = _
  simp only [execTrapSeq, issued, hi] <;> rfl

theorem exec_trapHost_wave {s : Machine.State} {w : Nat} {v : Wave} (f : SF) (hi : s.issue = some ⟨.wave w, false⟩)
    (hv : s.wave w = some v) {dry : Bool}
    (hd : (headerKind (wordAt (s.codeOf (.wave w)) 0) == .handler && f.imm == 0xFFFF) = dry) :
    let r := s.trapRec (.wave w) (if dry then 0x26 else 0x1A) v.path.slot none f.imm.toNat 0
    Machine.exec (.trapHost f) s = .next ((((s.setWave w (v.trapped (if dry then .parked else .host) r)).dropReserve w).tier3
      (.wave w) 1 r).unlatch) := by
  show execTrapHost f s = _
  simp only [execTrapHost, issued, hi, State.pcOf, hv, hd]

theorem exec_trapHost_thread {s : Machine.State} {c k : Nat} (f : SF) (hi : s.issue = some ⟨.thread c k, false⟩)
    (hk : headerKind (wordAt (s.codeOf (.thread c k)) 0) ≠ .handler) :
    Machine.exec (.trapHost f) s = .next (((s.setThread c k (s.thread c k).pastTrap.halt).tier3 (.thread c k) 1
      (s.trapRec (.thread c k) 0x1A (s.thread c k).slot none f.imm.toNat 0)).unlatch) := by
  show execTrapHost f s = _
  simp only [execTrapHost, issued, hi, beq_eq_false_iff_ne.2 hk, Bool.false_and, Bool.false_eq_true, if_false, State.pcOf]

/-- The record of the step trap (R221). -/
def stepRec (v : Wave) : TRec :=
  { w0 := BitVec.ofNat 64 (0x1B * 2 ^ 56 + v.path.slot % 8 * 2 ^ 53 + v.alt.toNat * 2 ^ 52 + 0x1FF * 2 ^ 32 + v.handle)
    w1 := v.path.pc.zeroExtend 64, w2 := 0, w3 := BitVec.ofNat 64 (v.repctl.toNat * 2 ^ 32) }

theorem stepRec_cause (v : Wave) : fld (stepRec v).w0 63 56 = 0x1B := by
  have h := (fields_of_trap_word (slot := v.path.slot) (code := 0) v.alt (show 0x1B < 2 ^ 8 by decide)
    (show 0x1FF < 2 ^ 9 by decide) (handle_lt v)).1
  rwa [Nat.zero_mod, Nat.zero_mul, Nat.add_zero] at h

theorem exec_stepTrap {s : Machine.State} {w : Nat} {v : Wave} (hv : s.wave w = some v) (hstep : v.step = true)
    (hstop : v.stop = .seq) :
    Machine.exec (.stepTrap w) s = .next ((s.setWave w { v with step := false, trec := stepRec v }).queueTrap v.launch v.cluster
      ⟨some w, BitVec.ofNat 32 v.handle, stepRec v⟩) := by
  show execStepTrap w s = _
  simp only [execStepTrap, hv, hstep, hstop, and_self, if_true] <;> rfl

/-- Settles O14: each form of TRAP from its state after, the step trap as a stop whose record names it. -/
theorem trapInstructions : Obligations.TrapInstructions := by
  refine ⟨?seqWave, ?seqThread, ?hostWave, ?tier3, ?stepTrap⟩
  case seqWave =>
    rintro s w v f ⟨hi, -⟩ hv
    have hexec := exec_trapSeq_wave f hi hv
    dsimp only at hexec
    generalize s.trapRec (.wave w) 0x1A v.path.slot none f.imm.toNat 0 = r at hexec ⊢
    obtain ⟨hw, -, hrest, hbytes, hwaves, hqueue, -⟩ := stop_and_queue s w (v.trapped .seq r) v.launch v.cluster
      ⟨some w, BitVec.ofNat 32 v.handle, r⟩
    obtain ⟨hpc, hslot, hsreg, hvreg⟩ := trapped_place v .seq r
    exact ⟨_, _, hexec, hw, rfl, hpc, hslot, rfl, hsreg, hvreg, fun k hk => by rw [hqueue k hk]; rfl, hrest, hbytes, hwaves⟩
  case seqThread =>
    rintro s c k f ⟨hi, -⟩ hinh ht
    have hexec := exec_trapSeq_thread f hi
    dsimp only at hexec
    rw [if_neg (not_or.2 ⟨ne_true_of_eq_false hinh, ht⟩)] at hexec
    refine ⟨_, hexec, ?_⟩
    rw [State.unlatch_thread, State.setThread_thread_same]
    exact ⟨rfl, rfl, rfl, rfl, Apart.setThread s c k _⟩
  case hostWave =>
    rintro s w v f ⟨hi, -⟩ hv dry
    by_cases hd : dry
    · obtain ⟨hk, hn⟩ := hd
      obtain ⟨hpc, -, hsreg, -⟩ := trapped_place v .parked (s.trapRec (.wave w) 0x26 v.path.slot none f.imm.toNat 0)
      exact ⟨.parked, 0x26, .inl ⟨⟨hk, hn⟩, rfl, rfl⟩, exec_trapHost_wave (dry := true) f hi hv (by simp [hk, hn]), rfl, hpc, hsreg⟩
    · obtain ⟨hpc, -, hsreg, -⟩ := trapped_place v .host (s.trapRec (.wave w) 0x1A v.path.slot none f.imm.toNat 0)
      refine ⟨.host, 0x1A, .inr ⟨hd, rfl, rfl⟩, exec_trapHost_wave (dry := false) f hi hv ?_, rfl, hpc, hsreg⟩
      rw [Bool.eq_false_iff, ne_eq, Bool.and_eq_true, beq_iff_eq, beq_iff_eq]
      exact hd
  case tier3 =>
    intro s c k f h
    refine ⟨?_, fun hready hk => exec_trapHost_thread f hready.1 hk, rfl, rfl, rfl, rfl, rfl⟩
    rintro ⟨hi, -⟩ hno
    have hexec := exec_trapSeq_thread f hi
    dsimp only at hexec
    rwa [if_pos hno] at hexec
  case stepTrap =>
    intro s w v hv hstep hstop
    obtain ⟨hw, -, hrest, hbytes, -, hqueue, -⟩ := stop_and_queue s w { v with step := false, trec := stepRec v } v.launch
      v.cluster ⟨some w, BitVec.ofNat 32 v.handle, stepRec v⟩
    exact ⟨_, _, exec_stepTrap hv hstep hstop, hw, hstop, rfl, stepRec_cause v, rfl, rfl, rfl,
      fun k hk => congrArg Thread.queue (hqueue k hk), hrest, hbytes⟩

end Sys2Proof

/-! Integer results of a width (R112, R113, R130): the numbers that the meanings compute, as integers modulo 2^W. -/

namespace Sys2Proof

open Sys2Proof.Machine

/-! ### Signed and unsigned values -/

theorem ofNat_toInt_eq_signed {w : Nat} (hw : 0 < w) (a : Nat) : (BitVec.ofNat w a).toInt = signed w a := by
  obtain ⟨n, rfl⟩ := Nat.exists_eq_succ_of_ne_zero hw.ne'
  have h2 : 2 ^ (n + 1) = 2 * 2 ^ n := by rw [Nat.pow_succ, Nat.mul_comm]
  rw [BitVec.toInt_eq_toNat_cond, BitVec.toNat_ofNat, signed, Nat.succ_sub_one]
  simp only [Nat.succ_eq_add_one, h2, Nat.mul_lt_mul_left (show 0 < 2 by decide)]

theorem signed_modEq (w a : Nat) : signed w a ≡ a [ZMOD (2 ^ w : Nat)] := by
  unfold signed
  split
  · simp [Int.ModEq]
  · simp [Int.ModEq]

theorem cast_unsigned (w : Nat) (x : Int) : ((unsigned w x : Nat) : Int) = x % (2 ^ w : Nat) :=
  Int.toNat_of_nonneg (Int.emod_nonneg x (by exact_mod_cast (Nat.two_pow_pos w).ne'))

theorem unsigned_modEq (w : Nat) (x : Int) : (unsigned w x : Int) ≡ x [ZMOD (2 ^ w : Nat)] := by
  rw [cast_unsigned, Int.ModEq, Int.emod_emod_of_dvd _ dvd_rfl]

theorem bits_pos (t : Ty) : 0 < t.bits := by cases t <;> decide

/-- The value of a type as the meanings read it and as Table 11-1 does. -/
theorem asInt_eq_int (t : Ty) (a : Nat) : asInt t.bits t.signed a = t.int a := by
  rw [asInt, Ty.int, ofNat_toInt_eq_signed (bits_pos t)]

theorem int_modEq (t : Ty) (a : Nat) : t.int a ≡ a [ZMOD (2 ^ t.bits : Nat)] := by
  rw [← asInt_eq_int, asInt]
  split
  · exact signed_modEq t.bits a
  · simp [Int.ModEq]

/-- A number and an integer that agree modulo 2^W, W at most 64, are the same value of W bits. -/
theorem ofNat_eq_ofInt {w n : Nat} {x : Int} (h : (n : Int) ≡ x [ZMOD (2 ^ w : Nat)]) :
    BitVec.ofNat 64 (n % 2 ^ w) = BitVec.ofInt 64 (x % (2 ^ w : Nat)) := by
  rw [← BitVec.ofInt_natCast, Int.natCast_emod, h]

/-! ### The operations (Table 11-1, R113) -/

theorem sub_modEq (w a b : Nat) : ((a + (2 ^ w - b % 2 ^ w) : Nat) : Int) ≡ (a : Int) - b [ZMOD (2 ^ w : Nat)] := by
  have hb := (Nat.mod_lt b (Nat.two_pow_pos w)).le
  rw [Nat.cast_add, Nat.cast_sub hb, Int.natCast_emod]
  refine Int.modEq_iff_dvd.2 ⟨-1 - (b : Int) / (2 ^ w : Nat), ?_⟩
  rw [Int.emod_def]
  ring

theorem not_modEq {w a : Nat} (h : a < 2 ^ w) : ((2 ^ w - 1 - a : Nat) : Int) ≡ -1 - (a : Int) [ZMOD (2 ^ w : Nat)] := by
  have hcast : ((2 ^ w - 1 - a : Nat) : Int) = -1 - (a : Int) + (2 ^ w : Nat) := by omega
  rw [hcast]
  exact Int.add_modEq_right

theorem divRem_modEq (t : Ty) {a b : Nat} (hb : b < 2 ^ t.bits) :
    (((divRem t.bits t.signed a b).1 : Nat) : Int) ≡ (if b = 0 then -1 else (t.int a).tdiv (t.int b)) [ZMOD (2 ^ t.bits : Nat)] ∧
      (((divRem t.bits t.signed a b).2 : Nat) : Int) ≡ (if b = 0 then (a : Int) else (t.int a).tmod (t.int b)) [ZMOD (2 ^ t.bits : Nat)] := by
  unfold divRem
  dsimp only
  rw [Nat.mod_eq_of_lt hb, asInt_eq_int, asInt_eq_int]
  split
  · have hone : ((2 ^ t.bits - 1 : Nat) : Int) = -1 + (2 ^ t.bits : Nat) := by have := Nat.two_pow_pos t.bits; omega
    exact ⟨hone ▸ Int.add_modEq_right, by simp [Int.ModEq]⟩
  · exact ⟨unsigned_modEq _ _, unsigned_modEq _ _⟩

theorem minMaxInt_modEq (t : Ty) (a b : Nat) :
    ((minMaxInt t.bits t.signed false a b : Nat) : Int) ≡ min (t.int a) (t.int b) [ZMOD (2 ^ t.bits : Nat)] ∧
      ((minMaxInt t.bits t.signed true a b : Nat) : Int) ≡ max (t.int a) (t.int b) [ZMOD (2 ^ t.bits : Nat)] := by
  have ha := (int_modEq t a).symm
  have hb := (int_modEq t b).symm
  unfold minMaxInt
  rw [asInt_eq_int, asInt_eq_int]
  rcases lt_or_ge (t.int a) (t.int b) with h | h
  · simp only [h, decide_true, min_eq_left h.le, max_eq_right h.le]
    exact ⟨ha, hb⟩
  · simp only [not_lt.2 h, decide_false, min_eq_right h, max_eq_left h]
    exact ⟨hb, ha⟩

theorem shiftSar_modEq {w : Nat} (hw : 0 < w) (a k : Nat) :
    ((shiftSar w a k : Nat) : Int) ≡ (BitVec.ofNat w a).toInt >>> k [ZMOD (2 ^ w : Nat)] := by
  rw [shiftSar, ofNat_toInt_eq_signed hw, Int.shiftRight_eq_div_pow]
  exact_mod_cast unsigned_modEq w _

theorem rotl_eq {w a k : Nat} (hk : k < w) (ha : a < 2 ^ w) : rotl w a k = ((BitVec.ofNat w a).rotateLeft k).toNat := by
  have hsplit : 2 ^ w = 2 ^ (w - k) * 2 ^ k := by rw [← Nat.pow_add, Nat.sub_add_cancel hk.le]
  have hlow : a / 2 ^ (w - k) < 2 ^ k := by
    rw [Nat.div_lt_iff_lt_mul (Nat.two_pow_pos _), Nat.mul_comm, ← hsplit]
    exact ha
  have hhigh : a * 2 ^ k % 2 ^ w = (a % 2 ^ (w - k)) <<< k := by
    rw [hsplit, Nat.mul_mod_mul_right, Nat.shiftLeft_eq]
  rw [BitVec.toNat_rotateLeft, BitVec.toNat_ofNat, Nat.mod_eq_of_lt ha, Nat.mod_eq_of_lt hk, Nat.shiftLeft_eq, hhigh,
    Nat.shiftRight_eq_div_pow, ← Nat.shiftLeft_add_eq_or_of_lt hlow, rotl, Nat.add_mod, hhigh, Nat.mod_eq_of_lt (a := a / 2 ^ (w - k))]
  · refine Nat.mod_eq_of_lt ?_
    have hle := Nat.mul_le_mul_right (2 ^ k) (Nat.mod_lt a (Nat.two_pow_pos (w - k)))
    rw [Nat.succ_mul, ← hsplit] at hle
    rw [Nat.shiftLeft_eq]
    omega
  · exact hlow.trans_le (Nat.pow_le_pow_right (by decide) hk.le)

theorem leadingZeros_eq (w a : Nat) : leadingZeros w a = w - a.size := by
  unfold leadingZeros
  split
  · next h => rw [h, Nat.size_zero, Nat.sub_zero]
  · next h =>
    have hsize : a.size = Nat.log2 a + 1 :=
      le_antisymm (Nat.size_le.2 Nat.lt_log2_self) (Nat.lt_size.2 (Nat.log2_self_le h))
    rw [hsize, Machine.log2]
    omega

theorem popCount_eq (w a : Nat) : popCount w a = (List.range w).countP (fun k => a.testBit k) := by
  rw [popCount, List.countP_eq_length_filter]

/-- BFX (R113). -/
theorem bitExtract_modEq (t : Ty) (a b : Nat) :
    let pos := b % 64 % t.bits
    let len := min (bitsOf b 8 7) (t.bits - pos)
    ((bitExtract t.bits t.signed a b : Nat) : Int) ≡
      (if len = 0 then 0 else if t.signed then (BitVec.ofNat len (bitsOf a pos len)).toInt else bitsOf a pos len)
      [ZMOD (2 ^ t.bits : Nat)] := by
  intro pos len
  have hp : packedField t.bits b = (pos, len) := rfl
  unfold bitExtract
  rw [hp]
  dsimp only
  split
  · exact Int.ModEq.refl _
  · next h =>
    split
    · rw [ofNat_toInt_eq_signed (Nat.pos_of_ne_zero h)]
      exact unsigned_modEq _ _
    · exact Int.ModEq.refl _

/-- The bits of a field that ends below W. -/
theorem field_lt {w pos len : Nat} (h : len ≤ w - pos) : (2 ^ len - 1) * 2 ^ pos < 2 ^ w := by
  rcases Nat.eq_zero_or_pos len with rfl | hl
  · simp
  · calc (2 ^ len - 1) * 2 ^ pos < 2 ^ len * 2 ^ pos :=
          Nat.mul_lt_mul_of_pos_right (Nat.sub_lt (Nat.two_pow_pos len) Nat.one_pos) (Nat.two_pow_pos pos)
      _ = 2 ^ (len + pos) := (Nat.pow_add 2 len pos).symm
      _ ≤ 2 ^ w := Nat.pow_le_pow_right (by decide) (by omega)

/-- BFI (R113). -/
theorem bitInsert_eq {w a c : Nat} (b : Nat) (hw : w ≤ 64) (hc : c < 2 ^ w) :
    let pos := b % 64 % w
    let len := min (bitsOf b 8 7) (w - pos)
    let m : BitVec 64 := BitVec.ofNat 64 ((2 ^ len - 1) * 2 ^ pos)
    bitInsert w a b c = ((BitVec.ofNat 64 c &&& ~~~m) ||| (BitVec.ofNat 64 (a * 2 ^ pos) &&& m)).toNat := by
  intro pos len m
  have hfit : (2 ^ len - 1) * 2 ^ pos < 2 ^ w := field_lt (Nat.min_le_right _ _)
  have hm : (2 ^ len - 1) * 2 ^ pos % 2 ^ w = (2 ^ len - 1) * 2 ^ pos := Nat.mod_eq_of_lt hfit
  show (c &&& (2 ^ w - 1 - (2 ^ len - 1) * 2 ^ pos % 2 ^ w)) |||
    (a * 2 ^ pos % 2 ^ w &&& (2 ^ len - 1) * 2 ^ pos % 2 ^ w) = _
  rw [hm, Nat.sub_sub, Nat.add_comm 1]
  apply Nat.eq_of_testBit_eq
  intro i
  rw [BitVec.testBit_toNat, Nat.testBit_or, Nat.testBit_and, Nat.testBit_and, Nat.testBit_two_pow_sub_succ hfit,
    Nat.testBit_mod_two_pow, BitVec.getLsbD_or, BitVec.getLsbD_and, BitVec.getLsbD_and, BitVec.getLsbD_not,
    BitVec.getLsbD_ofNat, BitVec.getLsbD_ofNat, BitVec.getLsbD_ofNat]
  by_cases hi : i < w
  · simp [hi, hi.trans_le hw]
  · have hle := Nat.pow_le_pow_right (show 0 < 2 by decide) (not_lt.1 hi)
    rw [Nat.testBit_lt_two_pow (hc.trans_le hle), Nat.testBit_lt_two_pow (hfit.trans_le hle)]
    simp

theorem intCond_eq (fn : Nat) (x y : Int) : intCond fn x y = (match fn with
    | 0 => decide (x = y) | 1 => decide (x ≠ y) | 2 => decide (x < y) | 3 => decide (x ≤ y) | 4 => decide (y < x)
    | _ => decide (y ≤ x)) := by
  unfold intCond
  split <;> simp [bne, Bool.beq_eq_decide_eq]

end Sys2Proof

/-! The scalar instructions (R110 to R118): what a source reads, and the result, flags and frame of each instruction. -/

namespace Sys2Proof

open Sys2Proof.Machine

/-! ### Sources (R96, R99, R110) -/

theorem unsigned_lt (w : Nat) (x : Int) : unsigned w x < 2 ^ w := by
  have hpos : (0 : Int) < (2 ^ w : Nat) := by exact_mod_cast Nat.two_pow_pos w
  have hlt := Int.emod_lt_of_pos x hpos
  rw [← cast_unsigned] at hlt
  exact_mod_cast hlt

theorem srcBits_lt (s : Machine.State) (ag : Agent) (w : Nat) (imm : BitVec 16) (o : Opnd) : s.srcBits ag w imm o < 2 ^ w := by
  cases o with
  | inl k => exact unsigned_lt w (inlineInt k)
  | _ => exact Nat.mod_lt _ (Nat.two_pow_pos w)

theorem toNat_modEq_toInt {n : Nat} (x : BitVec n) (h : 0 < n) : (x.toNat : Int) ≡ x.toInt [ZMOD (2 ^ n : Nat)] := by
  have hs := ofNat_toInt_eq_signed h x.toNat
  rw [BitVec.ofNat_toNat, BitVec.setWidth_eq] at hs
  rw [hs]
  exact (signed_modEq n x.toNat).symm

/-- `imm` as a source, sign-extended and cut to the width. -/
theorem imm_mod (imm : BitVec 16) {W : Nat} (hW : W ≤ 64) :
    (imm.signExtend 64).toNat % 2 ^ W = (imm.toInt % (2 ^ W : Nat)).toNat := by
  have hdvd : ((2 ^ W : Nat) : Int) ∣ (2 ^ 64 : Nat) := Int.natCast_dvd_natCast.2 (Nat.pow_dvd_pow 2 hW)
  have h := ((toNat_modEq_toInt (imm.signExtend 64) (by decide)).of_dvd hdvd)
  rw [BitVec.toInt_signExtend_of_le (by decide), Int.ModEq] at h
  rw [← h, ← Int.natCast_emod, Int.toNat_natCast]

theorem pair32_toNat (a b : W32) : (pair32 a.toNat b.toNat).toNat = a.toNat + 2 ^ 32 * b.toNat := by
  have ha := a.isLt
  have hb := b.isLt
  rw [pair32, BitVec.toNat_ofNat]
  omega

/-- Settles O18: the cases of `src`, a register by what `reg` reads. -/
theorem scalarOperandForms : Obligations.ScalarOperandForms := by
  rintro s ag W imm hW
  refine ⟨fun k => rfl, imm_mod imm (by rcases hW with rfl | rfl <;> decide), fun x => rfl, ?wave, ?thread, ?masks⟩
  case wave =>
    rintro w v n rfl hv
    show (s.reg (.wave w) (.s n) (W == 64)).toNat % 2 ^ W = _
    rcases hW with rfl | rfl
    · have hlt := (v.getS n.val).isLt
      simp [State.reg, hv, hlt]
    · rw [Nat.mod_eq_of_lt (BitVec.isLt _)]
      simp only [State.reg, hv, beq_self_eq_true, if_true, pair32_toNat]
  case thread =>
    rintro c k n rfl
    show (s.reg (.thread c k) (.q n) (W == 64)).toNat % 2 ^ W = _
    rcases hW with rfl | rfl <;> simp [State.reg]
  case masks =>
    intro v i hi
    rw [Wave.getS, if_neg (by omega), Nat.add_sub_cancel_left]
    rfl

/-! ### Integer instructions (Table 11-1, R113) -/

/-- A result written and gone past stands in its destination, and nothing else has changed (R110). -/
theorem putTy_retire {s : Machine.State} {ag : Agent} {k : ClauseKind} {o : Opnd} {t : Ty} {n : Nat} {x : Int} (m : Nat)
    (hi : s.issue = some ⟨ag, false⟩) (hp : ag.present s) (hf : ag.fits k) (ho : regOk k (t.bits == 64) o = true)
    (hx : (n : Int) ≡ x [ZMOD (2 ^ t.bits : Nat)]) :
    Holds ((s.putTy ag o t n).retire m .none) ag o t (BitVec.ofInt 64 (x % (2 ^ t.bits : Nat))) ∧
      Kept ag s ((s.putTy ag o t n).retire m .none) (dstRegs ag o (t.bits == 64)) [] false false := by
  unfold State.putTy
  rw [tyBits_eq, isSigned_eq, ofNat_eq_ofInt hx]
  have hkept := Kept.putReg ag s o (t.bits == 64) t.signed (BitVec.ofInt 64 (x % (2 ^ t.bits : Nat)))
    (dstRegs ag o (t.bits == 64)) [] false false (fun _ h => h)
  exact ⟨(holds_putReg s ag k o t _ hp hf ho).retire k m .none (by simpa using hi) (hkept.present hp) ho,
    kept_scalar s ag o _ _ _ m .none hi⟩

/-- What a clause asks of the destination of an integer, compare or move instruction. -/
theorem legal_int {k : ClauseKind} {i : Instr} {f : SF} {a b c : Nat} {x : Int} (hl : legal k i = true)
    (h : i.intResult a b c = some (f, x)) : f.ty.isInt4 = true ∧ regOk k (f.ty.bits == 64) f.dst = true := by
  cases i <;> cases h <;> simp_all [legal, Instr.view, legalS, legalInt, Ty.wide]

theorem bits_le_of_isInt4 {t : Ty} (h : t.isInt4 = true) : t.bits ≤ 64 := by cases t <;> simp_all [Ty.isInt4, Ty.bits]

theorem natCast_modEq {m n : Nat} (w : Nat) (h : m = n) : (m : Int) ≡ n [ZMOD (2 ^ w : Nat)] := h ▸ Int.ModEq.refl _

theorem toNat_modEq_ite (w : Nat) (q : Bool) : (q.toNat : Int) ≡ (if q then 1 else 0) [ZMOD (2 ^ w : Nat)] := by
  cases q <;> exact Int.ModEq.refl _

/-- Each integer instruction computes its row of Table 11-1 modulo 2^W. -/
theorem exec_int {i : Instr} {f : SF} {a b c : Nat} {x : Int} (s : Machine.State) (h : i.intResult a b c = some (f, x))
    (ht : f.ty.isInt4 = true) (ha : a < 2 ^ f.ty.bits) (hb : b < 2 ^ f.ty.bits) (hc : c < 2 ^ f.ty.bits) :
    ∃ op, Machine.exec i s = scalarInt f s op ∧
      ((op f.ty.bits f.ty.signed a b c : Nat) : Int) ≡ x [ZMOD (2 ^ f.ty.bits : Nat)] := by
  have hw := bits_pos f.ty
  cases i <;> cases h
  case iadd => exact ⟨fun _ _ a b _ => a + b, rfl, by rw [Nat.cast_add]⟩
  case isub => exact ⟨fun w _ a b _ => a + (2 ^ w - b % 2 ^ w), rfl, sub_modEq _ a b⟩
  case imul => exact ⟨fun _ _ a b _ => a * b, rfl, by rw [Nat.cast_mul]⟩
  case imulh =>
    refine ⟨fun w g a b _ => unsigned w (asInt w g a * asInt w g b / (2 ^ w : Nat)), rfl, ?_⟩
    dsimp only
    rw [asInt_eq_int, asInt_eq_int]
    exact unsigned_modEq _ _
  case imad => exact ⟨fun _ _ a b c => a * b + c, rfl, by rw [Nat.cast_add, Nat.cast_mul]⟩
  case idiv => exact ⟨fun w g a b _ => (divRem w g a b).1, rfl, (divRem_modEq f.ty hb).1⟩
  case irem => exact ⟨fun w g a b _ => (divRem w g a b).2, rfl, (divRem_modEq f.ty hb).2⟩
  case imin => exact ⟨fun w g a b _ => minMaxInt w g false a b, rfl, (minMaxInt_modEq f.ty a b).1⟩
  case imax => exact ⟨fun w g a b _ => minMaxInt w g true a b, rfl, (minMaxInt_modEq f.ty a b).2⟩
  case andS => exact ⟨fun _ _ a b _ => a &&& b, rfl, Int.ModEq.refl _⟩
  case orS => exact ⟨fun _ _ a b _ => a ||| b, rfl, Int.ModEq.refl _⟩
  case xorS => exact ⟨fun _ _ a b _ => a ^^^ b, rfl, Int.ModEq.refl _⟩
  case notS => exact ⟨fun w _ a _ _ => 2 ^ w - 1 - a, rfl, not_modEq ha⟩
  case shl => exact ⟨fun w _ a b _ => a * 2 ^ (b % w), rfl, natCast_modEq _ (Nat.shiftLeft_eq _ _).symm⟩
  case shr => exact ⟨fun w _ a b _ => a / 2 ^ (b % w), rfl, natCast_modEq _ (Nat.shiftRight_eq_div_pow _ _).symm⟩
  case sar => exact ⟨fun w _ a b _ => shiftSar w a (b % w), rfl, shiftSar_modEq hw a _⟩
  case rot => exact ⟨fun w _ a b _ => rotl w a (b % w), rfl, natCast_modEq _ (rotl_eq (Nat.mod_lt b hw) ha)⟩
  case clz => exact ⟨fun w _ a _ _ => leadingZeros w a, rfl, natCast_modEq _ (leadingZeros_eq _ a)⟩
  case popc => exact ⟨fun w _ a _ _ => popCount w a, rfl, natCast_modEq _ (popCount_eq _ a)⟩
  case bfx => exact ⟨fun w g a b _ => bitExtract w g a b, rfl, bitExtract_modEq f.ty a b⟩
  case bfi => exact ⟨fun w _ a b c => bitInsert w a b c, rfl, natCast_modEq _ (bitInsert_eq b (bits_le_of_isInt4 ht) hc)⟩
  case icmp =>
    refine ⟨fun w g a b _ => (intCond f.fn.toNat (asInt w g a) (asInt w g b)).toNat, rfl, ?_⟩
    dsimp only
    rw [asInt_eq_int, asInt_eq_int, intCond_eq]
    exact toNat_modEq_ite _ _
  case mov => exact ⟨fun _ _ a _ _ => a, rfl, Int.ModEq.refl _⟩

/-- Settles O15. -/
theorem scalarIntegerResult : Obligations.ScalarIntegerResult := by
  rintro i f x s ag ⟨hi, hp, k, hf, hl⟩ h
  obtain ⟨ht, ho⟩ := legal_int hl h
  obtain ⟨op, hexec, hop⟩ := exec_int s h ht (srcBits_lt _ _ _ _ _) (srcBits_lt _ _ _ _ _) (srcBits_lt _ _ _ _ _)
  refine ⟨_, hexec.trans ?_, putTy_retire (SF.nslot f) hi hp hf ho hop⟩
  simp only [scalarInt, issued, hi, tyBits_eq, isSigned_eq]

/-! ### SEL, LEA and MFS (Table 11-2, R117) -/

theorem putTy_retire_nat {s : Machine.State} {ag : Agent} {k : ClauseKind} {o : Opnd} {t : Ty} {n : Nat} (m : Nat)
    (hi : s.issue = some ⟨ag, false⟩) (hp : ag.present s) (hf : ag.fits k) (ho : regOk k (t.bits == 64) o = true)
    (hn : n < 2 ^ t.bits) :
    Holds ((s.putTy ag o t n).retire m .none) ag o t (BitVec.ofNat 64 n) ∧
      Kept ag s ((s.putTy ag o t n).retire m .none) (dstRegs ag o (t.bits == 64)) [] false false := by
  have h := putTy_retire m hi hp hf ho (Int.ModEq.refl (n : Int))
  rwa [← Int.natCast_emod, Nat.mod_eq_of_lt hn, BitVec.ofInt_natCast] at h

theorem legal_sel {k : ClauseKind} {f : SF} (h : legal k (.sel f) = true) : regOk k (f.ty.bits == 64) f.dst = true := by
  simp only [legal, Instr.view, legalS, Ty.wide, Bool.and_eq_true] at h
  simp [h]

theorem legal_lea {k : ClauseKind} {f : SF} (h : legal k (.lea f) = true) : regOk k true f.dst = true := by
  simp only [legal, Instr.view, legalS, Bool.and_eq_true] at h
  simp [h]

/-- The special registers of a wave clause have the same width in a handler clause. -/
theorem sprWidth_handler {n W : Nat} (h : sprWidth .wave n = some W) : sprWidth .handler n = some W := by
  simp only [sprWidth, reduceCtorEq, false_and, if_false, true_and] at h ⊢
  by_cases narrow : n = 0 ∨ n = 1 ∨ 3 ≤ n ∧ n ≤ 6
  · simpa only [if_pos narrow] using h
  · by_cases wide : n = 2 ∨ n = 7 ∨ n = 8
    · simpa only [if_neg narrow, if_pos wide] using h
    · simp [narrow, wide] at h

theorem sprBits_of_legal {ag : Agent} {k : ClauseKind} {n W : Nat} (hf : ag.fits k) (h : sprWidth k n = some W) :
    sprBits ag n = W := by
  unfold sprBits
  cases ag with
  | thread c t =>
    obtain rfl : k = .seq := hf
    simp [Agent.isThread, h]
  | wave w =>
    cases k with
    | seq => exact absurd rfl hf
    | wave => simp [Agent.isThread, sprWidth_handler h]
    | handler => simp [Agent.isThread, h]

theorem legal_mfs {ag : Agent} {k : ClauseKind} {f : SF} (hf : ag.fits k) (h : legal k (.mfs f) = true) :
    regOk k (sprBits ag f.imm.toNat == 64) f.dst = true := by
  simp only [legal, Instr.view, legalS] at h
  split at h
  · next W hW =>
    rw [sprBits_of_legal hf hW]
    simp only [Bool.and_eq_true] at h
    simp [h]
  · cases h

theorem ofNat_unsigned (x : Int) : BitVec.ofNat 64 (unsigned 64 x) = BitVec.ofInt 64 x := by
  rw [← BitVec.ofInt_natCast, cast_unsigned]
  apply BitVec.eq_of_toInt_eq
  rw [BitVec.toInt_ofInt, BitVec.toInt_ofInt]
  exact Int.emod_bmod _ _

/-- Settles O16: each result as `putReg` writes it. -/
theorem scalarSelectAndRead : Obligations.ScalarSelectAndRead := by
  refine fun s ag f => ⟨?sel, ?lea, ?mfs⟩
  case sel =>
    rintro ⟨hi, hp, k, hf, hl⟩ c
    refine ⟨_, ?_, putTy_retire_nat (SF.nslot f) hi hp hf (legal_sel hl) (srcBits_lt _ _ _ _ _)⟩
    show execSel f s = _
    simp only [execSel, issued, hi, tyBits_eq] <;> rfl
  case lea =>
    rintro ⟨hi, hp, k, hf, hl⟩
    have ho := legal_lea hl
    generalize hx : (s.srcBits ag 64 f.imm f.sa : Int) + f.ty.int (s.srcBits ag f.ty.bits f.imm f.sb) * 2 ^ f.fn.toNat +
      f.imm.toInt = x
    have hkept := Kept.putReg ag s f.dst true false (BitVec.ofInt 64 x) (dstRegs ag f.dst true) [] false false (fun _ h => h)
    refine ⟨(s.putReg ag f.dst true false (BitVec.ofInt 64 x)).retire (SF.nslot f) .none, ?_,
      (holds_putReg s ag k f.dst .n64 _ hp hf ho).retire k _ .none (by simpa using hi) (hkept.present hp) ho,
      kept_scalar s ag f.dst true false _ _ .none hi⟩
    show execLea f s = _
    simp only [execLea, issued, hi, tyBits_eq, isSigned_eq, asInt_eq_int, State.put64, ofNat_unsigned, ← hx, Nat.cast_pow,
      Nat.cast_ofNat]
  case mfs =>
    rintro ⟨hi, hp, k, hf, hl⟩
    have ho := legal_mfs hf hl
    have hkept := Kept.putReg ag s f.dst (sprBits ag f.imm.toNat == 64) false (s.spr ag f.imm.toNat)
      (dstRegs ag f.dst (sprBits ag f.imm.toNat == 64)) [] false false (fun _ h => h)
    refine ⟨(s.putReg ag f.dst (sprBits ag f.imm.toNat == 64) false (s.spr ag f.imm.toNat)).retire 1 .none, ?_, ?_,
      kept_scalar s ag f.dst _ false _ 1 .none hi⟩
    · show execMfs f s = _
      simp only [execMfs, issued, hi]
    · rw [reg_retire _ ag k f.dst _ 1 .none (by simpa using hi) (hkept.present hp) ho, reg_putReg s ag k f.dst _ _ _ hp hf ho]
      simp only [beq_iff_eq]

end Sys2Proof

/-! The scalar floating-point instructions (R78, R79, R115, R116): result, flags and arithmetic trap. -/

namespace Sys2Proof

open Sys2Proof.Machine

/-! ### `fpstat` of an agent -/

theorem fpstatOf_setFpstat (s : Machine.State) (ag : Agent) (x : W32) (hp : ag.present s) :
    (s.setFpstat ag x).fpstatOf ag = x := by
  cases ag with
  | thread c k => simp [State.setFpstat, State.fpstatOf]
  | wave w =>
    obtain ⟨v, hv⟩ := Option.isSome_iff_exists.1 hp
    simp [State.setFpstat, State.fpstatOf, hv]

theorem Kept.fpstatOf {ag : Agent} {s t : Machine.State} {a b : List Nat} {k : Bool} (h : Kept ag s t a b false k)
    (hp : ag.present s) : t.fpstatOf ag = s.fpstatOf ag := by
  cases ag with
  | thread c j => exact (h.thread c j rfl).fpstat rfl
  | wave w =>
    obtain ⟨v, hv⟩ := Option.isSome_iff_exists.1 hp
    obtain ⟨u, hu, hk⟩ := h.wave w v rfl hv
    simp only [State.fpstatOf, hu, hv, hk.fpstat rfl]

/-- An instruction may change `fpstat` where its frame allows it. -/
theorem Kept.withFlag {ag : Agent} {s t : Machine.State} {a b : List Nat} {k : Bool} (h : Kept ag s t a b false k) :
    Kept ag s t a b true k where
  bytes := h.bytes
  rest := h.rest
  waves := h.waves
  threads := h.threads
  wave w v e hv := by
    obtain ⟨u, hu, hk⟩ := h.wave w v e hv
    exact ⟨u, hu, { hk with fpstat := fun e => nomatch e }⟩
  thread c j e := { h.thread c j e with fpstat := fun e => nomatch e }

/-- Where no raised flag traps, the effect follows the flags in `fpstat` (R78). -/
theorem withFlags_of_no_trap {s : Machine.State} {ag : Agent} {fl : FFlags} (k : Machine.State → Machine.State)
    (h : trapsOn (s.fpstatOf ag) fl = false) :
    s.withFlags ag fl k = k (s.setFpstat ag (s.fpstatOf ag ||| fl.zeroExtend 32)) := by
  rw [State.withFlags, if_neg (by simp [h])]

/-- An effect that keeps `fpstat`, after the flags: they stand there. -/
theorem Kept.flagged {ag : Agent} {s t : Machine.State} {a b : List Nat} {k : Bool} {x : W32} (hp : ag.present s)
    (h : Kept ag (s.setFpstat ag x) t a b false k) : t.fpstatOf ag = x ∧ Kept ag s t a b true k := by
  have hset := Kept.setFpstat ag s x a b k
  exact ⟨(h.fpstatOf (hset.present hp)).trans (fpstatOf_setFpstat s ag x hp), hset.trans h.withFlag⟩

/-! ### The instructions -/

theorem legal_float {k : ClauseKind} {i : Instr} {f : SF} {x y z : FV} {r : Nat × FFlags} (hl : legal k i = true)
    (h : i.floatResult x y z = some (f, r)) : f.imm = 0 ∧ regOk k false f.dst = true := by
  cases i <;> cases h <;> simp_all [legal, Instr.view, legalS]

/-- Each scalar floating instruction takes its result and its flags from its sources, which read no `imm`. -/
theorem exec_float {i : Instr} {f : SF} {r : Nat × FFlags} {s : Machine.State} {ag : Agent} (hi : s.issue = some ⟨ag, false⟩)
    (h : i.floatResult (s.f32 ag f.sa) (s.f32 ag f.sb) (s.f32 ag f.sc) = some (f, r)) (himm : f.imm = 0) :
    Machine.exec i s = .next (s.withFlags ag r.2 (fun t => (t.put32 ag f.dst r.1).retire (SF.nslot f) .none)) := by
  cases i <;> cases h
  case sfadd =>
    show execSfadd f s = _
    simp only [execSfadd, scalarFloat, issued, hi, himm, State.f32]
  case sfmul =>
    show execSfmul f s = _
    simp only [execSfmul, scalarFloat, issued, hi, himm, State.f32]
  case sfma =>
    show execSfma f s = _
    simp only [execSfma, scalarFloat, issued, hi, himm, State.f32]
  case sfcmp =>
    show execSfcmp f s = _
    simp only [execSfcmp, scalarFloat, issued, hi, himm, State.f32]

theorem legal_scvt {k : ClauseKind} {f : SF} (h : legal k (.scvt f) = true) : regOk k (f.ty.bits == 64) f.dst = true := by
  simp only [legal, Instr.view, legalS] at h
  split at h
  · simp only [Bool.and_eq_true, Ty.wide] at h
    simp [h]
  · cases h

/-- A result of at most 64 bits reads whole from the register of its width. -/
theorem narrow_ofNat {t : Ty} (n : Nat) :
    (if (t.bits == 64) = true then BitVec.ofNat 64 (n % 2 ^ t.bits)
      else ((BitVec.ofNat 64 (n % 2 ^ t.bits)).truncate 32).zeroExtend 64) = BitVec.ofNat 64 (n % 2 ^ t.bits) := by
  split
  · rfl
  · next h =>
    have hlt : n % 2 ^ t.bits < 2 ^ 32 := by
      have hle : t.bits ≤ 32 := by cases t <;> simp_all [Ty.bits]
      exact (Nat.mod_lt _ (Nat.two_pow_pos _)).trans_le (Nat.pow_le_pow_right (by decide) hle)
    apply BitVec.eq_of_toNat_eq
    simp only [BitVec.truncate_eq_setWidth, BitVec.toNat_setWidth, BitVec.toNat_ofNat]
    omega

/-- Settles O19. -/
theorem scalarFloatResult : Obligations.ScalarFloatResult := by
  refine ⟨?arith, ?scvt⟩
  case arith =>
    rintro i f r s ag ⟨hi, hp, k, hf, hl⟩ h
    obtain ⟨himm, ho⟩ := legal_float hl h
    rw [exec_float hi h himm]
    refine ⟨fun ht => ?_, fun ht => by rw [withFlags_of_trap _ ht]⟩
    rw [withFlags_of_no_trap _ ht]
    have hset := Kept.setFpstat ag s (s.fpstatOf ag ||| r.2.zeroExtend 32) [] [] false
    have hput := put32_retire (x := r.1 % 2 ^ 32) (SF.nslot f) (by simpa using hi) (hset.present hp) hf ho (Nat.mod_lt _ (by decide))
    rw [State.put32, Nat.mod_mod] at hput
    exact ⟨_, rfl, hput.1, hput.2.flagged hp⟩
  case scvt =>
    rintro f st s ag ⟨hi, hp, k, hf, hl⟩ hst r
    have ho := legal_scvt hl
    have hexec : Machine.exec (.scvt f) s =
        .next (s.withFlags ag r.2 (fun t => (t.putTy ag f.dst f.ty r.1).retire (SF.nslot f) .none)) := by
      show execScvt f s = _
      simp only [execScvt, issued, hi, hst, Option.getD_some, r]
    rw [hexec]
    refine ⟨fun ht => ?_, fun ht => by rw [withFlags_of_trap _ ht]⟩
    rw [withFlags_of_no_trap _ ht]
    generalize hs1 : s.setFpstat ag (s.fpstatOf ag ||| r.2.zeroExtend 32) = s1
    have hkept : Kept ag s1 ((s1.putTy ag f.dst f.ty r.1).retire (SF.nslot f) .none) (dstRegs ag f.dst (f.ty.bits == 64)) []
        false false := by
      rw [State.putTy, tyBits_eq]
      exact kept_scalar s1 ag f.dst _ _ _ _ _ (by simpa [← hs1] using hi)
    refine ⟨_, rfl, ?_, by subst hs1; exact hkept.flagged hp⟩
    have hp1 : ag.present s1 := hs1 ▸ (Kept.setFpstat ag s _ [] [] false).present hp
    have hput := Kept.putReg ag s1 f.dst (f.ty.bits == 64) (isSigned f.ty) (BitVec.ofNat 64 (r.1 % 2 ^ f.ty.bits))
      (dstRegs ag f.dst (f.ty.bits == 64)) [] false false (fun _ h => h)
    rw [State.putTy, tyBits_eq, reg_retire _ ag k _ _ _ _ (by simpa [← hs1] using hi) (hput.present hp1) ho,
      reg_putReg _ ag k _ _ _ _ hp1 hf ho, narrow_ofNat]

end Sys2Proof

/-! MTS (R117, R118): what it writes to each special register. -/

namespace Sys2Proof

open Sys2Proof.Machine

/-! ### What keeps registers and special registers -/

theorem Kept.num {ag : Agent} {s t : Machine.State} {b : List Nat} {f k : Bool} (h : Kept ag s t [] b f k) (hp : ag.present s)
    {n : Nat} (hn : n < 64) : t.num ag n = s.num ag n := by
  cases ag with
  | thread c j => exact (h.thread c j rfl).q n (by simp)
  | wave w =>
    obtain ⟨v, hv⟩ := Option.isSome_iff_exists.1 hp
    obtain ⟨u, hu, hk⟩ := h.wave w v rfl hv
    simp only [State.num, hu, hv, hk.sreg n hn List.not_mem_nil]

/-- The special registers of a wave as `spr` reads them. -/
theorem spr_wave_congr {s t : Machine.State} {w : Nat} {v u : Wave} (hv : s.wave w = some v) (hu : t.wave w = some u)
    (hrest : t.rest = s.rest) (hbare : u.bare = v.bare) (hdepth : u.path.depth = v.path.depth) (hfp : u.fpstat = v.fpstat)
    (hrep : u.repctl = v.repctl) (n : Nat) : t.spr (.wave w) n = s.spr (.wave w) n := by
  have hcore : t.core = s.core := (congrArg Machine.State.core hrest :)
  have hseq : t.seqOf = s.seqOf := (congrArg Machine.State.seqOf hrest :)
  have halt : u.alt = v.alt := (congrArg Wave.alt hbare :)
  have hbase : u.dstkbase = v.dstkbase := (congrArg Wave.dstkbase hbare :)
  have hlen : u.dstklen = v.dstklen := (congrArg Wave.dstklen hbare :)
  have hdep : u.dstkdepth = v.dstkdepth := (congrArg Wave.dstkdepth hbare :)
  have hvc : u.core = v.core := (congrArg Wave.core hbare :)
  have hl : u.launch = v.launch := (congrArg Wave.launch hbare :)
  have hh : u.hreg = v.hreg := (congrArg Wave.hreg hbare :)
  simp only [State.spr, hv, hu, hcore, hseq, halt, hbase, hlen, hdep, hvc, hl, hh, hdepth, hfp, hrep]

theorem spr_thread_congr {s t : Machine.State} {c k : Nat} (hrest : t.rest = s.rest)
    (hbare : (t.thread c k).bare = (s.thread c k).bare) (hfp : (t.thread c k).fpstat = (s.thread c k).fpstat)
    (hrep : (t.thread c k).repctl = (s.thread c k).repctl) (n : Nat) : t.spr (.thread c k) n = s.spr (.thread c k) n := by
  have hclk : t.sch.clk = s.sch.clk := (congrArg (fun x : Machine.State => x.sch.clk) hrest :)
  have hseq : t.seqOf = s.seqOf := (congrArg Machine.State.seqOf hrest :)
  have hl : (t.thread c k).launch = (s.thread c k).launch := (congrArg Thread.launch hbare :)
  have hvec : (t.thread c k).tvec = (s.thread c k).tvec := (congrArg Thread.tvec hbare :)
  have hret : (t.thread c k).tret = (s.thread c k).tret := (congrArg Thread.tret hbare :)
  have hsrc : (t.thread c k).tsrc = (s.thread c k).tsrc := (congrArg Thread.tsrc hbare :)
  have hrec : (t.thread c k).trec = (s.thread c k).trec := (congrArg Thread.trec hbare :)
  simp only [State.spr, hclk, hseq, hl, hvec, hret, hsrc, hrec, hfp, hrep]

theorem Kept.spr {ag : Agent} {s t : Machine.State} {a b : List Nat} (h : Kept ag s t a b false false) (hp : ag.present s)
    (n : Nat) : t.spr ag n = s.spr ag n := by
  cases ag with
  | thread c j =>
    obtain ⟨hbare, -, hfp, hrep⟩ := h.thread c j rfl
    exact spr_thread_congr h.rest hbare (hfp rfl) (hrep rfl) n
  | wave w =>
    obtain ⟨v, hv⟩ := Option.isSome_iff_exists.1 hp
    obtain ⟨u, hu, hk⟩ := h.wave w v rfl hv
    exact spr_wave_congr hv hu h.rest hk.bare hk.depth (hk.fpstat rfl) (hk.repctl rfl) n

/-! ### A special register written (Table 11-3, Table 16-7, Table 27-4) -/

@[simp] theorem setSpr_issue (s : Machine.State) (ag : Agent) (n : Nat) (x : W64) : (s.setSpr ag n x).issue = s.issue := by
  cases ag with
  | wave w =>
    dsimp only [State.setSpr]
    split <;> rfl
  | thread c k =>
    dsimp only [State.setSpr]
    split <;> rfl

theorem setSpr_wave {s : Machine.State} {w : Nat} {v : Wave} (n : Nat) (x : W64) (hv : s.wave w = some v) :
    s.setSpr (.wave w) n x = s.setWave w (v.putSpr n x) := by
  simp only [State.setSpr, hv]

theorem setSpr_present {s : Machine.State} {ag : Agent} (n : Nat) (x : W64) (hp : ag.present s) : ag.present (s.setSpr ag n x) := by
  cases ag with
  | thread c k => trivial
  | wave w =>
    obtain ⟨v, hv⟩ := Option.isSome_iff_exists.1 hp
    simp [Agent.present, setSpr_wave n x hv]

theorem putSpr_sreg (v : Wave) (n : Nat) (x : W64) : (v.putSpr n x).sreg = v.sreg := by
  unfold Wave.putSpr
  split <;> rfl

theorem putSpr_path (v : Wave) (n : Nat) (x : W64) : (v.putSpr n x).path = v.path := by
  unfold Wave.putSpr
  split <;> rfl

theorem getS_putSpr (v : Wave) (n : Nat) (x : W64) (k : Nat) : (v.putSpr n x).getS k = v.getS k := by
  simp only [Wave.getS, putSpr_sreg, putSpr_path]

theorem num_setSpr (s : Machine.State) (ag : Agent) (n : Nat) (x : W64) (k : Nat) (hp : ag.present s) :
    (s.setSpr ag n x).num ag k = s.num ag k := by
  cases ag with
  | thread c j =>
    dsimp only [State.setSpr]
    split <;> simp [State.num, Thread.getQ]
  | wave w =>
    obtain ⟨v, hv⟩ := Option.isSome_iff_exists.1 hp
    simp only [setSpr_wave n x hv, State.num, State.setWave_wave_same, hv, getS_putSpr]

theorem Apart.ofSetWave (s : Machine.State) (w : Nat) (u : Wave) : Apart (.wave w) s (s.setWave w u) :=
  ⟨SameBytes.ofRest rfl, rfl, fun i hi => State.setWave_wave_other s w i u (fun e => hi (e ▸ rfl)), fun _ _ => rfl⟩

theorem Apart.ofSetThread (s : Machine.State) (c k : Nat) (h : Thread) : Apart (.thread c k) s (s.setThread c k h) :=
  ⟨SameBytes.ofRest rfl, rfl, fun _ _ => rfl, fun j hj => State.setThread_find_other s c k j h (fun e => hj (e ▸ rfl))⟩

theorem Apart.setSpr (s : Machine.State) (ag : Agent) (n : Nat) (x : W64) : Apart ag s (s.setSpr ag n x) := by
  cases ag with
  | thread c j =>
    dsimp only [State.setSpr]
    split
    case h_4 => exact (Kept.refl _ s [] [] false false).apart
    all_goals exact Apart.ofSetThread _ _ _ _
  | wave w =>
    dsimp only [State.setSpr]
    split
    · exact Apart.ofSetWave _ _ _
    · exact (Kept.refl _ s [] [] false false).apart

theorem seqOf_setThread (s : Machine.State) (c k : Nat) (h : Thread) (l : Nat) : (s.setThread c k h).seqOf l = s.seqOf l := rfl

/-- A write to one special register leaves the others, but that a shorter stack may lower its depth (R117). -/
theorem spr_setSpr_other {s : Machine.State} {ag : Agent} {n : Nat} (x : W64) (hp : ag.present s) {m : Nat} (hne : m ≠ n)
    (hdepth : ¬(n = 3 ∧ m = 4)) : (s.setSpr ag n x).spr ag m = s.spr ag m := by
  cases ag with
  | thread c j =>
    dsimp only [State.setSpr]
    split
    case h_4 => rfl
    all_goals
      dsimp only [State.spr]
      split <;> first | contradiction | simp [seqOf_setThread]
  | wave w =>
    obtain ⟨v, hv⟩ := Option.isSome_iff_exists.1 hp
    rw [setSpr_wave n x hv]
    unfold Wave.putSpr
    split
    all_goals
      simp only [State.spr, State.setWave_wave_same, hv]
      split <;> first | rfl | contradiction | simp_all

/-- A write to a read-only register changes nothing (R117). -/
theorem setSpr_readOnly {s : Machine.State} {ag : Agent} {n : Nat} (x : W64)
    (h : n ∈ [0, 1, 5, 7, 8, 0x102, 0x110, 0x111, 0x112, 0x113]) (hp : ag.present s) :
    (s.setSpr ag n x).spr ag n = s.spr ag n := by
  cases ag with
  | thread c j =>
    rw [setSpr_thread_eq_self_of_readOnly s c j x] <;> (rintro rfl; simp at h)
  | wave w =>
    obtain ⟨v, hv⟩ := Option.isSome_iff_exists.1 hp
    have hput : v.putSpr n x = v := by
      unfold Wave.putSpr
      split
      case h_9 => rfl
      all_goals simp at h
    rw [setSpr_wave n x hv, hput]
    simp only [State.spr, State.setWave_wave_same, hv]
    rfl

/-- The sticky flags are cleared where a 1 is written, the trap bits take the written ones (Table 07-3). -/
theorem zeroExtend_fpstatWrite (old : W32) (x : W64) :
    (fpstatWrite old (x.truncate 32)).zeroExtend 64 = (x &&& 0x1F0000) ||| (old.zeroExtend 64 &&& ~~~x &&& 0x1F) := by
  have htrap : (0x1F0000 : W64) = (0x1F0000 : W32).zeroExtend 64 := rfl
  have hflag : (0x1F : W64) = (0x1F : W32).zeroExtend 64 := rfl
  rw [htrap, hflag]
  apply BitVec.eq_of_getLsbD_eq
  intro i hi
  simp only [fpstatWrite, BitVec.truncate_eq_setWidth, BitVec.getLsbD_setWidth, BitVec.getLsbD_or, BitVec.getLsbD_and,
    BitVec.getLsbD_not, hi, decide_true, Bool.true_and]
  by_cases h32 : i < 32
  · simp [h32]
  · have hge : ∀ y : W32, y.getLsbD i = false := fun y => BitVec.getLsbD_of_ge y i (by omega)
    simp [h32, hge]

theorem truncate_zeroExtend_of_lt {x : W64} (h : x.toNat < 2 ^ 32) : (x.truncate 32).zeroExtend 64 = x := by
  apply BitVec.eq_of_toNat_eq
  simp only [BitVec.truncate_eq_setWidth, BitVec.toNat_setWidth]
  omega

/-- `fpstat` of any agent (Table 11-3). -/
theorem spr_setSpr_fpstat {s : Machine.State} {ag : Agent} (x : W64) (hp : ag.present s) :
    (s.setSpr ag 6 x).spr ag 6 = (x &&& 0x1F0000) ||| (s.spr ag 6 &&& ~~~x &&& 0x1F) := by
  cases ag with
  | thread c j =>
    simp only [State.setSpr, State.spr, State.setThread_thread_same]
    exact zeroExtend_fpstatWrite _ _
  | wave w =>
    obtain ⟨v, hv⟩ := Option.isSome_iff_exists.1 hp
    rw [setSpr_wave 6 x hv]
    simp only [State.spr, State.setWave_wave_same, hv]
    exact zeroExtend_fpstatWrite _ _

/-! ### The statement -/

/-- The wave registers of the divergence stack (Table 11-3). -/
theorem spr_setSpr_stack {s : Machine.State} {w : Nat} (x : W64) (hp : (Agent.wave w).present s) (hx : x.toNat < 2 ^ 32) :
    ((s.setSpr (.wave w) 3 x).spr (.wave w) 3 = x ∧
      ((s.setSpr (.wave w) 3 x).spr (.wave w) 4).toNat = min (s.spr (.wave w) 4).toNat x.toNat) ∧
    ((s.setSpr (.wave w) 4 x).spr (.wave w) 4).toNat = min x.toNat (s.spr (.wave w) 3).toNat := by
  obtain ⟨v, hv⟩ := Option.isSome_iff_exists.1 hp
  rw [setSpr_wave 3 x hv, setSpr_wave 4 x hv]
  simp only [State.spr, State.setWave_wave_same, hv, Wave.putSpr]
  have hmod : x.toNat % 2 ^ 32 = x.toNat := Nat.mod_eq_of_lt hx
  have hdep := v.dstkdepth.isLt
  have hlen := v.dstklen.isLt
  refine ⟨⟨truncate_zeroExtend_of_lt hx, ?_⟩, ?_⟩
  all_goals
    rw [hmod]
    split <;> simp only [BitVec.truncate_eq_setWidth, BitVec.toNat_setWidth] <;> omega

theorem sprBits_wave (w : Nat) {n : Nat} (h : n = 3 ∨ n = 4) : sprBits (.wave w) n = 32 := by
  rcases h with rfl | rfl <;> rfl

/-- Settles O21. -/
theorem specialRegisterWrites : Obligations.SpecialRegisterWrites := by
  rintro s ag f ⟨hi, hp, k, hf, hl⟩ n x
  have hpres := setSpr_present n x hp
  have hkept := Kept.retire ag (s.setSpr ag n x) (SF.nslot f) .none [] [] false false (by simpa using hi)
  have hexec : Machine.exec (.mts f) s = .next ((s.setSpr ag n x).retire (SF.nslot f) .none) := by
    show execMts f s = _
    simp only [execMts, issued, hi, n, x]
  have hspr := hkept.spr hpres
  refine ⟨_, hexec, (Apart.setSpr s ag n x).trans hkept.apart,
    fun j hj => (hkept.num hpres hj).trans (num_setSpr s ag n x j hp),
    fun m hm hd => (hspr m).trans (spr_setSpr_other x hp hm hd),
    fun hn => (hspr n).trans (setSpr_readOnly x hn hp), fun h6 => ?_, ?_⟩
  · rw [hspr, h6]
    exact spr_setSpr_fpstat x hp
  have hx : x.toNat < 2 ^ sprBits ag n := (Nat.mod_le _ _).trans_lt (srcBits_lt _ _ _ _ _)
  simp only [hspr]
  cases ag with
  | thread c j =>
    refine ⟨by simp [Agent.isThread], by simp [Agent.isThread], by simp [Agent.isThread], by simp [Agent.isThread],
      fun _ h => ?_, fun _ h => ?_⟩
    all_goals
      rw [h]
      simp only [State.setSpr, State.spr, State.setThread_thread_same]
  | wave w =>
    obtain ⟨v, hv⟩ := Option.isSome_iff_exists.1 hp
    refine ⟨fun _ h => ?base, fun _ h => ?len, fun _ h => ?depth, fun _ h => ?save, by simp [Agent.isThread],
      by simp [Agent.isThread]⟩
    case base =>
      rw [h, setSpr_wave _ x hv]
      simp only [State.spr, State.setWave_wave_same, Wave.putSpr]
    case len =>
      rw [h]
      exact (spr_setSpr_stack x hp (by rwa [sprBits_wave w (.inl h)] at hx)).1
    case depth =>
      rw [h]
      exact (spr_setSpr_stack x hp (by rwa [sprBits_wave w (.inr h)] at hx)).2
    case save =>
      simp only [List.mem_cons, List.not_mem_nil, or_false] at h
      rcases h with h | h | h | h
      all_goals
        rw [h, setSpr_wave _ x hv]
        simp [State.spr, Wave.putSpr]

end Sys2Proof

/-! Control transfers and mask combinations (R119, R120, R124). -/

namespace Sys2Proof

open Sys2Proof.Machine

/-! ### Going on at another clause (R90) -/

theorem pcOf_jump (s : Machine.State) (ag : Agent) (pc : BitVec 57) (w : Wait) (hp : ag.present s) :
    (s.jump ag pc w).pcOf ag = (pc, 1, (s.pcOf ag).2.2) := by
  simp only [State.jump, pcOf_stepped, pcOf_unlatch, pcOf_goto s ag pc w hp]

theorem regOk_pair {k : ClauseKind} {o : Opnd} (ho : regOk k true o = true) : ∀ n, o = .s n → true = true → n.val < 63 := by
  rintro n rfl -
  have hn := n.isLt
  simp only [regOk, Bool.not_true, Bool.false_or, Bool.and_eq_true, beq_iff_eq] at ho
  omega

theorem reg_jump {s : Machine.State} {ag : Agent} {k : ClauseKind} {o : Opnd} (pc : BitVec 57) (w : Wait) (hp : ag.present s)
    (ho : regOk k true o = true) : (s.jump ag pc w).reg ag o true = s.reg ag o true :=
  (Kept.jump ag s pc w [] [] false false).reg o true hp (regOk_pair ho)

/-- A transfer without a link (R119). -/
theorem jump_goes {s : Machine.State} {ag : Agent} {i : Instr} {pc : BitVec 57} (hp : ag.present s)
    (h : Machine.exec i s = .next (s.jump ag pc .none)) :
    ∃ t, Machine.exec i s = .next t ∧ (t.pcOf ag).1 = pc ∧ (t.pcOf ag).2.1 = 1 ∧ Kept ag s t [] [] false false := by
  refine ⟨_, h, ?_, ?_, Kept.jump ag s pc .none [] [] false false⟩ <;> rw [pcOf_jump s ag pc .none hp]

/-- A transfer with a link: the address of the clause that follows stands in the destination (R119). -/
theorem jump_links {s : Machine.State} {ag : Agent} {k : ClauseKind} {i : Instr} {f : SF} {pc : BitVec 57} (hp : ag.present s)
    (hf : ag.fits k) (ho : regOk k true f.dst = true)
    (h : Machine.exec i s = .next ((s.put64 ag f.dst (s.nextPc ag).toNat).jump ag pc .none)) :
    ∃ t, Machine.exec i s = .next t ∧ (t.pcOf ag).1 = pc ∧ (t.pcOf ag).2.1 = 1 ∧
      t.reg ag f.dst true = ((s.pcOf ag).1 + 64).zeroExtend 64 ∧ Kept ag s t (dstRegs ag f.dst true) [] false false := by
  have hput := Kept.putReg ag s f.dst true false (BitVec.ofNat 64 (s.nextPc ag).toNat) (dstRegs ag f.dst true) [] false false
    (fun _ h => h)
  have hpres := hput.present hp
  rw [State.put64] at h
  refine ⟨_, h, ?_, ?_, ?_, hput.trans (Kept.jump ag _ pc .none _ [] false false)⟩
  · rw [pcOf_jump _ ag pc .none hpres]
  · rw [pcOf_jump _ ag pc .none hpres]
  · rw [reg_jump pc .none hpres ho]
    refine (reg_putReg s ag k f.dst true false _ hp hf ho).trans ?_
    rw [if_pos rfl, BitVec.ofNat_toNat]
    rfl

/-! ### Targets (R119, R120) -/

theorem transfer_of_target {s : Machine.State} {ag : Agent} {f : SF} {pc : BitVec 57}
    (k : Agent → BitVec 57 → Machine.State) (hi : s.issue = some ⟨ag, false⟩) (h : s.target ag f = some pc) :
    transfer f s k = .next (k ag pc) := by
  simp only [transfer, issued, hi, h]

theorem transfer_of_no_target {s : Machine.State} {ag : Agent} {f : SF} (k : Agent → BitVec 57 → Machine.State)
    (hi : s.issue = some ⟨ag, false⟩) (h : s.target ag f = none) :
    transfer f s k = .next (s.trap ag 0x10 none 0 (s.reg ag f.sa true).toNat) := by
  simp only [transfer, issued, hi, h]

theorem legal_call {k : ClauseKind} {f : SF} (h : legal k (.call f) = true) : regOk k true f.dst = true := by
  simp only [legal, Instr.view, legalS, Bool.and_eq_true] at h
  simp [h]

theorem legal_callx {k : ClauseKind} {f : SF} (h : legal k (.callx f) = true) : regOk k true f.dst = true := by
  simp only [legal, Instr.view, legalS, Bool.and_eq_true] at h
  simp [h]

/-- A register names a target where it holds a clause address. -/
theorem target_of_reg {s : Machine.State} {ag : Agent} {f : SF} (hlit : ∀ n, f.sa ≠ .lit n) (himm : f.sa ≠ .imm) :
    s.target ag f = if fld (s.reg ag f.sa true) 63 57 = 0 ∧ fld (s.reg ag f.sa true) 5 0 = 0
      then some ((s.reg ag f.sa true).truncate 57) else none := by
  unfold State.target
  split
  · next h => exact absurd h himm
  · next n h => exact absurd h (hlit n)
  · simp only [and_comm]

theorem exec_transfer {s : Machine.State} {ag : Agent} {i : Instr} {f : SF} {pc : BitVec 57}
    (k : Agent → BitVec 57 → Machine.State) (hexec : Machine.exec i s = transfer f s k) (hi : s.issue = some ⟨ag, false⟩)
    (ht : s.target ag f = some pc) : Machine.exec i s = .next (k ag pc) :=
  hexec.trans (transfer_of_target k hi ht)

/-- The jumps of BR, BRX and RET, and the linked ones of CALL and CALLX. -/
def plainJump (s : Machine.State) (ag : Agent) (pc : BitVec 57) : Machine.State := s.jump ag pc .none

def linkedJump (f : SF) (s : Machine.State) (ag : Agent) (pc : BitVec 57) : Machine.State :=
  (s.put64 ag f.dst (s.nextPc ag).toNat).jump ag pc .none

/-- Settles O23: every transfer is a jump to its target, a call's after its link. -/
theorem controlTransfers : Obligations.ControlTransfers := by
  intro s ag f next goes links bad
  refine ⟨fun pc ht => ⟨?br, ?brx, ?ret, ?brc, ?call, ?callx⟩, fun ht => ⟨?badBrx, ?badCallx, ?badRet⟩, fun h => ?imm,
    fun x h => ?lit, target_of_reg⟩
  case br => exact fun ⟨hi, hp, _⟩ => jump_goes hp (exec_transfer (plainJump s) rfl hi ht)
  case brx => exact fun ⟨hi, hp, _⟩ => jump_goes hp (exec_transfer (plainJump s) rfl hi ht)
  case ret => exact fun ⟨hi, hp, _⟩ => jump_goes hp (exec_transfer (plainJump s) rfl hi ht)
  case brc =>
    rintro ⟨hi, hp, -⟩
    refine jump_goes hp ?_
    show execBrc f s = _
    rw [execBrc, transfer_of_target _ hi ht, tyBits_eq]
    rfl
  case call => exact fun ⟨hi, hp, _, hf, hl⟩ => jump_links hp hf (legal_call hl) (exec_transfer (linkedJump f s) rfl hi ht)
  case callx => exact fun ⟨hi, hp, _, hf, hl⟩ => jump_links hp hf (legal_callx hl) (exec_transfer (linkedJump f s) rfl hi ht)
  case badBrx => exact fun ⟨hi, _⟩ => transfer_of_no_target (plainJump s) hi ht
  case badCallx => exact fun ⟨hi, _⟩ => transfer_of_no_target (linkedJump f s) hi ht
  case badRet => exact fun ⟨hi, _⟩ => transfer_of_no_target (plainJump s) hi ht
  case imm => rw [State.target, h]
  case lit => rw [State.target, h]

/-! ### The place of an agent whose registers change (R90) -/

/-- The agent stands at the same place of the same clause. -/
def SamePlace (ag : Agent) (s t : Machine.State) : Prop := t.pcOf ag = s.pcOf ag ∧ t.codeOf ag = s.codeOf ag

theorem SamePlace.after {ag : Agent} {s s1 t : Machine.State} {n : Nat} (h : SamePlace ag s s1) (ha : After s1 t ag n) :
    After s t ag n := by
  obtain ⟨hpc, hcode⟩ := h
  have hn : s1.nslot ag = s.nslot ag := by rw [State.nslot, State.nslot, hcode]
  unfold After at ha ⊢
  rwa [hpc, hn] at ha

theorem SamePlace.trans {ag : Agent} {s t u : Machine.State} (h : SamePlace ag s t) (g : SamePlace ag t u) : SamePlace ag s u :=
  ⟨g.1.trans h.1, g.2.trans h.2⟩

theorem SamePlace.setWave {s : Machine.State} {w : Nat} {v u : Wave} (hv : s.wave w = some v) (halt : u.alt = v.alt)
    (hpc : u.path.pc = v.path.pc) (hslot : u.path.slot = v.path.slot) (hcode : u.path.code = v.path.code) :
    SamePlace (.wave w) s (s.setWave w u) := by
  constructor
  · simp only [State.pcOf, State.setWave_wave_same, hv, halt, hpc, hslot]
  · simp only [State.codeOf, State.setWave_wave_same, hv, hcode]

/-! ### Mask triples (R124) -/

/-- The three words of a mask in s(n) to s(n+2). -/
def Machine.Wave.putMask (v : Wave) (n : Nat) (m : Mask) : Wave :=
  ((v.putS n (maskWord m 0)).putS (n + 1) (maskWord m 1)).putS (n + 2) (maskWord m 2)

theorem putTriple_wave {s : Machine.State} {w : Nat} {v : Wave} (d : Fin 64) (m : Mask) (hv : s.wave w = some v) :
    s.putTriple (.wave w) (.s d) m = s.setWave w (v.putMask d.val m) := by
  simp only [State.putTriple, hv, Wave.putMask]

theorem triple_putMask (v : Wave) {n : Nat} (m : Mask) (hn : n ≤ 61) :
    maskOf ((v.putMask n m).getS n).toNat ((v.putMask n m).getS (n + 1)).toNat ((v.putMask n m).getS (n + 2)).toNat = m := by
  unfold Wave.putMask
  rw [Wave.getS_putS_same _ (n + 2) _ (by omega), Wave.getS_putS_other _ (n + 2) (n + 1) _ (by omega) (by omega),
    Wave.getS_putS_same _ (n + 1) _ (by omega), Wave.getS_putS_other _ (n + 2) n _ (by omega) (by omega),
    Wave.getS_putS_other _ (n + 1) n _ (by omega) (by omega), Wave.getS_putS_same _ n _ (by omega), maskOf_maskWord]

theorem WaveKept.putMask (v : Wave) (n : Nat) (m : Mask) : WaveKept v (v.putMask n m) [n, n + 1, n + 2] [] false false :=
  ((WaveKept.ofPutS _ _ _ _ _ _ _ (by simp)).trans (WaveKept.ofPutS _ _ _ _ _ _ _ (by simp))).trans
    (WaveKept.ofPutS _ _ _ _ _ _ _ (by simp))

theorem putMask_path (v : Wave) (n : Nat) (m : Mask) : ∃ x, (v.putMask n m).path = { v.path with mask := x } := by
  obtain ⟨x, hx⟩ := v.putS_path n (maskWord m 0)
  obtain ⟨y, hy⟩ := (v.putS n (maskWord m 0)).putS_path (n + 1) (maskWord m 1)
  obtain ⟨z, hz⟩ := ((v.putS n (maskWord m 0)).putS (n + 1) (maskWord m 1)).putS_path (n + 2) (maskWord m 2)
  exact ⟨z, by rw [Wave.putMask, hz, hy, hx]⟩

theorem legal_msk {k : ClauseKind} {f : SF} (h : legal k (.msk f) = true) : tripleOk f.dst = true := by
  simp only [legal, Instr.view, legalS, Bool.and_eq_true] at h
  simp [h]

/-- A triple of registers that stay reads as before. -/
theorem triple_retire {s : Machine.State} {w : Nat} {d : Fin 64} (n : Nat) (hi : s.issue = some ⟨.wave w, false⟩)
    (hp : (Agent.wave w).present s) (hd : d.val ≤ 61) :
    (s.retire n .none).triple (.wave w) (.s d) = s.triple (.wave w) (.s d) := by
  obtain ⟨v, hv⟩ := Option.isSome_iff_exists.1 hp
  obtain ⟨u, hu, hk⟩ := (Kept.retire (.wave w) s n .none [] [] false false hi).wave w v rfl hv
  have hreg : ∀ j, j < 64 → u.getS j = v.getS j := fun j hj => hk.sreg j hj List.not_mem_nil
  simp only [State.triple, hu, hv]
  rw [hreg _ (by omega), hreg _ (by omega), hreg _ (by omega)]

/-- Settles O25: the combination is written as three words, which read back as the mask. -/
theorem maskCombination : Obligations.MaskCombination := by
  rintro s w f d ⟨hi, hp, k, -, hl⟩ hd a b
  obtain ⟨v, hv⟩ := Option.isSome_iff_exists.1 hp
  have hle : d.val ≤ 61 := by simpa [hd, tripleOk] using legal_msk hl
  have hmid : (s.putTriple (.wave w) f.dst (maskOp f.fn.toNat a b)) = s.setWave w (v.putMask d.val (maskOp f.fn.toNat a b)) := by
    rw [hd, putTriple_wave d _ hv]
  generalize hm : maskOp f.fn.toNat a b = m at hmid
  have hkept := Kept.setWave hv (WaveKept.putMask v d.val m)
  have hpres := hkept.present hp
  have hi1 : (s.setWave w (v.putMask d.val m)).issue = some ⟨.wave w, false⟩ := hi
  obtain ⟨x, hx⟩ := putMask_path v d.val m
  have hplace : SamePlace (.wave w) s (s.setWave w (v.putMask d.val m)) :=
    SamePlace.setWave hv (congrArg Wave.alt (WaveKept.putMask v d.val m).bare :) (by rw [hx]) (by rw [hx]) (by rw [hx])
  refine ⟨(s.setWave w (v.putMask d.val m)).retire 1 .none, ?_, ?_, hkept.trans (Kept.retire _ _ _ _ _ _ _ _ hi1),
    hplace.after (after_retire _ _ 1 .none hi1 hpres)⟩
  · rw [← hmid, ← hm]
    show execMsk f s = _
    simp only [execMsk, issued, hi, a, b]
  · rw [hd, triple_retire 1 hi1 hpres hle]
    simp only [State.triple, State.setWave_wave_same, triple_putMask v m hle]
    rw [← hm]
    rfl

end Sys2Proof

/-! The vector instructions (R128 to R144): elements of a word, flags of the active lanes, and what a vector instruction
leaves in its destination. -/

namespace Sys2Proof

open Sys2Proof.Machine

/-! ### Elements of a word (R73, R129) -/

theorem ofElems_lt (w : Nat) (l : List Nat) : ofElems w l < 2 ^ (w * l.length) := by
  induction l with
  | nil => simp [ofElems]
  | cons e r ih =>
    have he := Nat.mod_lt e (Nat.two_pow_pos w)
    rw [ofElems, List.length_cons, Nat.mul_succ, Nat.add_comm (w * r.length) w, Nat.pow_add]
    calc e % 2 ^ w + 2 ^ w * ofElems w r < 2 ^ w + 2 ^ w * ofElems w r := Nat.add_lt_add_right he _
      _ = 2 ^ w * (ofElems w r + 1) := by ring
      _ ≤ 2 ^ w * 2 ^ (w * r.length) := Nat.mul_le_mul_left _ ih

theorem ofElems_elem (w : Nat) (l : List Nat) (j : Nat) (hj : j < l.length) :
    ofElems w l / 2 ^ (w * j) % 2 ^ w = l[j] % 2 ^ w := by
  induction l generalizing j with
  | nil => simp at hj
  | cons e r ih =>
    have hpos := Nat.two_pow_pos w
    cases j with
    | zero => simp [ofElems]
    | succ j =>
      have hdiv : (e % 2 ^ w + 2 ^ w * ofElems w r) / 2 ^ w = ofElems w r := by
        rw [Nat.add_mul_div_left _ _ hpos, Nat.div_eq_of_lt (Nat.mod_lt e hpos), Nat.zero_add]
      rw [ofElems, Nat.mul_succ, Nat.add_comm (w * j) w, Nat.pow_add, ← Nat.div_div_eq_div_mul, hdiv]
      exact ih j (by simpa using hj)

/-- Element j of a word put together from elements that fit it. -/
theorem elemOf_ofElems {w : Nat} {l : List Nat} {j : Nat} (hw : w * l.length ≤ 32) (hj : j < l.length) :
    elemOf (BitVec.ofNat 32 (ofElems w l)) w j = l[j] % 2 ^ w := by
  have hlt := (ofElems_lt w l).trans_le (Nat.pow_le_pow_right (by decide) hw)
  rw [elemOf, BitVec.toNat_ofNat, Nat.mod_eq_of_lt hlt, ofElems_elem w l j hj]

theorem elemOf_lt (x : W32) (w j : Nat) : elemOf x w j < 2 ^ w := Nat.mod_lt _ (Nat.two_pow_pos w)

theorem perLane_fits {w : Nat} (hw : w ≤ 32) : w * perLane w ≤ 32 := by
  unfold perLane
  split_ifs <;> omega

/-- The elements of a lane's result. -/
theorem elemOf_gather {w j : Nat} (g : Nat → Nat × FFlags) (hw : w ≤ 32) (hj : j < perLane w) :
    elemOf (gather w (perLane w) g).1 w j = (g j).1 % 2 ^ w := by
  have hfit := perLane_fits hw
  rw [gather, elemOf_ofElems (by simpa using hfit) (by simpa using hj)]
  simp

/-! ### Flags (R78, R129) -/

/-- A flag is set among some that are put together where one of them sets it. -/
theorem getLsbD_foldl_or {α : Type} (l : List α) (f : α → FFlags) (a : FFlags) (n : Nat) :
    (l.foldl (fun x i => x ||| f i) a).getLsbD n = true ↔ a.getLsbD n = true ∨ ∃ i ∈ l, (f i).getLsbD n = true := by
  induction l generalizing a with
  | nil => simp
  | cons i r ih =>
    rw [List.foldl_cons, ih]
    simp [or_assoc]

theorem getLsbD_flagsOf (v : Wave) (f : Nat → FFlags) (n : Nat) :
    (v.flagsOf f).getLsbD n = true ↔ ∃ l, l < 96 ∧ v.active l = true ∧ (f l).getLsbD n = true := by
  rw [Wave.flagsOf, getLsbD_foldl_or]
  simp [Wave.lanes, and_assoc]

theorem getLsbD_gather (w m : Nat) (g : Nat → Nat × FFlags) (n : Nat) :
    (gather w m g).2.getLsbD n = true ↔ ∃ j, j < m ∧ (g j).2.getLsbD n = true := by
  rw [gather, getLsbD_foldl_or]
  simp

/-- Flags are what their bits are. -/
theorem flags_ext {a b : FFlags} (h : ∀ n, a.getLsbD n = true ↔ b.getLsbD n = true) : a = b :=
  BitVec.eq_of_getLsbD_eq fun n _ => Bool.eq_iff_iff.2 (h n)

/-! ### A vector instruction (R39, R41, R129) -/

theorem WaveKept.putVec (v : Wave) (r : Nat) (x : Lanes) (f k : Bool) : WaveKept v (v.putVec r x) [] [r] f k where
  bare := rfl
  sreg _ _ _ := rfl
  vreg i hi := by
    have hne : r ≠ i := fun e => hi (by simp [e])
    simp [Wave.putVec, Wave.vec, hne]
  other := rfl
  st := rfl
  depth := rfl
  fpstat _ := rfl
  repctl _ := rfl
  stop _ := ⟨rfl, rfl⟩

/-- Going on in or outside a sweep changes the place of the agent, in one `repctl` too. -/
theorem Kept.retireIn (ag : Agent) (r : Bool) (s : Machine.State) (n : Nat) (w : Wait) (a b : List Nat) (f : Bool)
    (h : s.issue = some ⟨ag, r⟩) : Kept ag s (s.retire n w) a b f r := by
  cases r with
  | false => exact Kept.retire ag s n w a b f false h
  | true => exact Kept.retireSwept ag true s n w a b f h

/-- Where `fpstat` reads as before no flag has changed. -/
theorem Kept.sameFlags {ag : Agent} {s t : Machine.State} {a b : List Nat} {k : Bool} (h : Kept ag s t a b true k)
    (hfp : t.fpstatOf ag = s.fpstatOf ag) : Kept ag s t a b false k where
  bytes := h.bytes
  rest := h.rest
  waves := h.waves
  threads := h.threads
  wave w v e hv := by
    obtain ⟨u, hu, hk⟩ := h.wave w v e hv
    subst e
    exact ⟨u, hu, { hk with fpstat := fun _ => by simpa only [State.fpstatOf, hv, hu] using hfp }⟩
  thread c j e := by
    subst e
    exact { h.thread c j rfl with fpstat := fun _ => hfp }

/-- A vector instruction keeps what it need not change where its frame allows flags to change. -/
theorem LanesWritten.sameFlags {s t : Machine.State} {w : Nat} {v : Wave} {d : Opnd} {r : Bool} {n : Nat} {x : Nat → W32}
    (h : LanesWritten s t w v d r true n x) (hfp : t.fpstatOf (.wave w) = s.fpstatOf (.wave w)) :
    LanesWritten s t w v d r false n x :=
  ⟨h.lanes, h.kept.sameFlags hfp, h.place⟩

theorem fpstatOf_wave {s : Machine.State} {w : Nat} {v : Wave} (hv : s.wave w = some v) : s.fpstatOf (.wave w) = v.fpstat := by
  simp only [State.fpstatOf, hv]

theorem vector_of_trap {s : Machine.State} {w : Nat} {v : Wave} {d : Opnd} {regs : List Opnd}
    {op : Wave → Nat → W32 × FFlags} (hv : s.wave w = some v) (hr : (d :: regs).all (fun o => v.inRange o 0) = true)
    (ht : trapsOn v.fpstat (v.flagsOf (fun i => (op v i).2)) = true) :
    s.vector (.wave w) d regs op = s.trap (.wave w) 0x11 none (v.flagsOf (fun i => (op v i).2)).toNat 0 := by
  simp only [State.vector, hv, hr, if_true]
  exact withFlags_of_trap _ (by rwa [fpstatOf_wave hv])

theorem vector_of_range {s : Machine.State} {w : Nat} {v : Wave} {d : Opnd} {regs : List Opnd}
    {op : Wave → Nat → W32 × FFlags} (hv : s.wave w = some v) (hr : (d :: regs).all (fun o => v.inRange o 0) = false) :
    s.vector (.wave w) d regs op = s.trap (.wave w) 0x02 none 0 0 := by
  simp only [State.vector, hv, hr, Bool.false_eq_true, if_false]

theorem retire_fpstat {s : Machine.State} {w : Nat} {u : Wave} {r : Bool} {n : Nat} (hi : s.issue = some ⟨.wave w, r⟩)
    (hu : s.wave w = some u) : (s.retire n .none).fpstatOf (.wave w) = u.fpstat := by
  obtain ⟨x, hx, hk⟩ := (Kept.retireIn (.wave w) r s n .none [] [] false hi).wave w u rfl hu
  rw [fpstatOf_wave hx, hk.fpstat rfl]

/-- A wave with its flags and with new lanes in one vector register, gone on. -/
theorem lanes_written {s : Machine.State} {w : Nat} {v u : Wave} {r : Bool} {k : Fin 128} {n : Nat} {x : W32} {y : Nat → W32}
    (hi : s.issue = some ⟨.wave w, r⟩) (hv : s.wave w = some v) (hk : WaveKept { v with fpstat := x } u [] [k.val] false false)
    (hpath : u.path = v.path) (hy : ∀ l, l < 96 → u.lane k.val l = if v.path.mask.getLsbD l then y l else v.lane k.val l) :
    (((s.setFpstat (.wave w) x).setWave w u).retire n .none).fpstatOf (.wave w) = x ∧
      LanesWritten s (((s.setFpstat (.wave w) x).setWave w u).retire n .none) w v (.v k) r true n y := by
  have h1 := wave_setFpstat (s := s) (w := w) x hv
  have hi2 : ((s.setFpstat (.wave w) x).setWave w u).issue = some ⟨.wave w, r⟩ := by simpa using hi
  have hw2 := State.setWave_wave_same (s.setFpstat (.wave w) x) w u
  have hset := Kept.setFpstat (.wave w) s x [] [k.val] r
  have hkt : WaveKept { v with fpstat := x } u [] [k.val] true r :=
    { hk with fpstat := fun e => (nomatch e), repctl := fun _ => hk.repctl rfl }
  have hput : Kept (.wave w) (s.setFpstat (.wave w) x) ((s.setFpstat (.wave w) x).setWave w u) [] [k.val] true r :=
    Kept.setWave h1 hkt
  have halt : u.alt = v.alt := (congrArg Wave.alt hk.bare :)
  have hplace : SamePlace (.wave w) s ((s.setFpstat (.wave w) x).setWave w u) := by
    constructor
    · simp only [State.pcOf, hw2, hv, hpath, halt]
    · simp only [State.codeOf, hw2, hv, hpath]
  refine ⟨(retire_fpstat hi2 hw2).trans (hk.fpstat rfl), ?lanes, ?kept, ?place⟩
  case kept => exact (hset.trans hput).trans (Kept.retireIn _ r _ _ _ _ _ _ hi2)
  case place =>
    rintro rfl
    exact hplace.after (after_retire _ _ _ .none hi2 (by simp [Agent.present]))
  case lanes =>
    intro j z hj hz l hl
    cases hj
    obtain ⟨z', hz', hlane⟩ := lane_retire n hi2 hw2
    rw [hz'] at hz
    cases hz
    rw [hlane, hy l hl]

/-- What a vector instruction leaves: each active lane of its destination holds the result of that lane, formed from the
values before the instruction, and its flags are added to `fpstat`. -/
theorem vector_written {s : Machine.State} {w : Nat} {v : Wave} {r : Bool} {d : Opnd} {regs : List Opnd}
    {op : Wave → Nat → W32 × FFlags} (hi : s.issue = some ⟨.wave w, r⟩) (hv : s.wave w = some v) (hd : isV d = true)
    (hr : (d :: regs).all (fun o => v.inRange o 0) = true)
    (ht : trapsOn v.fpstat (v.flagsOf (fun i => (op v i).2)) = false) :
    (s.vector (.wave w) d regs op).fpstatOf (.wave w) = v.fpstat ||| (v.flagsOf (fun i => (op v i).2)).zeroExtend 32 ∧
      LanesWritten s (s.vector (.wave w) d regs op) w v d r true (nSlots regs) (fun l => (op v l).1) := by
  cases d with
  | v k =>
    generalize hfl : v.flagsOf (fun i => (op v i).2) = fl at ht
    generalize hx : v.fpstat ||| fl.zeroExtend 32 = x
    have hvec : s.vector (.wave w) (.v k) regs op = ((s.setFpstat (.wave w) x).setWave w
        (Wave.putVec { v with fpstat := x } k.val (Vector.ofFn (fun i : Fin 96 => (op v i.val).1)))).retire (nSlots regs) .none := by
      simp only [State.vector, hv, hr, if_true, State.withFlags, fpstatOf_wave hv, hfl, ht, Bool.false_eq_true, if_false,
        hx, wave_setFpstat x hv]
    rw [hvec]
    refine lanes_written hi hv (WaveKept.putVec _ _ _ _ _) rfl fun l hl => ?_
    rw [lane_putVec { v with fpstat := x } k _ ⟨l, hl⟩, Fin.getElem_fin, Vector.getElem_ofFn]
    rfl
  | _ => cases hd

/-- A vector instruction that raises no flag. -/
theorem vector_written_quiet {s : Machine.State} {w : Nat} {v : Wave} {r : Bool} {d : Opnd} {regs : List Opnd}
    {op : Wave → Nat → W32 × FFlags} (hi : s.issue = some ⟨.wave w, r⟩) (hv : s.wave w = some v) (hd : isV d = true)
    (hr : (d :: regs).all (fun o => v.inRange o 0) = true) (hq : v.flagsOf (fun i => (op v i).2) = 0) :
    LanesWritten s (s.vector (.wave w) d regs op) w v d r false (nSlots regs) (fun l => (op v l).1) := by
  obtain ⟨hfp, hw⟩ := vector_written (op := op) hi hv hd hr (by rw [hq, trapsOn_zero])
  refine hw.sameFlags ?_
  rw [hfp, hq, fpstatOf_wave hv]
  simp

end Sys2Proof

/-! The vector integer and move instructions (Table 12-2, R130). -/

namespace Sys2Proof

open Sys2Proof.Machine

/-! ### The operations -/

theorem width_numFmt (t : Ty) : (numFmt t false).width = t.bits := by cases t <;> rfl

theorem abs_signed_modEq {t : Ty} (h : t.signed = true) (a : Nat) :
    (((signed t.bits a).natAbs : Nat) : Int) ≡ |t.int a| [ZMOD (2 ^ t.bits : Nat)] := by
  rw [← asInt_eq_int, asInt, h, if_pos rfl, Int.natCast_natAbs]

/-- A value at the nearest end of its type's range (R75). -/
theorem clampInt_modEq (t : Ty) (x : Int) :
    ((clampInt t.bits t.signed x : Nat) : Int) ≡ t.clamp x [ZMOD (2 ^ t.bits : Nat)] := by
  unfold clampInt Ty.clamp
  refine (unsigned_modEq _ _).trans ?_
  have hpos : (0 : Int) < 2 ^ (t.bits - 1) := by positivity
  have hpos' : (0 : Int) < 2 ^ t.bits := by positivity
  push_cast
  have heq : (if (if t.signed = true then (2 : Int) ^ (t.bits - 1) - 1 else 2 ^ t.bits - 1) < x then
        (if t.signed = true then (2 : Int) ^ (t.bits - 1) - 1 else 2 ^ t.bits - 1)
      else if x < (if t.signed = true then -(2 : Int) ^ (t.bits - 1) else 0) then
        (if t.signed = true then -(2 : Int) ^ (t.bits - 1) else 0) else x) =
      if t.signed = true then max (-(2 : Int) ^ (t.bits - 1)) (min x (2 ^ (t.bits - 1) - 1)) else max 0 (min x (2 ^ t.bits - 1)) := by
    cases t.signed
    all_goals
      simp only [Bool.false_eq_true, if_false, if_true]
      split_ifs <;> omega
  rw [heq]

theorem sub_modEq_of_lt {w a b : Nat} (hb : b < 2 ^ w) : ((a + (2 ^ w - b) : Nat) : Int) ≡ (a : Int) - b [ZMOD (2 ^ w : Nat)] := by
  have h := sub_modEq w a b
  rwa [Nat.mod_eq_of_lt hb] at h

theorem natCast_ite_modEq (m : Nat) (p : Prop) [Decidable p] (a b : Nat) :
    ((if p then a else b : Nat) : Int) ≡ (if p then (a : Int) else b) [ZMOD m] := by
  rw [Nat.cast_ite]

/-- The types of the vector integer and move instructions (R130). -/
def Ty.inVInt (t : Ty) : Prop := t.isVInt = true ∨ t = .i32 ∨ t = .n32 ∨ t = .f32 ∨ t = .i16 ∨ t = .i8

theorem Ty.inVInt.bits_le {t : Ty} (h : t.inVInt) : t.bits ≤ 32 := by
  rcases h with h | rfl | rfl | rfl | rfl | rfl
  · cases t <;> simp_all [Ty.isVInt, Ty.bits]
  all_goals decide

/-- What a clause asks of a vector integer or move instruction. -/
theorem legal_laneInt {k : ClauseKind} {i : Instr} {f : VF} {a b c : Nat} {x : Int} (hl : legal k i = true)
    (h : i.laneInt a b c = some (f, x)) : isV f.dst = true ∧ f.ty.inVInt := by
  cases i <;> cases h <;> simp only [legal, Instr.view, legalV, VF.ops, Bool.and_eq_true, Bool.or_eq_true, beq_iff_eq] at hl <;>
    exact ⟨by simp [hl], by unfold Ty.inVInt; tauto⟩

theorem legal_viabs {k : ClauseKind} {f : VF} (hl : legal k (.viabs f) = true) : f.ty.signed = true := by
  simp only [legal, Instr.view, legalV, Bool.and_eq_true, Bool.or_eq_true, beq_iff_eq] at hl
  obtain ⟨-, -, ⟨-, (h | h) | h⟩, -⟩ := hl <;> rw [h] <;> rfl

/-- A number that stands for an element's result before it is taken modulo 2^W. -/
def Instr.elemIs (i : Instr) (t : Ty) (a b c n : Nat) : Prop :=
  ∀ f x, i.laneInt a b c = some (f, x) → (n : Int) ≡ x [ZMOD (2 ^ t.bits : Nat)]

theorem elemIs_of {i : Instr} {f : VF} {t : Ty} {a b c n : Nat} {x : Int} (hx : i.laneInt a b c = some (f, x))
    (h : (n : Int) ≡ x [ZMOD (2 ^ t.bits : Nat)]) : i.elemIs t a b c n := by
  rintro g y hy
  rw [hx] at hy
  cases hy
  exact h

/-- Each vector integer instruction computes its row of Table 12-2 modulo 2^W on the elements of a lane. -/
theorem exec_laneInt {k : ClauseKind} {i : Instr} {f : VF} {a0 b0 c0 : Nat} {x : Int} (s : Machine.State)
    (hl : legal k i = true) (h : i.laneInt a0 b0 c0 = some (f, x)) :
    ∃ op, Machine.exec i s = vecInt f s op ∧ ∀ a b c, a < 2 ^ f.ty.bits → b < 2 ^ f.ty.bits →
      i.elemIs f.ty a b c (op f.ty.bits f.ty.signed a b c) := by
  have hw := bits_pos f.ty
  cases i <;> cases h
  case viadd => exact ⟨fun _ _ a b _ => a + b, rfl, fun a b c _ _ => elemIs_of rfl (by rw [Nat.cast_add])⟩
  case visub => exact ⟨fun w _ a b _ => a + (2 ^ w - b), rfl, fun a b c _ hb => elemIs_of rfl (sub_modEq_of_lt hb)⟩
  case vimul =>
    refine ⟨fun w g a b _ => if f.fn = 0 then a * b else unsigned w (asInt w g a * asInt w g b / (2 ^ w : Nat)), rfl,
      fun a b c _ _ => elemIs_of rfl ?_⟩
    dsimp only
    rw [asInt_eq_int, asInt_eq_int]
    split
    · rw [Nat.cast_mul]
    · exact unsigned_modEq _ _
  case vimad => exact ⟨fun _ _ a b c => a * b + c, rfl, fun a b c _ _ => elemIs_of rfl (by rw [Nat.cast_add, Nat.cast_mul])⟩
  case vimin =>
    exact ⟨fun w g a b _ => minMaxInt w g false a b, rfl, fun a b c _ _ => elemIs_of rfl (minMaxInt_modEq f.ty a b).1⟩
  case vimax =>
    exact ⟨fun w g a b _ => minMaxInt w g true a b, rfl, fun a b c _ _ => elemIs_of rfl (minMaxInt_modEq f.ty a b).2⟩
  case viabs =>
    exact ⟨fun w _ a _ _ => (signed w a).natAbs, rfl, fun a b c _ _ => elemIs_of rfl (abs_signed_modEq (legal_viabs hl) a)⟩
  case viadds =>
    refine ⟨fun w g a b _ => clampInt w g (asInt w g a + asInt w g b), rfl, fun a b c _ _ => elemIs_of rfl ?_⟩
    dsimp only
    rw [asInt_eq_int, asInt_eq_int]
    exact clampInt_modEq _ _
  case visubs =>
    refine ⟨fun w g a b _ => clampInt w g (asInt w g a - asInt w g b), rfl, fun a b c _ _ => elemIs_of rfl ?_⟩
    dsimp only
    rw [asInt_eq_int, asInt_eq_int]
    exact clampInt_modEq _ _
  case vand => exact ⟨fun _ _ a b _ => a &&& b, rfl, fun a b c _ _ => elemIs_of rfl (Int.ModEq.refl _)⟩
  case vor => exact ⟨fun _ _ a b _ => a ||| b, rfl, fun a b c _ _ => elemIs_of rfl (Int.ModEq.refl _)⟩
  case vxor => exact ⟨fun _ _ a b _ => a ^^^ b, rfl, fun a b c _ _ => elemIs_of rfl (Int.ModEq.refl _)⟩
  case vnot => exact ⟨fun w _ a _ _ => 2 ^ w - 1 - a, rfl, fun a b c ha _ => elemIs_of rfl (not_modEq ha)⟩
  case vshl =>
    exact ⟨fun w _ a b _ => a * 2 ^ (b % w), rfl, fun a b c _ _ => elemIs_of rfl (natCast_modEq _ (Nat.shiftLeft_eq _ _).symm)⟩
  case vshr =>
    exact ⟨fun w _ a b _ => a / 2 ^ (b % w), rfl,
      fun a b c _ _ => elemIs_of rfl (natCast_modEq _ (Nat.shiftRight_eq_div_pow _ _).symm)⟩
  case vsar => exact ⟨fun w _ a b _ => shiftSar w a (b % w), rfl, fun a b c _ _ => elemIs_of rfl (shiftSar_modEq hw a _)⟩
  case vbfx => exact ⟨fun w g a b _ => bitExtract w g a b, rfl, fun a b c _ _ => elemIs_of rfl (bitExtract_modEq f.ty a b)⟩
  case vpopc => exact ⟨fun w _ a _ _ => popCount w a, rfl, fun a b c _ _ => elemIs_of rfl (natCast_modEq _ (popCount_eq _ a))⟩
  case vicmp =>
    refine ⟨fun w g a b _ => (intCond f.fn.toNat (asInt w g a) (asInt w g b)).toNat, rfl, fun a b c _ _ => elemIs_of rfl ?_⟩
    dsimp only
    rw [asInt_eq_int, asInt_eq_int, intCond_eq]
    exact toNat_modEq_ite _ _
  case vsel =>
    refine ⟨fun _ _ a b c => if c ≠ 0 then a else b, rfl, fun a b c _ _ => elemIs_of rfl ?_⟩
    rw [Nat.cast_ite]
  case vmov => exact ⟨fun _ _ a _ _ => a, rfl, fun a b c _ _ => elemIs_of rfl (Int.ModEq.refl _)⟩

theorem gather_quiet (w m : Nat) (g : Nat → Nat) : (gather w m (fun j => (g j, 0))).2 = 0 :=
  flags_ext fun n => by rw [getLsbD_gather]; simp

theorem flagsOf_quiet {v : Wave} {f : Nat → FFlags} (h : ∀ l, f l = 0) : v.flagsOf f = 0 := by
  rw [show f = fun _ => 0 from funext h, flagsOf_zero]

/-- The lane result of an integer instruction. -/
def intLane (f : VF) (op : Nat → Bool → Nat → Nat → Nat → Nat) (v : Wave) (l : Nat) : W32 × FFlags :=
  gather f.ty.bits (perLane f.ty.bits) (fun j =>
    (op f.ty.bits f.ty.signed (elemOf (v.src (numFmt f.ty false) f.sa l) f.ty.bits j)
      (elemOf (v.src (numFmt f.ty false) f.sb l) f.ty.bits j) (elemOf (v.src (numFmt f.ty false) f.sc l) f.ty.bits j), 0))

theorem vecInt_eq {s : Machine.State} {ag : Agent} {r : Bool} (f : VF) (op : Nat → Bool → Nat → Nat → Nat → Nat)
    (hi : s.issue = some ⟨ag, r⟩) : vecInt f s op = .next (s.vector ag f.dst [f.sa, f.sb, f.sc] (intLane f op)) := by
  simp only [vecInt, issued, hi, width_numFmt, isSigned_eq]
  rfl

/-- Settles O29. -/
theorem vectorIntegerResult : Obligations.VectorIntegerResult := by
  rintro i f x s w v r ⟨hi, hp, k, hf, hl⟩ hv hx hr
  obtain ⟨hd, hty⟩ := legal_laneInt hl (hx 0 0 0)
  obtain ⟨op, hexec, hop⟩ := exec_laneInt s hl (hx 0 0 0)
  refine ⟨_, fun l => (intLane f op v l).1, hexec.trans (vecInt_eq f op hi),
    vector_written_quiet hi hv hd hr (flagsOf_quiet fun l => gather_quiet _ _ _), ?_⟩
  intro l j _ hj e
  dsimp only
  rw [intLane, elemOf_gather _ hty.bits_le hj, Int.natCast_emod]
  exact hop _ _ _ (elemOf_lt _ _ _) (elemOf_lt _ _ _) f _ (hx _ _ _)

end Sys2Proof

/-! The vector floating-point instructions (R131 to R133, R139), the instructions that form one word per lane (R133 to R137,
R140, R141), VPACK and the dot products (R136, R138). -/

namespace Sys2Proof

open Sys2Proof.Machine

/-! ### Floating-point instructions -/

/-- What a clause asks of a vector floating instruction. -/
theorem legal_laneFloat {k : ClauseKind} {i : Instr} {f : VF} {a b c : Nat} {x : Nat × FFlags} (hl : legal k i = true)
    (h : i.laneFloat a b c = some (f, x)) : isV f.dst = true := by
  cases i <;> cases h <;> simp only [legal, Instr.view, legalV, VF.ops, Bool.and_eq_true] at hl <;> simp [hl]

theorem ffmt_width_le (t : Ty) : (ffmt t).width ≤ 32 := by cases t <;> decide

/-- What a clause asks of the type of a special function. -/
theorem legal_special {k : ClauseKind} {i : Instr} {f : VF} (hl : legal k i = true)
    (h : i ∈ [.rcpF32 f, .rsqF32 f, .exp2 f, .log2 f, .sinPi f, .cosPi f, .tanh f]) : f.ty = .f32 := by
  simp only [List.mem_cons, List.not_mem_nil, or_false] at h
  rcases h with rfl | rfl | rfl | rfl | rfl | rfl | rfl <;>
    (simp only [legal, Instr.view, legalV, Bool.and_eq_true, beq_iff_eq] at hl; simp [hl])

/-- The lane result of a floating instruction. -/
def floatLane (f : VF) (op : FFmt → Nat → Nat → Nat → Nat × FFlags) (v : Wave) (l : Nat) : W32 × FFlags :=
  gather (ffmt f.ty).width (perLane (ffmt f.ty).width) (fun j =>
    op (ffmt f.ty) (modify (ffmt f.ty) (f.neg.getLsbD 2) f.abs (elemOf (v.src (.fl (ffmt f.ty)) f.sa l) (ffmt f.ty).width j))
      (modify (ffmt f.ty) (f.neg.getLsbD 1) false (elemOf (v.src (.fl (ffmt f.ty)) f.sb l) (ffmt f.ty).width j))
      (modify (ffmt f.ty) (f.neg.getLsbD 0) false (elemOf (v.src (.fl (ffmt f.ty)) f.sc l) (ffmt f.ty).width j)))

theorem vecFloat_eq {s : Machine.State} {ag : Agent} {r : Bool} (f : VF) (op : FFmt → Nat → Nat → Nat → Nat × FFlags)
    (hi : s.issue = some ⟨ag, r⟩) : vecFloat f s op = .next (s.vector ag f.dst [f.sa, f.sb, f.sc] (floatLane f op)) := by
  simp only [vecFloat, issued, hi]
  rfl

/-- A result of a special function and its flags, formed as FP32 (R84). -/
def specialOp (fn : FV → FV × FFlags) (g : FFmt) (a _ _ : Nat) : Nat × FFlags :=
  ((g.round .even false (fn (g.value a)).1).1, (fn (g.value a)).2 ||| (g.round .even false (fn (g.value a)).1).2)

/-- Each vector floating instruction forms its elements as its row says. -/
theorem exec_laneFloat {k : ClauseKind} {i : Instr} {f : VF} {a0 b0 c0 : Nat} {x0 : Nat × FFlags} (s : Machine.State)
    (hl : legal k i = true) (h : i.laneFloat a0 b0 c0 = some (f, x0)) :
    ∃ op, Machine.exec i s = vecFloat f s op ∧ ∀ a b c x, i.laneFloat a b c = some (f, x) → op (ffmt f.ty) a b c = x := by
  have special : ∀ fn, f.ty = .f32 → ∀ a b c x, some (f, roundedF32 (fn ((ffmt .f32).value a))) = some (f, x) →
      specialOp fn (ffmt f.ty) a b c = x := by
    intro fn hty a b c x hx
    cases hx
    rw [hty]
    rfl
  cases i <;> cases h
  case vfadd => exact ⟨fun g a b _ => g.addOp f.sat (g.value a) (g.value b), rfl, fun a b c x hx => by cases hx; rfl⟩
  case vfsub => exact ⟨fun g a b _ => g.addOp f.sat (g.value a) (g.value b).negate, rfl, fun a b c x hx => by cases hx; rfl⟩
  case vfmul => exact ⟨fun g a b _ => g.mulOp f.sat (g.value a) (g.value b), rfl, fun a b c x hx => by cases hx; rfl⟩
  case vfma => exact ⟨fun g a b c => g.fmaOp f.sat (g.value a) (g.value b) (g.value c), rfl, fun a b c x hx => by cases hx; rfl⟩
  case vfmin => exact ⟨fun g a b _ => (g.minMax false a b, 0), rfl, fun a b c x hx => by cases hx; rfl⟩
  case vfmax => exact ⟨fun g a b _ => (g.minMax true a b, 0), rfl, fun a b c x hx => by cases hx; rfl⟩
  case vfcmp =>
    exact ⟨fun g a b _ => ((floatCond f.fn.toNat (g.value a) (g.value b)).toNat, 0), rfl, fun a b c x hx => by cases hx; rfl⟩
  case rcpF32 => exact ⟨specialOp fRcp, rfl, special fRcp (legal_special hl (by simp))⟩
  case rsqF32 => exact ⟨specialOp fRsq, rfl, special fRsq (legal_special hl (by simp))⟩
  case exp2 => exact ⟨specialOp fExp2, rfl, special fExp2 (legal_special hl (by simp))⟩
  case log2 => exact ⟨specialOp fLog2, rfl, special fLog2 (legal_special hl (by simp))⟩
  case sinPi => exact ⟨specialOp fSinPi, rfl, special fSinPi (legal_special hl (by simp))⟩
  case cosPi => exact ⟨specialOp fCosPi, rfl, special fCosPi (legal_special hl (by simp))⟩
  case tanh => exact ⟨specialOp fTanh, rfl, special fTanh (legal_special hl (by simp))⟩
  case rcpa => exact ⟨fun _ a _ _ => (rcpaSeed a, 0), rfl, fun a b c x hx => by cases hx; rfl⟩

/-- Settles O30. -/
theorem vectorFloatResult : Obligations.VectorFloatResult := by
  rintro i f x s w v r fl ⟨hi, hp, k, hf, hl⟩ hv hx hr g e res hfl
  have hd := legal_laneFloat hl (hx 0 0 0)
  obtain ⟨op, hexec, hop⟩ := exec_laneFloat s hl (hx 0 0 0)
  have hlane : ∀ l j, op g (e 2 f.abs f.sa l j) (e 1 false f.sb l j) (e 0 false f.sc l j) = res l j :=
    fun l j => hop _ _ _ _ (hx _ _ _)
  have hflags : v.flagsOf (fun l => (floatLane f op v l).2) = fl := by
    refine flags_ext fun n => ?_
    rw [getLsbD_flagsOf, hfl]
    simp only [floatLane, getLsbD_gather, ← hlane]
    exact ⟨fun ⟨l, h96, ha, j, hj, hb⟩ => ⟨l, j, h96, hj, ha, hb⟩, fun ⟨l, j, h96, hj, ha, hb⟩ => ⟨l, h96, ha, j, hj, hb⟩⟩
  rw [hexec, vecFloat_eq f op hi]
  refine ⟨fun ht => ?_, fun ht => by rw [vector_of_trap hv hr (by rwa [hflags]), hflags]⟩
  obtain ⟨hfp, hw⟩ := vector_written (op := floatLane f op) hi hv hd hr (by rwa [hflags])
  refine ⟨_, _, rfl, hflags ▸ hfp, hw, fun l j _ hj => ?_⟩
  rw [← hlane, floatLane, elemOf_gather _ (ffmt_width_le f.ty) hj]

/-! ### One word per lane -/

theorem sub_mod_eq_div_mul (l n : Nat) : l - l % n = l / n * n := by
  have := Nat.div_add_mod l n
  rw [Nat.mul_comm] at this
  omega

theorem sub_div_mul_eq_mod (l n : Nat) : l - l / n * n = l % n := by
  have := Nat.div_add_mod l n
  rw [Nat.mul_comm] at this
  omega

/-- What a clause asks of an instruction that forms one word per lane. -/
theorem legal_laneWord {k : ClauseKind} {i : Instr} {f : VF} {v : Wave} {l : Nat} {x : W32 × FFlags} (hl : legal k i = true)
    (h : i.laneWord v l = some (f, x)) : isV f.dst = true := by
  cases i <;> cases h <;> simp only [legal, Instr.view, legalV, VF.ops, Bool.and_eq_true] at hl <;> simp [hl]

theorem nSlots_none (o : Opnd) : nSlots [o, .none] = nSlots [o] := by cases o <;> rfl

/-- What a clause asks of a conversion's second source. -/
theorem legal_oneSource {k : ClauseKind} {i : Instr} {f : VF} (hl : legal k i = true) (h : i ∈ [.vfclass f, .vcvt f, .vunpk f]) :
    f.sb = .none := by
  simp only [List.mem_cons, List.not_mem_nil, or_false] at h
  rcases h with rfl | rfl | rfl <;>
    (simp only [legal, Instr.view, legalV, VF.ops, isNone, Bool.and_eq_true, beq_iff_eq, Nat.reduceLeDiff, if_false] at hl; simp [hl])

/-- The word that SHFL gives a lane (R140). -/
def shflLane (f : VF) (v : Wave) (i : Nat) : W32 × FFlags :=
  let nf : NumFmt := .int 32 false
  let w := shflWidth (f.aux.toNat % 8)
  let g := i / w * w
  let p := i - g
  let b := (v.src nf f.sb i).toNat
  let q : Int := match f.fn.toNat with
    | 0 => b | 1 => (p : Int) - b | 2 => (p : Int) + b | _ => ((p ^^^ b : Nat) : Int)
  (if 0 ≤ q ∧ q < w then v.src nf f.sa (g + q.toNat) else v.src nf f.sa i, 0)

/-- Each instruction that forms one word per lane is a vector instruction of those words. -/
theorem exec_laneWord {k : ClauseKind} {i : Instr} {f : VF} {v : Wave} {s : Machine.State} {w : Nat} {r : Bool} {x0 : W32 × FFlags}
    (hi : s.issue = some ⟨.wave w, r⟩) (hl : legal k i = true) (h : i.laneWord v 0 = some (f, x0)) :
    ∃ regs op, Machine.exec i s = .next (s.vector (.wave w) f.dst regs op) ∧
      (∀ l x, i.laneWord v l = some (f, x) → op v l = x) ∧ (regs = [f.sa, f.sb] ∨ regs = [f.sa] ∧ f.sb = .none) := by
  cases i <;> cases h
  case vfclass =>
    refine ⟨[f.sa], fun v l => (BitVec.ofNat 32 ((ffmt f.ty).classOf (elemOf (v.src (.fl (ffmt f.ty)) f.sa l) (ffmt f.ty).width 0)), 0),
      ?_, fun l x hx => by cases hx; rfl, .inr ⟨rfl, legal_oneSource hl (by simp)⟩⟩
    show execVfclass f s = _
    simp only [execVfclass, issued, hi]
  case vcvt =>
    refine ⟨[f.sa], fun v l =>
      (BitVec.ofNat 32 (laneConvert v (numFmt f.ty (f.aux.getLsbD 0)) (VF.st f (f.aux.getLsbD 1)) f.rm.toNat f.sat f.sa l).1,
        (laneConvert v (numFmt f.ty (f.aux.getLsbD 0)) (VF.st f (f.aux.getLsbD 1)) f.rm.toNat f.sat f.sa l).2),
      ?_, fun l x hx => by cases hx; rfl, .inr ⟨rfl, legal_oneSource hl (by simp)⟩⟩
    show execVcvt f s = _
    simp only [execVcvt, issued, hi]
  case vunpk =>
    refine ⟨[f.sa], fun v l => (BitVec.ofNat 32 (convert (numFmt f.ty false) (VF.st f (f.aux.getLsbD 3)) 0 0 false
        (elemOf (v.src (VF.st f (f.aux.getLsbD 3)) f.sa l) (VF.st f (f.aux.getLsbD 3)).width (f.aux.toNat % 8))).1, 0),
      ?_, fun l x hx => by cases hx; rfl, .inr ⟨rfl, legal_oneSource hl (by simp)⟩⟩
    show execVunpk f s = _
    simp only [execVunpk, issued, hi]
  case shfl =>
    refine ⟨[f.sa, f.sb], shflLane f, ?_, fun l x hx => ?_, .inl rfl⟩
    · show execShfl f s = _
      simp only [execShfl, issued, hi] <;> rfl
    · cases hx
      simp only [shflLane, sub_mod_eq_div_mul, sub_div_mul_eq_mod, apply_ite (v.src (.int 32 false) f.sa)] <;> rfl
  case bcast =>
    refine ⟨[f.sa, f.sb], fun v l => (v.src (.int 32 false) f.sa
      (if (v.src (.int 32 false) f.sb l).toNat < 96 then (v.src (.int 32 false) f.sb l).toNat else l), 0),
      ?_, fun l x hx => by cases hx; rfl, .inl rfl⟩
    show execBcast f s = _
    simp only [execBcast, issued, hi]

/-- Settles O31. -/
theorem vectorLaneWords : Obligations.VectorLaneWords := by
  rintro i f x s w v r fl ⟨hi, hp, k, hf, hl⟩ hv hx hr hfl
  have hd := legal_laneWord hl (hx 0)
  obtain ⟨regs, op, hexec, hop, hregs⟩ := exec_laneWord hi hl (hx 0)
  have hlane : op v = x := funext fun l => hop l _ (hx l)
  have hr' : (f.dst :: regs).all (fun o => v.inRange o 0) = true := by
    rcases hregs with rfl | ⟨rfl, -⟩
    · exact hr
    · simp only [List.all_cons, Bool.and_eq_true] at hr ⊢
      exact ⟨hr.1, hr.2.1, rfl⟩
  have hn : nSlots regs = nSlots [f.sa, f.sb] := by
    rcases hregs with rfl | ⟨rfl, hsb⟩
    · rfl
    · rw [hsb, nSlots_none]
  have hflags : v.flagsOf (fun l => (op v l).2) = fl := flags_ext fun n => by rw [getLsbD_flagsOf, hfl, hlane]
  rw [hexec]
  refine ⟨fun ht => ?_, fun ht => by rw [vector_of_trap hv hr' (by rwa [hflags]), hflags]⟩
  obtain ⟨hfp, hw⟩ := vector_written hi hv hd hr' (by rwa [hflags])
  rw [hn, hlane] at hw
  exact ⟨_, rfl, hflags ▸ hfp, hw⟩

end Sys2Proof

/-! VPACK and the dot products (R136, R138). -/

namespace Sys2Proof

open Sys2Proof.Machine

/-! ### VPACK -/

/-- The word that VPACK gives a lane (R136). -/
def packLane (f : VF) (d : Fin 128) (v : Wave) (l : Nat) : W32 × FFlags :=
  let dt := numFmt f.ty (f.aux.getLsbD 2)
  let x := laneConvert v dt (VF.st f false) f.rm.toNat f.sat f.sa l
  let y := laneConvert v dt (VF.st f false) f.rm.toNat f.sat f.sb l
  let h := f.aux.toNat % 4
  (BitVec.ofNat 32 (ofElems dt.width ((List.range (32 / dt.width)).map (fun j =>
    if j = 2 * h then x.1 else if j = 2 * h + 1 then y.1 else elemOf (v.lane d.val l) dt.width j))), x.2 ||| y.2)

theorem exec_vpack {s : Machine.State} {ag : Agent} {r : Bool} {f : VF} {d : Fin 128} (hi : s.issue = some ⟨ag, r⟩)
    (hd : f.dst = .v d) : Machine.exec (.vpack f) s = .next (s.vector ag f.dst [f.sa, f.sb] (packLane f d)) := by
  show execVpack f s = _
  simp only [execVpack, issued, hi, hd] <;> rfl

theorem elemOf_packLane (f : VF) (d : Fin 128) (v : Wave) (l : Nat) {j : Nat} :
    let dt := numFmt f.ty (f.aux.getLsbD 2)
    let h := f.aux.toNat % 4
    j < 32 / dt.width → elemOf (packLane f d v l).1 dt.width j =
      (if j = 2 * h then (laneConvert v dt (VF.st f false) f.rm.toNat f.sat f.sa l).1 % 2 ^ dt.width
        else if j = 2 * h + 1 then (laneConvert v dt (VF.st f false) f.rm.toNat f.sat f.sb l).1 % 2 ^ dt.width
        else elemOf (v.lane d.val l) dt.width j) := by
  intro dt h hj
  rw [packLane, elemOf_ofElems (by rw [List.length_map, List.length_range]; exact Nat.mul_div_le _ _)
    (by rwa [List.length_map, List.length_range])]
  simp only [List.getElem_map, List.getElem_range]
  split_ifs
  · rfl
  · rfl
  · exact Nat.mod_eq_of_lt (elemOf_lt _ _ _)

/-! ### Dot products -/

/-- The lane result of a dot product with elements of w bits (R138). -/
def dotLane (f : VF) (w : Nat) (ta tb : NumFmt) (v : Wave) (l : Nat) : W32 × FFlags :=
  let isInt := isIntTy f.ty
  let tc : NumFmt := if isInt then .int 32 true else .fl (ffmt .f32)
  let ks := List.range (32 / w)
  let a (k : Nat) : FV := ta.value (elemOf (v.src ta f.sa l) w k)
  let b (k : Nat) : FV := tb.value (elemOf (v.src tb f.sb l) w k)
  let c := (v.src tc f.sc l).toNat
  if isInt then
    let int (x : FV) : Int := match x with | .fin n m _ => if n then -(m : Int) else m | _ => 0
    let t := signed 32 c + ks.foldl (fun z k => z + int (a k) * int (b k)) 0
    (BitVec.ofNat 32 (if f.sat then clampInt 32 true t else unsigned 32 t), 0)
  else
    let x := dotFloat f.sat ((ffmt .f32).value c) (ks.map (fun k => (a k, b k)))
    (BitVec.ofNat 32 x.1, x.2)

theorem dot_eq {s : Machine.State} {ag : Agent} {r : Bool} (f : VF) (w : Nat) (ta tb : NumFmt) (hi : s.issue = some ⟨ag, r⟩) :
    dot f s w ta tb = .next (s.vector ag f.dst [f.sa, f.sb, f.sc] (dotLane f w ta tb)) := by
  simp only [dot, issued, hi] <;> rfl

/-- The integer that the value of a code of an integer format is. -/
def intOfFV (x : FV) : Int := match x with | .fin n m _ => if n then -(m : Int) else m | _ => 0

theorem intOfFV_value (w : Nat) (sgn : Bool) (hw : 0 < w) (b : Nat) :
    intOfFV ((NumFmt.int w sgn).value b) = (NumFmt.int w sgn).intOf b := by
  cases sgn with
  | false => simp [NumFmt.value, intOfFV, NumFmt.intOf]
  | true =>
    rw [NumFmt.intOf, ofNat_toInt_eq_signed hw]
    simp only [NumFmt.value, intOfFV, decide_eq_true_eq]
    split <;> omega

theorem foldl_add_eq_sum (l : List Nat) (g : Nat → Int) (a : Int) :
    l.foldl (fun z k => z + g k) a = a + (l.map g).sum := by
  induction l generalizing a with
  | nil => simp
  | cons k r ih => rw [List.foldl_cons, ih, List.map_cons, List.sum_cons, Int.add_assoc]

theorem signed_range {w : Nat} (hw : 0 < w) (a : Nat) : -(2 ^ (w - 1) : Nat) ≤ signed w a ∧ signed w a < (2 ^ (w - 1) : Nat) := by
  obtain ⟨n, rfl⟩ := Nat.exists_eq_succ_of_ne_zero hw.ne'
  have hlt := Nat.mod_lt a (Nat.two_pow_pos (n + 1))
  have h2 : 2 ^ (n + 1) = 2 * 2 ^ n := by rw [Nat.pow_succ, Nat.mul_comm]
  unfold signed
  simp only [Nat.succ_eq_add_one, Nat.add_sub_cancel]
  split <;> omega

/-- A sum that is clamped to INT32 reads as it was clamped (R75). -/
theorem signed_clampInt (x : Int) : signed 32 (clampInt 32 true x) = Ty.clamp .i32 x := by
  have hmod : signed 32 (clampInt 32 true x) ≡ Ty.clamp .i32 x [ZMOD (2 ^ 32 : Nat)] :=
    (signed_modEq 32 _).trans (clampInt_modEq .i32 x)
  have hrange := signed_range (w := 32) (by decide) (clampInt 32 true x)
  have hclamp : -(2 ^ 31 : Nat) ≤ Ty.clamp .i32 x ∧ Ty.clamp .i32 x < (2 ^ 31 : Nat) := by
    simp only [Ty.clamp, Ty.signed, Ty.bits, if_true]
    omega
  rw [Int.modEq_iff_dvd] at hmod
  obtain ⟨q, hq⟩ := hmod
  omega

/-- What a clause asks of a dot product. -/
theorem legal_dot4 {k : ClauseKind} {f : VF} (h : legal k (.dot4 f) = true) : isV f.dst = true ∧
    (isIntTy f.ty = true → ∃ sa sb, numFmt f.ty false = .int 8 sa ∧ VF.st f false = .int 8 sb) := by
  simp only [legal, Instr.view, legalV, VF.ops, Bool.and_eq_true] at h
  refine ⟨by simp [h], fun hi => ?_⟩
  obtain ⟨-, -, -, hty⟩ := h
  split at hty
  · next tb htb =>
    simp only [Bool.or_eq_true, Bool.and_eq_true, beq_iff_eq] at hty
    have hst : VF.st f false = numFmt tb false := by rw [VF.st, htb, Option.getD_some]
    rw [hst]
    rcases hty with ⟨h1 | h1, h2 | h2⟩ | ⟨h1 | h1, -⟩
    all_goals rw [h1] at hi ⊢
    · exact ⟨true, true, rfl, by rw [h2]; rfl⟩
    · exact ⟨true, false, rfl, by rw [h2]; rfl⟩
    · exact ⟨false, true, rfl, by rw [h2]; rfl⟩
    · exact ⟨false, false, rfl, by rw [h2]; rfl⟩
    · cases hi
    · cases hi
  · cases hty

theorem legal_dot8 {k : ClauseKind} {f : VF} (h : legal k (.dot8 f) = true) : isV f.dst = true ∧
    (isIntTy f.ty = true → ∃ sa sb, numFmt f.ty (f.aux.getLsbD 0) = .int 4 sa ∧ VF.st f (f.aux.getLsbD 1) = .int 4 sb) := by
  simp only [legal, Instr.view, legalV, VF.ops, Bool.and_eq_true] at h
  refine ⟨by simp [h], fun hi => ?_⟩
  obtain ⟨-, -, -, hty⟩ := h
  split at hty
  · simp only [Bool.or_eq_true, Bool.and_eq_true, beq_iff_eq] at hty
    rcases hty with ⟨-, haux⟩ | ⟨⟨h1, -⟩, -⟩
    · rw [haux]
      exact ⟨true, true, rfl, rfl⟩
    · rw [h1] at hi
      cases hi
  · cases hty

/-- The integer lane of a dot product (R138). -/
theorem dotLane_int {f : VF} {n : Nat} {sa sb : Bool} {v : Wave} {l : Nat} (hty : isIntTy f.ty = true) (hn : 0 < 32 / n) :
    let ta := NumFmt.int (32 / n) sa
    let tb := NumFmt.int (32 / n) sb
    let sum := signed 32 (v.src (.int 32 true) f.sc l).toNat + ((List.range (32 / (32 / n))).map (fun j =>
      ta.intOf (elemOf (v.src ta f.sa l) (32 / n) j) * tb.intOf (elemOf (v.src tb f.sb l) (32 / n) j))).sum
    (dotLane f (32 / n) ta tb v l).1.toInt = (if f.sat then Ty.clamp .i32 sum else signed 32 (unsigned 32 sum)) ∧
      (dotLane f (32 / n) ta tb v l).2 = 0 := by
  intro ta tb sum
  have hlane : dotLane f (32 / n) ta tb v l =
      (BitVec.ofNat 32 (if f.sat then clampInt 32 true sum else unsigned 32 sum), 0) := by
    have hsum : signed 32 (v.src (.int 32 true) f.sc l).toNat + (List.range (32 / (32 / n))).foldl (fun z k => z +
        intOfFV (ta.value (elemOf (v.src ta f.sa l) (32 / n) k)) * intOfFV (tb.value (elemOf (v.src tb f.sb l) (32 / n) k))) 0 = sum := by
      rw [foldl_add_eq_sum, Int.zero_add]
      simp only [ta, tb, intOfFV_value _ _ hn, sum]
    rw [← hsum]
    simp only [dotLane, hty, if_true] <;> rfl
  rw [hlane, ofNat_toInt_eq_signed (by decide)]
  refine ⟨?_, rfl⟩
  split
  · exact signed_clampInt sum
  · rfl

theorem dotLane_float {f : VF} {w : Nat} {ta tb : NumFmt} {v : Wave} {l : Nat} (hty : isIntTy f.ty = false) :
    let x := dotFloat f.sat ((ffmt .f32).value (v.src (.fl (ffmt .f32)) f.sc l).toNat)
      ((List.range (32 / w)).map (fun j => (ta.value (elemOf (v.src ta f.sa l) w j), tb.value (elemOf (v.src tb f.sb l) w j))))
    dotLane f w ta tb v l = (BitVec.ofNat 32 x.1, x.2) := by
  simp only [dotLane, hty, Bool.false_eq_true, if_false]

/-- Settles O32. -/
theorem packAndDotProducts : Obligations.PackAndDotProducts := by
  refine ⟨?pack, ?dots⟩
  case pack =>
    rintro f d s w v r ⟨hi, hp, k, hf, hl⟩ hv hd hr dt h cv fl
    have hfl : v.flagsOf (fun l => (packLane f d v l).2) = fl := rfl
    rw [exec_vpack hi hd]
    refine ⟨fun ht => ?_, fun ht => by rw [vector_of_trap hv hr (by rwa [hfl]), hfl]⟩
    obtain ⟨hfp, hw⟩ := vector_written (op := packLane f d) hi hv (by rw [hd]; rfl) hr (by rwa [hfl])
    exact ⟨_, _, rfl, hfl ▸ hfp, hw, fun l j _ => elemOf_packLane f d v l⟩
  case dots =>
    rintro i f n ta tb s w v r ⟨hi, hp, k, hf, hl⟩ hv hr hform elem C
    obtain ⟨hn, hd, hint, hexec⟩ : (n = 4 ∨ n = 8) ∧ isV f.dst = true ∧
        (isIntTy f.ty = true → ∃ sa sb, ta = .int (32 / n) sa ∧ tb = .int (32 / n) sb) ∧
        Machine.exec i s = .next (s.vector (.wave w) f.dst [f.sa, f.sb, f.sc] (dotLane f (32 / n) ta tb)) := by
      rcases hform with ⟨rfl, rfl, rfl, rfl⟩ | ⟨rfl, rfl, rfl, rfl⟩
      · exact ⟨.inl rfl, (legal_dot4 hl).1, (legal_dot4 hl).2, dot_eq f 8 _ _ hi⟩
      · exact ⟨.inr rfl, (legal_dot8 hl).1, (legal_dot8 hl).2, dot_eq f 4 _ _ hi⟩
    have hnn : 32 / (32 / n) = n := by rcases hn with rfl | rfl <;> rfl
    have hpos : 0 < 32 / n := by rcases hn with rfl | rfl <;> decide
    rw [hexec]
    refine ⟨fun hty => ?_, ?_⟩
    · obtain ⟨sa, sb, rfl, rfl⟩ := hint hty
      have hlane := fun l => dotLane_int (f := f) (n := n) (sa := sa) (sb := sb) (v := v) (l := l) hty hpos
      rw [hnn] at hlane
      refine ⟨_, _, rfl, vector_written_quiet hi hv hd hr (flagsOf_quiet fun l => (hlane l).2), fun l _ => ?_⟩
      simp only [C, hty, if_true]
      exact (hlane l).1
    · intro hty x fl
      have hlane : dotLane f (32 / n) ta tb v = fun l => (BitVec.ofNat 32 (x l).1, (x l).2) := by
        funext l
        rw [dotLane_float hty, hnn]
        simp only [x, C, hty, Bool.false_eq_true, if_false] <;> rfl
      have hfl : v.flagsOf (fun l => (dotLane f (32 / n) ta tb v l).2) = fl := by rw [hlane]
      refine ⟨fun ht => ?_, fun ht => by rw [vector_of_trap hv hr (by rwa [hfl]), hfl]⟩
      obtain ⟨hfp, hw⟩ := vector_written (op := dotLane f (32 / n) ta tb) hi hv hd hr (by rwa [hfl])
      rw [hlane] at hw
      exact ⟨_, rfl, hfl ▸ hfp, hw⟩

end Sys2Proof

/-! Reductions, scans, BALLOT and TOPK (R142 to R144), and where vector instructions stop (R40, R128). -/

namespace Sys2Proof

open Sys2Proof.Machine

/-! ### One lane of a register at a time -/

theorem lane_putLane (v : Wave) (r i : Nat) (x : W32) (r' l : Nat) (hr : r < 128) (hi : i < 96) :
    (v.putLane r i x).lane r' l = if r = r' ∧ i = l then x else v.lane r' l := by
  rw [lane_eq_vec, lane_eq_vec]
  by_cases h : r = r'
  · subst h
    by_cases h2 : i = l
    · subst h2
      simp [Wave.putLane, Wave.vec, hr, hi]
    · simp [Wave.putLane, Wave.vec, hr, h2]
  · simp [Wave.putLane, Wave.vec, h]

theorem WaveKept.putLane (v : Wave) (r i : Nat) (x : W32) (b : List Nat) (f k : Bool) (hr : r ∈ b) :
    WaveKept v (v.putLane r i x) [] b f k where
  bare := rfl
  sreg _ _ _ := rfl
  vreg j hj := by
    have hne : r ≠ j := fun e => hj (e ▸ hr)
    simp [Wave.putLane, Wave.vec, hne]
  other := rfl
  st := rfl
  depth := rfl
  fpstat _ := rfl
  repctl _ := rfl
  stop _ := ⟨rfl, rfl⟩

/-- Lanes written one after another, each with a value of its own. -/
def putLanes (v : Wave) (r : Nat) (l : List Nat) (y : Nat → W32) : Wave := l.foldl (fun z i => z.putLane r i (y i)) v

theorem WaveKept.putLanes (v : Wave) (r : Nat) (l : List Nat) (y : Nat → W32) (f k : Bool) :
    WaveKept v (putLanes v r l y) [] [r] f k := by
  induction l generalizing v with
  | nil => exact WaveKept.refl v [] [r] f k
  | cons i l ih => exact (WaveKept.putLane v r i (y i) [r] f k (by simp)).trans (ih _)

theorem putLanes_path (v : Wave) (r : Nat) (l : List Nat) (y : Nat → W32) : (putLanes v r l y).path = v.path := by
  induction l generalizing v with
  | nil => rfl
  | cons i l ih => exact (ih _).trans rfl

theorem lane_putLanes (v : Wave) {r : Nat} (hr : r < 128) {l : List Nat} (hl : ∀ i ∈ l, i < 96) (y : Nat → W32) (j : Nat) :
    (putLanes v r l y).lane r j = if j ∈ l then y j else v.lane r j := by
  induction l generalizing v with
  | nil => simp [putLanes]
  | cons i l ih =>
    have hi := hl i (by simp)
    have h := ih (v.putLane r i (y i)) (fun k hk => hl k (by simp [hk]))
    rw [show Sys2Proof.putLanes v r (i :: l) y = Sys2Proof.putLanes (v.putLane r i (y i)) r l y from rfl, h,
      lane_putLane v r i (y i) r j hr hi]
    by_cases hj : i = j
    · subst hj
      simp
    · simp [hj, Ne.symm hj]

theorem mem_lanes (v : Wave) (l : Nat) : l ∈ v.lanes ↔ l < 96 ∧ v.active l = true := by simp [Wave.lanes]

theorem lanes_sorted (v : Wave) : v.lanes.Pairwise (· < ·) := List.Pairwise.filter _ List.pairwise_lt_range

/-! ### VRED (R142) -/

theorem reg_retireIn {s : Machine.State} {w : Nat} {d : Fin 64} {r : Bool} (n : Nat) (hi : s.issue = some ⟨.wave w, r⟩)
    (hp : (Agent.wave w).present s) : (s.retire n .none).reg (.wave w) (.s d) false = s.reg (.wave w) (.s d) false :=
  (Kept.retireIn (.wave w) r s n .none [] [] false hi).reg (.s d) false hp (fun _ _ h => nomatch h)

/-- The value of the fixed tree and its flags (R142). -/
def redValue (f : VF) (v : Wave) : Nat × FFlags :=
  (reduceTree (redStep f.fn.toNat (isSigned f.ty)) ((List.range 128).map (fun p => if p < 96 ∧ v.active p then
    some ((v.src (numFmt f.ty false) f.sa p).toNat, (0 : FFlags)) else none))).getD (redIdentity f.fn.toNat (isSigned f.ty), 0)

/-- What follows the flags of VRED. -/
def putRed (f : VF) (w x : Nat) (t : Machine.State) : Machine.State :=
  match t.wave w, f.dst with
  | some u, .v d => (t.setWave w (u.putVec d.val (Vector.replicate 96 (BitVec.ofNat 32 x)))).retire (nSlots [f.sa]) .none
  | _, _ => (t.put32 (.wave w) f.dst x).retire (nSlots [f.sa]) .none

theorem exec_vred {s : Machine.State} {w : Nat} {v : Wave} {r : Bool} {f : VF} (hi : s.issue = some ⟨.wave w, r⟩)
    (hv : s.wave w = some v) (hd : v.inRange f.dst 0 = true) (ha : v.inRange f.sa 0 = true) :
    Machine.exec (.vred f) s =
      .next (s.withFlags (.wave w) (redValue f v).2 (putRed f w (canonOf f.fn.toNat (redValue f v).1))) := by
  show execVred f s = _
  simp only [execVred, issued, hi, hv, hd, ha, Bool.and_self, if_true] <;> rfl

/-! ### VSCAN (R142) -/

/-- The value so far of a scan, after one more lane. -/
def accStep (step : Nat → Nat → Nat × FFlags) (a : Nat → Nat) (x : Option Nat) (k : Nat) : Option Nat :=
  some (match x with | none => a k | some y => (step y (a k)).1)

/-- The lanes that a lane's result of a scan covers. -/
def upTo (excl : Bool) (l : List Nat) (i : Nat) : List Nat := l.filter (fun k => if excl then decide (k < i) else decide (k ≤ i))

theorem upTo_head (excl : Bool) {i : Nat} {r : List Nat} (h : ∀ k ∈ r, i < k) :
    upTo excl (i :: r) i = if excl then [] else [i] := by
  cases excl with
  | true => simp [upTo]; exact fun k hk => (h k hk).le
  | false => simp [upTo]; exact h

theorem upTo_tail (excl : Bool) {i j : Nat} {r : List Nat} (h : i < j) : upTo excl (i :: r) j = i :: upTo excl r j := by
  cases excl
  · simp [upTo, h.le]
  · simp [upTo, h]

/-- A scan over lanes in increasing order gives each the fold over those up to it, or before it. -/
theorem scanLanes_values (step : Nat → Nat → Nat × FFlags) (a : Nat → Nat) (excl : Bool) (ident : Nat) (l : List Nat)
    (acc : Option Nat) (h : l.Pairwise (· < ·)) :
    (scanLanes step a excl ident l acc).1 =
      l.map (fun i => (i, ((upTo excl l i).foldl (accStep step a) acc).getD ident)) := by
  induction l generalizing acc with
  | nil => rfl
  | cons i r ih =>
    obtain ⟨hi, hr⟩ := List.pairwise_cons.1 h
    obtain ⟨z, hz, hscan⟩ : ∃ z, accStep step a acc i = some z ∧ (scanLanes step a excl ident (i :: r) acc).1 =
        (i, if excl then acc.getD ident else z) :: (scanLanes step a excl ident r (some z)).1 := by
      cases acc <;> exact ⟨_, rfl, rfl⟩
    rw [hscan, ih (some z) hr, List.map_cons, upTo_head excl hi]
    congr 1
    · cases excl
      · simp [hz]
      · simp
    · refine List.map_congr_left fun j hj => ?_
      rw [upTo_tail excl (hi j hj), List.foldl_cons, hz]

/-- The scan of an instruction over the active lanes. -/
def scanValue (f : VF) (v : Wave) : List (Nat × Nat) × FFlags :=
  scanLanes (redStep f.fn.toNat (isSigned f.ty)) (fun i => (v.src (numFmt f.ty false) f.sa i).toNat) (f.aux.getLsbD 0)
    (redIdentity f.fn.toNat (isSigned f.ty)) v.lanes none

/-- The value that a scan gives lane i. -/
def scanAt (f : VF) (v : Wave) (i : Nat) : Nat :=
  ((upTo (f.aux.getLsbD 0) v.lanes i).foldl (accStep (redStep f.fn.toNat (isSigned f.ty))
    (fun i => (v.src (numFmt f.ty false) f.sa i).toNat)) none).getD (redIdentity f.fn.toNat (isSigned f.ty))

theorem scanValue_eq (f : VF) (v : Wave) : (scanValue f v).1 = v.lanes.map (fun i => (i, scanAt f v i)) :=
  scanLanes_values _ _ _ _ _ _ (lanes_sorted v)

theorem exec_vscan {s : Machine.State} {w : Nat} {v : Wave} {r : Bool} {f : VF} {d : Fin 128}
    (hi : s.issue = some ⟨.wave w, r⟩) (hv : s.wave w = some v) (hdst : f.dst = .v d) (hd : v.inRange f.dst 0 = true)
    (ha : v.inRange f.sa 0 = true) (ht : trapsOn v.fpstat (scanValue f v).2 = false) :
    Machine.exec (.vscan f) s = .next (((s.setFpstat (.wave w) (v.fpstat ||| (scanValue f v).2.zeroExtend 32)).setWave w
      (putLanes { v with fpstat := v.fpstat ||| (scanValue f v).2.zeroExtend 32 } d.val v.lanes
        (fun i => BitVec.ofNat 32 (canonOf f.fn.toNat (scanAt f v i))))).retire (nSlots [f.sa]) .none) := by
  have hscan := scanValue_eq f v
  rw [hdst] at hd
  show execVscan f s = _
  simp only [scanValue] at hscan ht ⊢
  simp only [execVscan, issued, hi, hv, hd, ha, Bool.and_self, if_true, State.withFlags, fpstatOf_wave hv, ht,
    Bool.false_eq_true, if_false, wave_setFpstat _ hv, hdst, hscan, List.foldl_map] <;> rfl

theorem exec_vscan_trap {s : Machine.State} {w : Nat} {v : Wave} {r : Bool} {f : VF} (hi : s.issue = some ⟨.wave w, r⟩)
    (hv : s.wave w = some v) (hd : v.inRange f.dst 0 = true) (ha : v.inRange f.sa 0 = true)
    (ht : trapsOn v.fpstat (scanValue f v).2 = true) :
    Machine.exec (.vscan f) s = .next (s.trap (.wave w) 0x11 none (scanValue f v).2.toNat 0) := by
  show execVscan f s = _
  simp only [scanValue] at ht ⊢
  simp only [execVscan, issued, hi, hv, hd, ha, Bool.and_self, if_true, State.withFlags, fpstatOf_wave hv, ht]

/-! ### BALLOT (R144) -/

theorem getLsbD_ballot (l : List Nat) (p : Nat → Prop) [DecidablePred p] (m : Mask) {j : Nat} (hj : j < 96) :
    (l.foldl (fun (m : Mask) i => if p i then m ||| (1 <<< i) else m) m).getLsbD j = (m.getLsbD j || decide (j ∈ l ∧ p j)) := by
  induction l generalizing m with
  | nil => simp
  | cons i l ih =>
    have hone : ∀ n, (((1 <<< i : Nat) : Mask)).getLsbD n = (decide (n < 96) && decide (n = i)) := by
      intro n
      rw [BitVec.natCast_eq_ofNat, BitVec.getLsbD_ofNat, Nat.one_shiftLeft, Nat.testBit_two_pow]
      simp [eq_comm]
    rw [List.foldl_cons, ih]
    by_cases hp : p i
    · rw [if_pos hp, BitVec.getLsbD_or, hone]
      by_cases h : j = i
      · subst h
        simp [hj, hp]
      · simp [hj, h]
    · rw [if_neg hp]
      by_cases h : j = i
      · subst h
        simp [hp]
      · simp [h]

/-- The mask that BALLOT writes. -/
def ballotMask (f : VF) (v : Wave) : Mask :=
  v.lanes.foldl (fun m i => if v.src (.int 32 false) f.sa i ≠ 0 then m ||| (1 <<< i) else m) 0

theorem getLsbD_ballotMask (f : VF) (v : Wave) {l : Nat} (hl : l < 96) :
    (ballotMask f v).getLsbD l = (v.active l && v.src (.int 32 false) f.sa l != 0) := by
  rw [ballotMask, getLsbD_ballot _ _ _ hl, Bool.eq_iff_iff]
  simp [mem_lanes, hl]

theorem exec_ballot {s : Machine.State} {w : Nat} {v : Wave} {r : Bool} {f : VF} {d : Fin 64}
    (hi : s.issue = some ⟨.wave w, r⟩) (hv : s.wave w = some v) (ha : v.inRange f.sa 0 = true) (hd : f.dst = .s d) :
    Machine.exec (.ballot f) s = .next ((s.setWave w (v.putMask d.val (ballotMask f v))).retire 1 .none) := by
  rw [← putTriple_wave d _ hv, ← hd]
  show execBallot f s = _
  simp only [execBallot, issued, hi, hv, ha, if_true] <;> rfl

theorem triple_retireIn {s : Machine.State} {w : Nat} {d : Fin 64} {r : Bool} (n : Nat) (hi : s.issue = some ⟨.wave w, r⟩)
    (hp : (Agent.wave w).present s) (hd : d.val ≤ 61) :
    (s.retire n .none).triple (.wave w) (.s d) = s.triple (.wave w) (.s d) := by
  obtain ⟨v, hv⟩ := Option.isSome_iff_exists.1 hp
  obtain ⟨u, hu, hk⟩ := (Kept.retireIn (.wave w) r s n .none [] [] false hi).wave w v rfl hv
  have hreg : ∀ j, j < 64 → u.getS j = v.getS j := fun j hj => hk.sreg j hj List.not_mem_nil
  simp only [State.triple, hu, hv]
  rw [hreg _ (by omega), hreg _ (by omega), hreg _ (by omega)]

theorem Kept.setWaveIn {s : Machine.State} {w : Nat} {v u : Wave} {a b : List Nat} (f r : Bool) (hv : s.wave w = some v)
    (h : WaveKept v u a b false false) : Kept (.wave w) s (s.setWave w u) a b f r :=
  Kept.setWave hv { h with fpstat := fun _ => h.fpstat rfl, repctl := fun _ => h.repctl rfl }

/-! ### The statement -/

theorem redStep_quiet {fn : Nat} (sgn : Bool) (h : fn < 6 ∨ 6 < fn) (x y : Nat) : (redStep fn sgn x y).2 = 0 := by
  unfold redStep
  split
  case h_7 => omega
  all_goals rfl

theorem legal_vred {k : ClauseKind} {f : VF} (h : legal k (.vred f) = true) : (∃ d, f.dst = .v d) ∨ ∃ d, f.dst = .s d := by
  simp only [legal, Instr.view, legalV, Bool.and_eq_true] at h
  obtain ⟨-, -, -, hd⟩ := h
  cases hdst : f.dst with
  | v d => exact .inl ⟨d, rfl⟩
  | s d => exact .inr ⟨d, rfl⟩
  | _ => rw [hdst] at hd; cases hd

theorem legal_vscan {k : ClauseKind} {f : VF} (h : legal k (.vscan f) = true) : ∃ d, f.dst = .v d := by
  simp only [legal, Instr.view, legalV, VF.ops, Bool.and_eq_true] at h
  obtain ⟨-, -, -, ⟨⟨hd, -⟩, -⟩, -⟩ := h
  cases hdst : f.dst with
  | v d => exact ⟨d, rfl⟩
  | _ => rw [hdst] at hd; cases hd

theorem legal_ballot {k : ClauseKind} {f : VF} (h : legal k (.ballot f) = true) : tripleOk f.dst = true := by
  simp only [legal, Instr.view, legalV, Bool.and_eq_true] at h
  simp [h]

/-- Settles O34. -/
theorem reductionsAndBallot : Obligations.ReductionsAndBallot := by
  intro f s w v r hv hdr har a fn step ident
  refine ⟨?vred, ?vscan, ?ballot, fun h x y => redStep_quiet _ h x y⟩
  case vred =>
    rintro ⟨hi, hp, k, hf, hl⟩ z
    have hz : redValue f v = z := rfl
    rw [exec_vred hi hv hdr har, hz]
    refine ⟨fun ht => ⟨_, rfl, ?_⟩, fun ht => by rw [withFlags_of_trap _ (by rwa [fpstatOf_wave hv])]⟩
    rw [withFlags_of_no_trap _ (by rwa [fpstatOf_wave hv]), fpstatOf_wave hv]
    generalize hx : v.fpstat ||| z.2.zeroExtend 32 = x
    have hset := wave_setFpstat (s := s) (w := w) x hv
    rcases legal_vred hl with ⟨d, hd⟩ | ⟨d, hd⟩
    · have hput : putRed f w (canonOf fn z.1) (s.setFpstat (.wave w) x) = ((s.setFpstat (.wave w) x).setWave w
          (Wave.putVec { v with fpstat := x } d.val (Vector.replicate 96 (BitVec.ofNat 32 (canonOf fn z.1))))).retire
            (nSlots [f.sa]) .none := by
        simp only [putRed, hset, hd]
      obtain ⟨hfp, hw⟩ := lanes_written (n := nSlots [f.sa]) (y := fun _ => BitVec.ofNat 32 (canonOf fn z.1)) hi hv
        (WaveKept.putVec { v with fpstat := x } d.val (Vector.replicate 96 (BitVec.ofNat 32 (canonOf fn z.1))) false false) rfl
        (fun l hl96 => by
          rw [lane_putVec { v with fpstat := x } d _ ⟨l, hl96⟩]
          simp only [Fin.getElem_fin, Vector.getElem_replicate]
          rfl)
      rw [hput]
      exact ⟨hfp, fun e he => by rwa [hd], fun e he => by simp [hd] at he⟩
    · have hput : putRed f w (canonOf fn z.1) (s.setFpstat (.wave w) x) =
          ((s.setFpstat (.wave w) x).put32 (.wave w) f.dst (canonOf fn z.1)).retire (nSlots [f.sa]) .none := by
        simp only [putRed, hset, hd]
      have hpres : (Agent.wave w).present (s.setFpstat (.wave w) x) := by simp [Agent.present, hset]
      have hdst : dstRegs (.wave w) f.dst false = [d.val] := by rw [hd]; rfl
      have hregs : ∀ n ∈ dstRegs (.wave w) f.dst false, n ∈ [d.val] := fun n hn => hdst ▸ hn
      have hi1 : ((s.setFpstat (.wave w) x).put32 (.wave w) f.dst (canonOf fn z.1)).issue = some ⟨.wave w, r⟩ := by
        simpa [State.put32] using hi
      have hkput := Kept.putReg (.wave w) (s.setFpstat (.wave w) x) f.dst false false (BitVec.ofNat 64 (canonOf fn z.1 % 2 ^ 32))
        [d.val] [] false false hregs
      have hpres1 := hkput.present hpres
      rw [hput]
      refine ⟨?_, fun e he => by simp [hd] at he, fun e he => ⟨?_, ?_⟩⟩
      · rw [(Kept.retireIn (.wave w) r _ (nSlots [f.sa]) .none [] [] false hi1).fpstatOf hpres1, State.put32,
          hkput.fpstatOf hpres, fpstatOf_setFpstat s _ x hp]
      · rw [hd] at hi1 hpres1 ⊢
        rw [reg_retireIn _ hi1 hpres1]
        have hreg := reg_putReg (s.setFpstat (.wave w) x) (.wave w) k (.s d) false false
          (BitVec.ofNat 64 (canonOf fn z.1 % 2 ^ 32)) hpres hf (by simpa [regOk, Agent.fits] using hf)
        rw [State.put32, hreg]
        exact narrow_ofNat (t := .i32) _
      · rw [hd] at he
        cases he
        exact ((Kept.setFpstat (.wave w) s x [d.val] [] r).trans (Kept.putReg _ _ _ _ _ _ _ _ true r hregs)).trans
          (Kept.retireIn _ r _ _ _ _ _ _ hi1)
  case vscan =>
    rintro ⟨hi, hp, k, hf, hl⟩ z upTo' acc
    obtain ⟨d, hd⟩ := legal_vscan hl
    have hz : scanValue f v = z := rfl
    refine ⟨fun ht => ?_, fun ht => exec_vscan_trap hi hv hdr har ht⟩
    refine ⟨_, exec_vscan hi hv hd hdr har ht, ?_⟩
    have hval : ∀ l, (acc l).getD ident = scanAt f v l := by
      intro l
      rfl
    have h := lanes_written (n := nSlots [f.sa]) (x := v.fpstat ||| z.2.zeroExtend 32) hi hv
      (WaveKept.putLanes _ d.val v.lanes (fun i => BitVec.ofNat 32 (canonOf fn (scanAt f v i))) false false)
      (putLanes_path _ _ _ _) (y := fun i => BitVec.ofNat 32 (canonOf fn (scanAt f v i))) (fun l hl96 => by
        rw [lane_putLanes _ d.isLt (fun i hi => ((mem_lanes v i).1 hi).1)]
        simp only [mem_lanes, hl96, true_and]
        rfl)
    simp only [hval]
    rw [hd]
    exact h
  case ballot =>
    rintro ⟨hi, hp, k, hf, hl⟩ d hd
    have hle : d.val ≤ 61 := by simpa [hd, tripleOk] using legal_ballot hl
    have hi1 : (s.setWave w (v.putMask d.val (ballotMask f v))).issue = some ⟨.wave w, r⟩ := hi
    refine ⟨_, exec_ballot hi hv har hd, fun l hl96 => ?_,
      (Kept.setWaveIn false r hv (WaveKept.putMask v d.val _)).trans (Kept.retireIn _ r _ _ _ _ _ _ hi1)⟩
    rw [hd, triple_retireIn 1 hi1 (by simp [Agent.present]) hle]
    simp only [State.triple, State.setWave_wave_same, triple_putMask v _ hle]
    exact getLsbD_ballotMask f v hl96

end Sys2Proof

/-! TOPK (R143), where vector instructions stop (R40, R128), and what a source gives a lane (R128). -/

namespace Sys2Proof

open Sys2Proof.Machine

/-! ### Rankings (R143) -/

theorem rankInsert_perm (gt : Nat → Nat → Bool) (x : Nat) (l : List Nat) : (rankInsert gt x l).Perm (x :: l) := by
  induction l with
  | nil => exact List.Perm.refl _
  | cons y r ih =>
    rw [rankInsert]
    split
    · exact List.Perm.refl _
    · exact (ih.cons y).trans (List.Perm.swap x y r)

theorem foldl_rankInsert_perm (gt : Nat → Nat → Bool) (l a : List Nat) :
    (l.foldl (fun a x => rankInsert gt x a) a).Perm (a ++ l) := by
  induction l generalizing a with
  | nil => simp
  | cons x r ih => exact (ih _).trans (((rankInsert_perm gt x a).append_right r).trans List.perm_middle.symm)

/-- A ranking lists the lanes it ranks, each once. -/
theorem ranked_perm (gt : Nat → Nat → Bool) (l : List Nat) : (ranked gt l).Perm l := foldl_rankInsert_perm gt l []

/-! ### Two registers of some lanes -/

/-- Two registers written in the lanes of a list that satisfy p. -/
def putPairs (v : Wave) (r : Nat) (l : List Nat) (p : Nat → Prop) [DecidablePred p] (y z : Nat → W32) : Wave :=
  l.foldl (fun u i => if p i then (u.putLane r i (y i)).putLane (r + 1) i (z i) else u) v

theorem WaveKept.putPairs (v : Wave) (r : Nat) (l : List Nat) (p : Nat → Prop) [DecidablePred p] (y z : Nat → W32) :
    WaveKept v (putPairs v r l p y z) [] [r, r + 1] false false := by
  induction l generalizing v with
  | nil => exact WaveKept.refl v _ _ _ _
  | cons i l ih =>
    refine WaveKept.trans ?_ (ih _)
    dsimp only
    split
    · exact (WaveKept.putLane _ _ _ _ _ _ _ (by simp)).trans (WaveKept.putLane _ _ _ _ _ _ _ (by simp))
    · exact WaveKept.refl v _ _ _ _

theorem lane_putPairs (v : Wave) {r : Nat} (hr : r + 1 < 128) {l : List Nat} (hl : ∀ i ∈ l, i < 96) (p : Nat → Prop)
    [DecidablePred p] (y z : Nat → W32) (j : Nat) :
    (putPairs v r l p y z).lane r j = (if j ∈ l ∧ p j then y j else v.lane r j) ∧
      (putPairs v r l p y z).lane (r + 1) j = if j ∈ l ∧ p j then z j else v.lane (r + 1) j := by
  induction l generalizing v with
  | nil => simp [putPairs]
  | cons i l ih =>
    have hi := hl i (by simp)
    have h := ih (if p i then (v.putLane r i (y i)).putLane (r + 1) i (z i) else v) (fun k hk => hl k (by simp [hk]))
    have hstep : Sys2Proof.putPairs v r (i :: l) p y z =
        Sys2Proof.putPairs (if p i then (v.putLane r i (y i)).putLane (r + 1) i (z i) else v) r l p y z := rfl
    rw [hstep, h.1, h.2]
    by_cases hp : p i
    · simp only [hp, if_true, lane_putLane _ _ _ _ _ _ hr hi, lane_putLane _ _ _ _ _ _ (Nat.lt_of_succ_lt hr) hi]
      by_cases hij : i = j
      · subst hij
        simp [hp]
      · simp [hij, Ne.symm hij]
    · simp only [hp, if_false]
      by_cases hij : i = j
      · subst hij
        simp [hp]
      · simp [Ne.symm hij]

/-! ### TOPK (R143) -/

/-- Lanes of a segment of TOPK. -/
def VF.seg (f : VF) : Nat := match f.aux.toNat / 8 % 4 with | 0 => 96 | 1 => 8 | 2 => 16 | _ => 32

theorem seg_pos (f : VF) : 0 < f.seg := by
  unfold VF.seg
  split <;> decide

/-- The code that TOPK ranks in a lane. -/
def topCode (f : VF) (v : Wave) (l : Nat) : Nat := (v.src (numFmt f.ty false) f.sa l).toNat % 2 ^ f.ty.bits

/-- The ranking of the segment of lane l. -/
def topOrder (f : VF) (v : Wave) (l : Nat) : List Nat :=
  ranked (fun x y => topGt f.ty (topCode f v x) (topCode f v y)) (v.lanes.filter (fun j => decide (j / f.seg = l / f.seg)))

/-- The words that TOPK gives lane l: the value, or the filler, and its position. -/
def topPair (f : VF) (v : Wave) (l : Nat) : W32 × W32 :=
  match (topOrder f v l)[l % f.seg]? with
  | some e => (BitVec.ofNat 32 (topValue f.ty (topCode f v e)), BitVec.ofNat 32 (e % f.seg))
  | none => (BitVec.ofNat 32 (topFiller f.ty), 0xFFFFFFFF)

/-- One lane of TOPK, as its meaning writes it. -/
def topPut (f : VF) (d : Fin 128) (v u : Wave) (i : Nat) : Wave :=
  let nf := numFmt f.ty false
  let a (i : Nat) : Nat := (v.src nf f.sa i).toNat % 2 ^ nf.width
  let g := i / f.seg * f.seg
  let p := i - g
  if p < f.aux.toNat % 8 + 1 then
    let order := ranked (fun x y => topGt f.ty (a x) (a y)) (v.lanes.filter (fun l => decide (l / f.seg * f.seg = g)))
    match order[p]? with
    | some l => (u.putLane d.val i (BitVec.ofNat 32 (topValue f.ty (a l)))).putLane (d.val + 1) i (BitVec.ofNat 32 (l - g))
    | none => (u.putLane d.val i (BitVec.ofNat 32 (topFiller f.ty))).putLane (d.val + 1) i 0xFFFFFFFF
  else u

theorem exec_topk {s : Machine.State} {w : Nat} {v : Wave} {r : Bool} {f : VF} {d : Fin 128}
    (hi : s.issue = some ⟨.wave w, r⟩) (hv : s.wave w = some v) (hd : f.dst = .v d) (hdr : v.inRange f.dst 1 = true)
    (har : v.inRange f.sa 0 = true) :
    Machine.exec (.topk f) s = .next ((s.setWave w (v.lanes.foldl (topPut f d v) v)).retire (nSlots [f.sa]) .none) := by
  rw [hd] at hdr
  show execTopk f s = _
  simp only [execTopk, issued, hi, hv, hd, hdr, har, Bool.and_self, if_true] <;> rfl

theorem topPut_eq (f : VF) (d : Fin 128) (v u : Wave) (i : Nat) :
    topPut f d v u i = if i % f.seg < f.aux.toNat % 8 + 1 then
      (u.putLane d.val i (topPair f v i).1).putLane (d.val + 1) i (topPair f v i).2 else u := by
  have hseg : ∀ l, (l / f.seg * f.seg = i / f.seg * f.seg) = (l / f.seg = i / f.seg) := fun l =>
    propext ⟨fun h => Nat.eq_of_mul_eq_mul_right (seg_pos f) h, fun h => by rw [h]⟩
  simp only [topPut, width_numFmt, sub_div_mul_eq_mod, hseg]
  split
  · have horder : ranked (fun x y => topGt f.ty ((v.src (numFmt f.ty false) f.sa x).toNat % 2 ^ f.ty.bits)
        ((v.src (numFmt f.ty false) f.sa y).toNat % 2 ^ f.ty.bits))
        (v.lanes.filter (fun l => decide (l / f.seg = i / f.seg))) = topOrder f v i := rfl
    rw [horder, topPair]
    cases he : (topOrder f v i)[i % f.seg]? with
    | none => rfl
    | some e =>
      have hmem : e ∈ v.lanes.filter (fun j => decide (j / f.seg = i / f.seg)) :=
        (ranked_perm _ _).mem_iff.1 (List.mem_of_getElem? he)
      have hdiv : e / f.seg = i / f.seg := by simpa using (List.mem_filter.1 hmem).2
      dsimp only
      rw [← hdiv, sub_div_mul_eq_mod]
      rfl
  · rfl

theorem topPut_lanes (f : VF) (d : Fin 128) (v : Wave) : v.lanes.foldl (topPut f d v) v =
    putPairs v d.val v.lanes (fun i => i % f.seg < f.aux.toNat % 8 + 1) (fun i => (topPair f v i).1) (fun i => (topPair f v i).2) := by
  rw [putPairs]
  congr 1
  funext u i
  exact topPut_eq f d v u i

theorem legal_topk {k : ClauseKind} {f : VF} {d : Fin 128} (h : legal k (.topk f) = true) (hd : f.dst = .v d) : d.val + 1 < 128 := by
  simp only [legal, Instr.view, legalV, Bool.and_eq_true, hd, vecOk, Bool.not_true, Bool.false_or, beq_iff_eq] at h
  have hlt := d.isLt
  omega

/-- Settles O35. -/
theorem rankedLanes : Obligations.RankedLanes := by
  rintro f s w v r d ⟨hi, hp, k, hf, hl⟩ hv hd hdr har a kk seg lanesOf order
  have hseg : seg = f.seg := rfl
  have horder : ∀ l, order l = topOrder f v l := fun l => rfl
  refine ⟨fun l => ranked_perm _ _, ?_⟩
  have hkept := WaveKept.putPairs v d.val v.lanes (fun i => i % f.seg < f.aux.toNat % 8 + 1) (fun i => (topPair f v i).1)
    (fun i => (topPair f v i).2)
  have hlane := lane_putPairs v (legal_topk hl hd) (fun i hi => ((mem_lanes v i).1 hi).1)
    (fun i => i % f.seg < f.aux.toNat % 8 + 1) (fun i => (topPair f v i).1) (fun i => (topPair f v i).2)
  rw [← topPut_lanes f d v] at hkept hlane
  have hi1 : (s.setWave w (v.lanes.foldl (topPut f d v) v)).issue = some ⟨.wave w, r⟩ := hi
  obtain ⟨u, hu, hul⟩ := lane_retire (nSlots [f.sa]) hi1 (State.setWave_wave_same s w _)
  refine ⟨_, u, exec_topk hi hv hd hdr har, hu,
    (Kept.setWaveIn false r hv hkept).trans (Kept.retireIn _ r _ _ _ _ _ _ hi1), fun l hl96 => ⟨?_, ?_, ?_⟩⟩
  · intro hact hlt e he
    have hin : l ∈ v.lanes ∧ l % f.seg < f.aux.toNat % 8 + 1 := ⟨(mem_lanes v l).2 ⟨hl96, hact⟩, hlt⟩
    have hpair : topPair f v l = (BitVec.ofNat 32 (topValue f.ty (topCode f v e)), BitVec.ofNat 32 (e % f.seg)) := by
      rw [horder, hseg] at he
      rw [topPair, he]
    rw [hul, hul, (hlane l).1, (hlane l).2, if_pos hin, if_pos hin, hpair]
    exact ⟨rfl, rfl⟩
  · intro hact hlt he
    have hin : l ∈ v.lanes ∧ l % f.seg < f.aux.toNat % 8 + 1 := ⟨(mem_lanes v l).2 ⟨hl96, hact⟩, hlt⟩
    have hpair : topPair f v l = (BitVec.ofNat 32 (topFiller f.ty), 0xFFFFFFFF) := by
      rw [horder, hseg] at he
      rw [topPair, he]
    rw [hul, hul, (hlane l).1, (hlane l).2, if_pos hin, if_pos hin, hpair]
    exact ⟨rfl, rfl⟩
  · intro hout
    have hno : ¬(l ∈ v.lanes ∧ l % f.seg < f.aux.toNat % 8 + 1) := by
      rintro ⟨hmem, hlt⟩
      rcases hout with hact | hge
      · rw [((mem_lanes v l).1 hmem).2] at hact
        cases hact
      · exact absurd hlt (not_lt.2 hge)
    rw [hul, hul, (hlane l).1, (hlane l).2, if_neg hno, if_neg hno]
    exact ⟨rfl, rfl⟩

/-! ### Registers beyond the allotment (R40, R128) -/

/-- A vector register of an instruction lies beyond the allotment. -/
def beyond (v : Wave) (f : VF) (more : Nat) : Prop :=
  v.inRange f.dst more = false ∨ v.inRange f.sa 0 = false ∨ v.inRange f.sb 0 = false ∨ v.inRange f.sc 0 = false

theorem not_all_of_beyond {v : Wave} {f : VF} (h : beyond v f 0) :
    (f.dst :: [f.sa, f.sb, f.sc]).all (fun o => v.inRange o 0) = false := by
  rcases h with h | h | h | h <;> simp [h]

theorem inRange_none (v : Wave) (n : Nat) : v.inRange .none n = true := rfl

/-- An instruction without a third source, or without a second. -/
theorem not_all_of_beyond_two {v : Wave} {f : VF} (h : beyond v f 0) (hc : f.sc = .none) :
    (f.dst :: [f.sa, f.sb]).all (fun o => v.inRange o 0) = false := by
  rcases h with h | h | h | h
  case inr.inr.inr => rw [hc, inRange_none] at h; cases h
  all_goals simp [h]

theorem not_all_of_beyond_one {v : Wave} {f : VF} (h : beyond v f 0) (hb : f.sb = .none) (hc : f.sc = .none) :
    (f.dst :: [f.sa]).all (fun o => v.inRange o 0) = false := by
  rcases h with h | h | h | h
  case inr.inr.inl => rw [hb, inRange_none] at h; cases h
  case inr.inr.inr => rw [hc, inRange_none] at h; cases h
  all_goals simp [h]

section
variable {s : Machine.State} {w : Nat} {v : Wave} {r : Bool} {k : ClauseKind} {i : Instr} {f : VF}

theorem range_of_laneInt {x : Int} (hi : s.issue = some ⟨.wave w, r⟩) (hv : s.wave w = some v) (hl : legal k i = true)
    (h : i.laneInt 0 0 0 = some (f, x)) (hb : beyond v f 0) : Machine.exec i s = .next (s.trap (.wave w) 0x02 none 0 0) := by
  obtain ⟨op, hexec, -⟩ := exec_laneInt s hl h
  rw [hexec, vecInt_eq f op hi, vector_of_range hv (not_all_of_beyond hb)]

theorem range_of_laneFloat {x : Nat × FFlags} (hi : s.issue = some ⟨.wave w, r⟩) (hv : s.wave w = some v) (hl : legal k i = true)
    (h : i.laneFloat 0 0 0 = some (f, x)) (hb : beyond v f 0) : Machine.exec i s = .next (s.trap (.wave w) 0x02 none 0 0) := by
  obtain ⟨op, hexec, -⟩ := exec_laneFloat s hl h
  rw [hexec, vecFloat_eq f op hi, vector_of_range hv (not_all_of_beyond hb)]

theorem range_of_laneWord {x : W32 × FFlags} (hi : s.issue = some ⟨.wave w, r⟩) (hv : s.wave w = some v) (hl : legal k i = true)
    (h : i.laneWord v 0 = some (f, x)) (hc : f.sc = .none) (hb : beyond v f 0) :
    Machine.exec i s = .next (s.trap (.wave w) 0x02 none 0 0) := by
  obtain ⟨regs, op, hexec, -, hregs⟩ := exec_laneWord hi hl h
  rw [hexec]
  rcases hregs with rfl | ⟨rfl, hsb⟩
  · rw [vector_of_range hv (not_all_of_beyond_two hb hc)]
  · rw [vector_of_range hv (not_all_of_beyond_one hb hsb hc)]

end

/-- What a clause asks of the third source of an instruction of two sources. -/
theorem legal_twoSources {k : ClauseKind} {i : Instr} {f : VF} (hl : legal k i = true)
    (h : i ∈ [.vfclass f, .vcvt f, .vunpk f, .vpack f, .shfl f, .bcast f, .vred f, .vscan f, .topk f, .ballot f]) :
    f.sc = .none := by
  simp only [List.mem_cons, List.not_mem_nil, or_false] at h
  rcases h with rfl | rfl | rfl | rfl | rfl | rfl | rfl | rfl | rfl | rfl <;>
    (simp only [legal, Instr.view, legalV, VF.ops, isNone, Bool.and_eq_true, beq_iff_eq, Nat.reduceLeDiff, if_false] at hl
     simp [hl])

/-- What a clause asks of the second source of a cross-lane instruction of one source. -/
theorem legal_crossLane {k : ClauseKind} {i : Instr} {f : VF} (hl : legal k i = true)
    (h : i ∈ [.vred f, .vscan f, .topk f, .ballot f]) : f.sb = .none := by
  simp only [List.mem_cons, List.not_mem_nil, or_false] at h
  rcases h with rfl | rfl | rfl | rfl <;>
    (simp only [legal, Instr.view, legalV, VF.ops, isNone, Bool.and_eq_true, beq_iff_eq, Nat.reduceLeDiff, if_false] at hl
     simp [hl])

/-- Of one source and a destination one lies beyond the allotment. -/
theorem pair_of_beyond {v : Wave} {f : VF} {n : Nat} (h : beyond v f n) (hb : f.sb = .none) (hc : f.sc = .none) :
    (v.inRange f.dst n && v.inRange f.sa 0) = false := by
  rcases h with h | h | h | h
  · simp [h]
  · simp [h]
  · rw [hb, inRange_none] at h; cases h
  · rw [hc, inRange_none] at h; cases h

theorem inRange_triple {o : Opnd} (v : Wave) (h : tripleOk o = true) : v.inRange o 0 = true := by
  cases o <;> first | rfl | cases h

theorem legal_topk_dst {k : ClauseKind} {f : VF} (h : legal k (.topk f) = true) : ∃ d, f.dst = .v d := by
  simp only [legal, Instr.view, legalV, Bool.and_eq_true] at h
  cases hd : f.dst with
  | v d => exact ⟨d, rfl⟩
  | _ => simp [hd, vecOk] at h

/-- Settles O36. -/
theorem vectorOperandRange : Obligations.VectorOperandRange := by
  rintro i op f s w v r ⟨hi, hp, k, hf, hl⟩ hv hview hb
  cases i <;> cases hview
  case viadd | visub | vimul | vimad | vimin | vimax | viabs | viadds | visubs | vand | vor | vxor | vnot | vshl | vshr | vsar
      | vbfx | vpopc | vicmp | vsel | vmov => exact range_of_laneInt hi hv hl rfl hb
  case vfadd | vfsub | vfmul | vfma | vfmin | vfmax | vfcmp | rcpF32 | rsqF32 | exp2 | log2 | sinPi | cosPi | tanh | rcpa =>
    exact range_of_laneFloat hi hv hl rfl hb
  case vfclass | vcvt | vunpk | shfl | bcast => exact range_of_laneWord hi hv hl rfl (legal_twoSources hl (by simp)) hb
  case vpack =>
    show execVpack f s = _
    simp only [execVpack, issued, hi, vector_of_range hv (not_all_of_beyond_two hb (legal_twoSources hl (by simp)))]
  case dot4 =>
    show execDot4 f s = _
    rw [execDot4, dot_eq f _ _ _ hi, vector_of_range hv (not_all_of_beyond hb)]
  case dot8 =>
    show execDot8 f s = _
    rw [execDot8, dot_eq f _ _ _ hi, vector_of_range hv (not_all_of_beyond hb)]
  case vred =>
    have hpair := pair_of_beyond (n := 0) hb (legal_crossLane hl (by simp)) (legal_twoSources hl (by simp))
    show execVred f s = _
    simp only [execVred, issued, hi, hv, hpair, Bool.false_eq_true, if_false]
  case vscan =>
    have hpair := pair_of_beyond (n := 0) hb (legal_crossLane hl (by simp)) (legal_twoSources hl (by simp))
    show execVscan f s = _
    simp only [execVscan, issued, hi, hv, hpair, Bool.false_eq_true, if_false]
  case topk =>
    obtain ⟨d, hd⟩ := legal_topk_dst hl
    have hpair := pair_of_beyond (n := 1) hb (legal_crossLane hl (by simp)) (legal_twoSources hl (by simp))
    rw [hd] at hpair
    show execTopk f s = _
    simp only [execTopk, issued, hi, hd, hv, hpair, Bool.false_eq_true, if_false]
  case ballot =>
    have hpair := pair_of_beyond (n := 0) hb (legal_crossLane hl (by simp)) (legal_twoSources hl (by simp))
    rw [inRange_triple v (legal_ballot hl), Bool.true_and] at hpair
    show execBallot f s = _
    simp only [execBallot, issued, hi, hv, hpair, Bool.false_eq_true, if_false]

/-! ### What a source gives a lane (R128) -/

/-- Settles O37: an inline code stands in every element of the word that it is splat over. -/
theorem vectorOperandForms : Obligations.VectorOperandForms := by
  intro v n l hw
  refine ⟨fun r => rfl, fun r => rfl, fun x => rfl, fun k j hj => ?_, by decide⟩
  have hpos : 0 < n.width := by omega
  show elemOf (splat n.width (inlineCode n k)) n.width j = _
  rw [splat, elemOf_ofElems (by rw [List.length_replicate]; exact Nat.mul_div_le _ _) (by rwa [List.length_replicate]),
    List.getElem_replicate]

end Sys2Proof

/-! REP (R99 to R102): the sweep's word in `repctl`, what REP does at issue, and how an iteration ends. -/

namespace Sys2Proof

open Sys2Proof.Machine

/-! ### `repctl` (Table 09-8) -/

theorem repctlWord_toNat (sl : Bool) (n c : Nat) :
    (repctlWord sl n c).toNat = 2 ^ 31 + sl.toNat * 2 ^ 30 + (n % 4096) * 2 ^ 12 + c % 4096 := by
  have hsl := sl.toNat_lt
  rw [repctlWord, BitVec.toNat_ofNat, Nat.mod_eq_of_lt]
  omega

theorem testBit_of_div {x k : Nat} {b : Bool} (h : x / 2 ^ k % 2 = b.toNat) : x.testBit k = b := by
  rw [Nat.testBit_eq_decide_div_mod_eq, h]
  cases b <;> rfl

/-- The fields of `repctl` in a sweep. -/
theorem repctlWord_fields (sl : Bool) {n c : Nat} (hn : n < 4096) (hc : c < 4096) :
    (repctlWord sl n c).toNat.testBit 31 = true ∧ (repctlWord sl n c).toNat.testBit 30 = sl ∧
      (repctlWord sl n c).toNat / 4096 % 4096 = n ∧ (repctlWord sl n c).toNat % 4096 = c := by
  have hsl := sl.toNat_lt
  rw [repctlWord_toNat, Nat.mod_eq_of_lt hn, Nat.mod_eq_of_lt hc]
  refine ⟨testBit_of_div ?_, testBit_of_div ?_, by omega, by omega⟩
  · rw [Bool.toNat_true]; omega
  · omega

/-! ### REP at issue (R101) -/

theorem repctlOf_wave {s : Machine.State} {w : Nat} {v : Wave} (hv : s.wave w = some v) : s.repctlOf (.wave w) = v.repctl := by
  simp only [State.repctlOf, hv]

theorem alt_of_pcOf {s : Machine.State} {w : Nat} {v : Wave} (hv : s.wave w = some v) :
    s.pcOf (.wave w) = (v.path.pc, v.path.slot, v.alt) := by
  simp only [State.pcOf, hv]

section
variable {s : Machine.State} {w : Nat} {v : Wave} {f : PF} (hi : s.issue = some ⟨.wave w, false⟩) (hv : s.wave w = some v)
include hi

theorem exec_rep_zero (h0 : f.count = 0) : Machine.exec (.rep f) s = .next (s.retire (s.skipSlots (.wave w)) .none) := by
  show execRep f s = _
  simp only [execRep, issued, hi, h0, if_true]

theorem exec_rep_noTarget (h0 : f.count ≠ 0) (ht : s.repTarget (.wave w) f = none) :
    Machine.exec (.rep f) s = .next (s.trap (.wave w) 0x01 none 0 0) := by
  show execRep f s = _
  simp only [execRep, issued, hi, h0, if_false, ht]

include hv

/-- A sweep that begins (R101). -/
theorem exec_rep_begin {i : Instr} (h0 : f.count ≠ 0) (ht : s.repTarget (.wave w) f = some i) (hr : v.repctl.getLsbD 31 = false) :
    (∀ c l a, s.repFault (.wave w) f i = some (c, l, a) → Machine.exec (.rep f) s = .next (s.trap (.wave w) c l 0 a)) ∧
      (s.repFault (.wave w) f i = none → Machine.exec (.rep f) s =
        .next ((s.setWave w { v with repctl := repctlWord v.alt 0 f.count.toNat }).latchTarget (.wave w))) := by
  have hbit : v.repctl.toNat.testBit 31 = false := hr
  constructor
  · intro c l a hf
    show execRep f s = _
    simp only [execRep, issued, hi, h0, if_false, ht, repctlOf_wave hv, hbit, Bool.false_eq_true, hf]
  · intro hf
    show execRep f s = _
    simp only [execRep, issued, hi, h0, if_false, ht, repctlOf_wave hv, hbit, Bool.false_eq_true, hf, State.setRepctl, hv,
      alt_of_pcOf hv]

/-- A sweep that goes on (R101). -/
theorem exec_rep_resume {i : Instr} {next : Nat} (h0 : f.count ≠ 0) (ht : s.repTarget (.wave w) f = some i)
    (hn : next < f.count.toNat) (hr : v.repctl = repctlWord v.alt next f.count.toNat) :
    (∀ c, s.formFault (.wave w) (repIters f i next) = some c → Machine.exec (.rep f) s = .next (s.trap (.wave w) c none 0 0)) ∧
      (s.formFault (.wave w) (repIters f i next) = none → Machine.exec (.rep f) s = .next (s.latchTarget (.wave w))) := by
  have hc := f.count.isLt
  obtain ⟨h31, h30, hnext, hcount⟩ := repctlWord_fields v.alt (hn.trans hc) hc
  have hgo : ¬(f.count.toNat ≠ f.count.toNat ∨ f.count.toNat ≤ next) := by omega
  constructor
  · intro c hf
    show execRep f s = _
    simp only [execRep, issued, hi, h0, if_false, ht, repctlOf_wave hv, hr, h31, h30, hnext, hcount, alt_of_pcOf hv, if_true,
      bne_self_eq_false, Bool.false_eq_true, hgo, hf]
  · intro hf
    show execRep f s = _
    simp only [execRep, issued, hi, h0, if_false, ht, repctlOf_wave hv, hr, h31, h30, hnext, hcount, alt_of_pcOf hv, if_true,
      bne_self_eq_false, Bool.false_eq_true, hgo, hf]

end

/-- A REP of count zero skips the whole of its target, whatever that is (R99). -/
theorem skipSlots_wave {s : Machine.State} {w : Nat} {v : Wave} (hv : s.wave w = some v) :
    (∀ i, decodeWord (wordAt (s.codeOf (.wave w)) (v.path.slot + 1)) (wordAt (s.codeOf (.wave w)) (v.path.slot + 2)) = .ok i →
      s.skipSlots (.wave w) = 1 + i.slots) ∧
    ((∀ i, decodeWord (wordAt (s.codeOf (.wave w)) (v.path.slot + 1)) (wordAt (s.codeOf (.wave w)) (v.path.slot + 2)) ≠ .ok i) →
      s.skipSlots (.wave w) = 2) := by
  constructor
  · intro i h
    simp only [State.skipSlots, alt_of_pcOf hv, h]
  · intro h
    unfold State.skipSlots
    rw [alt_of_pcOf hv]
    dsimp only
    split
    · next i hd => exact absurd hd (h i)
    · rfl

/-! ### The end of an iteration (R101) -/

theorem samePlace_setRepctl {s : Machine.State} {w : Nat} {v : Wave} (x : W32) (hv : s.wave w = some v) :
    SamePlace (.wave w) s (s.setRepctl (.wave w) x) := by
  simp only [State.setRepctl, hv]
  exact SamePlace.setWave hv rfl rfl rfl rfl

theorem stepped_issue (s : Machine.State) (ag : Agent) : (s.stepped ag).issue = s.issue := by
  unfold State.stepped
  split
  · split
    · split <;> rfl
    · rfl
  · rfl

/-- What an agent has once it stands behind an instruction that has run: a wave that was released for one keeps its registers. -/
theorem stepped_fields {s : Machine.State} {w : Nat} {v : Wave} (hv : s.wave w = some v) :
    ∃ u, (s.stepped (.wave w)).wave w = some u ∧ u.sreg = v.sreg ∧ u.vreg = v.vreg ∧ u.repctl = v.repctl ∧
      u.path.pc = v.path.pc ∧ u.path.slot = v.path.slot := by
  unfold State.stepped
  simp only [hv]
  split
  · obtain ⟨hpc, hslot, -⟩ := halt_place v .seq v.trec
    refine ⟨_, State.setWave_wave_same _ _ _, halt_sreg v .seq v.trec, halt_vreg v .seq v.trec, ?_, ?_, ?_⟩
    · simp [Wave.halt]
    · exact hpc
    · exact hslot
  · exact ⟨v, hv, rfl, rfl, rfl, rfl, rfl⟩

theorem exists_advance {s : Machine.State} {w : Nat} {v : Wave} (n : Nat) (wt : Wait) (hv : s.wave w = some v) :
    ∃ u, (s.advance (.wave w) n wt).wave w = some u ∧ u.sreg = v.sreg ∧ u.vreg = v.vreg ∧ u.repctl = v.repctl := by
  unfold State.advance
  dsimp only
  split
  · refine ⟨_, by simp only [State.toSlot, hv]; exact State.setWave_wave_same _ _ _, ?_, ?_, ?_⟩ <;> simp
  · refine ⟨_, by simp only [State.goto, hv]; exact State.setWave_wave_same _ _ _, ?_, ?_, ?_⟩ <;> simp

/-- An iteration that is not the last leaves its wave where it stands, with the sweep's word for the next one. -/
theorem fields_of_sweepOn {s : Machine.State} {w : Nat} {v : Wave} (x : W32) (hv : s.wave w = some v) :
    ∃ u, (((s.setRepctl (.wave w) x).unlatch).stepped (.wave w)).wave w = some u ∧ u.sreg = v.sreg ∧ u.vreg = v.vreg ∧
      u.repctl = x ∧ u.path.pc = v.path.pc ∧ u.path.slot = v.path.slot := by
  refine stepped_fields (v := { v with repctl := x }) ?_
  show (s.setRepctl (.wave w) x).wave w = _
  simp only [State.setRepctl, hv]
  exact State.setWave_wave_same _ _ _

/-- Settles O38: the four answers of REP at issue, then the two ends of an iteration. -/
theorem repSweep : Obligations.RepSweep := by
  refine ⟨?issue, ?ends⟩
  case issue =>
    rintro s w v f ⟨hi, hp, -⟩ hv
    refine ⟨fun h0 => ?zero, exec_rep_noTarget hi, fun i h0 ht hr => exec_rep_begin hi hv h0 ht hr,
      fun i next h0 ht hn hr => exec_rep_resume hi hv h0 ht hn hr⟩
    case zero =>
      obtain ⟨hskip, hskip2⟩ := skipSlots_wave hv
      have hafter := after_retire s (.wave w) (s.skipSlots (.wave w)) .none hi hp
      exact ⟨_, exec_rep_zero hi h0, Kept.retire _ _ _ _ _ _ _ _ hi, fun i h => hskip i h ▸ hafter, fun h => hskip2 h ▸ hafter⟩
  case ends =>
    intro s w v wt n next count hi hv hc hn hr
    obtain ⟨-, -, hnext, hcount⟩ := repctlWord_fields v.alt (hn.trans hc) hc
    have hset : ∀ x, (s.setRepctl (.wave w) x).wave w = some { v with repctl := x } := fun x => by
      simp [State.setRepctl, hv]
    by_cases hlast : next + 1 < count
    · have hretire : s.retire n wt =
          ((s.setRepctl (.wave w) (repctlWord v.alt (next + 1) count)).unlatch).stepped (.wave w) := by
        simp only [State.retire, hi, if_true, repctlOf_wave hv, hr, hnext, hcount, hlast, alt_of_pcOf hv]
      obtain ⟨u, hu, hsreg, hvreg, hfields⟩ := fields_of_sweepOn (repctlWord v.alt (next + 1) count) hv
      rw [hretire]
      exact ⟨u, hu, hsreg, hvreg, stepped_issue _ _, fun _ => hfields, fun h => absurd hlast (by omega)⟩
    · have hretire : s.retire n wt = (((s.setRepctl (.wave w) 0).advance (.wave w) 2 wt).unlatch).stepped (.wave w) := by
        simp only [State.retire, hi, if_true, repctlOf_wave hv, hr, hnext, hcount, hlast, if_false]
      obtain ⟨u1, hu1, hsreg1, hvreg1, hrep1⟩ := exists_advance 2 wt (hset 0)
      obtain ⟨u, hu, hsreg, hvreg, hrep, -⟩ := stepped_fields (s := ((s.setRepctl (.wave w) 0).advance (.wave w) 2 wt).unlatch) hu1
      have hplace := samePlace_setRepctl 0 hv
      have hpres : (Agent.wave w).present (s.setRepctl (.wave w) 0) := by simp [Agent.present, hset]
      rw [hretire]
      refine ⟨u, hu, hsreg.trans hsreg1, hvreg.trans hvreg1, stepped_issue _ _, fun h => absurd h hlast, fun _ => ⟨hrep.trans hrep1, ?_⟩⟩
      refine hplace.after ?_
      unfold After
      rw [pcOf_stepped, pcOf_unlatch, State.advance]
      split
      · rw [pcOf_toSlot _ _ _ hpres]
        exact ⟨rfl, rfl⟩
      · rw [pcOf_goto _ _ _ _ hpres]
        exact ⟨rfl, rfl⟩

end Sys2Proof

/-! Global accesses at issue: which access an instruction is, and where it stops. -/

namespace Sys2Proof

open Sys2Proof.Machine

/-! ### The access that an instruction is (R150, R155 to R158) -/

theorem more64_eq (t : Ty) : more64 t = if t.bits = 64 then 1 else 0 := by rw [more64, tyBits_eq]

theorem dfrWidth_eq (t : Ty) : dfrWidth t = if t.bits < 32 then some 0x05 else none := by rw [dfrWidth, tyBits_eq]

theorem exec_cas {f : MF} {s : Machine.State} {ag : Agent} (hi : s.issue = some ⟨ag, false⟩) :
    Machine.exec (.cas f) s = .next (s.access ag f (rmwReq true 10) [(f.dst, if f.ty.bits = 64 then 3 else 1), (f.sb, 0)]
      (fun l => s.ea ag f false l) (fun l => s.data ag true f.ty (Opnd.plus f.dst (if f.ty.bits = 64 then 2 else 1)) l)
      (fun l => s.data ag true f.ty f.dst l)) := by
  show execCas f s = _
  simp only [execCas, issued, hi, more64_eq]
  by_cases h : f.ty.bits = 64 <;> simp only [h, if_true, if_false]

theorem exec_satom {f : MF} {s : Machine.State} {ag : Agent} (hi : s.issue = some ⟨ag, false⟩) :
    Machine.exec (.satom f) s = .next (s.access ag f (rmwReq false f.mop) [] (fun l => s.ea ag f true l)
      (fun l => s.data ag false f.ty (if f.mop = 10 then Opnd.plus f.dst
        (if f.ty.bits = 64 ∧ Agent.isThread ag = false then 2 else 1) else f.dst) l)
      (fun l => if f.mop = 10 then s.data ag false f.ty f.dst l else 0)) := by
  show execSatom f s = _
  simp only [execSatom, issued, hi, more64_eq, beq_iff_eq]
  cases Agent.isThread ag <;> by_cases h : f.ty.bits = 64 <;> simp [h]

/-- Every global access is one use of `State.access`. -/
theorem exec_of_accessOf {i : Instr} {s : Machine.State} {ag : Agent} {f : MF} {r : AccReq} {regs : List (Opnd × Nat)}
    {ea : Nat → Nat} {val cmp : Nat → W64} (hi : s.issue = some ⟨ag, false⟩)
    (h : i.accessOf s ag = some (f, r, regs, ea, val, cmp)) :
    Machine.exec i s = .next (s.access ag f r regs ea val cmp) := by
  cases i
  case ld => cases h; show execLd _ s = _; simp only [execLd, issued, hi, loadReq]
  case ldx => cases h; show execLdx _ s = _; simp only [execLdx, issued, hi, loadReq]
  case sld => cases h; show execSld _ s = _; simp only [execSld, issued, hi, loadReq]
  case st => cases h; show execSt _ s = _; simp only [execSt, issued, hi, storeReq, dfrWidth_eq]
  case sst => cases h; show execSst _ s = _; simp only [execSst, issued, hi, storeReq, dfrWidth_eq]
  case atom => cases h; show execAtom _ s = _; simp only [execAtom, issued, hi, rmwReq]
  case red => cases h; show execRed _ s = _; simp only [execRed, issued, hi, isSigned_eq]
  case cas g => cases h; exact exec_cas hi
  case satom g => cases h; exact exec_satom hi
  all_goals exact nomatch h

/-! ### The stops in the order of R310 -/

section
variable {s : Machine.State} {ag : Agent} {vec rd wr : Bool} {ea : Nat → Nat} {size : Nat} {dfr : Option Nat}

theorem checkAccess_misaligned {l : Nat} (h : (s.accLanes ag vec).find? (fun k => ea k % size != 0) = some l) :
    s.checkAccess ag vec ea size rd wr dfr = .stop (s.trap ag 0x03 (laneOf vec l) 0 (ea l)) := by
  simp only [State.checkAccess, h]

variable (h : ∀ l ∈ s.accLanes ag vec, ea l % size = 0)
include h

theorem find_misaligned_eq_none : (s.accLanes ag vec).find? (fun k => ea k % size != 0) = none :=
  List.find?_eq_none.mpr fun l hl => by simp [h l hl]

theorem checkAccess_held (hw : s.lanesHeld (s.tlbOf ag) (s.ctxOf ag) ea (s.accLanes ag vec) = true) :
    s.checkAccess ag vec ea size rd wr dfr = .stop s.stall := by
  simp only [State.checkAccess, find_misaligned_eq_none h, hw, if_true]

variable (hw : s.lanesHeld (s.tlbOf ag) (s.ctxOf ag) ea (s.accLanes ag vec) = false)
include hw

theorem checkAccess_fault {c l : Nat}
    (hx : s.xlateLanes (s.tlbOf ag) (s.ctxOf ag) rd wr ea (s.accLanes ag vec) = .error (c, l)) :
    s.checkAccess ag vec ea size rd wr dfr = .stop (s.faultHere ag c (laneOf vec l) (ea l)
      (if vec then s.touchLanes (s.tlbOf ag) (s.ctxOf ag) rd wr ea (s.accLanes ag vec) else 0)) := by
  simp only [State.checkAccess, find_misaligned_eq_none h, hw, Bool.false_eq_true, if_false, hx]

variable {tr : List LaneTr} (hx : s.xlateLanes (s.tlbOf ag) (s.ctxOf ag) rd wr ea (s.accLanes ag vec) = .ok tr)
include hx

theorem checkAccess_deferred {c : Nat} {x : LaneTr} (hd : dfr = some c) (hf : tr.find? (fun y => bitAt y.leaf 53) = some x) :
    s.checkAccess ag vec ea size rd wr dfr = .stop (s.trap ag c (laneOf vec x.lane) 0 x.va) := by
  simp only [State.checkAccess, find_misaligned_eq_none h, hw, Bool.false_eq_true, if_false, hx, hd, hf]

theorem checkAccess_ok (hd : dfr = none ∨ ∀ x ∈ tr, bitAt x.leaf 53 = false) :
    s.checkAccess ag vec ea size rd wr dfr = .ok tr := by
  simp only [State.checkAccess, find_misaligned_eq_none h, hw, Bool.false_eq_true, if_false, hx]
  obtain rfl | hd := hd
  · rfl
  · have hf : tr.find? (fun y => bitAt y.leaf 53) = none := List.find?_eq_none.mpr fun x hmem => by simp [hd x hmem]
    rw [hf]
    cases dfr <;> rfl

end

section
variable {s : Machine.State} {ag : Agent} {f : MF} {r : AccReq} {regs : List (Opnd × Nat)} {ea : Nat → Nat} {val cmp : Nat → W64}

theorem access_range (h : s.regsOk ag regs = false) : s.access ag f r regs ea val cmp = s.trap ag 0x02 none 0 0 := by
  simp only [State.access, h, Bool.false_eq_true, if_false]

theorem access_stop (h : s.regsOk ag regs = true) {t : Machine.State}
    (hc : s.checkAccess ag r.vec ea (f.ty.bits / 8) r.rd r.wr r.dfr = .stop t) : s.access ag f r regs ea val cmp = t := by
  simp only [State.access, h, if_true, tyBits_eq, hc]

theorem access_full (h : s.regsOk ag regs = true) {tr : List LaneTr}
    (hc : s.checkAccess ag r.vec ea (f.ty.bits / 8) r.rd r.wr r.dfr = .ok tr)
    (hr : s.countRoom ag (s.flagFor ag f.fs) r.ld r.st = false) : s.access ag f r regs ea val cmp = s.stall := by
  simp only [State.access, h, if_true, tyBits_eq, hc, hr, Bool.false_eq_true, if_false]

theorem access_issues (h : s.regsOk ag regs = true) {tr : List LaneTr}
    (hc : s.checkAccess ag r.vec ea (f.ty.bits / 8) r.rd r.wr r.dfr = .ok tr)
    (hr : s.countRoom ag (s.flagFor ag f.fs) r.ld r.st = true) :
    s.access ag f r regs ea val cmp = (s.passed ag tr).addAccess ag f r tr val cmp := by
  simp only [State.access, h, if_true, tyBits_eq, hc, hr]

end

/-- Settles O40: each stop is one branch of the checks at issue. -/
theorem accessStops : Obligations.AccessStops := by
  rintro i s ag f r regs ea val cmp ⟨hi, -⟩ ha
  have hexec : ∀ {t}, s.access ag f r regs ea val cmp = t → Machine.exec i s = .next t :=
    fun ht => ht ▸ exec_of_accessOf hi ha
  refine ⟨fun h => hexec (access_range h), fun h => ⟨fun l hl => ?_, fun hl hw => ?_, fun hl hw => ⟨fun c l hx => ?_, fun tr hx => ⟨fun c x hd hf => ?_, fun hd hr => ?_⟩⟩⟩⟩
  · exact hexec (access_stop h (checkAccess_misaligned hl))
  · exact hexec (access_stop h (checkAccess_held hl hw))
  · exact hexec (access_stop h (checkAccess_fault hl hw hx))
  · exact hexec (access_stop h (checkAccess_deferred hl hw hx hd hf))
  · exact hexec (access_full h (checkAccess_ok hl hw hx hd) hr)

end Sys2Proof

/-! Waves that have been filled and not yet resumed. `State.putWave` writes such a wave to the save area too (R334), and `banked`
does not shut it out: what changes its registers or counts changes bytes of memory. Accesses, commits and offers of such a wave can
complete; that it issues is shut out by the selection alone, which the statements do not ask. -/

namespace Sys2Proof

open Sys2Proof.Machine

/-- A wave in the shadow bank, filled, with some vector registers allotted and the lanes of m active. -/
def filledWave (allot : Nat) (m : Mask) : Wave := { tV with bank := .filled, allot := allot, p0 := { tV.p0 with mask := m } }

/-- The state of such a wave, on dies that are ready and with a page for address 65,536. -/
def filledState (v : Wave) : Machine.State :=
  tPage { tWave v with dev := { Machine.State.reset.dev with ready := 0xF } }

/-- The first byte of the PC slot state in the wave's record of the save area. -/
def filledByte : Nat := 0x40008F8

theorem banked_filled (s : Machine.State) (w : Nat) (v : Wave) (hv : s.wave w = some v) (hb : v.bank = .filled) : s.banked (.wave w) :=
  ⟨v, hv, by rw [hb]; nofun⟩

theorem tNext_eq {o : Host.Outcome Machine.State Fault Refusal} {t : Machine.State} (h : o = .next t) : tNext o = t := by
  rw [h]; rfl

/-- A byte that differs after an instruction shows that not all bytes stay. -/
theorem not_sameBytes_of_get {s t : Machine.State} {i : Instr} {x : Nat} (h : Machine.exec i s = .next t)
    (hx : Memory.get (tNext (Machine.exec i s)).mem x ≠ Memory.get s.mem x) : ¬SameBytes s t := fun hb =>
  hx (tNext_eq h ▸ (hb x).1)

/-! ### A store of no lane at issue -/

/-- ST of s5, whose operands name no vector register. -/
def filledStore : MF := ⟨.s 5, .s 20, .none, .n32, .wave, .relaxed, false, 0⟩

set_option maxRecDepth 40000 in
theorem store_of_filled_changes_byte :
    Memory.get (tNext (Machine.exec (.st filledStore) (filledState (filledWave 0 0)))).mem filledByte ≠
      Memory.get (filledState (filledWave 0 0)).mem filledByte := by decide

/-- Refutes O39: the count that a store of a filled wave raises is written to the wave's record in the save area. -/
theorem not_accessIssues : ¬ Obligations.AccessIssues := by
  intro h
  obtain ⟨t, a, ht, -, -, -, -, -, -, -, -, -, -, -, -, -, -, -, -, -, -, hu⟩ :=
    h (.st filledStore) (filledState (filledWave 0 0)) (.wave 0) filledStore _ _ _ _ _ [] (tReady _ _ rfl rfl rfl)
      (banked_filled _ _ _ rfl rfl) rfl (by decide) (by decide) (by decide) (by rfl) (.inr nofun) (by decide)
  exact not_sameBytes_of_get ht store_of_filled_changes_byte hu.bytes

/-! ### A load of a lane from the scratchpad -/

/-- LDSP of v0. -/
def filledLoad : MF := ⟨.v 0, .s 10, .none, .n32, .block, .relaxed, false, 0⟩

set_option maxRecDepth 40000 in
theorem padLoad_of_filled_changes_byte :
    Memory.get (tNext (Machine.exec (.ldsp filledLoad) (filledState (filledWave 1 1)))).mem filledByte ≠
      Memory.get (filledState (filledWave 1 1)).mem filledByte := by decide

set_option maxRecDepth 40000 in
/-- Refutes O42: what LDSP loads into a register of a filled wave is written to the save area. -/
theorem not_scratchpadAccess : ¬ Obligations.ScratchpadAccess := by
  intro h
  obtain ⟨-, hload, -⟩ := h filledLoad (filledState (filledWave 1 1)) (.wave 0) false (banked_filled _ _ _ rfl rfl)
  obtain ⟨t, ht, hbytes, -⟩ := hload (tReady _ _ rfl rfl rfl) (by decide) (by decide) (by decide)
  exact not_sameBytes_of_get ht padLoad_of_filled_changes_byte (hbytes (by decide) (.inl rfl)).1

/-! ### A load of a lane from memory that completes -/

/-- A load of one lane is incomplete. -/
def filledAccess : Machine.State :=
  { filledState (filledWave 1 0) with path := { Machine.State.reset.path with acc := [tAcc .load .relaxed] } }

/-- An access of one lane that may be performed completes, whatever number of lanes the step performs (log entry 15). -/
theorem exec_accessComplete_one {s : Machine.State} {n : Nat} {a : Access} {l : LaneAcc} (ha : s.findAcc n = some a) (hm : s.mayPerform a = true)
    (hl : a.lanes = [l]) (ho : a.ord ≠ .release) :
    Machine.exec (.accessComplete n) s = .next (((({ s with free := s.free + 1 }).someLanes n 1).logRecs n).closeAccess n) := by
  show execAccessComplete n s = _
  have hone : min (1 + Config.lanesNow s.free) [l].length = 1 := Nat.min_eq_right (Nat.le_add_right 1 _)
  simp only [execAccessComplete, ha, hm, hl, hone, ho, if_true, decide_false, Bool.false_and, Bool.false_eq_true, if_false]

set_option maxRecDepth 40000 in
theorem access_of_filled_changes_byte :
    Memory.get (((({ filledAccess with free := 1 }).someLanes 5 1).logRecs 5).closeAccess 5).mem filledByte ≠
      Memory.get filledAccess.mem filledByte := by decide

set_option maxRecDepth 40000 in
/-- Refutes O41: a load that completes for a filled wave writes its register to the save area. -/
theorem not_accessPerformed : ¬ Obligations.AccessPerformed := by
  intro h
  obtain ⟨hone, -⟩ := h filledAccess 5 (tAcc .load .relaxed) rfl (banked_filled _ _ _ rfl rfl)
  obtain ⟨t, ht, -, hmem, -⟩ := hone _ 0x10000 rfl rfl rfl rfl (by decide) (by decide) (by decide) (by decide) (by decide) (by decide)
    (fun e => absurd e (by decide)) rfl (fun _ _ e => by cases e)
  rw [exec_accessComplete_one rfl (by decide) rfl (by decide)] at ht
  exact access_of_filled_changes_byte (Host.Outcome.next.inj ht ▸ hmem filledByte)

/-! ### A commit that is over -/

/-- A commit that has nothing left to wait for. -/
def filledCommit : Machine.State :=
  { filledState (filledWave 0 0) with dfd := { Machine.State.reset.dfd with commits := [tCommit] } }

set_option maxRecDepth 40000 in
theorem commit_of_filled_changes_byte :
    Memory.get (tNext (Machine.exec (.commitComplete 5) filledCommit)).mem filledByte ≠ Memory.get filledCommit.mem filledByte := by decide

set_option maxRecDepth 40000 in
/-- Refutes O45: the status word of a commit of a filled wave is written to the save area. -/
theorem not_commitsAndFlushes : ¬ Obligations.CommitsAndFlushes := by
  intro h
  obtain ⟨-, -, -, hdone, -⟩ := h
  obtain ⟨t, ht, -, hbytes, -⟩ := hdone filledCommit 5 tCommit (.wave 0) _ false false (.s 2) rfl rfl rfl rfl rfl (by decide)
    (banked_filled _ _ _ rfl rfl) (by decide) nofun
  exact not_sameBytes_of_get ht commit_of_filled_changes_byte (hbytes rfl)

/-! ### A command block that is offered -/

/-- MFILL of the block at s10. -/
def filledFill : MF := tMF (.s 2) (.s 10) .none .i32 .device .relaxed 0

/-- The block at 65,536 names the handle 1, its engine's own. -/
def filledBlock : Machine.State :=
  { filledState ({ filledWave 0 0 with sreg := (tV.with 10 0x10000).sreg }) with mem := [⟨0x1000C, 1⟩] }

set_option maxRecDepth 40000 in
theorem offer_of_filled_changes_byte :
    Memory.get (tNext (Machine.exec (.mfill filledFill) filledBlock)).mem filledByte ≠ Memory.get filledBlock.mem filledByte := by decide

set_option maxRecDepth 40000 in
/-- Refutes O47: the flag counts of a filled wave that offers a block are written to the save area. -/
theorem not_commandBlocks : ¬ Obligations.CommandBlocks := by
  intro h
  obtain ⟨hissue, -⟩ := h
  obtain ⟨t, ht, -, hblock⟩ := hissue (.mfill filledFill) filledFill 4 filledBlock (.wave 0) 0x10000 0x10007 (tReady _ _ rfl rfl rfl)
    (banked_filled _ _ _ rfl rfl) (by simp) (by decide) (by decide) (by decide) (by decide) (by decide)
  obtain ⟨hoffer, -⟩ := hblock 0x10000 (by decide) (by decide) (by decide) rfl (by decide)
  exact not_sameBytes_of_get ht offer_of_filled_changes_byte (hoffer (by decide) (by decide) (by decide)).1

end Sys2Proof

/-! What reading page tables, memory and other devices at issue costs: free values, TLB entries and what is counted against the
budgets of the controllers and of the fabric (R33, R233, R339). Nothing else of the machine changes. -/

namespace Sys2Proof

open Sys2Proof.Machine

/-- A state with other free values, TLB entries, scheduling nodes and counts against the HBM budgets. -/
def Machine.State.spend (s : Machine.State) (free : Nat) (tlb : List TlbEntry) (nodes : Map Node) (used : Map Nat) : Machine.State :=
  { s with free := free, path := { s.path with tlb := tlb }, sch := { s.sch with nodes := nodes },
           dev := { s.dev with hbmUsed := used } }

/-- Scheduling nodes without what is counted against their fabric budgets. -/
def unsent (l : Map Node) : Map Node := l.map (fun e => (e.1, { e.2 with sent := 0 }))

/-- State t differs from s in free values, TLB entries and counts against the budgets only. -/
def Charged (s t : Machine.State) : Prop := ∃ free tlb nodes used, t = s.spend free tlb nodes used ∧ unsent nodes = unsent s.sch.nodes

theorem Charged.refl (s : Machine.State) : Charged s s := ⟨s.free, s.path.tlb, s.sch.nodes, s.dev.hbmUsed, rfl, rfl⟩

theorem Charged.trans {s t u : Machine.State} (h : Charged s t) (g : Charged t u) : Charged s u := by
  obtain ⟨_, _, _, _, rfl, hn⟩ := h
  obtain ⟨f, l, n, m, rfl, gn⟩ := g
  exact ⟨f, l, n, m, rfl, gn.trans hn⟩

theorem Charged.free (s : Machine.State) (n : Nat) : Charged s { s with free := n } := ⟨n, s.path.tlb, s.sch.nodes, s.dev.hbmUsed, rfl, rfl⟩

theorem Charged.useHbm (s : Machine.State) (pa n : Nat) : Charged s (s.useHbm pa n) := by
  unfold State.useHbm
  split
  · exact ⟨s.free, s.path.tlb, s.sch.nodes, _, rfl, rfl⟩
  · exact Charged.refl s

theorem unsent_each (l : Map Node) (f : Nat → Node → Node) (hf : ∀ a n, { f a n with sent := 0 } = { n with sent := 0 }) :
    unsent (Map.each l f) = unsent l := by
  simp only [unsent, Map.each, List.map_map]
  exact List.map_congr_left fun e _ => by simp only [Function.comp_apply, hf]

theorem Charged.chargeFab (s : Machine.State) (x n : Nat) : Charged s (s.chargeFab x n) := by
  unfold State.chargeFab
  split
  · exact Charged.refl s
  · split
    · refine ⟨s.free, s.path.tlb, _, s.dev.hbmUsed, rfl, unsent_each _ _ fun a m => ?_⟩
      split_ifs <;> rfl
    · exact Charged.refl s

theorem Charged.foldl {β : Type} (f : Machine.State → β → Machine.State) (hf : ∀ t b, Charged t (f t b)) (l : List β) (s : Machine.State) :
    Charged s (l.foldl f s) := by
  induction l generalizing s with
  | nil => exact Charged.refl s
  | cons b l ih => exact (hf s b).trans (ih _)

theorem Charged.readsMade (s : Machine.State) (x : Nat) (l : List Nat) : Charged s (s.readsMade x l) := by
  refine (Charged.chargeFab s x _).trans (Charged.foldl _ (fun t ea => ?_) l _)
  split
  · exact Charged.useHbm _ _ _
  · exact Charged.refl t

theorem Charged.keepTlb (s : Machine.State) (u x va : Nat) (e : W64) : Charged s (s.keepTlb u x va e) := by
  have hreads : Charged s (({ s with free := s.free + 1 } : Machine.State).readsMade x (s.walkReads u x va)) :=
    (Charged.free s _).trans (Charged.readsMade _ _ _)
  unfold State.keepTlb
  dsimp only
  split_ifs
  · exact hreads
  · exact hreads.trans ⟨_, _, _, _, rfl, rfl⟩

theorem Charged.keepLanes (s t : Machine.State) (u x : Nat) (l : List LaneTr) :
    Charged t (l.foldl (fun t l => t.keepTlb u x l.va l.leaf) t) :=
  Charged.foldl _ (fun t l => Charged.keepTlb t u x l.va l.leaf) l t

/-! ### What such costs leave alone -/

section
variable (s : Machine.State) (f : Nat) (l : List TlbEntry) (n : Map Node) (u : Map Nat)

@[simp] theorem spend_wave (w : Nat) : (s.spend f l n u).wave w = s.wave w := rfl
@[simp] theorem spend_thread (c t : Nat) : (s.spend f l n u).thread c t = s.thread c t := rfl

/-- A wave passes its checks alike whatever it has cost. -/
theorem spend_passes (ag : Agent) (b : Bool) : (s.spend f l n u).passes ag b = (s.passes ag b).spend f l n u := by
  cases ag with
  | thread c t => rfl
  | wave w =>
    simp only [State.passes, spend_wave]
    split
    · rfl
    · split
      · split
        · rfl
        · split <;> rfl
      · rfl

end

/-! ### Passing the checks of an instruction (R316) -/

/-- All that passing its checks does to an agent: a first-touch of a wave may be over, and with it a pool's reserve. -/
theorem passes_cases (s : Machine.State) (ag : Agent) (b : Bool) :
    s.passes ag b = s ∨ ∃ w v l fl, ag = .wave w ∧ s.wave w = some v ∧
      s.passes ag b = { s.setWave w { v with touched := l } with flt := fl } := by
  cases ag with
  | thread c t => exact .inl rfl
  | wave w =>
    unfold State.passes
    dsimp only
    split
    · exact .inl rfl
    · next v hv =>
      split
      · next e _ =>
        split
        · exact .inl rfl
        · refine .inr ⟨w, v, v.touched.erase e, ?_⟩
          split
          · exact ⟨_, rfl, hv, rfl⟩
          · exact ⟨s.flt, rfl, hv, rfl⟩
      · exact .inl rfl

theorem Passing.refl (ag : Agent) (s : Machine.State) : Passing ag s s := ⟨fun _ => ⟨rfl, rfl⟩, rfl, fun _ _ => rfl, fun _ _ => rfl⟩

theorem Passing.passes (s : Machine.State) (ag : Agent) (b : Bool) : Passing ag s (s.passes ag b) := by
  obtain h | ⟨w, v, l, fl, rfl, hv, h⟩ := passes_cases s ag b
  · rw [h]
    exact Passing.refl ag s
  · rw [h]
    refine ⟨fun _ => ⟨rfl, rfl⟩, rfl, fun i hi => ?_, fun _ _ => rfl⟩
    exact State.setWave_wave_other s w i _ (fun e => hi (by rw [e]))

theorem passes_issue (s : Machine.State) (ag : Agent) (b : Bool) : (s.passes ag b).issue = s.issue := by
  obtain h | ⟨w, v, l, fl, rfl, hv, h⟩ := passes_cases s ag b
  · rw [h]
  · rw [h]
    rfl

theorem passes_present {s : Machine.State} {ag : Agent} (b : Bool) (hp : ag.present s) : ag.present (s.passes ag b) := by
  obtain h | ⟨w, v, l, fl, rfl, hv, h⟩ := passes_cases s ag b
  · rwa [h]
  · rw [h]
    exact congrArg Option.isSome (State.setWave_wave_same s w _)

/-- The place of an agent is the same once its checks have passed. -/
theorem SamePlace.passes (s : Machine.State) (ag : Agent) (b : Bool) : SamePlace ag s (s.passes ag b) := by
  obtain h | ⟨w, v, l, fl, rfl, hv, h⟩ := passes_cases s ag b
  · rw [h]
    exact ⟨rfl, rfl⟩
  · rw [h]
    exact SamePlace.setWave (u := { v with touched := l }) hv rfl rfl rfl rfl

end Sys2Proof

/-! Capability handles (R173 to R177, R277). -/

namespace Sys2Proof

open Sys2Proof.Machine

/-! ### An agent's place under changes elsewhere -/

theorem SamePlace.ofAgents {s t : Machine.State} (ag : Agent) (hw : t.waves = s.waves) (ht : t.threads = s.threads) : SamePlace ag s t := by
  cases ag with
  | wave w => simp only [SamePlace, State.pcOf, State.codeOf, State.wave, hw, and_self]
  | thread c k => simp only [SamePlace, State.pcOf, State.codeOf, State.thread, ht, and_self]

theorem SamePlace.putReg (s : Machine.State) (ag : Agent) (o : Opnd) (wide sgn : Bool) (x : W64) : SamePlace ag s (s.putReg ag o wide sgn x) := by
  cases ag with
  | thread c k =>
    cases o with
    | q n => simp [SamePlace, State.putReg, State.pcOf, State.codeOf, Thread.putQ]
    | _ => exact ⟨rfl, rfl⟩
  | wave w =>
    cases o with
    | s n =>
      cases hv : s.wave w with
      | none => simp [SamePlace, State.putReg, hv]
      | some v =>
        simp only [State.putReg, hv]
        have hput (u : Wave) (m : Nat) (y : W32) : (u.putS m y).alt = u.alt ∧ (u.putS m y).path.pc = u.path.pc ∧
            (u.putS m y).path.slot = u.path.slot ∧ (u.putS m y).path.code = u.path.code := by
          obtain ⟨msk, hm⟩ := Wave.putS_path u m y
          exact ⟨(congrArg Wave.alt (Wave.putS_bare u m y) :), by rw [hm], by rw [hm], by rw [hm]⟩
        obtain ⟨a1, b1, c1, d1⟩ := hput v n.val (x.truncate 32)
        split
        · obtain ⟨a2, b2, c2, d2⟩ := hput (v.putS n.val (x.truncate 32)) (n.val + 1) ((x >>> (32 : Nat)).truncate 32)
          exact SamePlace.setWave hv (a2.trans a1) (b2.trans b1) (c2.trans c1) (d2.trans d1)
        · exact SamePlace.setWave hv a1 b1 c1 d1
    | _ => exact ⟨rfl, rfl⟩

theorem present_of_waves {s t : Machine.State} {ag : Agent} (hp : ag.present s) (hw : t.waves = s.waves) : ag.present t := by
  cases ag with
  | thread c k => trivial
  | wave w => simpa only [Agent.present, State.wave, hw] using hp

/-- A 32-bit result, for an instruction that may name no destination. -/
theorem put32_done {s : Machine.State} {ag : Agent} {k : ClauseKind} {o : Opnd} {x : Nat} (n : Nat) (hi : s.issue = some ⟨ag, false⟩)
    (hp : ag.present s) (hf : ag.fits k) (ho : o = .none ∨ regOk k false o = true) (hx : x < 2 ^ 32) :
    Kept ag s ((s.put32 ag o x).retire n .none) (dstRegs ag o false) [] false false ∧
      After s ((s.put32 ag o x).retire n .none) ag n ∧
      (o ≠ .none → ((s.put32 ag o x).retire n .none).reg ag o false = BitVec.ofNat 64 x) ∧
      (x = 0 → ((s.put32 ag o x).retire n .none).reg ag o false = 0) := by
  have hput := Kept.putReg ag s o false false (BitVec.ofNat 64 (x % 2 ^ 32)) (dstRegs ag o false) [] false false (fun _ hm => hm)
  have hafter : After s ((s.put32 ag o x).retire n .none) ag n :=
    (SamePlace.putReg s ag o false false _).after (after_retire _ ag n .none (by simpa [State.put32] using hi) (hput.present hp))
  refine ⟨kept_scalar s ag o false false _ n .none hi, hafter, ?_⟩
  rcases ho with rfl | ho
  · refine ⟨fun h => absurd rfl h, fun _ => ?_⟩
    cases ag <;> rfl
  · obtain ⟨⟨hreg, -⟩, -⟩ := put32_retire n hi hp hf ho hx
    have hval : ((s.put32 ag o x).retire n .none).reg ag o false = BitVec.ofNat 64 x := by
      refine hreg.trans (BitVec.eq_of_toNat_eq ?_)
      have : x < 2 ^ 64 := by omega
      simp [Ty.bits]
      omega
    exact ⟨fun _ => hval, fun h0 => by rw [hval, h0]; rfl⟩

/-! ### Entries of the handle table (R173, R175, R277) -/

theorem cap_of_dfd {s t : Machine.State} (h : t.dfd = s.dfd) (st e : Nat) : t.cap st e = s.cap st e := by rw [State.cap, h, State.cap]

@[simp] theorem setCap_cap_same (s : Machine.State) (st e : Nat) (c : Cap) : (s.setCap st e c).cap st e = c := by
  simp [State.setCap, State.cap]

theorem setCap_cap_other (s : Machine.State) {st e k j : Nat} (c : Cap) (h : k * 2048 + j ≠ st * 2048 + e) :
    (s.setCap st e c).cap k j = s.cap k j := by
  simp only [State.setCap, State.cap, Map.at_put_other _ _ _ _ _ h.symm]

/-- What becomes of an entry that is revoked. -/
def Machine.Cap.revoked (c : Cap) : Cap := if c.busy = 0 ∧ c.old = 0 then { Cap.free with gen := c.gen + 1 } else { c with state := 2 }

theorem revokeCap_eq (s : Machine.State) (st e : Nat) : s.revokeCap st e = s.setCap st e (s.cap st e).revoked := by
  simp only [State.revokeCap, State.dropCap, Cap.revoked]
  split <;> rfl

theorem resolve_eq {s : Machine.State} {x h : Nat} {p : Cap} (hr : s.resolve x h = some p) : p = s.cap (capStack h) (capEntry h) := by
  simp only [State.resolve, Option.ite_none_right_eq_some, Option.some.injEq] at hr
  exact hr.2.symm

/-- The entry of its own stack that a handle of CAPNEW names fits in 32 bits. -/
theorem handleOf_lt {st i : Nat} (g : BitVec 16) (hs : st < 12) (hi : i < 2048) : handleOf st i g.toNat < 2 ^ 32 := by
  have := g.isLt
  unfold handleOf
  omega

/-- The lowest free entry of a stack. -/
theorem freeCap_eq_some {s : Machine.State} {st i : Nat} (hi : i < 2048) (h0 : (s.cap st i).state = 0)
    (hlow : ∀ j, j < i → (s.cap st j).state ≠ 0) : s.freeCap st = some i := by
  rw [State.freeCap, List.find?_range_eq_some]
  refine ⟨by simpa using h0, List.mem_range.mpr hi, fun j hj => ?_⟩
  simpa using hlow j hj

theorem freeCap_eq_none {s : Machine.State} {st : Nat} (h : ∀ i, i < 2048 → (s.cap st i).state ≠ 0) : s.freeCap st = none := by
  rw [State.freeCap, List.find?_eq_none]
  intro i hi
  simpa using h i (List.mem_range.mp hi)

theorem freeCap_lt {s : Machine.State} {st i : Nat} (h : s.freeCap st = some i) : i < 2048 := by
  rw [State.freeCap] at h
  have := List.mem_of_find?_eq_some h
  rwa [List.mem_range] at this

/-! ### CAPNEW (R174) -/

section
variable {s : Machine.State} {ag : Agent} {f : SF} (hi : s.issue = some ⟨ag, false⟩)
include hi

theorem exec_capnew_badRange (h : s.srcBits ag 64 0 f.sa % 64 ≠ 0 ∨ s.srcBits ag 64 0 f.sb = 0 ∨ s.srcBits ag 64 0 f.sb % 64 ≠ 0) :
    Machine.exec (.capnew f) s = .next (s.trap ag 0x1C none 0 (s.srcBits ag 64 0 f.sa)) := by
  show execCapnew f s = _
  simp only [execCapnew, issued, hi, if_pos h]

variable (hr : ¬(s.srcBits ag 64 0 f.sa % 64 ≠ 0 ∨ s.srcBits ag 64 0 f.sb = 0 ∨ s.srcBits ag 64 0 f.sb % 64 ≠ 0))
include hr

theorem exec_capnew_fault {c : Nat} (hx : s.xlate (s.tlbOf ag) (s.ctxOf ag) (s.srcBits ag 64 0 f.sa) (f.imm.getLsbD 0) (f.imm.getLsbD 1) = .error c) :
    Machine.exec (.capnew f) s = .next (s.faultHere ag c none (s.srcBits ag 64 0 f.sa) 0) := by
  show execCapnew f s = _
  simp only [execCapnew, issued, hi, if_neg hr, hx]

variable {pa : Nat} {e : W64}
  (hx : s.xlate (s.tlbOf ag) (s.ctxOf ag) (s.srcBits ag 64 0 f.sa) (f.imm.getLsbD 0) (f.imm.getLsbD 1) = .ok (pa, e))
include hx

theorem exec_capnew_beyond (h : pageBytes (fld e 11 9) < s.srcBits ag 64 0 f.sa % pageBytes (fld e 11 9) + s.srcBits ag 64 0 f.sb ∨ hbmSize ≤ pa) :
    Machine.exec (.capnew f) s = .next (s.trap ag 0x1C none 0 (s.srcBits ag 64 0 f.sa)) := by
  show execCapnew f s = _
  simp only [execCapnew, issued, hi, if_neg hr, hx, if_pos h]

variable (hb : ¬(pageBytes (fld e 11 9) < s.srcBits ag 64 0 f.sa % pageBytes (fld e 11 9) + s.srcBits ag 64 0 f.sb ∨ hbmSize ≤ pa))
include hb

theorem exec_capnew_waits
    (h : s.offered ag (pa / 2 ^ 36) = true ∨ s.walkHeld (s.tlbOf ag) (s.ctxOf ag) (s.srcBits ag 64 0 f.sa) = true) :
    Machine.exec (.capnew f) s = .next s.stall := by
  show execCapnew f s = _
  simp only [execCapnew, issued, hi, if_neg hr, hx, if_neg hb, Bool.or_eq_true, if_pos h]

variable (hw : s.offered ag (pa / 2 ^ 36) = false ∧ s.walkHeld (s.tlbOf ag) (s.ctxOf ag) (s.srcBits ag 64 0 f.sa) = false)
include hw

theorem exec_capnew_lost (h : s.stackCut ag (pa / 2 ^ 36) = true) :
    Machine.exec (.capnew f) s = .next ((((((s.keepTlb (s.tlbOf ag) (s.ctxOf ag) (s.srcBits ag 64 0 f.sa) e).passes ag false).stackLost ag
      (pa / 2 ^ 36)).put32 ag f.dst 0).retire (nSlots [f.sa, f.sb]) .none)) := by
  show execCapnew f s = _
  simp only [execCapnew, issued, hi, if_neg hr, hx, if_neg hb, hw, Bool.or_self, Bool.false_eq_true, if_false, h, if_true]

/-- A range of a stack that can be reached: the entry is made, if one is free. -/
theorem exec_capnew_made (h : s.stackCut ag (pa / 2 ^ 36) = false) {s1 : Machine.State}
    (h1 : s1 = (s.keepTlb (s.tlbOf ag) (s.ctxOf ag) (s.srcBits ag 64 0 f.sa) e).passes ag false) :
    (s1.freeCap (pa / 2 ^ 36) = none → Machine.exec (.capnew f) s = .next ((s1.put32 ag f.dst 0).retire (nSlots [f.sa, f.sb]) .none)) ∧
    (∀ i, s1.freeCap (pa / 2 ^ 36) = some i → Machine.exec (.capnew f) s =
      .next (((s1.setCap (pa / 2 ^ 36) i ⟨1, f.imm.getLsbD 1, f.imm.getLsbD 0, 0, s.ctxOf ag, (s1.cap (pa / 2 ^ 36) i).gen, 0, 0, pa,
        BitVec.ofNat 64 (s.srcBits ag 64 0 f.sb)⟩).put32 ag f.dst (handleOf (pa / 2 ^ 36) i (s1.cap (pa / 2 ^ 36) i).gen.toNat)).retire
          (nSlots [f.sa, f.sb]) .none)) := by
  subst h1
  constructor
  · intro hn
    show execCapnew f s = _
    simp only [execCapnew, issued, hi, if_neg hr, hx, if_neg hb, hw, Bool.or_self, Bool.false_eq_true, if_false, h, hn]
  · intro i hn
    show execCapnew f s = _
    simp only [execCapnew, issued, hi, if_neg hr, hx, if_neg hb, hw, Bool.or_self, Bool.false_eq_true, if_false, h, hn]

end

/-- Keeping a translation and passing the checks commute. -/
theorem keepTlb_passes (s : Machine.State) (ag : Agent) (u x va : Nat) (e : W64) :
    ∃ free tlb nodes used, (s.keepTlb u x va e).passes ag false = (s.passes ag false).spend free tlb nodes used ∧
      unsent nodes = unsent s.sch.nodes := by
  obtain ⟨free, tlb, nodes, used, h, hn⟩ := Charged.keepTlb s u x va e
  exact ⟨free, tlb, nodes, used, by rw [h, spend_passes], hn⟩

/-- What a charged state whose agent has passed its checks keeps. -/
theorem spend_entries (s : Machine.State) (free : Nat) (tlb : List TlbEntry) (nodes : Map Node) (used : Map Nat) (ag : Agent) :
    ((s.passes ag false).spend free tlb nodes used).dfd = s.dfd :=
  (congrArg State.dfd (Passing.passes s ag false).rest :)

/-- What CAPNEW leaves of a state whose checks it has passed: an entry that is made or none, and the word of its result. -/
theorem capnew_leaves {s : Machine.State} {ag : Agent} {k : ClauseKind} {f : SF} {x n : Nat} {D : Deferred} {free : Nat}
    {tlb : List TlbEntry} {nodes : Map Node} {used : Map Nat} (hi : s.issue = some ⟨ag, false⟩) (hp : ag.present s) (hf : ag.fits k)
    (ho : f.dst = .none ∨ regOk k false f.dst = true) (hx : x < 2 ^ 32) (hn : unsent nodes = unsent s.sch.nodes) :
    let t := ((({ (s.passes ag false).spend free tlb nodes used with dfd := D } : Machine.State).put32 ag f.dst x).retire n .none)
    After s t ag n ∧ SameBytes s t ∧
      Kept ag { s.passes ag false with dfd := t.dfd, free := t.free, path := { s.path with tlb := t.path.tlb },
                                       sch := { s.sch with nodes := t.sch.nodes }, dev := { s.dev with hbmUsed := t.dev.hbmUsed } } t
        (dstRegs ag f.dst false) [] false false ∧
      unsent t.sch.nodes = unsent s.sch.nodes ∧ t.dfd = D ∧
      (f.dst ≠ .none → t.reg ag f.dst false = BitVec.ofNat 64 x) ∧ (x = 0 → t.reg ag f.dst false = 0) := by
  intro t
  let s1 : Machine.State := { (s.passes ag false).spend free tlb nodes used with dfd := D }
  have hpass := Passing.passes s ag false
  have hplace : SamePlace ag s s1 := (SamePlace.passes s ag false).trans (SamePlace.ofAgents ag rfl rfl)
  obtain ⟨hkept, hafter, hval, hzero⟩ := put32_done (s := s1) (x := x) n ((passes_issue s ag false).trans hi)
    (present_of_waves (passes_present false hp) rfl) hf ho hx
  have hrest : t.rest = s1.rest := hkept.rest
  have hdfd : t.dfd = D := (congrArg State.dfd hrest :)
  have hfree : t.free = free := (congrArg State.free hrest :)
  have hpath : t.path = { (s.passes ag false).path with tlb := tlb } := (congrArg State.path hrest :)
  have hsch : t.sch = { (s.passes ag false).sch with nodes := nodes } := (congrArg State.sch hrest :)
  have hdev : t.dev = { (s.passes ag false).dev with hbmUsed := used } := (congrArg State.dev hrest :)
  have hpath0 : (s.passes ag false).path = s.path := (congrArg State.path hpass.rest :)
  have hsch0 : (s.passes ag false).sch = s.sch := (congrArg State.sch hpass.rest :)
  have hdev0 : (s.passes ag false).dev = s.dev := (congrArg State.dev hpass.rest :)
  refine ⟨hplace.after hafter, fun a => ⟨(hkept.bytes a).1.trans (hpass.bytes a).1, (hkept.bytes a).2.trans (hpass.bytes a).2⟩, ?_, ?_, hdfd, hval, hzero⟩
  · rw [hdfd, hfree, hpath, hsch, hdev, ← hpath0, ← hsch0, ← hdev0]
    exact hkept
  · rw [hsch]
    exact hn

theorem legal_capnew {k : ClauseKind} {f : SF} (h : legal k (.capnew f) = true) : regOk k false f.dst = true := by
  simp only [legal, Instr.view, legalS, Bool.and_eq_true] at h
  obtain ⟨⟨⟨⟨-, hd⟩, -⟩, -⟩, -⟩ := h
  exact hd

/-- A range of a stack that can be reached: CAPNEW makes its lowest free entry, or gives 0. -/
theorem capnew_makes {s : Machine.State} {ag : Agent} {f : SF} {pa : Nat} {e : W64} (hready : Ready s ag (.capnew f))
    (hr : ¬(s.srcBits ag 64 0 f.sa % 64 ≠ 0 ∨ s.srcBits ag 64 0 f.sb = 0 ∨ s.srcBits ag 64 0 f.sb % 64 ≠ 0))
    (hx : s.xlate (s.tlbOf ag) (s.ctxOf ag) (s.srcBits ag 64 0 f.sa) (f.imm.getLsbD 0) (f.imm.getLsbD 1) = .ok (pa, e))
    (hb : ¬(pageBytes (fld e 11 9) < s.srcBits ag 64 0 f.sa % pageBytes (fld e 11 9) + s.srcBits ag 64 0 f.sb ∨ hbmSize ≤ pa))
    (hw : s.offered ag (pa / 2 ^ 36) = false ∧ s.walkHeld (s.tlbOf ag) (s.ctxOf ag) (s.srcBits ag 64 0 f.sa) = false)
    (hc : s.stackCut ag (pa / 2 ^ 36) = false) :
    ∃ t, Machine.exec (.capnew f) s = .next t ∧ After s t ag (nSlots [f.sa, f.sb]) ∧ SameBytes s t ∧
      Kept ag { s.passes ag false with dfd := t.dfd, free := t.free, path := { s.path with tlb := t.path.tlb },
                                       sch := { s.sch with nodes := t.sch.nodes }, dev := { s.dev with hbmUsed := t.dev.hbmUsed } } t
        (dstRegs ag f.dst false) [] false false ∧
      unsent t.sch.nodes = unsent s.sch.nodes ∧
      (∀ i, i < 2048 → (s.cap (pa / 2 ^ 36) i).state = 0 → (∀ j, j < i → (s.cap (pa / 2 ^ 36) j).state ≠ 0) →
        t.cap (pa / 2 ^ 36) i = ⟨1, f.imm.getLsbD 1, f.imm.getLsbD 0, 0, s.ctxOf ag, (s.cap (pa / 2 ^ 36) i).gen, 0, 0, pa,
          BitVec.ofNat 64 (s.srcBits ag 64 0 f.sb)⟩ ∧
        (∀ k j, (k * 2048 + j ≠ pa / 2 ^ 36 * 2048 + i) → t.cap k j = s.cap k j) ∧
        t.reg ag f.dst false =
          BitVec.ofNat 64 ((pa / 2 ^ 36 * 2 ^ 28 + i * 2 ^ 17 + (s.cap (pa / 2 ^ 36) i).gen.toNat * 2 + 1) % 2 ^ 32)) ∧
      ((∀ i, i < 2048 → (s.cap (pa / 2 ^ 36) i).state ≠ 0) → t.reg ag f.dst false = 0 ∧ t.dfd = s.dfd) := by
  obtain ⟨hi, hp, k, hf, hl⟩ := hready
  have hdst := legal_capnew hl
  have hnone : f.dst ≠ .none := fun h => by rw [h] at hdst; exact nomatch hdst
  obtain ⟨free, tlb, nodes, used, hstate, hn⟩ := keepTlb_passes s ag (s.tlbOf ag) (s.ctxOf ag) (s.srcBits ag 64 0 f.sa) e
  obtain ⟨hfull, hmade⟩ := exec_capnew_made hi hr hx hb hw hc hstate.symm
  have hdfd := spend_entries s free tlb nodes used ag
  have hcap (st i : Nat) : ((s.passes ag false).spend free tlb nodes used).cap st i = s.cap st i := by rw [State.cap, hdfd, State.cap]
  have hstack : pa / 2 ^ 36 < 12 := Nat.div_lt_of_lt_mul (by have := not_le.mp (not_or.mp hb).2; unfold hbmSize at this; omega)
  cases hfc : ((s.passes ag false).spend free tlb nodes used).freeCap (pa / 2 ^ 36) with
  | none =>
    obtain ⟨hafter, hbytes, hkept, hnodes, hd, -, hzero⟩ := capnew_leaves (D := ((s.passes ag false).spend free tlb nodes used).dfd) (n := nSlots [f.sa, f.sb]) hi hp hf (.inr hdst) (by decide : 0 < 2 ^ 32) hn
    refine ⟨_, hfull hfc, hafter, hbytes, hkept, hnodes, fun i hi2 h0 hlow => ?_, fun _ => ⟨hzero rfl, hd.trans hdfd⟩⟩
    rw [freeCap_eq_some hi2 (by rw [hcap, h0]) (fun j hj => by rw [hcap]; exact hlow j hj)] at hfc
    exact nomatch hfc
  | some i0 =>
    have hi0 := freeCap_lt hfc
    have hlt := handleOf_lt (((s.passes ag false).spend free tlb nodes used).cap (pa / 2 ^ 36) i0).gen hstack hi0
    obtain ⟨hafter, hbytes, hkept, hnodes, hd, hval, -⟩ := capnew_leaves (n := nSlots [f.sa, f.sb])
      (D := (((s.passes ag false).spend free tlb nodes used).setCap (pa / 2 ^ 36) i0 ⟨1, f.imm.getLsbD 1, f.imm.getLsbD 0, 0, s.ctxOf ag,
        (((s.passes ag false).spend free tlb nodes used).cap (pa / 2 ^ 36) i0).gen, 0, 0, pa, BitVec.ofNat 64 (s.srcBits ag 64 0 f.sb)⟩).dfd)
      hi hp hf (.inr hdst) hlt hn
    refine ⟨_, hmade i0 hfc, hafter, hbytes, hkept, hnodes, fun i hi2 h0 hlow => ?_, fun hall => ?_⟩
    · have hsame : i0 = i := by
        rw [freeCap_eq_some hi2 (by rw [hcap, h0]) (fun j hj => by rw [hcap]; exact hlow j hj)] at hfc
        exact (Option.some.inj hfc).symm
      subst hsame
      refine ⟨?_, fun st j hne => ?_, ?_⟩
      · exact (cap_of_dfd hd _ _).trans ((setCap_cap_same _ _ _ _).trans (by rw [hcap]))
      · exact (cap_of_dfd hd _ _).trans ((setCap_cap_other _ _ hne).trans (hcap st j))
      · rw [hcap] at hlt
        refine (hval hnone).trans ?_
        rw [hcap]
        exact congrArg _ (Nat.mod_eq_of_lt hlt).symm
    · rw [freeCap_eq_none (fun i hi2 => by rw [hcap]; exact hall i hi2)] at hfc
      exact nomatch hfc

/-! ### CAPSWAP, CAPREV and CAPQRY (R175, R176) -/

/-- A state with other deferred parts. -/
def Machine.State.withDfd (s : Machine.State) (D : Deferred) : Machine.State := { s with dfd := D }

/-- Revoking an entry changes the handle table alone. -/
theorem revokeCap_dfd (s : Machine.State) (st e : Nat) : s.revokeCap st e = s.withDfd (s.revokeCap st e).dfd := by
  rw [revokeCap_eq]
  rfl

theorem cap_eq_of_dfd {t : Machine.State} {D : Deferred} {st e : Nat} {c : Cap} (h : t.dfd = D)
    (hc : Map.at D.caps (st * 2048 + e) Cap.free = c) : t.cap st e = c := by rw [State.cap, h, hc]

/-- A handle instruction that leaves the table as D gives it, and writes one word. -/
theorem handle_done {s : Machine.State} {ag : Agent} {k : ClauseKind} {o : Opnd} {x : Nat} (D : Deferred) (hi : s.issue = some ⟨ag, false⟩)
    (hp : ag.present s) (hf : ag.fits k) (ho : o = .none ∨ regOk k false o = true) (hx : x < 2 ^ 32) :
    let t := ((s.withDfd D).put32 ag o x).retire 1 .none
    After s t ag 1 ∧ Kept ag { s with dfd := t.dfd } t (dstRegs ag o false) [] false false ∧ t.dfd = D ∧
      (o ≠ .none → t.reg ag o false = BitVec.ofNat 64 x) ∧ (x = 0 → t.reg ag o false = 0) := by
  intro t
  obtain ⟨hkept, hafter, hval, hzero⟩ := put32_done (s := s.withDfd D) (x := x) 1 hi (present_of_waves hp rfl) hf ho hx
  have hd : t.dfd = D := (congrArg State.dfd hkept.rest :)
  exact ⟨(SamePlace.ofAgents ag rfl rfl).after hafter, by rw [hd]; exact hkept, hd, hval, hzero⟩

theorem legal_capswap {k : ClauseKind} {f : SF} (h : legal k (.capswap f) = true) : f.dst = .none ∨ regOk k false f.dst = true := by
  simp only [legal, Instr.view, legalS, Bool.and_eq_true, Bool.or_eq_true, isNone, beq_iff_eq] at h
  obtain ⟨⟨⟨⟨-, hd⟩, -⟩, -⟩, -⟩ := h
  exact hd

theorem legal_caprev {k : ClauseKind} {f : SF} (h : legal k (.caprev f) = true) : f.dst = .none ∨ regOk k false f.dst = true := by
  simp only [legal, Instr.view, legalS, Bool.and_eq_true, Bool.or_eq_true, isNone, beq_iff_eq] at h
  obtain ⟨⟨⟨-, hd⟩, -⟩, -⟩ := h
  exact hd

theorem legal_capqry {k : ClauseKind} {f : SF} (h : legal k (.capqry f) = true) : regOk k false f.dst = true := by
  simp only [legal, Instr.view, legalS, Bool.and_eq_true] at h
  obtain ⟨⟨⟨-, hd⟩, -⟩, -⟩ := h
  exact hd

section
variable {s : Machine.State} {ag : Agent} {f : SF} (hi : s.issue = some ⟨ag, false⟩)

/-- The two entries of a CAPSWAP that changes both. -/
def Swaps (s : Machine.State) (x a b : Nat) (p q : Cap) : Prop :=
  s.resolve x a = some p ∧ s.resolve x b = some q ∧ capStack a = capStack b ∧ capEntry a ≠ capEntry b

/-- The table after CAPSWAP: a's entry names b's region, and b's is revoked (R175). -/
def swapped (s : Machine.State) (a b : Nat) (p q : Cap) : Deferred :=
  let k := capStack a * 2048 + capEntry a
  let s1 := s.setCap (capStack a) (capEntry a) { p with base := q.base, bound := q.bound, rd := q.rd, wr := q.wr, old := p.old + p.busy, busy := 0 }
  let s2 : Machine.State := { s1 with dfd := { s1.dfd with swaps := Map.put s1.dfd.swaps k (Map.at s1.dfd.swaps k 0 + 1) } }
  (s2.revokeCap (capStack b) (capEntry b)).dfd

include hi

theorem exec_capswap_swaps {p q : Cap} (ha : s.offered ag (capStack (s.srcBits ag 32 0 f.sa)) = false)
    (hb : s.offered ag (capStack (s.srcBits ag 32 0 f.sb)) = false) (hc : s.stackCut ag (capStack (s.srcBits ag 32 0 f.sa)) = false)
    (h : Swaps s (s.ctxOf ag) (s.srcBits ag 32 0 f.sa) (s.srcBits ag 32 0 f.sb) p q) :
    Machine.exec (.capswap f) s = .next (((s.withDfd (swapped s (s.srcBits ag 32 0 f.sa) (s.srcBits ag 32 0 f.sb) p q)).put32 ag
      f.dst 1).retire 1 .none) := by
  obtain ⟨hp, hq, hs, he⟩ := h
  show execCapswap f s = _
  simp only [execCapswap, issued, hi, ha, hb, hc, Bool.or_self, Bool.false_eq_true, if_false, hp, hq, if_pos (And.intro hs he)]
  rw [revokeCap_dfd]
  rfl

theorem exec_capswap_fails (ha : s.offered ag (capStack (s.srcBits ag 32 0 f.sa)) = false)
    (hb : s.offered ag (capStack (s.srcBits ag 32 0 f.sb)) = false) (hc : s.stackCut ag (capStack (s.srcBits ag 32 0 f.sa)) = false)
    (h : ∀ p q, ¬Swaps s (s.ctxOf ag) (s.srcBits ag 32 0 f.sa) (s.srcBits ag 32 0 f.sb) p q) :
    Machine.exec (.capswap f) s = .next ((s.put32 ag f.dst 0).retire 1 .none) := by
  show execCapswap f s = _
  simp only [execCapswap, issued, hi, ha, hb, hc, Bool.or_self, Bool.false_eq_true, if_false]
  split
  · next p q hp hq => rw [if_neg (fun hse => h p q ⟨hp, hq, hse⟩)]
  · rfl

end

theorem swapped_first (s : Machine.State) {a b : Nat} (p q : Cap) (h : capStack a = capStack b) (he : capEntry a ≠ capEntry b) :
    Map.at (swapped s a b p q).caps (capStack a * 2048 + capEntry a) Cap.free =
      { p with base := q.base, bound := q.bound, rd := q.rd, wr := q.wr, old := p.old + p.busy, busy := 0 } := by
  unfold swapped
  dsimp only
  rw [revokeCap_eq]
  refine (setCap_cap_other _ _ (by rw [h]; omega)).trans ?_
  exact setCap_cap_same s _ _ _

theorem swapped_second (s : Machine.State) {a b : Nat} (p q : Cap) (h : capStack a = capStack b) (he : capEntry a ≠ capEntry b) :
    Map.at (swapped s a b p q).caps (capStack b * 2048 + capEntry b) Cap.free = (s.cap (capStack b) (capEntry b)).revoked := by
  unfold swapped
  dsimp only
  rw [revokeCap_eq]
  refine (setCap_cap_same _ _ _ _).trans (congrArg Cap.revoked ?_)
  exact setCap_cap_other s _ (by rw [h]; omega)

section
variable {s : Machine.State} {ag : Agent} {f : SF} (hi : s.issue = some ⟨ag, false⟩)
  (ha : s.offered ag (capStack (s.srcBits ag 32 0 f.sa)) = false)
include hi

theorem exec_handle_waits {i : Instr} (h : s.offered ag (capStack (s.srcBits ag 32 0 f.sa)) = true)
    (hinstr : i = .capswap f ∨ i = .caprev f ∨ i = .capqry f) : Machine.exec i s = .next s.stall := by
  rcases hinstr with rfl | rfl | rfl
  · show execCapswap f s = _
    simp only [execCapswap, issued, hi, h, Bool.true_or, if_true]
  · show execCaprev f s = _
    simp only [execCaprev, issued, hi, h, if_true]
  · show execCapqry f s = _
    simp only [execCapqry, issued, hi, h, if_true]

include ha

theorem exec_handle_cut {i : Instr} (hinstr : i = .capswap f ∨ i = .caprev f ∨ i = .capqry f)
    (hb : i = .capswap f → s.offered ag (capStack (s.srcBits ag 32 0 f.sb)) = false)
    (hc : s.stackCut ag (capStack (s.srcBits ag 32 0 f.sa)) = true) :
    Machine.exec i s = .next (((s.stackLost ag (capStack (s.srcBits ag 32 0 f.sa))).put32 ag f.dst 0).retire 1 .none) := by
  rcases hinstr with rfl | rfl | rfl
  · show execCapswap f s = _
    simp only [execCapswap, issued, hi, ha, hb rfl, hc, Bool.or_self, Bool.false_eq_true, if_false, if_true]
  · show execCaprev f s = _
    simp only [execCaprev, issued, hi, ha, hc, Bool.false_eq_true, if_false, if_true]
  · show execCapqry f s = _
    simp only [execCapqry, issued, hi, ha, hc, Bool.false_eq_true, if_false, if_true]

variable (hc : s.stackCut ag (capStack (s.srcBits ag 32 0 f.sa)) = false)
include hc

theorem exec_caprev_some {p : Cap} (h : s.resolve (s.ctxOf ag) (s.srcBits ag 32 0 f.sa) = some p) :
    Machine.exec (.caprev f) s = .next (((s.withDfd (s.revokeCap (capStack (s.srcBits ag 32 0 f.sa)) (capEntry (s.srcBits ag 32 0 f.sa))).dfd).put32
      ag f.dst 1).retire 1 .none) := by
  show execCaprev f s = _
  simp only [execCaprev, issued, hi, ha, hc, Bool.false_eq_true, if_false, h]
  rw [← revokeCap_dfd]

theorem exec_caprev_none (h : s.resolve (s.ctxOf ag) (s.srcBits ag 32 0 f.sa) = none) :
    Machine.exec (.caprev f) s = .next ((s.put32 ag f.dst 0).retire 1 .none) := by
  show execCaprev f s = _
  simp only [execCaprev, issued, hi, ha, hc, Bool.false_eq_true, if_false, h]

/-- The word that CAPQRY gives (Table 14-3). -/
def queried : Option Cap → Nat
  | some c => c.query
  | none => 0

theorem exec_capqry : Machine.exec (.capqry f) s =
    .next ((s.put32 ag f.dst (queried (s.resolve (s.ctxOf ag) (s.srcBits ag 32 0 f.sa)))).retire 1 .none) := by
  show execCapqry f s = _
  simp only [execCapqry, issued, hi, ha, hc, Bool.false_eq_true, if_false]
  cases s.resolve (s.ctxOf ag) (s.srcBits ag 32 0 f.sa) <;> rfl

end

theorem query_lt (c : Cap) : c.query < 2 ^ 32 := by
  have := c.rd.toNat_lt
  have := c.wr.toNat_lt
  unfold Cap.query
  omega

theorem queried_lt (o : Option Cap) : queried o < 2 ^ 32 := by
  cases o with
  | none => decide
  | some c => exact query_lt c

/-- Settles O46: one lemma for each branch of the handle instructions. -/
theorem capabilityHandles : Obligations.CapabilityHandles := by
  refine ⟨?capnew, ?capswap, ?revqry, ?waits, ?cuts, ?free⟩
  case capnew =>
    intro f s ag hready a b
    have hi := hready.1
    refine ⟨exec_capnew_badRange hi, fun ha hb hb64 => ?_⟩
    have hr : ¬(a % 64 ≠ 0 ∨ b = 0 ∨ b % 64 ≠ 0) := by omega
    refine ⟨fun c => exec_capnew_fault hi hr, fun pa e hx => ?_⟩
    intro sz st
    have hin (h1 : a % sz + b ≤ sz) (h2 : pa < 12 * 2 ^ 36) : ¬(sz < a % sz + b ∨ hbmSize ≤ pa) :=
      not_or.mpr ⟨not_lt.mpr h1, not_le.mpr h2⟩
    refine ⟨exec_capnew_beyond hi hr hx, fun h1 h2 => exec_capnew_waits hi hr hx (hin h1 h2), fun h1 h2 h3 h4 hc => ?_,
      fun h1 h2 h3 h4 => capnew_makes hready hr hx (hin h1 h2) ⟨h3, h4⟩⟩
    obtain ⟨free, tlb, nodes, used, hstate, -⟩ := keepTlb_passes s ag (s.tlbOf ag) (s.ctxOf ag) a e
    refine ⟨_, exec_capnew_lost hi hr hx (hin h1 h2) ⟨h3, h4⟩ hc, ?_, ?_⟩
    · rw [hstate]
      exact (Passing.passes s ag false).bytes
    · rw [hstate]
      exact spend_entries s free tlb nodes used ag
  case capswap =>
    rintro f s ag ⟨hi, hp, k, hf, hl⟩ x a b ha hb hc
    have hdst := legal_capswap hl
    by_cases h : ∃ p q, Swaps s x a b p q
    · obtain ⟨p, q, hpq⟩ := h
      obtain ⟨hafter, hkept, hd, hval, -⟩ := handle_done (swapped s a b p q) hi hp hf hdst (by decide : 1 < 2 ^ 32)
      refine ⟨_, exec_capswap_swaps hi ha hb hc hpq, hafter, hkept, fun p2 q2 hp2 hq2 hs he => ?_, fun hno => ?_⟩
      · obtain rfl : p2 = p := Option.some.inj (hp2.symm.trans hpq.1)
        obtain rfl : q2 = q := Option.some.inj (hq2.symm.trans hpq.2.1)
        have hq := resolve_eq hq2
        have hsecond := cap_eq_of_dfd hd (swapped_second s p2 q2 hs he)
        rw [← hq] at hsecond
        refine ⟨hval, cap_eq_of_dfd hd (swapped_first s p2 q2 hs he), fun h1 h2 => ?_, fun h1 => ?_⟩
        · exact hsecond.trans (if_pos ⟨h1, h2⟩)
        · exact hsecond.trans (if_neg (by tauto))
      · obtain ⟨h1, h2, h3, h4⟩ := hpq
        rw [h1, h2] at hno
        simp [h3, h4] at hno
    · obtain ⟨hafter, hkept, hd, -, hzero⟩ := handle_done s.dfd hi hp hf hdst (by decide : 0 < 2 ^ 32)
      refine ⟨_, exec_capswap_fails hi ha hb hc (fun p q hpq => h ⟨p, q, hpq⟩), hafter, hkept,
        fun p q h1 h2 h3 h4 => absurd ⟨p, q, h1, h2, h3, h4⟩ h, fun _ => ⟨hzero rfl, hd⟩⟩
  case revqry =>
    intro f s ag a ha hc
    refine ⟨?_, ?_⟩
    · rintro ⟨hi, hp, k, hf, hl⟩
      have hdst := legal_caprev hl
      cases h : s.resolve (s.ctxOf ag) a with
      | none =>
        obtain ⟨-, hkept, hd, -, hzero⟩ := handle_done s.dfd hi hp hf hdst (by decide : 0 < 2 ^ 32)
        exact ⟨_, exec_caprev_none hi ha hc h, hkept, nofun, fun _ => ⟨hzero rfl, hd⟩⟩
      | some p =>
        obtain ⟨-, hkept, hd, hval, -⟩ := handle_done (s.revokeCap (capStack a) (capEntry a)).dfd hi hp hf hdst (by decide : 1 < 2 ^ 32)
        refine ⟨_, exec_caprev_some hi ha hc h, hkept, fun p2 hp2 => ⟨hval, ?_⟩, nofun⟩
        obtain rfl := Option.some.inj hp2
        refine (cap_of_dfd hd _ _).trans ?_
        rw [revokeCap_eq, setCap_cap_same, ← resolve_eq h]
        rfl
    · rintro ⟨hi, hp, k, hf, hl⟩
      have hdst := legal_capqry hl
      have hnone : f.dst ≠ .none := fun h => by rw [h] at hdst; exact nomatch hdst
      obtain ⟨hkept, -, hval, hzero⟩ := put32_done 1 hi hp hf (.inr hdst) (queried_lt (s.resolve (s.ctxOf ag) a))
      refine ⟨_, exec_capqry hi ha hc, hkept, fun p h => ?_, fun h => ?_⟩
      · exact (hval hnone).trans (by rw [h]; rfl)
      · exact (hval hnone).trans (by rw [h]; rfl)
  case waits =>
    intro s ag f h
    exact ⟨fun hr => exec_handle_waits hr.1 h (.inl rfl), fun hr => exec_handle_waits hr.1 h (.inr (.inl rfl)),
      fun hr => exec_handle_waits hr.1 h (.inr (.inr rfl))⟩
  case cuts =>
    intro i f s ag hready hinstr a ha hb hc
    exact exec_handle_cut hready.1 ha hinstr hb hc
  case free =>
    intro s st e
    refine ⟨fun h1 h2 h3 => ?_, fun h => ?_⟩
    · exact congrArg Host.Outcome.next (if_pos ⟨h1, h2, h3⟩)
    · exact congrArg Host.Outcome.next (if_neg (by tauto))

end Sys2Proof

/-! Three statements that the model does not meet: an epilogue block is read from its address and not from registers, and the commands of
a wave that has been filled write to the save area (R334). -/

namespace Sys2Proof

open Sys2Proof.Machine

/-! ### EPI reads a block of the scratchpad (R198) -/

/-- EPI of the block at address 7 of no launch, on unit 1. -/
def epiOp : MOp := { tOp (.epi tAclr) false with a := 7, snap := [(64, List.replicate 8 0)] }

/-- The operation is complete on its unit. -/
def epiState : Machine.State := tMx tHM (fun m => { m with mops := [(1, epiOp)] })

set_option maxRecDepth 40000 in
theorem epi_reads_block : ((tNext (Machine.exec (.matrixOpComplete 1) epiState)).acc epiOp.ctx 1 0).epi.toList.getD 0 0 = 0 := by decide

set_option maxRecDepth 40000 in
/-- Refutes O49: EPI writes the block that stands at the address in its register, where the statement has the register itself. -/
theorem not_matrixOperations : ¬ Obligations.MatrixOperations := by
  intro h
  obtain ⟨hop, -⟩ := h
  obtain ⟨t, ht, -, -, -, -, -, -, -, -, hepi, -⟩ := hop epiState 1 epiOp rfl rfl (by decide) rfl nofun nofun
  have hword := congrArg (fun a : Acc => a.epi.toList.getD 0 0) (hepi tAclr rfl)
  rw [← tNext_eq ht] at hword
  exact absurd (epi_reads_block.symm.trans hword) (by decide)

/-! ### A tensor command of a filled wave -/

/-- A leaf that no L1 and no L2 holds. -/
def plainLeaf : W64 := 0x0180_0000_0001_0007

/-- A filled wave whose s20 and s22 name two layout records. -/
def filledCopyWave : Wave := { filledWave 0 0 with sreg := ((tV.with 20 0x10000).with 22 0x10100).sreg }

/-- The records stand on a page that the core and its tensor engine translate. -/
def filledCopyState : Machine.State :=
  { filledState filledCopyWave with
    mem := tLayouts
    path := { Machine.State.reset.path with tlb := [⟨0, 0, 16, plainLeaf, 0x10000⟩, ⟨200, 0, 16, plainLeaf, 0x10000⟩] } }

/-- TXF COPY between the tensors of the records at s20 and s22. -/
def filledCopy : EF := ⟨.none, .s 20, .s 22, .s 24, .i32, .i32, 0, false, false, 0, 0⟩

/-- What is left once both records have been read. -/
def filledCopyRead : Machine.State :=
  (((filledCopyState.readRecord (.wave 0) 0x10000).2.readRecord (.wave 0) 0x10100).2).listItems (.wave 0) 0 0

set_option maxRecDepth 40000 in
theorem txf_of_filled_changes_byte :
    Memory.get (tNext (Machine.exec (.txf filledCopy) filledCopyState)).mem filledByte ≠ Memory.get filledCopyRead.mem filledByte := by decide

set_option maxRecDepth 40000 in
/-- Refutes O50: the flag counts of a filled wave whose TXF is accepted are written to the save area. -/
theorem not_tensorCommandsIssue : ¬ Obligations.TensorCommandsIssue := by
  intro h
  obtain ⟨htxf, -⟩ := h
  obtain ⟨-, -, -, haccept⟩ := htxf filledCopy filledCopyState (.wave 0) (tReadyHandler _ _ rfl rfl rfl) (banked_filled _ _ _ rfl rfl)
  obtain ⟨-, -, -, hdone⟩ := haccept (by decide) (by decide) (tLayout 0x10400) (tLayout 0x10500) (by decide) (by decide)
  obtain ⟨t, m, ht, -, -, -, -, -, -, -, -, -, -, -, -, -, -, -, -, -, -, -, -, -, -, hunder, -⟩ :=
    hdone (by decide) (by decide) (by decide)
  exact txf_of_filled_changes_byte (tNext_eq ht ▸ (hunder.bytes filledByte).1)

/-! ### A tensor command of a filled wave completes -/

/-- A command that has written all its bytes. -/
def filledTxf : TxfCmd := { tTxCmd with ag := .wave 0, seat := (tWave tV).seat (.wave 0), cursor := 4 }

/-- It is the head of its stream. -/
def filledTxfState : Machine.State := { filledState (filledWave 0 0) with eng := tStreams [filledTxf] }

set_option maxRecDepth 40000 in
theorem txfDone_of_filled_changes_byte :
    Memory.get (tNext (Machine.exec (.txfCommandComplete 0 0 0) filledTxfState)).mem filledByte ≠ Memory.get filledTxfState.mem filledByte := by
  decide

set_option maxRecDepth 40000 in
/-- Refutes O51: the flag counts of a filled wave whose command completes are written to the save area. -/
theorem not_tensorEngineWorks : ¬ Obligations.TensorEngineWorks := by
  intro h
  obtain ⟨-, hcomplete, -⟩ := h
  obtain ⟨-, hdone⟩ := hcomplete filledTxfState 0 0 0 filledTxf rfl (by decide)
  obtain ⟨t, ht, -, -, hbytes, -⟩ := hdone (by decide) (banked_filled _ _ _ rfl rfl) (by decide)
  exact not_sameBytes_of_get ht txfDone_of_filled_changes_byte (hbytes (by decide) nofun)

end Sys2Proof

/-! The completion word of an eviction that waited may go to another device, which takes a number (R291, R302): INVAL does not give its
invalidation the number that was next when its block was read. -/

namespace Sys2Proof

open Sys2Proof.Machine

/-- An INVAL of a page of context 0, while an eviction waits whose entry is absent and whose block stands in a lease window. -/
def farEvictState : Machine.State :=
  let s := tFw [(0x1018, 4096)]
  { s with eng := { s.eng with tables := [(0, ⟨0, 1, 0, 0, [(0, 0x20000)]⟩)], evicts := [⟨0, 0, .root, 2 ^ 44⟩] } }

/-- The words of that command. -/
def invalWords : List W64 := Memory.words (tWords [(0x1018, 4096)]) 0x1000 7

theorem farEvictState_served : Served farEvictState .inval .root 0x1000 invalWords :=
  have q : Machine.Sound farEvictState.idle 0 0x1000 (8 * 7) :=
    tFwSound _ rfl rfl ((rfl : _ = (tPlan [] [] id).gap 0x1000 56).trans (by decide)) rfl
  ⟨⟨0x1000, rfl, rfl, (rfl : _ = (tPlan [] [] id).okRange 0x1000 64).trans (by decide), q.fwWords.symm⟩, rfl, q.devLost,
    false, false, _, rfl, nofun, fun _ => rfl, by decide, fun _ => rfl⟩

set_option maxRecDepth 40000 in
theorem inval_numbers_reply_first :
    (tNext (Machine.exec .inval farEvictState)).flt.invals ≠
      (farEvictState.idle.fwNote 0x1000 7).flt.invals ++ [⟨(farEvictState.idle.fwNote 0x1000 7).fresh, 0, 0, 4096, .root, 0x1000⟩] := by
  decide

set_option maxRecDepth 40000 in
/-- Refutes O60: the reply to an eviction that ends with an INVAL goes to another device and takes the number that the statement has for
the invalidation. -/
theorem not_firmwareCommands : ¬ Obligations.FirmwareCommands := by
  intro h
  obtain ⟨-, -, -, hcommand⟩ := h
  obtain ⟨-, -, -, -, -, -, -, -, -, hinval, -⟩ := hcommand farEvictState .root 0x1000 invalWords
  obtain ⟨t, ht, -, -, -, hinvals, -⟩ := hinval farEvictState_served (by decide) (by decide) (by decide) (by decide) (by decide)
  exact inval_numbers_reply_first (tNext_eq ht ▸ hinvals)

end Sys2Proof

/-! A thread that stands in the save area and is freed as it leaves its handler: the header of the save area takes note, so that bytes of
memory change (R37, R331). -/

namespace Sys2Proof

open Sys2Proof.Machine

/-- A saved thread in its handler, halted before. -/
def savedHandler : Thread := { tHM with inh := true, wasHalted := true, bank := .saved }

/-- The bit of cluster 0 stands in the header of its context's save area, and no workgroup of its launch is on the cluster. -/
def savedHandlerState : Machine.State :=
  let s := tThread savedHandler
  { s with mem := [⟨40, 1⟩], dev := { s.dev with ready := 0xF }, sch := { s.sch with wgs := [] } }

set_option maxRecDepth 40000 in
theorem rett_of_saved_changes_byte :
    Memory.get (tNext (Machine.exec (.rett tNo) savedHandlerState)).mem 40 ≠ Memory.get savedHandlerState.mem 40 := by decide

/-- Refutes O12: the thread is freed and its bit of the save area's header is cleared. -/
theorem not_rettOfThread : ¬ Obligations.RettOfThread := by
  intro h
  obtain ⟨-, -, hfreed, -⟩ := h savedHandlerState 0 0 tNo (tReadySeq _ _ rfl rfl)
  obtain ⟨t, ht, -, hbytes⟩ := hfreed rfl rfl rfl (by decide) rfl
  exact not_sameBytes_of_get ht rett_of_saved_changes_byte hbytes

end Sys2Proof

/-! What TQADD writes to a word of the scratchpad with an uncorrectable error mends it (R342): more changes than bytes. -/

namespace Sys2Proof

open Sys2Proof.Machine

/-- A tile queue with room in its shared ring, one word of whose block has an uncorrectable error. -/
def badBlockState : Machine.State := { tTq tShared (tBlockMem 2 tCounter) [] with spadBad := [2] }

/-- TQADD.SH of the entry in q4 and q5 to the queue that q2 names. -/
def sharedAdd : EF := ⟨.q 6, .q 2, .q 4, .none, .i32, .i32, 0, false, false, 0, 0⟩

set_option maxRecDepth 40000 in
theorem tqadd_mends_word : (tNext (Machine.exec (.tqaddSh sharedAdd) badBlockState)).spadBad ≠ badBlockState.spadBad := by decide

set_option maxRecDepth 40000 in
/-- Refutes O52: TQADD rewrites the counts of the block, and the word that they stand in has no error any more. -/
theorem not_tapesAndQueues : ¬ Obligations.TapesAndQueues := by
  intro h
  obtain ⟨-, hadd, -⟩ := h sharedAdd badBlockState 0 0
  obtain ⟨-, hfree⟩ := hadd (.tqaddSh sharedAdd) false (tReadySeq _ _ rfl rfl) rfl
  obtain ⟨-, hblock⟩ := hfree (by decide)
  obtain ⟨-, -, hroom⟩ := hblock (.spad 0 0) (tTile 0 2 false) (by decide)
  obtain ⟨t, ht, -, -, hkept, -⟩ := hroom (by decide) (by decide)
  have hbad : t.rest.spadBad = badBlockState.spadBad := by rw [hkept.rest]; rfl
  rw [← tNext_eq ht] at hbad
  exact tqadd_mends_word hbad

end Sys2Proof

/-! What an access to memory, to another device or to a fault buffer leaves alone: agents, scratchpads, launches, commands and engines
stay, and memory stays in canonical form. The accesses of agents, of firmware and of the command processor share this frame. -/

namespace Sys2Proof

open Sys2Proof.Machine

/-- The parts of a state that such an access may change. -/
structure Aside where
  mem : Mem
  uncorr : List Nat
  free : Nat
  fresh : Nat
  l1 : List L1Line
  far : List FarCopy
  tlb : List TlbEntry
  nodes : Map Node
  used : Map Nat
  root : Option FBuf
  parts : Map FBuf
  held : List HeldRec
  early : Nat
  out : List FabReq
  queues : Map FabQueue
  broken : List (Agent × Nat × Nat)

/-- Those parts of a state. -/
def Machine.State.aside (s : Machine.State) : Aside :=
  { mem := s.mem, uncorr := s.uncorr, free := s.free, fresh := s.fresh, l1 := s.path.l1, far := s.path.far, tlb := s.path.tlb,
    nodes := s.sch.nodes, used := s.dev.hbmUsed, root := s.flt.root, parts := s.flt.parts, held := s.flt.held,
    early := s.flt.lostEarly, out := s.fab.out, queues := s.fab.queues, broken := s.fab.broken }

/-- A state with those parts replaced. -/
def Machine.State.beside (s : Machine.State) (a : Aside) : Machine.State :=
  { s with
    mem := a.mem, uncorr := a.uncorr, free := a.free, fresh := a.fresh
    path := { s.path with l1 := a.l1, far := a.far, tlb := a.tlb }
    sch := { s.sch with nodes := a.nodes }
    dev := { s.dev with hbmUsed := a.used }
    flt := { s.flt with root := a.root, parts := a.parts, held := a.held, lostEarly := a.early }
    fab := { s.fab with out := a.out, queues := a.queues, broken := a.broken } }

/-- State t differs from s in such parts only, and its memory is in canonical form where that of s is. -/
def Outer (s t : Machine.State) : Prop := ∃ a, t = s.beside a ∧ (Memory.wf s.mem = true → Memory.wf a.mem = true)

namespace Outer

theorem of_eq {s t : Machine.State} (h : t = s.beside t.aside) (hw : Memory.wf s.mem = true → Memory.wf t.mem = true) : Outer s t :=
  ⟨t.aside, h, hw⟩

theorem refl (s : Machine.State) : Outer s s := of_eq rfl id

theorem trans {s t u : Machine.State} (h : Outer s t) (g : Outer t u) : Outer s u := by
  obtain ⟨a, rfl, ha⟩ := h
  obtain ⟨b, rfl, hb⟩ := g
  exact ⟨b, rfl, fun hs => hb (ha hs)⟩

theorem foldl {β : Type} (f : Machine.State → β → Machine.State) (hf : ∀ t b, Outer t (f t b)) (l : List β) (s : Machine.State) :
    Outer s (l.foldl f s) := by
  induction l generalizing s with
  | nil => exact refl s
  | cons b l ih => exact (hf s b).trans (ih _)

theorem ite {s t u : Machine.State} {p : Prop} [Decidable p] (h : Outer s t) (g : Outer s u) : Outer s (if p then t else u) := by
  split <;> assumption

section
variable {s t : Machine.State} (h : Outer s t)
include h

theorem waves : t.waves = s.waves := by obtain ⟨a, rfl, -⟩ := h; rfl
theorem threads : t.threads = s.threads := by obtain ⟨a, rfl, -⟩ := h; rfl
theorem spad : t.spad = s.spad := by obtain ⟨a, rfl, -⟩ := h; rfl
theorem issue : t.issue = s.issue := by obtain ⟨a, rfl, -⟩ := h; rfl
theorem mx : t.mx = s.mx := by obtain ⟨a, rfl, -⟩ := h; rfl
theorem eng : t.eng = s.eng := by obtain ⟨a, rfl, -⟩ := h; rfl
theorem dfd : t.dfd = s.dfd := by obtain ⟨a, rfl, -⟩ := h; rfl
theorem cores : t.sch.cores = s.sch.cores := by obtain ⟨a, rfl, -⟩ := h; rfl
theorem launches : t.sch.launches = s.sch.launches := by obtain ⟨a, rfl, -⟩ := h; rfl
theorem wgs : t.sch.wgs = s.sch.wgs := by obtain ⟨a, rfl, -⟩ := h; rfl
theorem clk : t.sch.clk = s.sch.clk := by obtain ⟨a, rfl, -⟩ := h; rfl
theorem wave (w : Nat) : t.wave w = s.wave w := by obtain ⟨a, rfl, -⟩ := h; rfl
theorem thread (c k : Nat) : t.thread c k = s.thread c k := by obtain ⟨a, rfl, -⟩ := h; rfl
theorem core (n : Nat) : t.core n = s.core n := by obtain ⟨a, rfl, -⟩ := h; rfl
theorem launch (n : Nat) : t.launch n = s.launch n := by obtain ⟨a, rfl, -⟩ := h; rfl
theorem reg (ag : Agent) (o : Opnd) (b : Bool) : t.reg ag o b = s.reg ag o b := by obtain ⟨a, rfl, -⟩ := h; rfl
theorem home (a : Nat) : t.home a = s.home a := by obtain ⟨a, rfl, -⟩ := h; rfl
theorem wf (hs : Memory.wf s.mem = true) : Memory.wf t.mem = true := by obtain ⟨a, rfl, hw⟩ := h; exact hw hs

/-- The canonical form of memory and scratchpads is kept. -/
theorem memoryInv (hs : MemoryInv s) : MemoryInv t := ⟨h.wf hs.1, by rw [h.spad]; exact hs.2⟩

/-- The agents stand where they stood. -/
theorem samePlace (ag : Agent) : SamePlace ag s t := by obtain ⟨a, rfl, -⟩ := h; exact ⟨rfl, rfl⟩

end

/-! ### Memory, budgets and other devices -/

theorem ofCharged {s t : Machine.State} (h : Charged s t) : Outer s t := by
  obtain ⟨f, l, n, u, rfl, -⟩ := h
  exact of_eq rfl id

theorem writeMem (s : Machine.State) (a : Nat) (bs : List Byte) : Outer s (s.writeMem a bs) := of_eq rfl (Memory.wf_write _ _ _)

/-- A physical address is never one of a scratchpad. -/
theorem home_ne_spad (s : Machine.State) (pa c o : Nat) : s.home pa ≠ .spad c o := by
  unfold State.home
  dsimp only
  split_ifs <;> nofun

theorem putAt (s : Machine.State) {h : Home} (bs : List Byte) (hh : ∀ c o, h ≠ .spad c o) : Outer s (s.putAt h bs) := by
  cases h with
  | mem pa => exact writeMem s pa bs
  | spad c o => exact absurd rfl (hh c o)
  | dev _ _ _ => exact refl s
  | down _ => exact refl s

theorem softPut (s : Machine.State) {h : Home} (bs : List Byte) (hh : ∀ c o, h ≠ .spad c o) : Outer s (s.softPut h bs) := by
  cases h with
  | mem pa => exact writeMem s pa _
  | spad c o => exact absurd rfl (hh c o)
  | dev _ _ _ => exact refl s
  | down _ => exact refl s

theorem useHbm (s : Machine.State) (pa n : Nat) : Outer s (s.useHbm pa n) := ofCharged (Charged.useHbm s pa n)

theorem chargeFab (s : Machine.State) (x n : Nat) : Outer s (s.chargeFab x n) := ofCharged (Charged.chargeFab s x n)

theorem send (s : Machine.State) (x q dev pa : Nat) (k : FabKind) (lease : Option Nat) (l : Nat) (who : Option (Agent × Nat)) (keep : Bool) :
    Outer s (s.send x q dev pa k lease l who keep).2 := by
  unfold State.send
  dsimp only
  refine ite (trans ?_ (chargeFab _ _ _)) ?_ <;> split <;> exact of_eq rfl id

theorem devWrite (s : Machine.State) (d x : Nat) {h : Home} (bs : List Byte) (hh : ∀ c o, h ≠ .spad c o) : Outer s (s.devWrite d x h bs) := by
  unfold State.devWrite
  split
  · exact refl s
  · split
    · exact foldl _ (fun t e => send t _ _ _ _ _ _ _ _ _) _ s
    · exact putAt s bs hh

theorem farPut (s : Machine.State) (die dev pa : Nat) (bs : List Byte) : Outer s (s.farPut die dev pa bs) := of_eq rfl id

/-! ### Fault records -/

theorem setFbuf (s : Machine.State) (b : FaultBox) (f : FBuf) : Outer s (s.setFbuf b f) := by
  have hw := (devWrite s 0 fwCtx (leBytes 8 f.wr) (home_ne_spad s f.header)).trans
    (devWrite _ 0 fwCtx (leBytes 8 (f.gen.toNat * 2 ^ 32 + f.lost.toNat)) (home_ne_spad s (f.header + 16)))
  unfold State.setFbuf
  cases b with
  | root => exact hw.trans (of_eq rfl id)
  | part n => exact hw.trans (of_eq rfl id)

theorem fbufWrite (s : Machine.State) (b : FaultBox) (f : FBuf) (w : Vector W64 8) : Outer s (s.fbufWrite b f w) :=
  (devWrite s 0 fwCtx _ (home_ne_spad s _)).trans (setFbuf _ b _)

theorem writeHeld (s : Machine.State) (b : FaultBox) : Outer s (s.writeHeld b) := by
  unfold State.writeHeld
  split
  · split
    · exact (fbufWrite s b _ _).trans (of_eq rfl id)
    · exact refl s
  · exact refl s

theorem writeAllHeld (s : Machine.State) (b : FaultBox) (n : Nat) : Outer s (s.writeAllHeld b n) := by
  induction n generalizing s with
  | zero => exact refl s
  | succ n ih => exact ite ((writeHeld s b).trans (ih _)) (refl s)

theorem sendRecord (s : Machine.State) (b : FaultBox) (k : Nat) (w : Vector W64 8) : Outer s (s.sendRecord b k w) := by
  refine (writeAllHeld s b s.flt.held.length).trans ?_
  unfold State.sendRecord
  dsimp only
  split
  · split <;> exact of_eq rfl id
  · split
    · exact fbufWrite _ _ _ _
    · split
      · exact setFbuf _ _ _
      · exact of_eq rfl id

theorem itemFailed (s : Machine.State) (x l c a n i cl st : Nat) : Outer s (s.itemFailed x l c a n i cl st) := sendRecord _ _ _ _

theorem rootItem (s : Machine.State) (c a d : Nat) : Outer s (s.rootItem c a d) := sendRecord _ _ _ _

theorem agentItem (s : Machine.State) (ag : Agent) (c a i : Nat) : Outer s (s.agentItem ag c a i) := itemFailed _ _ _ _ _ _ _ _ _

theorem breakAgent (s : Machine.State) (ag : Agent) (b l : Nat) : Outer s (s.breakAgent ag b l) := ite (refl s) (of_eq rfl id)

theorem breakHere (s : Machine.State) (ag : Agent) : Outer s (s.breakHere ag) := breakAgent _ _ _ _

/-! ### Firmware and the command processor -/

theorem physPut (s : Machine.State) (d x a : Nat) (bs : List Byte) : Outer s (s.physPut d x a bs) := by
  unfold State.physPut
  split
  · exact ite (devWrite s d x bs (home_ne_spad s a)) (rootItem _ _ _ _)
  · exact (foldl _ (fun t e => ite (devWrite t d x _ (home_ne_spad s _)) (refl t)) _ s).trans (rootItem _ _ _ _)

theorem physWords (s : Machine.State) (d x a : Nat) (ws : List W64) : Outer s (s.physWords d x a ws) := physPut _ _ _ _ _

/-- A read that fails is reported. -/
theorem reported {s t : Machine.State} (h : Outer s t) (p q : Bool) (a d : Nat) :
    Outer s (if p then t.rootItem 0x35 a d else if q then t.rootItem 0x32 a d else t) :=
  ite (h.trans (rootItem _ _ _ _)) (ite (h.trans (rootItem _ _ _ _)) h)

theorem physNote (s : Machine.State) (d x a n : Nat) : Outer s (s.physNote d x a n) := by
  unfold State.physNote
  split
  · exact rootItem _ _ _ _
  · refine reported ?_ _ _ _ _
    split
    · exact ite (trans (of_eq rfl id) (chargeFab _ _ _)) (refl s)
    · exact refl s

theorem fwNote (s : Machine.State) (a n : Nat) : Outer s (s.fwNote a n) := physNote _ _ _ _ _

theorem fwPut (s : Machine.State) (a : Nat) (bs : List Byte) : Outer s (s.fwPut a bs) := physPut _ _ _ _ _

theorem reply (s : Machine.State) (a st r : Nat) : Outer s (s.reply a st r) := physPut _ _ _ _ _

theorem putErt (s : Machine.State) (a i : Nat) (w : W64) : Outer s (s.putErt a i w) := writeMem _ _ _

theorem headerBit (s : Machine.State) (d x o n : Nat) (v : Bool) : Outer s (s.headerBit d x o n v) := physWords _ _ _ _ _

theorem syncBusy (s : Machine.State) (x : Nat) : Outer s (s.syncBusy x) := physWords _ _ _ _ _

theorem syncCore (s : Machine.State) (x c : Nat) : Outer s (s.syncCore x c) := headerBit _ _ _ _ _ _

theorem syncClus (s : Machine.State) (x c : Nat) : Outer s (s.syncClus x c) := headerBit _ _ _ _ _ _

theorem farRead (s : Machine.State) (x n : Nat) (fail : Machine.State → Machine.State) (hf : ∀ t, Outer t (fail t)) :
    Outer s (s.farRead x n fail).2 := by
  have hread : Outer s (({ s with free := s.free + 1 + n } : Machine.State).chargeFab x (max 4 n)) := trans (of_eq rfl id) (chargeFab _ _ _)
  unfold State.farRead
  dsimp only
  split
  · exact hread.trans (hf _)
  · exact hread

theorem devRead (s : Machine.State) (x a n : Nat) : Outer s (s.devRead x a n).2 := by
  unfold State.devRead
  split
  · exact rootItem _ _ _ _
  · split
    · exact itemFailed _ _ _ _ _ _ _ _ _
    · split
      · split
        · exact (useHbm s _ n).trans (itemFailed _ _ _ _ _ _ _ _ _)
        · exact useHbm s _ n
      · exact farRead s x n _ fun t => itemFailed t _ _ _ _ _ _ _ _
      · exact refl s

/-! ### Scheduling nodes -/

theorem setNode (s : Machine.State) (a : Nat) (n : Node) (k : Nat) : Outer s (s.setNode a n k) := by
  unfold State.setNode
  dsimp only
  refine ite (of_eq rfl id) (trans ?_ (writeMem _ _ _))
  exact of_eq rfl id

theorem modNode (s : Machine.State) (a : Nat) (f : Node → Node) : Outer s (s.modNode a f) := by
  unfold State.modNode
  split
  · exact setNode _ _ _ _
  · exact refl s

theorem modNodes (s : Machine.State) (l : List Nat) (f : Node → Node) : Outer s (s.modNodes l f) := foldl _ (fun t a => modNode t a f) l s

theorem syncCores (s : Machine.State) (q : Nat) : Outer s (s.syncCores q) := modNodes _ _ _

theorem chargeFault (s : Machine.State) (a : Nat) : Outer s (s.chargeFault a) := modNodes _ _ _

theorem refreshReady (s : Machine.State) : Outer s s.refreshReady := of_eq rfl id

/-! ### Caches -/

theorem wf_flushBytes (m : Mem) (a : Nat) (bs : List Byte) (ds : List Bool) (h : Memory.wf m = true) :
    Memory.wf (flushBytes m a bs ds) = true := by
  induction bs generalizing m a ds with
  | nil => cases ds <;> exact h
  | cons b bs ih =>
    cases ds with
    | nil => exact h
    | cons d ds =>
      refine ih _ _ _ ?_
      split
      · exact Memory.wf_set m a b h
      · exact h

theorem wf_flushLines (l : List L1Line) (m : Mem) (h : Memory.wf m = true) :
    Memory.wf (l.foldl (fun m l => flushBytes m (l.line * 128) l.bytes l.dirty) m) = true := by
  induction l generalizing m with
  | nil => exact h
  | cons k l ih => exact ih _ (wf_flushBytes _ _ _ _ h)

theorem l1Drop (s : Machine.State) (p : L1Line → Bool) : Outer s (s.l1Drop p) := by
  unfold State.l1Drop
  dsimp only
  refine trans ?_ (foldl _ (fun t l => rootItem t _ _ _) _ _)
  exact of_eq rfl (wf_flushLines _ _)

theorem l1Flush (s : Machine.State) (o : Nat) (p : L1Line → Bool) : Outer s (s.l1Flush o p) := l1Drop _ _

theorem l1FlushAll (s : Machine.State) : Outer s s.l1FlushAll := l1Drop _ _

theorem l1SyncAt (s : Machine.State) (p : Seat) : Outer s (s.l1SyncAt p) := by
  unfold State.l1SyncAt
  split
  · exact l1Flush _ _ _
  · exact refl s

theorem l1Sync (s : Machine.State) (ag : Agent) : Outer s (s.l1Sync ag) := l1SyncAt _ _

theorem addLine (s : Machine.State) (l : L1Line) : Outer s (s.addLine l) := by
  unfold State.addLine
  dsimp only
  split
  · split
    · exact (l1Flush s _ _).trans (of_eq rfl id)
    · exact of_eq rfl id
  · exact of_eq rfl id

theorem lineRead (s : Machine.State) (p : Seat) (sc : Scope) (c : Bool) (pa n : Nat) : Outer s (s.lineRead p sc c pa n).2 := by
  have hfree : Outer s { s with free := s.free + 1 } := of_eq rfl id
  unfold State.lineRead
  split
  · split
    · exact ite hfree (hfree.trans (l1Flush _ _ _))
    · exact ite (hfree.trans (addLine _ _)) hfree
  · dsimp only
    split
    · exact l1Flush _ _ _
    · exact refl s

theorem spanRead (s : Machine.State) (p : Seat) (sc : Scope) (c : Bool) (k pa n : Nat) : Outer s (s.spanRead p sc c k pa n).2 := by
  induction k generalizing s pa n with
  | zero => exact refl s
  | succ k ih =>
    unfold State.spanRead
    split
    · exact lineRead _ _ _ _ _ _
    · exact (lineRead _ _ _ _ _ _).trans (ih _ _ _)

theorem cachedWrite (s : Machine.State) (p : Seat) (sc : Scope) (c : Bool) (pa : Nat) (bs : List Byte) : Outer s (s.cachedWrite p sc c pa bs) := by
  unfold State.cachedWrite
  dsimp only
  split
  · split
    · exact of_eq rfl id
    · exact writeMem _ _ _
  · refine trans ?_ (writeMem _ _ _)
    split
    · exact l1Flush _ _ _
    · exact refl s

/-! ### Accesses of an agent -/

theorem agentGet (s : Machine.State) (ag : Agent) (sc : Scope) (e : W64) (h : Home) (n : Nat) : Outer s (s.agentGet ag sc e h n).2 := by
  have hfree : Outer s { s with free := s.free + 1 } := of_eq rfl id
  have hfar : ∀ x a, Outer s (({ s with free := s.free + 1 } : Machine.State).farRead x n (fun t => t.agentItem ag 0x35 a 0)).2 :=
    fun x a => hfree.trans (farRead _ _ _ _ fun t => agentItem t _ _ _ _)
  unfold State.agentGet
  dsimp only
  cases h with
  | mem pa =>
    dsimp only
    split
    · exact agentItem _ _ _ _ _
    · exact (useHbm s pa n).trans (spanRead _ _ _ _ _ _ _)
  | spad _ _ => exact refl s
  | dev d pa l =>
    dsimp only
    split
    · exact agentItem _ _ _ _ _
    · split
      · split
        · exact hfree
        · exact hfar _ _
      · exact hfar _ _
  | down pa => exact agentItem _ _ _ _ _

theorem agentLoad (s : Machine.State) (ag : Agent) (sc : Scope) (e : W64) (h : Home) (n : Nat) : Outer s (s.agentLoad ag sc e h n).2 := by
  have hload : ∀ (b : Bool) (a : Nat), Outer s (if b then (List.replicate n 0, s.agentItem ag 0x32 a 0) else s.agentGet ag sc e h n).2 := by
    intro b a
    cases b
    · exact agentGet _ _ _ _ _ _
    · exact agentItem _ _ _ _ _
  exact hload _ _

theorem agentPut (s : Machine.State) (ag : Agent) (sc : Scope) (e : W64) {h : Home} (bs : List Byte) (hh : ∀ c o, h ≠ .spad c o) :
    Outer s (s.agentPut ag sc e h bs) := by
  cases h with
  | mem pa => exact ite ((agentItem _ _ _ _ _).trans (breakHere _ _)) ((useHbm s pa _).trans (cachedWrite _ _ _ _ _ _))
  | spad c o => exact absurd rfl (hh c o)
  | dev n pa w => exact ite ((agentItem _ _ _ _ _).trans (breakHere _ _)) (send _ _ _ _ _ _ _ _ _ _)
  | down pa => exact (agentItem _ _ _ _ _).trans (breakHere _ _)

end Outer

end Sys2Proof

/-! The fetch of a clause may write back the L1 line that the clause stands in; where that line also holds the header of the context's
save area, the handler entry that the header check compares with is another one after the fetch (R93, R234, R315). -/

namespace Sys2Proof

open Sys2Proof.Machine

theorem freshOrOld_same (n : Nat) (l : List W64) : freshOrOld n l l = l := by
  unfold freshOrOld
  refine List.ext_getElem (by simp) fun i h1 h2 => ?_
  rw [List.getElem_mapIdx, wordAt, List.getD_eq_getElem _ _ h2, ite_self]

/-- A clause fetched where the words of its launch's start play no part. -/
def Machine.State.fetchNow (s : Machine.State) (ag : Agent) (pc : Nat) : Except Nat (List W64 × Machine.State) :=
  match s.xlate (s.tlbOf ag) (s.ctxOf ag) pc true false with
  | .error c => .error c
  | .ok (pa, e) =>
    let h := s.home pa
    let r := (s.keepTlb (s.tlbOf ag) (s.ctxOf ag) pc e).agentGet ag .wave e h 64
    let bad (i : Nat) : Bool := s.badBytes (h.plus (8 * i)) 8
    let s1 := { r.2 with free := r.2.free + 8 }
    .ok (((List.range 8).map (fun i => BitVec.ofNat 64 (leNat ((r.1.drop (8 * i)).take 8)))).mapIdx (fun i w => if bad i then 0 else w),
      match (List.range 8).find? bad with
      | some i => s1.agentItem ag 0x32 (leafPa e pc + 8 * i) 0
      | none => s1)

theorem fetch_eq_fetchNow {s : Machine.State} {ag : Agent} (hl : s.launch (s.launchOf ag) = none) (pc : Nat) : s.fetch ag pc = s.fetchNow ag pc := by
  unfold State.fetch State.fetchNow
  dsimp only
  cases s.xlate (s.tlbOf ag) (s.ctxOf ag) pc true false with
  | error c => rfl
  | ok r =>
    obtain ⟨pa, e⟩ := r
    simp only [hl, freshOrOld_same] <;> rfl

/-- A wave in its handler, of no launch, about to start the clause at 65,600. -/
def handlerWave : Wave := { tV with launch := 1, inh := some false, p0 := { tV.p0 with pc := 0x10040, code := none } }

/-- The header of its context's save area stands at address 0. An L1 holds a line of it whose first bytes, not yet written back, name
that clause as the handler's entry; the clause is the second half of the line. -/
def staleEntryState : Machine.State :=
  let s := tPlan [] [] (fun k => { k with active := some 0 })
  { s with
    waves := [(0, handlerWave)]
    mem := [⟨0x41, 1⟩]
    path := { s.path with
      tlb := [⟨0, 0, 16, 0x0180_0000_0000_0007, 0⟩]
      l1 := [⟨0, 0, [0x40, 0, 1] ++ List.replicate 125 0, List.replicate 3 true ++ List.replicate 125 false⟩] } }

/-- What a wave selected for its partition does: the instruction where it stands, or the start of its clause. -/
theorem exec_waveSelect {s : Machine.State} {p w : Nat} {v : Wave}
    (hsel : oldest (·.age) (s.waves.filter (fun e => e.2.part == p && s.waveReady e.1 e.2)) = some (w, v))
    (hbad : s.badAgents.contains (.wave w) = false) :
    let u := { v with alt := (s.pickSlot w v).getD v.alt, age := s.tick + 1 }
    let s1 := (s.setWave w u).tickCore v.core
    Machine.exec (.waveSelect p) s = .next (if u.path.code.isSome then { s1 with issue := some ⟨.wave w, false⟩ } else s1.startWave w u) := by
  show execWaveSelect p s = _
  unfold execWaveSelect
  rw [hsel]
  dsimp only
  rw [if_neg]
  show ¬ s.badAgents.contains (.wave w) = true
  rw [hbad]
  exact Bool.false_ne_true

/-- A clause whose header suits the wave where it was selected is latched with the wave at its slot. -/
theorem startWave_latches {s s' : Machine.State} {w : Nat} {v : Wave} {ws : List W64} (hf : s.fetch (.wave w) v.path.pc.toNat = .ok (ws, s'))
    (hb : headerBad (wordAt ws 0) = false) (hk : s.waveKind v v.alt (wordAt ws 0) = true) (hs : v.path.slot ≤ fld (wordAt ws 0) 10 8) :
    (s.startWave w v).issue = some ⟨.wave w, false⟩ := by
  unfold State.startWave
  dsimp only
  rw [hf]
  dsimp only
  rw [if_neg (by rw [hb, hk]; exact Bool.false_ne_true), if_neg (show ¬ fld (wordAt ws 0) 10 8 < v.path.slot from Nat.not_lt.2 hs)]

set_option maxRecDepth 40000 in
theorem handlerWave_pick : staleEntryState.pickSlot 0 handlerWave = some false := by
  unfold State.pickSlot State.slotReady
  dsimp only
  have hf := fetch_eq_fetchNow (s := staleEntryState) (ag := .wave 0) rfl
  simp only [hf]
  decide

theorem handlerWave_ready : staleEntryState.waveReady 0 handlerWave = true := by
  unfold State.waveReady
  rw [handlerWave_pick]
  decide

/-- The wave as its selection leaves it. -/
def selectedWave : Wave := { handlerWave with alt := false, age := 1 }

/-- The state in which the selected wave fetches its clause. -/
def staleSelected : Machine.State := (staleEntryState.setWave 0 selectedWave).tickCore 0

/-- The words of the clause and the state after their fetch. -/
def staleFetched : List W64 × Machine.State :=
  match staleSelected.fetchNow (.wave 0) 0x10040 with
  | .ok r => r
  | .error _ => ([], staleSelected)

set_option maxRecDepth 40000 in
theorem staleSelected_fetch : staleSelected.fetch (.wave 0) 0x10040 = .ok (staleFetched.1, staleFetched.2) := by
  have hok : (staleSelected.fetchNow (.wave 0) 0x10040).isOk = true := by decide
  rw [fetch_eq_fetchNow rfl]
  unfold staleFetched
  split
  · assumption
  · next he => rw [he] at hok; cases hok

set_option maxRecDepth 40000 in
/-- Refutes O55: the header suits the wave before the fetch, and so the wave is latched; with the written-back header it suits no more, and
the statement has the wave trap. -/
theorem not_selection : ¬ Obligations.Selection := by
  intro h
  have hready : staleEntryState.waves.filter (fun e => e.2.part == 0 && staleEntryState.waveReady e.1 e.2) = [(0, handlerWave)] := by
    show List.filter _ [(0, handlerWave)] = _
    rw [List.filter_singleton, handlerWave_ready]
    rfl
  have hall := (h.1 staleEntryState 0).2 0 handlerWave
  rw [hready] at hall
  have hsel := hall (List.mem_singleton_self _) (fun e he hne => absurd (List.mem_singleton.1 he) hne) rfl
  have hexec := exec_waveSelect (s := staleEntryState) (p := 0) (w := 0) (v := handlerWave) (by rw [hready]; rfl) rfl
  dsimp only at hsel hexec
  rw [handlerWave_pick] at hsel hexec
  have htrap := (hsel.2.1 staleFetched.1 staleFetched.2 rfl staleSelected_fetch).1 (.inr (by decide))
  have hsame : staleSelected.startWave 0 selectedWave = staleFetched.2.trapAt (.wave 0) 0x01 0 none 0 0 :=
    Host.Outcome.next.inj (hexec.symm.trans htrap)
  have hlatch := startWave_latches (v := selectedWave) staleSelected_fetch (by decide) (by decide) (by decide)
  rw [hsame] at hlatch
  have hnone : (staleFetched.2.trapAt (.wave 0) 0x01 0 none 0 0).issue.isNone = true := by decide
  rw [hlatch] at hnone
  cases hnone

end Sys2Proof

/-! Fabric events: requests of other devices, answers to this device's own, permits, leases and the phases of recovery
(R262 to R264, R279, R280, R290, R291, R294, R343). -/

namespace Sys2Proof

open Sys2Proof.Machine

/-! ### Bytes that a write leaves -/

theorem getD_eq_getElem_byte (bs : List Byte) {i : Nat} (hi : i < bs.length) : bs.getD i 0 = bs[i] := by
  rw [List.getD_eq_getElem?_getD, List.getElem?_eq_getElem hi, Option.getD_some]

theorem Memory.get_write (m : Mem) (a x : Nat) (bs : List Byte) :
    Memory.get (Memory.write m a bs) x = if a ≤ x ∧ x < a + bs.length then bs.getD (x - a) 0 else Memory.get m x := by
  split
  · next h =>
    have hi := Memory.get_write_inside m a (x - a) bs (by omega)
    rw [show a + (x - a) = x from by omega] at hi
    rw [hi, getD_eq_getElem_byte _ (by omega)]
  · next h => exact Memory.get_write_outside m a x bs (by omega)

theorem Memory.read_write_same (m : Mem) (a : Nat) (bs : List Byte) : Memory.read (Memory.write m a bs) a bs.length = bs := by
  unfold Memory.read
  refine List.ext_getElem (by simp) fun i h1 h2 => ?_
  rw [List.getElem_map, List.getElem_range, Memory.get_write, if_pos (by omega), Nat.add_sub_cancel_left, getD_eq_getElem_byte _ h2]

theorem leNat_map_range (n v : Nat) : leNat ((List.range n).map fun i => BitVec.ofNat 8 (v / 256 ^ i)) = v % 256 ^ n := by
  induction n generalizing v with
  | zero => simp [leNat, Nat.mod_one]
  | succ n ih =>
    have hmap : (List.range (n + 1)).map (fun i => (BitVec.ofNat 8 (v / 256 ^ i))) =
        BitVec.ofNat 8 v :: (List.range n).map fun i => BitVec.ofNat 8 (v / 256 / 256 ^ i) := by
      rw [List.range_succ_eq_map, List.map_cons, List.map_map]
      simp [Function.comp_def, Nat.div_div_eq_div_mul, Nat.pow_succ']
    rw [hmap, leNat, ih, BitVec.toNat_ofNat, Nat.pow_succ' (n := n), Nat.mod_mul]

theorem leNat_leBytes (n v : Nat) : leNat (leBytes n v) = v % 256 ^ n := leNat_map_range n v

theorem disown_of_open {s : Machine.State} {pa : Nat} {bs : List Byte} (h : ∀ i, i < bs.length → s.barred false (pa + i) = false) :
    s.disown pa bs = bs := by
  unfold State.disown
  refine List.ext_getElem (by simp) fun i h1 h2 => ?_
  rw [List.getElem_mapIdx, h i h2, if_neg Bool.false_ne_true]

theorem length_disown (s : Machine.State) (pa : Nat) (bs : List Byte) : (s.disown pa bs).length = bs.length := by
  simp [State.disown]

/-! ### Requests of other devices -/

section
variable {s s0 : Machine.State} {f : RemoteFrom}

theorem replies_say {t : Machine.State} (h : t.fab.replies = s.fab.replies) (r : Reply) : (t.say r).fab.replies = s.fab.replies ++ [r] :=
  congrArg (· ++ [r]) h

theorem exec_remoteWriteReceive_lost (pa : Nat) (data : List Byte) (h : s.meet f.dev f.inc = none) :
    Machine.exec (.remoteWriteReceive f pa data) s = .next s := by
  show execRemoteWriteReceive f pa data s = _
  unfold execRemoteWriteReceive
  rw [h]

theorem exec_remoteWriteReceive_seen (pa : Nat) (data : List Byte) (h : s.meet f.dev f.inc = some s0) (hs : (s0.seenBefore f).isSome = true) :
    Machine.exec (.remoteWriteReceive f pa data) s = .next (s0.say (.ack f)) := by
  show execRemoteWriteReceive f pa data s = _
  unfold execRemoteWriteReceive
  simp only [h, hs, if_true]

theorem exec_remoteWriteReceive_refused (pa : Nat) (data : List Byte) (h : s.meet f.dev f.inc = some s0) (hs : s0.seenBefore f = none)
    (hr : s0.refuses f.dev pa = true) : Machine.exec (.remoteWriteReceive f pa data) s = .next (s0.say (.refused f.dev pa)) := by
  show execRemoteWriteReceive f pa data s = _
  unfold execRemoteWriteReceive
  simp [h, hs, hr]

theorem exec_remoteWriteReceive_waits (pa : Nat) (data : List Byte) (h : s.meet f.dev f.inc = some s0) (hs : s0.seenBefore f = none)
    (hr : s0.refuses f.dev pa = false) (hm : s0.inHbm pa data.length = true) (hf : s0.hbmFull pa data.length = true) :
    Machine.exec (.remoteWriteReceive f pa data) s = .next s := by
  show execRemoteWriteReceive f pa data s = _
  unfold execRemoteWriteReceive
  simp [h, hs, hr, hm, hf]

/-- A request of another device is noted, so that it is known when it comes again. -/
def Machine.State.noteSeen (s : Machine.State) (f : RemoteFrom) (o : W64) : Machine.State :=
  { s with fab := { s.fab with seen := s.fab.seen ++ [Seen.mk f o] } }

theorem seenBefore_noteSeen (hs : s.seenBefore f = none) (o : W64) : (s.noteSeen f o).seenBefore f = some ⟨f, o⟩ := by
  unfold State.seenBefore at hs ⊢
  show List.find? _ (s.fab.seen ++ [Seen.mk f o]) = _
  rw [List.find?_append, hs]
  simp

theorem seenBefore_of_seen {t : Machine.State} (h : t.fab.seen = s.fab.seen) : t.seenBefore f = s.seenBefore f := by
  rw [State.seenBefore, h, State.seenBefore]

theorem exec_remoteWriteReceive_performed (pa : Nat) (data : List Byte) (h : s.meet f.dev f.inc = some s0) (hs : s0.seenBefore f = none)
    (hr : s0.refuses f.dev pa = false) (hm : s0.inHbm pa data.length = true) (hf : s0.hbmFull pa data.length = false)
    (hb : s0.badPart pa data.length = false) :
    Machine.exec (.remoteWriteReceive f pa data) s = .next ((((s0.noteSeen f 0).useHbm pa data.length).softPut (.mem pa) data).say (.ack f)) := by
  have hm1 : (s0.noteSeen f 0).inHbm pa data.length = true := hm
  have hb1 : (s0.noteSeen f 0).badPart pa data.length = false := hb
  show execRemoteWriteReceive f pa data s = _
  unfold execRemoteWriteReceive
  simp only [h, hs, hr, hm, hf, Option.isSome_none, Bool.and_false, Bool.false_eq_true, if_false]
  show Host.Outcome.next (State.say (if !((s0.noteSeen f 0).inHbm pa data.length) then _ else if (s0.noteSeen f 0).badPart pa data.length then _
    else ((s0.noteSeen f 0).useHbm pa data.length).softPut (.mem pa) data) _) = _
  rw [hm1, hb1]
  rfl

theorem exec_remoteWriteReceive_outside (pa : Nat) (data : List Byte) (h : s.meet f.dev f.inc = some s0) (hs : s0.seenBefore f = none)
    (hr : s0.refuses f.dev pa = false) (hm : s0.inHbm pa data.length = false) :
    Machine.exec (.remoteWriteReceive f pa data) s = .next (((s0.noteSeen f 0).rootItem 0x23 pa f.dev).say (.ack f)) := by
  have hm1 : (s0.noteSeen f 0).inHbm pa data.length = false := hm
  show execRemoteWriteReceive f pa data s = _
  unfold execRemoteWriteReceive
  simp only [h, hs, hr, hm, Option.isSome_none, Bool.false_and, Bool.false_eq_true, if_false]
  show Host.Outcome.next (State.say (if !((s0.noteSeen f 0).inHbm pa data.length) then (s0.noteSeen f 0).rootItem 0x23 pa f.dev else _) _) = _
  rw [hm1]
  rfl

theorem exec_remoteAtomicReceive_seen (pa : Nat) (op : AtomOp) (ty : Ty) (v : W64) (h : s.meet f.dev f.inc = some s0) {k : Seen}
    (hs : s0.seenBefore f = some k) : Machine.exec (.remoteAtomicReceive f pa op ty v) s = .next (s0.say (.atomicOld f k.old)) := by
  show execRemoteAtomicReceive f pa op ty v s = _
  unfold execRemoteAtomicReceive
  simp only [h, hs]

theorem exec_remoteAtomicReceive_refused (pa : Nat) (op : AtomOp) (ty : Ty) (v : W64) (h : s.meet f.dev f.inc = some s0)
    (hs : s0.seenBefore f = none) (hr : s0.refuses f.dev pa = true) :
    Machine.exec (.remoteAtomicReceive f pa op ty v) s = .next (s0.say (.refused f.dev pa)) := by
  show execRemoteAtomicReceive f pa op ty v s = _
  unfold execRemoteAtomicReceive
  simp only [h, hs, hr, if_true]

theorem exec_remoteAtomicReceive_waits (pa : Nat) (op : AtomOp) (ty : Ty) (v : W64) (h : s.meet f.dev f.inc = some s0)
    (hs : s0.seenBefore f = none) (hr : s0.refuses f.dev pa = false) (hm : s0.inHbm pa (tyBits ty / 8) = true)
    (hf : s0.hbmFull pa (tyBits ty / 8) = true) : Machine.exec (.remoteAtomicReceive f pa op ty v) s = .next s := by
  show execRemoteAtomicReceive f pa op ty v s = _
  unfold execRemoteAtomicReceive
  simp only [h, hs, hr, hm, hf, Bool.and_self, Bool.false_eq_true, if_false, if_true]

theorem exec_remoteAtomicReceive_performed (pa : Nat) (op : AtomOp) (ty : Ty) (v : W64) (h : s.meet f.dev f.inc = some s0)
    (hs : s0.seenBefore f = none) (hr : s0.refuses f.dev pa = false) (hm : s0.inHbm pa (tyBits ty / 8) = true)
    (hf : s0.hbmFull pa (tyBits ty / 8) = false) (hb : s0.badBytes (.mem pa) (tyBits ty / 8) = false) :
    let n := tyBits ty / 8
    let old := BitVec.ofNat 64 (Memory.num s0.mem pa n)
    Machine.exec (.remoteAtomicReceive f pa op ty v) s = .next (((((s0.useHbm pa n).softPut (.mem pa)
      (leBytes n (atomNew (AtomOp.mop op) ty old v (AtomOp.cmp op)).toNat))).noteSeen f old).say (.atomicOld f old)) := by
  show execRemoteAtomicReceive f pa op ty v s = _
  unfold execRemoteAtomicReceive
  simp only [h, hs, hr, hm, hf, hb, Bool.and_false, Bool.not_true, Bool.false_eq_true, if_false]
  rfl

theorem exec_remoteReadReceive_refused {src pa : Nat} (n : Nat) (hr : s.refuses src pa = true) :
    Machine.exec (.remoteReadReceive src pa n) s = .next (s.say (.refused src pa)) := by
  show execRemoteReadReceive src pa n s = _
  simp only [execRemoteReadReceive, hr, if_true]

theorem exec_remoteReadReceive_waits {src pa n : Nat} (hr : s.refuses src pa = false) (hm : s.inHbm pa n = true)
    (hf : s.hbmFull pa n = true) : Machine.exec (.remoteReadReceive src pa n) s = .next s := by
  show execRemoteReadReceive src pa n s = _
  simp only [execRemoteReadReceive, hr, hm, hf, Bool.and_self, Bool.false_eq_true, if_false, if_true]

theorem exec_remoteReadReceive_answered {src pa n : Nat} (hr : s.refuses src pa = false) (hm : s.inHbm pa n = true)
    (hf : s.hbmFull pa n = false) (hb : s.badBytes (.mem pa) n = false) :
    Machine.exec (.remoteReadReceive src pa n) s = .next ((s.useHbm pa n).say (.readData src pa (Memory.read s.mem pa n))) := by
  show execRemoteReadReceive src pa n s = _
  simp only [execRemoteReadReceive, hr, hm, hf, hb, Bool.and_false, Bool.not_true, Bool.false_eq_true, if_false]

theorem exec_remoteReadReceive_outside {src pa n : Nat} (hr : s.refuses src pa = false) (hm : s.inHbm pa n = false) :
    Machine.exec (.remoteReadReceive src pa n) s =
      .next ((s.rootItem 0x23 pa src).say (.readData src pa (List.replicate n 0))) := by
  show execRemoteReadReceive src pa n s = _
  simp only [execRemoteReadReceive, hr, hm, Bool.false_and, Bool.not_false, Bool.false_eq_true, if_false, if_true]

end

/-- The bytes that a write of software leaves. -/
theorem get_softPut (s : Machine.State) (pa a : Nat) (bs : List Byte) :
    Memory.get (s.softPut (.mem pa) bs).mem a =
      if pa ≤ a ∧ a < pa + bs.length then (s.disown pa bs).getD (a - pa) 0 else Memory.get s.mem a := by
  show Memory.get (Memory.write s.mem pa (s.disown pa bs)) a = _
  rw [Memory.get_write, length_disown]

/-- A word that a write of software leaves where it may write. -/
theorem num_softPut {s : Machine.State} {pa n : Nat} (v : Nat) (h : ∀ i, i < n → s.barred false (pa + i) = false) :
    Memory.num (s.softPut (.mem pa) (leBytes n v)).mem pa n = v % 256 ^ n := by
  have hd : s.disown pa (leBytes n v) = leBytes n v := disown_of_open fun i hi => h i (by simpa using hi)
  have hread := Memory.read_write_same s.mem pa (leBytes n v)
  rw [length_leBytes] at hread
  show Memory.num (Memory.write s.mem pa (s.disown pa (leBytes n v))) pa n = _
  rw [hd, Memory.num, hread, leNat_leBytes]

theorem get_softPut_useHbm (s : Machine.State) (pa n a : Nat) (bs : List Byte) :
    Memory.get ((s.useHbm pa n).softPut (.mem pa) bs).mem a =
      if pa ≤ a ∧ a < pa + bs.length then (s.disown pa bs).getD (a - pa) 0 else Memory.get s.mem a := by
  have hu : (s.useHbm pa n).mem = s.mem ∧ (s.useHbm pa n).disown pa bs = s.disown pa bs := by
    unfold State.useHbm
    split <;> exact ⟨rfl, rfl⟩
  rw [get_softPut, hu.1, hu.2]

theorem num_softPut_useHbm {s : Machine.State} {pa n : Nat} (v : Nat) (h : ∀ i, i < n → s.barred false (pa + i) = false) :
    Memory.num ((s.useHbm pa n).softPut (.mem pa) (leBytes n v)).mem pa n = v % 256 ^ n := by
  refine num_softPut v fun i hi => (?_ : _ = s.barred false (pa + i)).trans (h i hi)
  unfold State.useHbm
  split <;> rfl

theorem softPut_useHbm_frame (s : Machine.State) (pa n : Nat) (bs : List Byte) :
    ((s.useHbm pa n).softPut (.mem pa) bs).fab = s.fab ∧ ((s.useHbm pa n).softPut (.mem pa) bs).spad = s.spad ∧
      ((s.useHbm pa n).softPut (.mem pa) bs).waves = s.waves := by
  unfold State.useHbm
  split <;> exact ⟨rfl, rfl, rfl⟩

/-! ### Answers to this device's requests -/

section
variable {s : Machine.State} {n : Nat} {r : FabReq}

theorem req_n (h : s.req n = some r) : r.n = n := by
  have := List.find?_some h
  simpa using this

theorem req_of_out {t : Machine.State} (h : t.fab.out = s.fab.out) (n : Nat) : t.req n = s.req n := by rw [State.req, h, State.req]

theorem waiter_of_acc {t : Machine.State} (h : t.path.acc = s.path.acc) (n : Nat) : t.waiter n = s.waiter n := by
  rw [State.waiter, h, State.waiter]

theorem dropReq_req (s : Machine.State) (n : Nat) : (s.dropReq n).req n = none := by
  rw [State.req, List.find?_eq_none]
  intro x hx
  have := (List.mem_filter.1 hx).2
  simpa using this

theorem exec_ack_none (data : List Byte) (fails : Nat) (h : s.req n = none) :
    Machine.exec (.fabricAcknowledgement n data fails) s = .next s := by
  show execFabricAcknowledgement n data fails s = _
  simp only [execFabricAcknowledgement, h]

theorem exec_ack_unreached (data : List Byte) (fails : Nat) (h : s.req n = some r) (hr : s.reached r = false) :
    Machine.exec (.fabricAcknowledgement n data fails) s = .next s := by
  show execFabricAcknowledgement n data fails s = _
  simp only [execFabricAcknowledgement, h, hr, Bool.not_false, if_true]

/-- The state in which the answer to a write finds the access that waits for it. -/
def Machine.State.written (s : Machine.State) (n : Nat) (r : FabReq) (bs : List Byte) : Machine.State :=
  if r.keep then ((s.dropReq n).ackSeq r).farPut r.die r.dev r.pa bs else (s.dropReq n).ackSeq r

theorem written_frame (s : Machine.State) (n : Nat) (r : FabReq) (bs : List Byte) :
    (s.written n r bs).fab = ((s.dropReq n).ackSeq r).fab ∧ (s.written n r bs).path.acc = s.path.acc ∧ (s.written n r bs).mem = s.mem ∧
      (s.written n r bs).waves = s.waves ∧ (s.written n r bs).threads = s.threads := by
  unfold State.written
  split <;> exact ⟨rfl, rfl, rfl, rfl, rfl⟩

theorem exec_ack_write (data : List Byte) (fails : Nat) (h : s.req n = some r) (hr : s.reached r = true) {bs : List Byte}
    (hk : r.kind = .write bs) : Machine.exec (.fabricAcknowledgement n data fails) s =
      .next (match s.waiter n with | some (a, _) => (s.written n r bs).answered a n | none => s.written n r bs) := by
  show execFabricAcknowledgement n data fails s = _
  simp only [execFabricAcknowledgement, h, hr, hk, Bool.not_true, Bool.false_eq_true, if_false]
  rw [← waiter_of_acc (written_frame s n r bs).2.1 n]
  rfl

theorem exec_ack_bin (data : List Byte) (fails : Nat) (h : s.req n = some r) (hr : s.reached r = true) {b : Bin} {k : Nat}
    (hk : r.kind = .bin b k) : Machine.exec (.fabricAcknowledgement n data fails) s = .next ((s.dropReq n).ackSeq r) := by
  show execFabricAcknowledgement n data fails s = _
  simp only [execFabricAcknowledgement, h, hr, hk, Bool.not_true, Bool.false_eq_true, if_false]

/-- The state in which the answer to a read finds the access that waits for it. -/
def Machine.State.readBack (s : Machine.State) (n : Nat) (r : FabReq) (bs : List Byte) : Machine.State :=
  let s2 := { s.dropReq n with free := s.free + 1 }
  if r.keep && Config.l2Holds s.free then s2.farPut r.die r.dev r.pa bs else s2

theorem readBack_frame (s : Machine.State) (n : Nat) (r : FabReq) (bs : List Byte) :
    (s.readBack n r bs).fab = (s.dropReq n).fab ∧ (s.readBack n r bs).path.acc = s.path.acc ∧ (s.readBack n r bs).mem = s.mem ∧
      (s.readBack n r bs).waves = s.waves ∧ (s.readBack n r bs).threads = s.threads := by
  unfold State.readBack
  dsimp only
  split <;> exact ⟨rfl, rfl, rfl, rfl, rfl⟩

theorem exec_ack_read (data : List Byte) (fails : Nat) (h : s.req n = some r) (hr : s.reached r = true) {k : Nat}
    (hk : r.kind = .read k) (hw : s.waiter n = none) :
    Machine.exec (.fabricAcknowledgement n data fails) s = .next (s.readBack n r data) := by
  have hnone : (s.readBack n r data).waiter n = none := (waiter_of_acc (readBack_frame s n r data).2.1 n).trans hw
  show execFabricAcknowledgement n data fails s = _
  simp only [execFabricAcknowledgement, h, hr, hk, Bool.not_true, Bool.false_eq_true, if_false]
  show Host.Outcome.next (match (s.readBack n r data).waiter n with | some (a, l) => _ | none => s.readBack n r data) = _
  rw [hnone]

theorem exec_resend (h : s.req n = some r) : Machine.exec (.fabricResend n) s = .next (if 0 < r.sends ∧ r.sends < s.ports r.dev then
    { s with fab := { s.fab with out := s.fab.out.map (fun q => if q.n == n then { q with sends := q.sends + 1 } else q) } } else s) := by
  show execFabricResend n s = _
  simp only [execFabricResend, h]

/-- A change of the requests of one number that keeps it changes what the number names. -/
theorem find_map_req (l : List FabReq) (n : Nat) (g : FabReq → FabReq) (hg : ∀ q, (g q).n = q.n) :
    (l.map (fun q => if q.n == n then g q else q)).find? (fun q => q.n == n) = (l.find? (fun q => q.n == n)).map g := by
  induction l with
  | nil => rfl
  | cons q l ih =>
    by_cases hq : q.n = n
    · simp [hq, hg]
    · simpa [hq] using ih

theorem exec_itemFail (h : s.req n = some r) : Machine.exec (.fabricItemFail n) s =
    .next (if r.sends = 0 then s else s.failReq r (s.reqCause r)) := by
  show execFabricItemFail n s = _
  simp only [execFabricItemFail, h]

theorem exec_of_no_request (data : List Byte) (fails : Nat) (h : s.req n = none) :
    Machine.exec (.fabricAcknowledgement n data fails) s = .next s ∧ Machine.exec (.fabricResend n) s = .next s ∧
      Machine.exec (.fabricItemFail n) s = .next s := by
  refine ⟨exec_ack_none data fails h, ?_, ?_⟩
  · show execFabricResend n s = _
    simp only [execFabricResend, h]
  · show execFabricItemFail n s = _
    simp only [execFabricItemFail, h]

end

theorem sendHeld_of_sent {t : Machine.State} (h : ∀ r ∈ t.fab.out, r.sends ≠ 0) : t.sendHeld = t := by
  have hnone : t.fab.out.filter (fun r => r.sends == 0) = [] := by
    rw [List.filter_eq_nil_iff]
    intro r hr
    simpa using h r hr
  unfold State.sendHeld
  rw [hnone, List.foldl_nil]

theorem Map.find_each {V : Type} (m : Map V) (f : Nat → V → V) (k : Nat) : Map.find (Map.each m f) k = (Map.find m k).map (f k) := by
  unfold Map.each
  induction m with
  | nil => rfl
  | cons e m ih =>
    obtain ⟨j, v⟩ := e
    by_cases hj : j = k
    · simp [Map.find, hj]
    · simpa [Map.find, hj] using ih


/-- What an ended wait of a request changes: the request is gone and its sequence number counts as acknowledged. -/
theorem done_ackSeq (s : Machine.State) (n : Nat) (r : FabReq) :
    (Map.at ((s.dropReq n).ackSeq r).fab.queues (r.ctx * 64 + r.queue) ⟨0, []⟩).done =
      (Map.at s.fab.queues (r.ctx * 64 + r.queue) ⟨0, []⟩).done ++ [r.seq] :=
  congrArg FabQueue.done (Map.at_put_same _ _ _ _)

theorem exec_lossOfPorts {s : Machine.State} {port dev : Nat} (hp : port < 24) :
    ∃ t, Machine.exec (.lossOfPorts port dev) s = .next t ∧ (port, dev) ∈ t.fab.lostPorts ∧ t.mem = s.mem ∧ t.waves = s.waves := by
  show ∃ t, execLossOfPorts port dev s = _ ∧ _
  unfold execLossOfPorts
  by_cases hc : s.fab.lostPorts.contains (port, dev) = true
  · refine ⟨s, ?_, List.contains_iff_mem.1 hc, rfl, rfl⟩
    rw [if_neg (by simp [List.contains_iff_mem.1 hc])]
  · rw [if_pos ⟨hp, by simpa using hc⟩]
    exact ⟨_, rfl, List.mem_append_right _ (List.mem_singleton_self _), rfl, rfl⟩

/-! ### Permits and leases -/

/-- A state with other region nodes and other memory. -/
def Machine.State.withTree (s : Machine.State) (nodes : Map Node) (m : Mem) (u : List Nat) : Machine.State :=
  { s with mem := m, uncorr := u, sch := { s.sch with nodes := nodes } }

/-- A change of region nodes reaches the nodes and the words of their blocks. -/
theorem setNode_tree (s : Machine.State) (a : Nat) (m : Node) (k : Nat) : ∃ l x u, s.setNode a m k = s.withTree l x u := by
  unfold State.setNode
  dsimp only
  split
  · exact ⟨_, s.mem, s.uncorr, rfl⟩
  · exact ⟨_, _, _, rfl⟩

theorem modNodes_tree (s : Machine.State) (l : List Nat) (f : Node → Node) : ∃ n x u, s.modNodes l f = s.withTree n x u := by
  unfold State.modNodes
  induction l generalizing s with
  | nil => exact ⟨s.sch.nodes, s.mem, s.uncorr, rfl⟩
  | cons a l ih =>
    have hone : ∃ n x u, s.modNode a f = s.withTree n x u := by
      unfold State.modNode
      split
      · exact setNode_tree _ _ _ _
      · exact ⟨s.sch.nodes, s.mem, s.uncorr, rfl⟩
    obtain ⟨n, x, u, h⟩ := hone
    obtain ⟨n', x', u', h'⟩ := ih (s.withTree n x u)
    exact ⟨n', x', u', by rw [List.foldl_cons, h, h']; rfl⟩

theorem exec_permitGrant {s : Machine.State} {x a : Nat} (dev n : Nat) (h : W32) (hx : s.ctxNode x = some a) :
    let room := (s.ancestry a).foldl (fun m e => min m (s.effStg e.1 * 2 - e.2.permits)) n
    ∃ t, Machine.exec (.permitGrant x dev n h) s = .next t ∧
      Map.at t.fab.permits (x * 1024 + dev) 0 = Map.at s.fab.permits (x * 1024 + dev) 0 + room ∧
      Map.at t.fab.handles (x * 1024 + dev) 0 = h ∧
      (room < n → t.fab.replies = s.fab.replies ++ [.permit dev x (n - room) h]) ∧ t.waves = s.waves := by
  intro room
  show ∃ t, execPermitGrant x dev n h s = _ ∧ _
  unfold execPermitGrant
  rw [hx]
  dsimp only
  obtain ⟨l, m, u, ht⟩ := modNodes_tree s (s.anc a) (fun m => { m with permits := m.permits + room })
  rw [ht]
  refine ⟨_, rfl, ?_⟩
  split
  · exact ⟨Map.at_put_same _ _ _ _, Map.at_put_same _ _ _ _, fun _ => rfl, rfl⟩
  · next hroom => exact ⟨Map.at_put_same _ _ _ _, Map.at_put_same _ _ _ _, fun h => absurd h hroom, rfl⟩

theorem find_revokeLeases {s : Machine.State} (p : Lease → Bool) {w : Nat} {l : Lease} (h : Map.find s.fab.leases w = some l) :
    Map.find (s.revokeLeases p).fab.leases w = some (if l.state = 1 ∧ p l = true then { l with state := 2 } else l) := by
  unfold State.revokeLeases
  dsimp only
  rw [Map.find_each, h, Option.map_some]
  simp

theorem exec_incarnationAnnounce {s s0 : Machine.State} {dev : Nat} {inc : BitVec 16} (h : s.meet dev inc = some s0) :
    Machine.exec (.incarnationAnnounce dev inc) s = .next (s0.revokeLeases (fun l => l.lender == dev && l.linc != inc)) := by
  show execIncarnationAnnounce dev inc s = _
  simp only [execIncarnationAnnounce, h]

theorem exec_leaseDrained {s : Machine.State} {w : Nat} (hs : (s.lease w).state = 2) (hi : s.inflight w = 0) :
    Machine.exec (.leaseDrained w) s = .next
      (({ s with fab := { s.fab with leases := Map.put s.fab.leases w ({ s.lease w with state := 3 }) } }).say
        (.leaseDrained (s.lease w).lender (s.lease w).lid)) := by
  show execLeaseDrained w s = _
  unfold execLeaseDrained
  dsimp only
  rw [if_pos ⟨hs, hi⟩]

theorem exec_leaseDrained_waits {s : Machine.State} {w : Nat} (h : (s.lease w).state ≠ 2 ∨ s.inflight w ≠ 0) :
    Machine.exec (.leaseDrained w) s = .next s := by
  show execLeaseDrained w s = _
  unfold execLeaseDrained
  dsimp only
  rw [if_neg (by omega)]

theorem exec_leaseDrainTimeout (s : Machine.State) (dev : Nat) (lid : W32) : ∃ t, Machine.exec (.leaseDrainTimeout dev lid) s = .next t ∧
    t.fab.lent = s.fab.lent.map (fun l => if l.dev = dev ∧ l.lid = lid ∧ l.state = 1 then { l with state := 2 } else l) ∧
    SameBytes s t := by
  refine ⟨_, rfl, ?_, fun a => ⟨rfl, rfl⟩⟩
  refine List.map_congr_left fun l _ => ?_
  simp [and_assoc]

/-! ### Phases of recovery -/

section
variable {s : Machine.State} {lost : List Nat} {ph : RecoveryPhase}

/-- The phase is the next one of Table 29-4. -/
def recoveryTurn (s : Machine.State) (ph : RecoveryPhase) : Prop :=
  match RecoveryPhase.prior ph with | none => s.fab.recovery = [] | some p => s.fab.recovery.getLast? = some p

/-- The model's test of the same. -/
def recoveryOk (s : Machine.State) (ph : RecoveryPhase) : Bool :=
  match RecoveryPhase.prior ph with | none => s.fab.recovery.isEmpty | some p => s.fab.recovery.getLast? == some p

theorem recoveryOk_iff (s : Machine.State) (ph : RecoveryPhase) : recoveryOk s ph = true ↔ recoveryTurn s ph := by
  unfold recoveryOk recoveryTurn
  split <;> simp

theorem not_recoveryOk (h : recoveryTurn s ph) : ¬(!recoveryOk s ph) = true := by
  rw [(recoveryOk_iff s ph).2 h]
  exact Bool.false_ne_true

theorem exec_podRecovery_skip (h : ¬ recoveryTurn s ph) : Machine.exec (.podRecovery lost ph) s = .next s := by
  rw [← recoveryOk_iff, Bool.not_eq_true] at h
  show Host.Outcome.next (if !recoveryOk s ph then s else _) = _
  rw [h]
  rfl

theorem exec_podRecovery_announce (h : recoveryTurn s .announce) : ∃ t, Machine.exec (.podRecovery lost .announce) s = .next t ∧
    t.fab.recovery = s.fab.recovery ++ [.announce] ∧ t.fab.members = s.fab.members.filter (fun m => !lost.contains m) ∧
    t.dev.inc = s.dev.inc + 1 ∧ t.fab.replies = s.fab.replies ++ [.announce (s.dev.inc + 1), .members t.fab.members] ∧
    (∀ l ∈ t.fab.lent, l.state = 2) ∧ SameBytes s t := by
  refine ⟨_, congrArg Host.Outcome.next (if_neg (not_recoveryOk h)), rfl, rfl, rfl, List.append_assoc _ _ _, fun l hl => ?_, fun a => ⟨rfl, rfl⟩⟩
  obtain ⟨l', -, rfl⟩ := List.mem_map.1 hl
  rfl

theorem exec_podRecovery_failItems (h : recoveryTurn s .failItems) : Machine.exec (.podRecovery lost .failItems) s =
    .next { s.failTo lost with fab := { (s.failTo lost).fab with recovery := (s.failTo lost).fab.recovery ++ [.failItems] } } :=
  congrArg Host.Outcome.next (if_neg (not_recoveryOk h))

theorem exec_podRecovery_endDomains (h : recoveryTurn s .endDomains) : Machine.exec (.podRecovery lost .endDomains) s =
    .next { s.endBroken with fab := { s.endBroken.fab with recovery := s.endBroken.fab.recovery ++ [.endDomains] } } :=
  congrArg Host.Outcome.next (if_neg (not_recoveryOk h))

theorem exec_podRecovery_drainLeases (h : recoveryTurn s .drainLeases) : ∃ t, Machine.exec (.podRecovery lost .drainLeases) s = .next t ∧
    t.fab.recovery = s.fab.recovery ++ [.drainLeases] ∧ (∀ l ∈ t.fab.lent, lost.contains l.dev = true → l.state = 2) ∧
    ∀ w l, Map.find s.fab.leases w = some l → lost.contains l.lender = true → l.state = 1 →
      Map.find t.fab.leases w = some { l with state := 2 } := by
  refine ⟨_, congrArg Host.Outcome.next (if_neg (not_recoveryOk h)), rfl, fun l hl hd => ?_, fun w l hw hlost hstate => ?_⟩
  · obtain ⟨l', -, rfl⟩ := List.mem_map.1 hl
    split at hd
    · next hc => rw [if_pos hc]
    · next hc => exact absurd hd hc
  · have := find_revokeLeases (fun l => lost.contains l.lender) hw
    rw [if_pos ⟨hstate, hlost⟩] at this
    exact this

theorem exec_podRecovery_reroute (h : recoveryTurn s .reroute) : ∃ t, Machine.exec (.podRecovery lost .reroute) s = .next t ∧
    t.fab.recovery = [] ∧ ∀ p d, (p, d) ∈ t.fab.lostPorts ↔ (if d ∈ lost then p < 24 else (p, d) ∈ s.fab.lostPorts) := by
  refine ⟨_, congrArg Host.Outcome.next (if_neg (not_recoveryOk h)), rfl, fun p d => ?_⟩
  by_cases hd : d ∈ lost <;> simp [hd]

end

/-- Settles O58: each event by the equation of its case; memory and the requests by what the shared updates change. -/
theorem fabricEvents : Obligations.FabricEvents := by
  refine ⟨fun s s0 f pa data => ⟨exec_remoteWriteReceive_lost pa data, fun hm => ⟨exec_remoteWriteReceive_seen pa data hm,
      exec_remoteWriteReceive_refused pa data hm, exec_remoteWriteReceive_waits pa data hm, fun hs hr hin hfull hbad => ?_,
      fun hs hr hin => ?_⟩⟩,
    fun s s0 f pa op ty v hm => ⟨fun k => exec_remoteAtomicReceive_seen pa op ty v hm, exec_remoteAtomicReceive_refused pa op ty v hm,
      exec_remoteAtomicReceive_waits pa op ty v hm, fun hs hr hin hfull hbad => ?_⟩,
    fun s src pa n => ⟨exec_remoteReadReceive_refused n, exec_remoteReadReceive_waits, exec_remoteReadReceive_answered,
      exec_remoteReadReceive_outside⟩,
    fun s n data fails => exec_of_no_request data fails,
    fun s n data fails r hreq => ⟨exec_ack_unreached data fails hreq, fun hr d hk hw => ?_, fun hr d hk a l hw => ?_,
      fun hr b k hk => exec_ack_bin data fails hreq hr hk, fun hr k hk hw => ?_, fun hpos hlt => ?_, fun hno => ?_, fun hpos => ?_,
      fun hzero => ?_⟩,
    fun s => ⟨_, rfl, fun a => ⟨rfl, rfl⟩, rfl, fun h => sendHeld_of_sent h,
      fun a => Map.find_each s.sch.nodes (fun _ m => { m with sent := 0 }) a⟩,
    fun s port dev => exec_lossOfPorts,
    fun s x dev n a h => exec_permitGrant dev n h,
    fun s s0 dev inc hm => ⟨_, exec_incarnationAnnounce hm, fun w l hw => ?_⟩,
    fun s lender lid => ⟨_, rfl, rfl, fun w l hw => ?_⟩,
    fun s w => ⟨fun hs hi => ⟨_, exec_leaseDrained hs hi, Map.at_put_same _ _ _ _, rfl⟩, exec_leaseDrained_waits⟩,
    exec_leaseDrainTimeout,
    fun s lost ph => ⟨exec_podRecovery_skip, fun h hp => ?_, fun h hp => ?_, fun h hp => ?_, fun h hp => ?_, fun h hp => ?_⟩⟩
  · obtain ⟨hfab, hspad, hwaves⟩ := softPut_useHbm_frame (s0.noteSeen f 0) pa data.length data
    refine ⟨_, exec_remoteWriteReceive_performed pa data hm hs hr hin hfull hbad, ?_, ?_, hspad, hwaves,
      fun a => get_softPut_useHbm (s0.noteSeen f 0) pa data.length a data⟩
    · refine (congrArg Option.isSome (seenBefore_of_seen (s := s0.noteSeen f 0) (congrArg Fabric.seen hfab))).trans ?_
      rw [seenBefore_noteSeen hs]
      rfl
    · have hrep := congrArg Fabric.replies hfab
      exact replies_say hrep _
  · refine ⟨s0.noteSeen f 0, exec_remoteWriteReceive_outside pa data hm hs hr hin, fun a => ⟨rfl, rfl⟩, ?_⟩
    rw [seenBefore_noteSeen hs]
    rfl
  · obtain ⟨hfab, -, -⟩ := softPut_useHbm_frame s0 pa (tyBits ty / 8)
      (leBytes (tyBits ty / 8) (atomNew (AtomOp.mop op) ty (BitVec.ofNat 64 (Memory.num s0.mem pa (tyBits ty / 8))) v (AtomOp.cmp op)).toNat)
    refine ⟨_, exec_remoteAtomicReceive_performed pa op ty v hm hs hr hin hfull hbad, ?_, ?_, fun hopen => ?_, fun a ha => ?_⟩
    · have hrep := congrArg Fabric.replies hfab
      exact replies_say hrep _
    · have hs' := (seenBefore_of_seen (f := f) (congrArg Fabric.seen hfab)).trans hs
      exact congrArg (Option.map Seen.old) (seenBefore_noteSeen hs' _)
    · exact num_softPut_useHbm _ hopen
    · have := get_softPut_useHbm s0 pa (tyBits ty / 8) a
        (leBytes (tyBits ty / 8) (atomNew (AtomOp.mop op) ty (BitVec.ofNat 64 (Memory.num s0.mem pa (tyBits ty / 8))) v (AtomOp.cmp op)).toNat)
      rw [length_leBytes, if_neg (by omega)] at this
      exact this
  · obtain ⟨hfab, -, hmem, hwaves, hthreads⟩ := written_frame s n r d
    refine ⟨s.written n r d, ?_, ?_, ?_, hmem, hwaves, hthreads⟩
    · rw [exec_ack_write data fails hreq hr hk, hw]
    · rw [req_of_out (congrArg Fabric.out hfab)]
      exact dropReq_req s n
    · rw [hfab]
      exact done_ackSeq s n r
  · rw [exec_ack_write data fails hreq hr hk, hw]
    rfl
  · obtain ⟨hfab, -, hmem, hwaves, hthreads⟩ := readBack_frame s n r data
    refine ⟨_, exec_ack_read data fails hreq hr hk hw, ?_, hmem, hwaves, hthreads⟩
    rw [req_of_out (congrArg Fabric.out hfab), dropReq_req]
  · have hfind := find_map_req s.fab.out n (fun q => { q with sends := q.sends + 1 }) fun _ => rfl
    have hout : s.fab.out.find? (fun q => q.n == n) = some r := hreq
    rw [hout] at hfind
    refine ⟨_, (exec_resend hreq).trans (congrArg Host.Outcome.next (if_pos ⟨hpos, hlt⟩)), ?_, ?_, rfl, rfl⟩
    · exact congrArg (Option.map FabReq.sends) hfind
    · exact congrArg (Option.map FabReq.seq) hfind
  · rw [exec_resend hreq, if_neg (by omega)]
  · rw [exec_itemFail hreq, if_neg (by omega)]
  · rw [exec_itemFail hreq, if_pos hzero]
  · simpa using find_revokeLeases (fun l => l.lender == dev && l.linc != inc) hw
  · simpa using find_revokeLeases (fun l => l.lender == lender && l.lid == lid) hw
  · subst hp
    exact exec_podRecovery_announce h
  · subst hp
    exact exec_podRecovery_failItems h
  · subst hp
    exact exec_podRecovery_endDomains h
  · subst hp
    exact exec_podRecovery_drainLeases h
  · subst hp
    exact exec_podRecovery_reroute h

end Sys2Proof

/-! The deferred path: core logs, bins, staging rings and replay (R268, R270, R272 to R277, R279, R292), and the words of memory that a write
leaves. -/

namespace Sys2Proof

open Sys2Proof.Machine

theorem Memory.write_append (m : Mem) (a : Nat) (bs cs : List Byte) :
    Memory.write m a (bs ++ cs) = Memory.write (Memory.write m a bs) (a + bs.length) cs := by
  induction bs generalizing m a with
  | nil => rfl
  | cons b bs ih =>
    rw [List.cons_append, Memory.write, Memory.write, ih, List.length_cons, Nat.add_right_comm, Nat.add_assoc]

theorem Memory.num_eq_of_get {m m' : Mem} {a n : Nat} (h : ∀ i < n, Memory.get m (a + i) = Memory.get m' (a + i)) :
    Memory.num m a n = Memory.num m' a n := congrArg leNat (Memory.read_eq_of_get m m' a n h)

theorem Memory.num_write_outside (m : Mem) {a x n : Nat} {bs : List Byte} (h : x + n ≤ a ∨ a + bs.length ≤ x) :
    Memory.num (Memory.write m a bs) x n = Memory.num m x n :=
  Memory.num_eq_of_get fun i hi => Memory.get_write_outside m a (x + i) bs (by omega)

theorem Memory.num_write_same (m : Mem) (a n v : Nat) : Memory.num (Memory.write m a (leBytes n v)) a n = v % 256 ^ n := by
  have hread := Memory.read_write_same m a (leBytes n v)
  rw [length_leBytes] at hread
  rw [Memory.num, hread, leNat_leBytes]

theorem Memory.w64_write_outside (m : Mem) {a x : Nat} {bs : List Byte} (h : x + 8 ≤ a ∨ a + bs.length ≤ x) :
    Memory.w64 (Memory.write m a bs) x = Memory.w64 m x := congrArg (BitVec.ofNat 64) (Memory.num_write_outside m h)

theorem Memory.w64_write_same (m : Mem) (a : Nat) (w : W64) : Memory.w64 (Memory.write m a (leBytes 8 w.toNat)) a = w := by
  rw [Memory.w64, Memory.num_write_same, Nat.mod_eq_of_lt (by exact w.isLt), BitVec.ofNat_toNat, BitVec.setWidth_eq]

theorem length_wordBytes (ws : List W64) : (wordBytes ws).length = 8 * ws.length := by
  induction ws with
  | nil => rfl
  | cons w ws ih =>
    show (leBytes 8 w.toNat ++ wordBytes ws).length = _
    rw [List.length_append, ih, length_leBytes, List.length_cons]
    omega

theorem Memory.w64_write_wordBytes (m : Mem) (a : Nat) {ws : List W64} {k : Nat} {w : W64} (h : ws[k]? = some w) :
    Memory.w64 (Memory.write m a (wordBytes ws)) (a + 8 * k) = w := by
  induction ws generalizing m a k with
  | nil => cases h
  | cons v ws ih =>
    show Memory.w64 (Memory.write m a (leBytes 8 v.toNat ++ wordBytes ws)) _ = _
    rw [Memory.write_append, length_leBytes]
    cases k with
    | zero =>
      cases h
      show Memory.w64 _ a = w
      rw [Memory.w64_write_outside _ (.inl (Nat.le_refl _)), Memory.w64_write_same]
    | succ k =>
      rw [show a + 8 * (k + 1) = a + 8 + 8 * k from by omega]
      exact ih _ _ h

/-! ### Slots of the staging rings (R273) -/

/-- The records of a bin, word by word. -/
theorem getElem?_flatten_pairs {α : Type} (f g : α → W64) {l : List α} {j : Nat} {x : α} (h : l[j]? = some x) :
    ((l.map (fun r => [f r, g r])).flatten)[2 * j]? = some (f x) ∧ ((l.map (fun r => [f r, g r])).flatten)[2 * j + 1]? = some (g x) := by
  induction l generalizing j with
  | nil => cases h
  | cons a l ih =>
    cases j with
    | zero =>
      cases h
      exact ⟨rfl, rfl⟩
    | succ j => exact ih h

/-- A slot of a ring ends before the headers of its stack. -/
theorem slot_before_head (g base : Nat) {i n len : Nat} (hi : i < n) (hlen : len ≤ 2048) : slotAt g base i + len ≤ slotHead g base n i := by
  unfold slotAt slotHead
  have : 2 ^ 17 * i + 2 ^ 17 ≤ 2 ^ 17 * n := by omega
  omega

theorem freeRing_lt {s : Machine.State} {g n i : Nat} (h : s.freeRing g n = some i) : i < n :=
  List.mem_range.1 (List.mem_of_find?_eq_some h)

theorem putSlot_mem (s : Machine.State) (g base n i d : Nat) (inc : BitVec 16) (h : W32) (k : Nat) (ws : List W64) :
    (s.putSlot g base n i d inc h k ws).mem = Memory.write (Memory.write s.mem (slotAt g base i) (wordBytes ws)) (slotHead g base n i)
      (wordBytes [BitVec.ofNat 64 (d % 1024 * 2 ^ 54 + inc.toNat * 2 ^ 38 + h.toNat),
        BitVec.ofNat 64 (ws.length / 2 * 2 ^ 56 + k % 2 ^ 48)]) := by
  unfold State.putSlot State.writeMem wordBytes
  dsimp only

theorem putSlot_records (s : Machine.State) {g base n i : Nat} (d : Nat) (inc : BitVec 16) (h : W32) (k : Nat) {α : Type} (f q : α → W64)
    {l : List α} {j : Nat} {x : α} (hi : i < n) (hlen : l.length ≤ 128) (hx : l[j]? = some x) :
    let t := s.putSlot g base n i d inc h k ((l.map (fun r => [f r, q r])).flatten)
    Memory.w64 t.mem (slotAt g base i + 16 * j) = f x ∧ Memory.w64 t.mem (slotAt g base i + 16 * j + 8) = q x := by
  intro t
  obtain ⟨hf, hq⟩ := getElem?_flatten_pairs f q hx
  have hj : j < l.length := (List.getElem?_eq_some_iff.1 hx).1
  have hhead := slot_before_head g base hi (len := 2048) (Nat.le_refl _)
  rw [show t.mem = _ from putSlot_mem _ _ _ _ _ _ _ _ _ _]
  constructor
  · rw [Memory.w64_write_outside _ (.inl (by omega)), show slotAt g base i + 16 * j = slotAt g base i + 8 * (2 * j) from by omega]
    exact Memory.w64_write_wordBytes _ _ hf
  · rw [Memory.w64_write_outside _ (.inl (by omega)), show slotAt g base i + 16 * j + 8 = slotAt g base i + 8 * (2 * j + 1) from by omega]
    exact Memory.w64_write_wordBytes _ _ hq

theorem putSlot_handle (s : Machine.State) (g base n i : Nat) (d : Nat) (inc : BitVec 16) (h : W32) (k : Nat) (ws : List W64) :
    fld (Memory.w64 (s.putSlot g base n i d inc h k ws).mem (slotHead g base n i)) 31 0 = h.toNat := by
  rw [putSlot_mem]
  generalize Memory.write s.mem (slotAt g base i) (wordBytes ws) = m
  have hw := Memory.w64_write_wordBytes m (slotHead g base n i) (k := 0)
    (ws := [BitVec.ofNat 64 (d % 1024 * 2 ^ 54 + inc.toNat * 2 ^ 38 + h.toNat), BitVec.ofNat 64 (ws.length / 2 * 2 ^ 56 + k % 2 ^ 48)])
    (List.getElem?_cons_zero ..)
  rw [Nat.mul_zero, Nat.add_zero] at hw
  have hh := h.isLt
  rw [hw, fld_eq, BitVec.toNat_ofNat]
  omega

/-! ### Core logs -/

section
variable {s : Machine.State} {core : Nat}

theorem exec_belfryDrain_empty (h : s.log core = []) : Machine.exec (.belfryDrain core) s = .next s := by
  show execBelfryDrain core s = _
  simp only [execBelfryDrain, h]

theorem exec_belfryDrain_marker {n : Nat} {r : List LogEntry} (h : s.log core = .marker n :: r) :
    Machine.exec (.belfryDrain core) s = .next
      ((({ s with dfd := { s.dfd with logs := Map.put s.dfd.logs core r } } : Machine.State).markerDone n core).enterMarkers core) := by
  show execBelfryDrain core s = _
  simp only [execBelfryDrain, h]

theorem exec_belfryDrain_waits {x : Rec} {r : List LogEntry} (h : s.log core = .record x :: r)
    (hf : s.file (core / 40) x.dest x.ctx s.selfDev s.dev.inc (binRec x.w0 x.w1 (Map.at s.dfd.groups core 0) x.launch) = none) :
    Machine.exec (.belfryDrain core) s = .next s := by
  show execBelfryDrain core s = _
  simp only [execBelfryDrain, h, hf]

theorem exec_belfryDrain_filed {x : Rec} {r : List LogEntry} (h : s.log core = .record x :: r) {t : Machine.State}
    (hf : s.file (core / 40) x.dest x.ctx s.selfDev s.dev.inc (binRec x.w0 x.w1 (Map.at s.dfd.groups core 0) x.launch) = some t) :
    Machine.exec (.belfryDrain core) s = .next
      (({ t with dfd := { t.dfd with logs := Map.put t.dfd.logs core r } } : Machine.State).enterMarkers core) := by
  show execBelfryDrain core s = _
  simp only [execBelfryDrain, h, hf]

/-- A record for a pseudo-channel outside the replicas opens a bin where none of its destination is open. -/
theorem file_opens {die g key d : Nat} {inc : BitVec 16} {b : BinRec} (hr : s.inReplica (recAddr b.w0) = false)
    (hb : s.dfd.bins.find? (fun c => c.holds die (.pch g) key inc) = none) :
    s.file die (.pch g) key d inc b =
      some { s with dfd := { s.dfd with bins := s.dfd.bins ++ [⟨die, .pch g, key, s.binHandle key (.pch g), d, inc, [b], false⟩] } } := by
  have ht : s.targets die (.pch g) b.w0 = [(die, .pch g, b.w0)] := by
    simp only [State.targets, hr, Bool.false_eq_true, if_false]
  unfold State.file
  rw [ht, List.foldl_cons, List.foldl_nil]
  dsimp only
  simp only [State.fileOne, hb]

end

/-! ### Shipping -/

theorem modChan_sent (s : Machine.State) (die : Nat) (dest : BinDest) (f : Chan → Chan) (p : Chan → Prop)
    (hf : ∀ c, c.die = die → c.dest = dest → (f c).die = die ∧ (f c).dest = dest ∧ p (f c)) :
    ∃ c ∈ (s.modChan die dest f).dfd.chans, c.die = die ∧ c.dest = dest ∧ p c := by
  unfold State.modChan
  dsimp only
  split
  · next h =>
    obtain ⟨c, hc, hm⟩ := List.any_eq_true.1 h
    rw [Bool.and_eq_true, beq_iff_eq, beq_iff_eq] at hm
    refine ⟨f c, List.mem_map.2 ⟨c, hc, ?_⟩, hf c hm.1 hm.2⟩
    rw [if_pos (by simp [hm.1, hm.2])]
  · exact ⟨_, List.mem_append_right _ (List.mem_singleton_self _), hf _ rfl rfl⟩

theorem fileAll_of_no_inbound {s : Machine.State} (d : Nat) (h : s.dfd.inb = []) : s.fileAll d = s := by
  have hfree : s.freeInbound = s := by
    unfold State.freeInbound
    rw [h]
    dsimp only [List.filter_nil, List.foldl_nil]
    rw [← h]
  unfold State.fileAll
  rw [h, List.foldl_nil]
  exact hfree

theorem shipBin_local {s : Machine.State} {b : Bin} {g : Nat} (hb : b.dest = .pch g) :
    s.shipBin b = ({ s with dfd := { s.dfd with bins := s.dfd.bins.filter (fun c => !(c.holds b.die b.dest b.key b.inc)) } } : Machine.State).modChan
      b.die (.pch g) (fun c => { c with sent := c.sent ++ [.bin b] }) := by
  unfold State.shipBin
  rw [hb]

section
variable {s : Machine.State} {die g key : Nat} {b : Bin}

theorem bin_of_find (h : s.dfd.bins.find? (fun c => c.die == die && c.dest == .pch g && c.key == key) = some b) :
    b.die = die ∧ b.dest = .pch g := by
  have := List.find?_some h
  simp only [Bool.and_eq_true, beq_iff_eq] at this
  exact this.1

theorem exec_binShip_ships (h : s.dfd.bins.find? (fun c => c.die == die && c.dest == .pch g && c.key == key) = some b)
    (hd : b.due = true ∨ 128 ≤ b.recs.length) :
    Machine.exec (.binShip die (.pch g) key) s = .next (((s.shipBin b).fileAll die).freeNotices die (.pch g)) := by
  show execBinShip die (.pch g) key s = _
  simp only [execBinShip, h]
  rw [if_pos (by simpa using hd)]

theorem exec_binShip_waits (h : s.dfd.bins.find? (fun c => c.die == die && c.dest == .pch g && c.key == key) = some b)
    (hd : b.due = false) (hl : b.recs.length < 128) :
    Machine.exec (.binShip die (.pch g) key) s = .next (s.freeNotices die (.pch g)) := by
  show execBinShip die (.pch g) key s = _
  simp only [execBinShip, h]
  rw [if_neg (by simpa [hd] using hl)]

end

/-! ### Staging -/

section
variable {s : Machine.State} {die pch : Nat} {c : Chan}

/-- The head of the channel from a die to a pseudo-channel is taken off. -/
def Machine.State.popShipment (s : Machine.State) (die pch : Nat) (r : List Shipment) : Machine.State :=
  s.modChan die (.pch pch) (fun k => { k with sent := r })

theorem exec_binStage_empty (hc : s.dfd.chans.find? (fun c => c.die == die && c.dest == .pch pch) = some c) (h : c.sent = []) :
    Machine.exec (.binStage die pch) s = .next s := by
  show execBinStage die pch s = _
  simp only [execBinStage, hc, h]

theorem exec_binStage_notice (hc : s.dfd.chans.find? (fun c => c.die == die && c.dest == .pch pch) = some c) {nt : Notice}
    {r : List Shipment} (h : c.sent = .notice nt :: r) (hcut : s.cut die (pch / 192) = false) :
    Machine.exec (.binStage die pch) s = .next
      (({ s with dfd := { s.dfd with inbox := Map.put s.dfd.inbox pch (Map.at s.dfd.inbox pch [] ++ [nt]) } } : Machine.State).popShipment die pch r) := by
  show execBinStage die pch s = _
  simp only [execBinStage, hc, h, hcut, Bool.false_eq_true, if_false]
  rfl

variable {b : Bin} {r : List Shipment}

theorem exec_binStage_cut (hc : s.dfd.chans.find? (fun c => c.die == die && c.dest == .pch pch) = some c) (h : c.sent = .bin b :: r)
    (hne : b.recs ≠ []) (hcut : s.cut die (pch / 192) = true) :
    Machine.exec (.binStage die pch) s = .next
      ((s.failRecs b.key b.srcdev b.inc b.dest b.recs 0x35).popShipment die pch r).freeInbound := by
  show execBinStage die pch s = _
  simp only [execBinStage, hc, h, List.isEmpty_eq_false_iff.2 hne, hcut, Bool.false_eq_true, if_false, if_true]
  rfl

theorem exec_binStage_noArea (hc : s.dfd.chans.find? (fun c => c.die == die && c.dest == .pch pch) = some c) (h : c.sent = .bin b :: r)
    (hne : b.recs ≠ []) (hcut : s.cut die (pch / 192) = false) (ha : Map.find s.dfd.areas (pch / 64) = none) :
    Machine.exec (.binStage die pch) s = .next
      ((s.failRecs b.key b.srcdev b.inc b.dest b.recs 0x33).popShipment die pch r).freeInbound := by
  show execBinStage die pch s = _
  simp only [execBinStage, hc, h, List.isEmpty_eq_false_iff.2 hne, hcut, ha, Bool.false_eq_true, if_false]
  rfl

theorem exec_binStage_waits (hc : s.dfd.chans.find? (fun c => c.die == die && c.dest == .pch pch) = some c) (h : c.sent = .bin b :: r)
    (hne : b.recs ≠ []) (hcut : s.cut die (pch / 192) = false) {base n i : Nat} (ha : Map.find s.dfd.areas (pch / 64) = some (base, n))
    (hi : s.freeRing pch n = some i)
    (hl : s.hbmFull (pch / 64 * 2 ^ 36) (16 * b.recs.length + 16) = true) : Machine.exec (.binStage die pch) s = .next s := by
  show execBinStage die pch s = _
  simp only [execBinStage, hc, h, List.isEmpty_eq_false_iff.2 hne, hcut, ha, hi, hl, Bool.false_eq_true, if_false, if_true]

theorem exec_binStage_stages (hc : s.dfd.chans.find? (fun c => c.die == die && c.dest == .pch pch) = some c) (h : c.sent = .bin b :: r)
    (hne : b.recs ≠ []) (hcut : s.cut die (pch / 192) = false) {base n i : Nat} (ha : Map.find s.dfd.areas (pch / 64) = some (base, n))
    (hi : s.freeRing pch n = some i)
    (hl : s.hbmFull (pch / 64 * 2 ^ 36) (16 * b.recs.length + 16) = false) :
    Machine.exec (.binStage die pch) s = .next
      (((s.stage pch base n i b).useHbm (pch / 64 * 2 ^ 36) (16 * b.recs.length + 16)).popShipment die pch r) := by
  show execBinStage die pch s = _
  simp only [execBinStage, hc, h, List.isEmpty_eq_false_iff.2 hne, hcut, ha, hi, hl, Bool.false_eq_true, if_false]
  rfl

end

theorem popShipment_useHbm (s : Machine.State) (die pch pa n : Nat) (r : List Shipment) :
    ((s.useHbm pa n).popShipment die pch r).dfd.staged = s.dfd.staged ∧ ((s.useHbm pa n).popShipment die pch r).mem = s.mem := by
  unfold State.useHbm
  split <;> exact ⟨rfl, rfl⟩

/-- A bin that is staged stands in the list of staged bins, its slot holds its records, and the header of the slot its handle. -/
theorem stage_stages (s : Machine.State) {pch base n i : Nat} (b : Bin) (hi : i < n) (hlen : b.recs.length ≤ 128) :
    let t := s.stage pch base n i b
    (∃ e ∈ t.dfd.staged, e.pch = pch ∧ e.slot = i ∧ e.key = b.key ∧ e.hcap = b.hcap ∧ e.recs = b.recs.map (fun r => (r, false))) ∧
    (∀ j r, b.recs[j]? = some r → Memory.w64 t.mem (slotAt pch base i + 16 * j) = r.w0 ∧
      Memory.w64 t.mem (slotAt pch base i + 16 * j + 8) = r.w1) ∧
    fld (Memory.w64 t.mem (slotHead pch base n i)) 31 0 = b.hcap.toNat := by
  unfold State.stage
  dsimp only
  refine ⟨⟨_, List.mem_append_right _ (List.mem_singleton_self _), rfl, rfl, rfl, rfl, rfl⟩, fun j r hr => ?_, ?_⟩
  · exact putSlot_records _ _ _ _ _ _ _ hi hlen hr
  · exact putSlot_handle _ _ _ _ _ _ _ _ _ _

/-! ### Replay -/

section
variable {s : Machine.State} {x : ReplayRec} {pch : Nat}

theorem applyRec_applies (hb : s.badBytes (.mem x.at_) 16 = false) (hv : recValid x.r.w0 x.r.w1 = true) (ha : x.allowed = true)
    (hl : ¬(recOp x.r.w0 ≠ 1 ∧ s.badBytes (.mem (recAddr x.r.w0)) (recBytes x.r.w0) = true)) :
    s.applyRec x pch = s.softPut (.mem (recAddr x.r.w0)) (leBytes (recBytes x.r.w0) (recNew (recOp x.r.w0) (recBytes x.r.w0 == 8)
      (BitVec.ofNat 64 (Memory.num s.mem (recAddr x.r.w0) (recBytes x.r.w0))) x.r.w1).toNat) := by
  simp only [State.applyRec, hb, hv, ha, if_neg hl, Bool.not_true, Bool.false_eq_true, if_false]

/-- The checks of a replayed record, in their order: its ring words, its form, its region, and the word that it reads. -/
theorem applyRec_fails (k : Nat) (h : (k = 0x32 ∧ s.badBytes (.mem x.at_) 16 = true) ∨
    (k = 0x30 ∧ s.badBytes (.mem x.at_) 16 = false ∧ recValid x.r.w0 x.r.w1 = false) ∨
    (k = 0x31 ∧ s.badBytes (.mem x.at_) 16 = false ∧ recValid x.r.w0 x.r.w1 = true ∧ x.allowed = false) ∨
    (k = 0x32 ∧ s.badBytes (.mem x.at_) 16 = false ∧ recValid x.r.w0 x.r.w1 = true ∧ x.allowed = true ∧
      recOp x.r.w0 ≠ 1 ∧ s.badBytes (.mem (recAddr x.r.w0)) (recBytes x.r.w0) = true)) :
    s.applyRec x pch = s.failRec x.key x.srcdev x.inc (.pch pch) x.r k := by
  unfold State.applyRec
  dsimp only
  obtain ⟨rfl, hb⟩ | ⟨rfl, hb, hv⟩ | ⟨rfl, hb, hv, ha⟩ | ⟨rfl, hb, hv, ha, hl⟩ := h
  · rw [hb, if_pos rfl]
  · rw [hb, hv]
    rfl
  · rw [hb, hv, ha]
    rfl
  · rw [hb, hv, ha, if_neg Bool.false_ne_true]
    exact if_pos hl

theorem exec_replay_empty (h : Map.at s.dfd.inbox pch [] = []) : Machine.exec (.commitNoticeReplay pch) s = .next s := by
  show execCommitNoticeReplay pch s = _
  simp only [execCommitNoticeReplay, h]

theorem exec_replay {nt : Notice} {r : List Notice} (h : Map.at s.dfd.inbox pch [] = nt :: r) :
    let s1 := { s with dfd := { s.dfd with inbox := Map.put s.dfd.inbox pch r } }
    let n := replayBytes (s.replaySet pch nt)
    Machine.exec (.commitNoticeReplay pch) s = .next (if n ≠ 0 ∧ s.hbmFull (pch / 64 * 2 ^ 36) n = true then s
      else ((((regroup (s1.replaySet pch nt)).foldl (fun t x => t.applyRec x pch)
        (s1.useHbm (pch / 64 * 2 ^ 36) n)).markReplayed pch nt).noticeDone nt).freeInbound) := by
  show execCommitNoticeReplay pch s = _
  simp only [execCommitNoticeReplay, h]

end

/-! ### Bins of other devices -/

section
variable {s s0 : Machine.State} {b : RemoteBin}

theorem exec_remoteBin_lost (h : s.meet b.dev b.inc = none) : Machine.exec (.remoteBinReceive b) s = .next s := by
  show execRemoteBinReceive b s = _
  simp only [execRemoteBinReceive, h]

theorem exec_remoteBin_again (h : s.meet b.dev b.inc = some s0) (hn : b.notice = none)
    (hs : s0.fab.binSeen.contains (b.dev, b.bseq) = true) :
    Machine.exec (.remoteBinReceive b) s = .next (s0.say (.ack ⟨b.dev, b.inc, 40, b.bseq⟩)) := by
  show execRemoteBinReceive b s = _
  simp only [execRemoteBinReceive, h, hn, hs, if_true]
  rfl

theorem exec_remoteNotice_again {tags : List (BitVec 12)} {n : Nat} (h : s.meet b.dev b.inc = some s0) (hn : b.notice = some (tags, n))
    {k : Seen} (hs : s0.fab.seen.find? (fun k => k.f == ⟨b.dev, b.inc, noticeQueue, n⟩) = some k) :
    Machine.exec (.remoteBinReceive b) s = .next (s0.say (.noticeAck b.dev n k.old.toNat)) := by
  show execRemoteBinReceive b s = _
  simp only [execRemoteBinReceive, h, hn, hs]
  rfl

theorem exec_remoteNotice_first {tags : List (BitVec 12)} {n : Nat} (h : s.meet b.dev b.inc = some s0) (hn : b.notice = some (tags, n))
    (hs : s0.fab.seen.find? (fun k => k.f == ⟨b.dev, b.inc, noticeQueue, n⟩) = none) :
    let t := s0.fileAll (inboundDie b.dev)
    Machine.exec (.remoteBinReceive b) s =
      .next (if t.fab.waiting.any (fun w => w.2.dev == b.dev && w.2.inc == b.inc && w.2.req == n)
          || t.dfd.inb.any (fun q => q.b.dev == b.dev && decide (q.filed < q.b.recs.length)) then t
        else t.remoteNotice b.dev n b.inc tags) := by
  show execRemoteBinReceive b s = _
  simp only [execRemoteBinReceive, h, hn, hs]

/-- The bin of another device is known from now on. -/
def Machine.State.noteBin (s : Machine.State) (b : RemoteBin) : Machine.State :=
  { s with fab := { s.fab with binSeen := s.fab.binSeen ++ [(b.dev, b.bseq)] } }

variable {base nslot : Nat}

theorem exec_remoteBin_noPermit (h : s.meet b.dev b.inc = some s0) (hn : b.notice = none)
    (hs : s0.fab.binSeen.contains (b.dev, b.bseq) = false) (ha : Map.find s0.dfd.areas (3 * inboundDie b.dev) = some (base, nslot))
    (hp : s0.permitted b.dev b.ctx b.hcap = false) :
    Machine.exec (.remoteBinReceive b) s =
      .next ((((s0.noteBin b).failRecs (remoteKey b.dev b.ctx) b.dev b.inc (.pch (192 * inboundDie b.dev))
        (b.recs.map (fun w => binRec w.w0 w.w1 s.fresh 0)) 0x31).say (.ack ⟨b.dev, b.inc, 40, b.bseq⟩)).returnPermit b.dev b.ctx b.hcap) := by
  show execRemoteBinReceive b s = _
  simp only [execRemoteBinReceive, h, hn, hs, ha, hp, Bool.false_eq_true, if_false, Bool.not_false, if_true]
  rfl

theorem exec_remoteBin_staged (h : s.meet b.dev b.inc = some s0) (hn : b.notice = none)
    (hs : s0.fab.binSeen.contains (b.dev, b.bseq) = false) (ha : Map.find s0.dfd.areas (3 * inboundDie b.dev) = some (base, nslot))
    (hp : s0.permitted b.dev b.ctx b.hcap = true) {g i : Nat} (hi : (s0.noteBin b).inboundSlot (inboundDie b.dev) nslot = some (g, i)) :
    let d := inboundDie b.dev
    Machine.exec (.remoteBinReceive b) s =
      .next (if s.hbmFull (3 * d * 2 ^ 36) (16 * b.recs.length + 16) = true then s
        else ((((s0.noteBin b).stageInbound b base nslot g i).useHbm (3 * d * 2 ^ 36) (16 * b.recs.length + 16)).say
          (.ack ⟨b.dev, b.inc, 40, b.bseq⟩)).fileAll d) := by
  show execRemoteBinReceive b s = _
  simp only [execRemoteBinReceive, h, hn, hs, ha, hp, Bool.false_eq_true, if_false, Bool.not_true]
  show Host.Outcome.next (match (s0.noteBin b).inboundSlot (inboundDie b.dev) nslot with | some (g, i) => _ | none => _) = _
  rw [hi]
  rfl

theorem inboundSlot_lt {d n g i : Nat} (h : s.inboundSlot d n = some (g, i)) : i < n := by
  obtain ⟨k, -, hk⟩ := List.exists_of_findSome?_eq_some h
  obtain ⟨j, hj, he⟩ := Option.map_eq_some_iff.1 hk
  cases he
  exact freeRing_lt hj

theorem stageInbound_stages (s : Machine.State) (b : RemoteBin) {base n g i : Nat} (hi : i < n) :
    let t := s.stageInbound b base n g i
    (∃ q ∈ t.dfd.inb, q.pch = g ∧ q.slot = i ∧ q.b = b ∧ q.filed = 0) ∧
    (b.recs.length ≤ 128 → ∀ j w, b.recs[j]? = some w → Memory.w64 t.mem (slotAt g base i + 16 * j) = w.w0 ∧
      Memory.w64 t.mem (slotAt g base i + 16 * j + 8) = w.w1) := by
  unfold State.stageInbound
  dsimp only
  refine ⟨⟨_, List.mem_append_right _ (List.mem_singleton_self _), rfl, rfl, rfl, rfl⟩, fun hlen j w hw => ?_⟩
  exact putSlot_records _ _ _ _ _ RecordW.w0 RecordW.w1 hi hlen hw

end

/-- Settles O57: each event by the equation of its case; the ring words by what a slot holds after it is written. -/
theorem deferredPath : Obligations.DeferredPath := by
  refine ⟨fun s core => ⟨exec_belfryDrain_empty, fun n r => exec_belfryDrain_marker, fun x r h => ⟨exec_belfryDrain_waits h, fun g hx hr hb => ?_⟩⟩,
    fun s die g key b hb => ⟨fun hd => ?_, exec_binShip_waits hb⟩,
    fun s die pch c hc => ⟨exec_binStage_empty hc, fun nt r h hcut => ⟨_, exec_binStage_notice hc h hcut, Map.at_put_same _ _ _ _, rfl⟩,
      fun b r h hne hcut => exec_binStage_cut hc h hne hcut,
      fun b r h hne hcut => ⟨exec_binStage_noArea hc h hne hcut, fun base n i ha hi => exec_binStage_waits hc h hne hcut ha hi,
        fun base n i ha hi hl hlen => ?_⟩⟩,
    fun s x pch => ⟨fun hb => applyRec_fails _ (.inl ⟨rfl, hb⟩), fun hb hv => applyRec_fails _ (.inr (.inl ⟨rfl, hb, hv⟩)),
      fun hb hv ha => applyRec_fails _ (.inr (.inr (.inl ⟨rfl, hb, hv, ha⟩))),
      fun hb hv ha hl => applyRec_fails _ (.inr (.inr (.inr ⟨rfl, hb, hv, ha, hl⟩))), fun hb hv ha hl => ?_⟩,
    fun s pch => ⟨exec_replay_empty, fun nt r h => ⟨fun hl => ?_, fun hl => ?_⟩⟩,
    fun s s0 b => ⟨exec_remoteBin_lost, exec_remoteBin_again, fun tags n h hn => ⟨fun k => exec_remoteNotice_again h hn, exec_remoteNotice_first h hn⟩,
      fun base nslot h hn hs ha => ⟨exec_remoteBin_noPermit h hn hs ha, fun g i hp hi => ?_⟩⟩⟩
  · have hfile := file_opens (s := s) (die := core / 40) (g := g) (key := x.ctx) (d := s.selfDev) (inc := s.dev.inc)
      (b := binRec x.w0 x.w1 (Map.at s.dfd.groups core 0) x.launch) hr (by rw [← hx]; exact hb)
    rw [← hx] at hfile
    exact ⟨_, exec_belfryDrain_filed h hfile, Map.at_put_same _ _ _ _, rfl, rfl, rfl⟩
  · obtain ⟨hdie, hdest⟩ := bin_of_find hb
    have hship := shipBin_local (s := s) hdest
    refine ⟨_, exec_binShip_ships hb hd, rfl, fun hinb => fileAll_of_no_inbound die ?_, ?_, ?_, ?_, ?_⟩
    · rw [hship]
      exact hinb
    · rw [hship]
      rfl
    · rw [hship, hdie]
      refine modChan_sent _ _ _ _ (fun c => Shipment.bin b ∈ c.sent) fun c hc hcd => ⟨hc, hcd, ?_⟩
      exact List.mem_append_right _ (List.mem_singleton_self _)
    · rw [hship]
      rfl
    · rw [hship]
      rfl
  · obtain ⟨he, hrecs, hhead⟩ := stage_stages s b (freeRing_lt hi) hlen (pch := pch) (base := base)
    obtain ⟨hst, hmem⟩ := popShipment_useHbm (s.stage pch base n i b) die pch (pch / 64 * 2 ^ 36) (16 * b.recs.length + 16) r
    refine ⟨_, exec_binStage_stages hc h hne hcut ha hi hl, ?_⟩
    rw [hst, hmem]
    exact ⟨he, hrecs, hhead⟩
  · rw [applyRec_applies hb hv ha hl]
    refine ⟨num_softPut _, fun y hy => ?_⟩
    rw [get_softPut, length_leBytes, if_neg (by omega)]
  · rw [exec_replay h, if_pos hl]
  · rw [exec_replay h, if_neg hl]
  · obtain ⟨hq, hw⟩ := stageInbound_stages (s0.noteBin b) b (inboundSlot_lt hi) (base := base) (g := g)
    refine ⟨fun hf => ?_, fun hf => ?_, hq, hw⟩
    · rw [exec_remoteBin_staged h hn hs ha hp hi, if_pos hf]
    · rw [exec_remoteBin_staged h hn hs ha hp hi, if_neg (by rw [hf]; exact Bool.false_ne_true)]
      rfl

end Sys2Proof

/-! Events of the device: host accesses, refresh, power, dies, reset, links, held fault records and invalidations
(R21, R29, R53, R280, R282, R286, R321, R322, R338, R339, R344). -/

namespace Sys2Proof

open Sys2Proof.Machine

/-! ### Region nodes and memory -/

/-- Where a region node is changed, only words 14 and 15 of its block may change. -/
theorem get_modNode (s : Machine.State) {b x : Nat} (f : Node → Node) (h : x < b + 112 ∨ b + 128 ≤ x) :
    Memory.get (s.modNode b f).mem x = Memory.get s.mem x := by
  unfold State.modNode
  split
  · unfold State.setNode
    dsimp only
    split
    · rfl
    · exact Memory.get_write_outside _ _ _ _ (by rw [List.length_append, length_leBytes, length_leBytes]; omega)
  · rfl

theorem get_modNodes (s : Machine.State) {l : List Nat} {x : Nat} (f : Node → Node) (h : ∀ b ∈ l, x < b + 112 ∨ b + 128 ≤ x) :
    Memory.get (s.modNodes l f).mem x = Memory.get s.mem x := by
  unfold State.modNodes
  induction l generalizing s with
  | nil => rfl
  | cons b l ih =>
    rw [List.foldl_cons, ih _ fun c hc => h c (List.mem_cons_of_mem _ hc)]
    exact get_modNode s f (h b List.mem_cons_self)

theorem find_of_mem_keys {V : Type} {m : Map V} {e : Nat × V} (h : e ∈ m) : ∃ v, Map.find m e.1 = some v := by
  induction m with
  | nil => cases h
  | cons d m ih =>
    by_cases hd : d.1 = e.1
    · exact ⟨d.2, if_pos hd⟩
    · obtain ⟨v, hv⟩ := ih ((List.mem_cons.1 h).resolve_left fun he => hd (by rw [he]))
      exact ⟨v, (if_neg hd).trans hv⟩

/-- A state whose HBM controllers have moved other amounts. -/
def Machine.State.withUsed (s : Machine.State) (u : Map Nat) : Machine.State := { s with dev := { s.dev with hbmUsed := u } }

theorem useHbm_withUsed (s : Machine.State) (pa n : Nat) : ∃ u, s.useHbm pa n = s.withUsed u := by
  unfold State.useHbm
  split
  · exact ⟨_, rfl⟩
  · exact ⟨s.dev.hbmUsed, rfl⟩

theorem modNode_withUsed (s : Machine.State) (u : Map Nat) (a : Nat) (f : Node → Node) :
    (s.withUsed u).modNode a f = (s.modNode a f).withUsed u := by
  cases h : Map.find s.sch.nodes a with
  | none =>
    have h' : Map.find (s.withUsed u).sch.nodes a = none := h
    rw [State.modNode, State.modNode, h, h']
  | some n =>
    have h' : Map.find (s.withUsed u).sch.nodes a = some n := h
    rw [State.modNode, State.modNode, h, h']
    show State.setNode (s.withUsed u) a (f n) _ = (State.setNode s a (f n) _).withUsed u
    by_cases hc : s.cut 0 (homeDie a) = true
    · have hc' : (s.withUsed u).cut 0 (homeDie a) = true := hc
      simp only [State.setNode, hc, hc', if_true]
      rfl
    · have hc' : ¬(s.withUsed u).cut 0 (homeDie a) = true := hc
      simp only [State.setNode, if_neg hc, if_neg hc']
      rfl

theorem modNodes_withUsed (s : Machine.State) (u : Map Nat) (l : List Nat) (f : Node → Node) :
    (s.withUsed u).modNodes l f = (s.modNodes l f).withUsed u := by
  unfold State.modNodes
  induction l generalizing s with
  | nil => rfl
  | cons a l ih => rw [List.foldl_cons, List.foldl_cons, modNode_withUsed, ih]

/-! ### The host -/

section
variable {s : Machine.State} {pa n : Nat} {data : List Byte}

theorem hostWrote_useHbm_mem (s : Machine.State) (pa n : Nat) (data : List Byte) :
    (((s.useHbm pa n).softPut (.mem pa) data).hostWrote pa data.length).mem = ((s.softPut (.mem pa) data).hostWrote pa data.length).mem := by
  obtain ⟨u, hu⟩ := useHbm_withUsed s pa n
  rw [hu]
  unfold State.hostWrote
  exact (congrArg State.mem (modNodes_withUsed (s.softPut (.mem pa) data) u _ _)).trans rfl

theorem get_hostWrote {x : Nat} (h : ∀ b n, Map.find s.sch.nodes b = some n → x < b + 112 ∨ b + 128 ≤ x) :
    Memory.get (s.hostWrote pa n).mem x = Memory.get s.mem x := by
  refine get_modNodes s _ fun b hb => ?_
  obtain ⟨e, he, rfl⟩ := List.mem_map.1 hb
  obtain ⟨m, hm⟩ := find_of_mem_keys (List.mem_filter.1 he).1
  exact h _ m hm

theorem exec_hostWrite (h : 2 ^ 40 ≤ pa ∧ pa + data.length ≤ 2 ^ 41) :
    Machine.exec (.hostWriteInvalidate pa data) s = .next ((s.softPut (.mem pa) data).hostWrote pa data.length) :=
  congrArg Host.Outcome.next (if_pos h)

theorem exec_hostWrite_outside (h : pa < 2 ^ 40 ∨ 2 ^ 41 < pa + data.length) :
    Machine.exec (.hostWriteInvalidate pa data) s = .next s :=
  congrArg Host.Outcome.next (if_neg (by omega))

theorem exec_hostMem_write_waits (hm : s.inHbm pa data.length = true) (hc : s.hostCut pa = false) (hf : s.hbmFull pa data.length = true) :
    Machine.exec (.hostMemAccess pa n (some data)) s = .next s := by
  show execHostMemAccess pa n (some data) s = _
  simp only [execHostMemAccess, hm, hc, hf, Bool.not_true, Bool.false_eq_true, if_false, if_true]

theorem exec_hostMem_write (hm : s.inHbm pa data.length = true) (hc : s.hostCut pa = false) (hf : s.hbmFull pa data.length = false)
    (hb : s.badPart pa data.length = false) : Machine.exec (.hostMemAccess pa n (some data)) s =
      .next (((s.useHbm pa data.length).softPut (.mem pa) data).hostWrote pa data.length) := by
  show execHostMemAccess pa n (some data) s = _
  simp only [execHostMemAccess, hm, hc, hf, hb, Bool.not_true, Bool.false_eq_true, if_false]

theorem exec_hostMem_write_cut (hm : s.inHbm pa data.length = true) (hc : s.hostCut pa = true) :
    Machine.exec (.hostMemAccess pa n (some data)) s = .next (s.rootItem 0x35 pa s.selfDev) := by
  show execHostMemAccess pa n (some data) s = _
  simp only [execHostMemAccess, hm, hc, Bool.not_true, Bool.false_eq_true, if_false, if_true]

theorem exec_hostMem_write_outside (hm : s.inHbm pa data.length = false) :
    Machine.exec (.hostMemAccess pa n (some data)) s = .next (s.rootItem 0x23 pa s.selfDev) := by
  show execHostMemAccess pa n (some data) s = _
  simp only [execHostMemAccess, hm, Bool.not_false, if_true]

theorem exec_hostMem_read_waits (hm : s.inHbm pa n = true) (hc : s.hostCut pa = false) (hf : s.hbmFull pa n = true) :
    Machine.exec (.hostMemAccess pa n none) s = .next s := by
  show execHostMemAccess pa n none s = _
  simp only [execHostMemAccess, hm, hc, hf, Bool.not_true, Bool.false_eq_true, if_false, if_true]

theorem exec_hostMem_read (hm : s.inHbm pa n = true) (hc : s.hostCut pa = false) (hf : s.hbmFull pa n = false)
    (hb : s.badBytes (.mem pa) n = false) :
    Machine.exec (.hostMemAccess pa n none) s = .next ((s.useHbm pa n).say (.hostData pa (Memory.read s.mem pa n) false)) := by
  show execHostMemAccess pa n none s = _
  simp only [execHostMemAccess, hm, hc, hf, hb, Bool.not_true, Bool.false_eq_true, if_false]
  rfl

end

theorem useHbm_frame (s : Machine.State) (pa n : Nat) : (s.useHbm pa n).fab = s.fab ∧ SameBytes s (s.useHbm pa n) := by
  obtain ⟨u, hu⟩ := useHbm_withUsed s pa n
  rw [hu]
  exact ⟨rfl, fun a => ⟨rfl, rfl⟩⟩

/-! ### Refresh -/

theorem exec_refresh (s : Machine.State) (pch : Nat) : ∃ t, Machine.exec (.refresh pch) s = .next t ∧ SameBytes s t ∧ t.waves = s.waves ∧
    let c := Map.at s.dev.refresh pch (0, 0)
    (Map.at t.dev.refresh pch (0, 0) = (c.1 + 1, c.2) ∨ (c.2 < 4 ∧ Map.at t.dev.refresh pch (0, 0) = (c.1, c.2 + 1))) ∧
    ∀ k, k ≠ pch → Map.at t.dev.refresh k (0, 0) = Map.at s.dev.refresh k (0, 0) := by
  refine ⟨_, rfl, fun a => ⟨rfl, rfl⟩, rfl, ?_, fun k hk => Map.at_put_other _ _ _ _ _ hk.symm⟩
  dsimp only
  rw [Map.at_put_same]
  split
  · next h => exact .inr ⟨by simpa using (Bool.and_eq_true_iff.1 h).2, rfl⟩
  · exact .inl rfl

theorem exec_handover_none {s : Machine.State} {stack : Nat} (h : s.computeMode stack = s.dev.cupolaRefresh.contains stack) :
    Machine.exec (.refreshHandover stack) s = .next s := congrArg Host.Outcome.next (if_pos h)

theorem exec_handover {s : Machine.State} {stack : Nat} (h : s.computeMode stack ≠ s.dev.cupolaRefresh.contains stack) :
    ∃ t, Machine.exec (.refreshHandover stack) s = .next t ∧
      t.dev.cupolaRefresh.contains stack = s.computeMode stack ∧ SameBytes s t ∧
      ∀ g, g / 64 = stack → Map.at t.dev.refresh g (0, 0) =
        ((Map.at s.dev.refresh g (0, 0)).1 + (Map.at s.dev.refresh g (0, 0)).2, 0) := by
  refine ⟨_, congrArg Host.Outcome.next (if_neg h), ?_, fun a => ⟨rfl, rfl⟩, fun g hg => ?_⟩
  · dsimp only
    cases hc : s.dev.cupolaRefresh.contains stack <;> cases hm : s.computeMode stack <;> simp_all
  · dsimp only
    rw [Map.at, Map.find_each, Map.at]
    cases Map.find s.dev.refresh g with
    | none => rfl
    | some c => simp [hg]

/-! ### Power, dies, reset and links -/

theorem exec_arbiter {s : Machine.State} {mhz : Nat} {hbm pen : List Nat} (h1 : 1200 ≤ mhz) (h2 : mhz ≤ 2400) (h3 : mhz % 100 = 0)
    (h4 : s.dev.full = true ∨ mhz = 1200) (h5 : hbm.length = 12) (h6 : pen.length = 160) (h7 : ∀ p ∈ pen, p < 64) :
    ∃ t, Machine.exec (.powerArbiterTick mhz hbm pen) s = .next t ∧ t.dev.clockMHz = mhz ∧ t.dev.hbmBudget = hbm ∧
      t.dev.powerCap = s.dev.nextCap ∧ t.dev.hbmUsed = [] ∧ t.dev.penalty = pen.mapIdx (fun i p => (i, max (p / 8) (p % 8))) ∧
      SameBytes s t := by
  refine ⟨_, congrArg Host.Outcome.next (if_pos ⟨h1, h2, h3, h4, h5, h6, ?_⟩), rfl, rfl, rfl, rfl, rfl, fun a => ⟨rfl, rfl⟩⟩
  simpa using h7

/-- The cores that are in a slice when a die is ready. -/
def lateCores (s : Machine.State) : List Nat := (s.sch.cores.filter (fun e => e.2.inSlice && e.2.active.isSome)).map (·.1)

theorem mem_lateCores {s : Machine.State} {k : Nat} :
    k ∈ lateCores s ↔ ∃ e ∈ s.sch.cores, e.1 = k ∧ e.2.inSlice = true ∧ e.2.active.isSome = true := by
  unfold lateCores
  simp only [List.mem_map, List.mem_filter, Bool.and_eq_true]
  exact ⟨fun ⟨e, ⟨he, h⟩, hk⟩ => ⟨e, he, hk, h⟩, fun ⟨e, he, hk, h⟩ => ⟨e, ⟨he, h⟩, hk⟩⟩

theorem lateCores_eq_nil {s : Machine.State} :
    lateCores s = [] ↔ ∀ e ∈ s.sch.cores, ¬(e.2.inSlice = true ∧ e.2.active.isSome = true) := by
  unfold lateCores
  rw [List.map_eq_nil_iff, List.filter_eq_nil_iff]
  simp only [Bool.and_eq_true]

/-- The device as a die that is ready leaves it before full service begins. -/
def Machine.State.trained (s : Machine.State) (d : Nat) : Machine.State :=
  let r := s.dev.ready ||| (1 <<< d)
  { s with dev := { s.dev with ready := r, full := false, late := if r = 15 then lateCores s else [],
                               fwRuns := if s.dev.ready = 0 then romAccepts else s.dev.fwRuns } }

theorem exec_dieReady_trained {s : Machine.State} {d : Nat} (hd : d < 4) (hn : s.dieReady d = false) :
    Machine.exec (.dieReady d) s = .next
      (if s.dev.ready ||| (1 <<< d) = 15 ∧ lateCores s = [] then (s.trained d).fullService else s.trained d).refreshReady := by
  show execDieReady d s = _
  unfold execDieReady
  rw [if_pos ⟨hd, by simp [hn]⟩]
  refine congrArg (fun t : Machine.State => Host.Outcome.next t.refreshReady) (if_congr ?_ rfl rfl)
  show _ ∧ List.isEmpty (if _ then lateCores s else []) = true ↔ _
  refine and_congr_right fun hr => ?_
  rw [if_pos hr, List.isEmpty_iff]

theorem exec_dieReady {s : Machine.State} {d : Nat} (hd : d < 4) (hn : s.dieReady d = false) : ∃ t, Machine.exec (.dieReady d) s = .next t ∧
    t.dev.ready = s.dev.ready ||| (1 <<< d) ∧
    (t.dev.full = true ↔ t.dev.ready = 15 ∧ ∀ e ∈ s.sch.cores, ¬(e.2.inSlice = true ∧ e.2.active.isSome = true)) ∧
    (∀ k, k ∈ t.dev.late ↔ t.dev.ready = 15 ∧ ∃ e ∈ s.sch.cores, e.1 = k ∧ e.2.inSlice = true ∧ e.2.active.isSome = true) ∧
    t.dev.clockMHz = (if t.dev.full then 2400 else s.dev.clockMHz) ∧
    t.dev.fwRuns = (if s.dev.ready = 0 then romAccepts else s.dev.fwRuns) ∧ SameBytes s t := by
  refine ⟨_, exec_dieReady_trained hd hn, ?_⟩
  split
  · next h =>
    have hnone := lateCores_eq_nil.1 h.2
    refine ⟨rfl, ⟨fun _ => ⟨h.1, hnone⟩, fun _ => rfl⟩, fun k => ⟨nofun, fun hk => ?_⟩, rfl, rfl, fun a => ⟨rfl, rfl⟩⟩
    rw [← mem_lateCores, h.2] at hk
    exact absurd hk.2 List.not_mem_nil
  · next h =>
    refine ⟨rfl, ⟨nofun, fun hk => absurd ⟨hk.1, lateCores_eq_nil.2 hk.2⟩ h⟩, fun k => ?_, rfl, rfl, fun a => ⟨rfl, rfl⟩⟩
    rw [← mem_lateCores]
    show k ∈ (if s.dev.ready ||| (1 <<< d) = 15 then lateCores s else []) ↔ s.dev.ready ||| (1 <<< d) = 15 ∧ _
    split
    · next hr => exact (and_iff_right hr).symm
    · next hr => exact ⟨nofun, fun hk => absurd hk.1 hr⟩

theorem cut_comm (s : Machine.State) (a b : Nat) : s.cut a b = s.cut b a := by
  unfold State.cut
  rw [Bool.or_comm, bne_comm]

theorem exec_linkFail {s : Machine.State} {a b : Nat} (ha : a < 4) (hb : b < 4) (hne : a ≠ b) :
    ∃ t, Machine.exec (.rinestLinkFail a b) s = .next t ∧ t.cut a b = true ∧ t.cut b a = true ∧ SameBytes s t := by
  suffices h : ∃ t, Machine.exec (.rinestLinkFail a b) s = .next t ∧ t.cut a b = true ∧ SameBytes s t by
    obtain ⟨t, ht, hcut, hsame⟩ := h
    exact ⟨t, ht, hcut, cut_comm t a b ▸ hcut, hsame⟩
  by_cases hc : s.cut a b = true
  · exact ⟨s, congrArg Host.Outcome.next (if_neg (by simp [hc])), hc, fun a => ⟨rfl, rfl⟩⟩
  · refine ⟨_, congrArg Host.Outcome.next (if_pos ⟨ha, hb, hne, by simpa using hc⟩), ?_, fun a => ⟨rfl, rfl⟩⟩
    simp [State.cut, hne]

/-! ### Held fault records and invalidations -/

theorem send_flt (s : Machine.State) (x q dev pa : Nat) (k : FabKind) (lease : Option Nat) (l : Nat) (who : Option (Agent × Nat))
    (keep : Bool) : (s.send x q dev pa k lease l who keep).2.flt = s.flt := by
  have hcharge (t : Machine.State) (n : Nat) : (t.chargeFab x n).flt = t.flt := by
    obtain ⟨free, tlb, nodes, used, h, -⟩ := Charged.chargeFab t x n
    rw [h]
    rfl
  have hdrop (t : Machine.State) (b : Bool) (n : Nat) : (if b = true then t.farDrop dev pa n else t).flt = t.flt := by
    split <;> rfl
  unfold State.send
  dsimp only
  split
  · rw [hcharge]
    exact hdrop s _ _
  · exact hdrop s _ _

/-- A write of the device to memory or to another device changes no fault buffer. -/
theorem devWrite_flt (s : Machine.State) (d x : Nat) (h : Home) (bs : List Byte) : (s.devWrite d x h bs).flt = s.flt := by
  have hsend (l : List (Nat × List Byte)) (n pa : Nat) (w : Option Nat) (t : Machine.State) :
      (l.foldl (fun t e => (t.send x 0 n (pa + e.1) (.write e.2) w 0 none false).2) t).flt = t.flt := by
    induction l generalizing t with
    | nil => rfl
    | cons e l ih => rw [List.foldl_cons, ih, send_flt]
  unfold State.devWrite
  split
  · rfl
  · split
    · exact hsend _ _ _ _ _
    · cases h <;> rfl

theorem setFbuf_fbuf (s : Machine.State) (b : FaultBox) (f : FBuf) :
    (s.setFbuf b f).fbuf b = some f ∧ (s.setFbuf b f).flt.held = s.flt.held := by
  have hflt : ((s.devWrite 0 fwCtx (s.home f.header) (leBytes 8 f.wr)).devWrite 0 fwCtx (s.home (f.header + 16))
      (leBytes 8 (f.gen.toNat * 2 ^ 32 + f.lost.toNat))).flt = s.flt := by rw [devWrite_flt, devWrite_flt]
  cases b with
  | root => exact ⟨rfl, congrArg (fun u => u.held) hflt⟩
  | part n => exact ⟨Map.find_put_same _ _ _, congrArg (fun u => u.held) hflt⟩

/-- The home of the fault buffer that a box names is its own entry. -/
theorem fbuf_of_flt {s t : Machine.State} {b : FaultBox} (hr : t.flt.root = s.flt.root) (hp : t.flt.parts = s.flt.parts) :
    t.fbuf b = s.fbuf b := by
  cases b with
  | root => exact hr
  | part n => exact congrArg (Map.find · n) hp

theorem writeHeld_writes {s : Machine.State} {b : FaultBox} {f : FBuf} {h : HeldRec} (hf : s.fbuf b = some f)
    (hh : s.flt.held.find? (fun h => h.box == b) = some h) (hr : s.fbufRoom f = true) :
    (s.writeHeld b).flt.held = s.flt.held.erase h ∧ ((s.writeHeld b).fbuf b).map (·.wr) = some (f.wr + 1) := by
  unfold State.writeHeld
  simp only [hf, hh, hr, if_true]
  unfold State.fbufWrite
  dsimp only
  obtain ⟨hbox, hheld⟩ := setFbuf_fbuf (s.devWrite 0 fwCtx (s.home (f.header + 64 + 64 * (f.wr % 2 ^ f.m)))
    (wordBytes (withFld (h.w.toList.getD 0 0) 63 32 f.gen.toNat :: h.w.toList.drop 1))) b { f with wr := f.wr + 1 }
  refine ⟨?_, ?_⟩
  · rw [hheld, devWrite_flt]
  · exact congrArg (Option.map (·.wr)) ((fbuf_of_flt rfl rfl).trans hbox)

theorem exec_inval_none {s : Machine.State} {n : Nat} (h : s.flt.invals.find? (fun v => v.n == n) = none) :
    Machine.exec (.invalComplete n) s = .next s := by
  show execInvalComplete n s = _
  simp only [execInvalComplete, h]

section
variable {s : Machine.State} {n : Nat} {v : Inval} (hv : s.flt.invals.find? (fun v => v.n == n) = some v)
include hv

theorem exec_inval_waits (h : s.pinned v.ctx v.va v.len = true ∨ s.draining v.ctx v.va v.len = true) :
    Machine.exec (.invalComplete n) s = .next s := by
  show execInvalComplete n s = _
  simp only [execInvalComplete, hv]
  rw [if_pos (by simpa using h)]

/-- The translations of the range are dropped and the invalidation is over. -/
theorem exec_inval_done (h1 : s.pinned v.ctx v.va v.len = false) (h2 : s.draining v.ctx v.va v.len = false) :
    Machine.exec (.invalComplete n) s = .next (State.reply { s.dropTlb v.ctx v.va v.len with
      flt := { s.flt with invals := s.flt.invals.filter (fun k => k.n != n) } } v.a 0 0) := by
  show execInvalComplete n s = _
  simp only [execInvalComplete, hv, h1, h2, Bool.or_self, Bool.false_eq_true, if_false]
  rfl

end

/-- A completion word that stands in this device's memory and in reach is written where it stands. -/
theorem reply_here {s : Machine.State} {a : Nat} (st r : Nat) (hg : s.gap (a + 56) 8 = none) (hh : s.home (a + 56) = .mem (a + 56))
    (hc : s.cut 0 (homeDie (a + 56)) = false) : s.reply a st r = s.writeMem (a + 56) (leBytes 8 (st * 2 ^ 56 + r % 2 ^ 56)) := by
  have hr : s.reach 0 (.mem (a + 56)) = true := by simpa [State.reach, Home.die] using hc
  unfold State.reply State.physPut
  rw [length_leBytes, hg, hh]
  dsimp only
  rw [hr, if_pos rfl]
  simp only [State.devWrite, hr, Bool.not_true, Bool.false_eq_true, if_false]
  rfl

/-- Settles O59: each event by the equation of its case; the bytes and registers that it leaves by what the shared updates change. -/
theorem deviceEvents : Obligations.DeviceEvents := by
  refine ⟨fun s pa data => ⟨fun h1 h2 => exec_hostWrite ⟨h1, h2⟩, exec_hostWrite_outside, fun n => exec_hostMem_write_waits,
      fun n => exec_hostMem_write, fun n => exec_hostMem_write_cut, fun n => exec_hostMem_write_outside, fun n => exec_hostMem_read_waits,
      fun n hm hc hf hb => ⟨_, exec_hostMem_read hm hc hf hb, ?_, (useHbm_frame s pa n).2⟩, fun a ha => ?_, hostWrote_useHbm_mem s pa _ data⟩,
    exec_refresh, fun s stack => ⟨exec_handover_none, exec_handover⟩, fun s mhz hbm pen => exec_arbiter, fun s d => exec_dieReady,
    fun s => ⟨_, rfl, rfl, rfl, rfl, rfl, rfl, rfl, rfl, rfl⟩, fun s a b => exec_linkFail,
    fun s b => ⟨rfl, fun f h => writeHeld_writes⟩, fun s n => ⟨exec_inval_none, fun v hv => ⟨exec_inval_waits hv, fun h1 h2 hg hh hc => ?_⟩⟩⟩
  · exact congrArg (· ++ [_]) (congrArg Fabric.replies (useHbm_frame s pa n).1)
  · rw [get_hostWrote (s := s.softPut (.mem pa) data) ha, get_softPut]
  · have hw := reply_here (s := { s.dropTlb v.ctx v.va v.len with
      flt := { s.flt with invals := s.flt.invals.filter (fun k => k.n != n) } }) 0 0 hg hh hc
    refine ⟨_, exec_inval_done hv h1 h2, ?_, ?_, ?_, ?_⟩ <;> rw [hw]
    · rfl
    · intro e he
      have := (List.mem_filter.1 he).2
      simp only [Bool.or_eq_true, bne_iff_ne, decide_eq_true_eq] at this
      omega
    · exact Memory.w64_write_same s.mem (v.a + 56) 0
    · exact fun y hy => Memory.get_write_outside _ _ _ _ (by rw [length_leBytes]; omega)

end Sys2Proof

/-! Launches and switches: queues, packets, placement, the end of a launch, slices, requests, fills, spills and the flip of a core
(R53, R54, R56, R60 to R62, R66, R69, R260, R324). -/

namespace Sys2Proof

open Sys2Proof.Machine

/-! ### What the steps of a switch leave alone -/

/-- Waves, scratchpads, cores and launches stay. -/
structure Still (s t : Machine.State) : Prop where
  waves : t.waves = s.waves
  spad : t.spad = s.spad
  cores : t.sch.cores = s.sch.cores
  launches : t.sch.launches = s.sch.launches

namespace Still

theorem refl (s : Machine.State) : Still s s := ⟨rfl, rfl, rfl, rfl⟩

theorem trans {s t u : Machine.State} (h : Still s t) (g : Still t u) : Still s u :=
  ⟨g.waves.trans h.waves, g.spad.trans h.spad, g.cores.trans h.cores, g.launches.trans h.launches⟩

theorem ofOuter {s t : Machine.State} (h : Outer s t) : Still s t := ⟨h.waves, h.spad, h.cores, h.launches⟩

theorem foldl {β : Type} (f : Machine.State → β → Machine.State) (hf : ∀ t b, Still t (f t b)) (l : List β) (s : Machine.State) :
    Still s (l.foldl f s) := by
  induction l generalizing s with
  | nil => exact refl s
  | cons b l ih => exact (hf s b).trans (ih _)

theorem core {s t : Machine.State} (h : Still s t) (n : Nat) : t.core n = s.core n := congrArg (Map.at · n Core.idle) h.cores

theorem launch {s t : Machine.State} (h : Still s t) (n : Nat) : t.launch n = s.launch n := congrArg (Map.find · n) h.launches

theorem wave {s t : Machine.State} (h : Still s t) (w : Nat) : t.wave w = s.wave w := congrArg (Map.find · w) h.waves

theorem storeStream (s : Machine.State) (x c st : Nat) (t : Stream) : Still s (s.storeStream x c st t) := by
  unfold State.storeStream
  dsimp only
  refine trans (ofOuter (Outer.trans (Outer.physWords _ _ _ _ _) (Outer.foldl _ (fun u i => ?_) _ _))) ⟨rfl, rfl, rfl, rfl⟩
  split
  · exact Outer.trans (Outer.physWords _ _ _ _ _) (Outer.physPut _ _ _ _ _)
  · exact Outer.physWords _ _ _ _ _

theorem loadStream (s : Machine.State) (x c st : Nat) (t : Stream) : Still s (s.loadStream x c st t) := by
  unfold State.loadStream
  dsimp only
  exact trans (ofOuter (Outer.trans (Outer.physNote _ _ _ _ _) (Outer.foldl _ (fun u i => Outer.physNote _ _ _ _ _) _ _)))
    ⟨rfl, rfl, rfl, rfl⟩

theorem moveStreams (s : Machine.State) (x c : Nat) (b : Bool) : Still s (s.moveStreams x c b) := by
  unfold State.moveStreams
  refine foldl _ (fun t st => ?_) _ _
  split
  · exact refl t
  · split
    · exact storeStream _ _ _ _ _
    · split
      · exact loadStream _ _ _ _ _
      · exact refl t

theorem storeThread (s : Machine.State) (c k : Nat) (h : Thread) : Still s (s.storeThread c k h) := ofOuter (Outer.physWords _ _ _ _ _)

theorem moveThread (s : Machine.State) (c k core : Nat) (b : Bool) : Still s (s.moveThread c k core b) := by
  unfold State.moveThread
  dsimp only
  split
  · exact refl s
  · split
    · refine trans ?_ (storeThread _ _ _ _)
      exact ⟨rfl, rfl, rfl, rfl⟩
    · split
      · exact trans (ofOuter (Outer.physNote _ _ _ _ _)) ⟨rfl, rfl, rfl, rfl⟩
      · exact refl s

theorem selectBanks (s : Machine.State) (x core : Nat) : Still s (s.selectBanks x core) := by
  unfold State.selectBanks
  refine foldl _ (fun t k => ?_) _ _
  exact ⟨rfl, rfl, rfl, rfl⟩

end Still

/-! ### The write-index line -/

section
variable {s : Machine.State} {q k : Nat} {n : Node}

theorem exec_reread (h : s.node q = some n) (h1 : n.stale = true) (h2 : n.level = 3)
    (h3 : s.devHeld (s.queueCtx q) (s.home (n.f 11 51 6 * 64)) 8 = false) : Machine.exec (.writeIndexReread q) s =
      .next (((s.writeIndex q).2.modNode q (fun m => { m with stale := false })).takeIndex q (s.writeIndex q).1) := by
  show execWriteIndexReread q s = _
  simp only [execWriteIndexReread, h]
  rw [if_pos (by simp [h1, h2, h3])]

theorem exec_reread_waits (h : s.node q = some n)
    (h1 : n.stale = false ∨ n.level ≠ 3 ∨ s.devHeld (s.queueCtx q) (s.home (n.f 11 51 6 * 64)) 8 = true) :
    Machine.exec (.writeIndexReread q) s = .next s := by
  show execWriteIndexReread q s = _
  simp only [execWriteIndexReread, h]
  rw [if_neg]
  obtain h1 | h1 | h1 := h1 <;> simp [h1]

theorem takeIndex_back (h : s.node q = some n) (hk : k < n.wprev) :
    s.takeIndex q k = (s.modNode q (fun m => { m with wprev := k })).queueFault q 0x38 k := by
  simp only [State.takeIndex, h]
  rw [if_neg (by omega), if_pos hk]

theorem takeIndex_beyond (h : s.node q = some n) (hk : n.wprev < k) (hr : n.c + 2 ^ n.f 10 4 0 < k) :
    s.takeIndex q k = (s.modNode q (fun m => { m with wprev := k })).queueFault q 0x39 k := by
  simp only [State.takeIndex, h]
  rw [if_neg (by omega), if_neg (by omega), if_pos hr]

theorem takeIndex_ahead (h : s.node q = some n) (hk : n.wprev < k) (hr : k ≤ n.c + 2 ^ n.f 10 4 0) :
    s.takeIndex q k = (s.modNode q (fun m => { m with wprev := k })).makeVisible q (k - n.wprev) n.wprev := by
  simp only [State.takeIndex, h]
  rw [if_neg (by omega), if_neg (by omega), if_neg (by omega)]

theorem takeIndex_same (h : s.node q = some n) : s.takeIndex q n.wprev = s := by
  simp only [State.takeIndex, h, if_true]

end

/-! ### Launch packets -/

section
variable {s : Machine.State} {q k : Nat}

theorem exec_packet_waits {n : Node} (hn : Map.find s.sch.nodes q = some n) (hp : Map.find (s.packetsOf q) k = some .visible)
    (hd : s.devHeld (s.queueCtx q) (s.home (n.ringAt k)) 128 = true) : Machine.exec (.launchPacketRead q k) s = .next s := by
  show execLaunchPacketRead q k s = _
  simp only [execLaunchPacketRead, hn, hp, hd, if_true]

/-- A read of a packet leaves the agents as they are. -/
theorem readPacket_still (s : Machine.State) (q k : Nat) : Still s (s.readPacket q k) := by
  unfold State.readPacket
  split
  · next n _ _ =>
    refine Still.trans (Still.ofOuter (Outer.devRead s (s.queueCtx q) (n.ringAt k) 128)) ?_
    exact ⟨rfl, rfl, rfl, rfl⟩
  · exact Still.refl s

/-- What becomes of a packet that has been read. -/
def Machine.State.dispatch (s1 : Machine.State) (q k : Nat) (w : List W64) : Machine.State :=
  match fld (wordAt w 0) 63 60 with
  | 0 =>
    if fld (wordAt w 7) 63 57 ≠ 0 ∨ fld (wordAt w 7) 3 0 ≠ 0 then s1.complete q k 3 0
    else if bitAt (wordAt w 0) 57 && k != 0 && !s1.packetOver q (k - 1) then s1
    else s1.complete q k 0 0
  | 1 =>
    match s1.packetStatus q w with
    | some st => s1.complete q k st 0
    | none =>
      ((s1.setPacket q k (.launched w)).setLaunch (launchKey q k) (newLaunch q k (s1.queueCtx q) (packetParams w) s1.mem)).refreshReady
  | _ => s1.complete q k 3 0

theorem exec_packet {w : List W64} (hw : Map.find ((s.readPacket q k).packetsOf q) k = some (.read w))
    (hh : ∀ n, Map.find s.sch.nodes q = some n → Map.find (s.packetsOf q) k = some .visible →
      s.devHeld (s.queueCtx q) (s.home (n.ringAt k)) 128 = false) :
    Machine.exec (.launchPacketRead q k) s = .next ((s.readPacket q k).dispatch q k w) := by
  show execLaunchPacketRead q k s = _
  unfold execLaunchPacketRead
  dsimp only
  rw [hw]
  refine congrArg _ (if_neg ?_)
  split
  · next hn hp =>
    rw [hh _ hn hp]
    exact Bool.false_ne_true
  · exact Bool.false_ne_true

variable {w : List W64}

theorem dispatch_rejected {st : Nat} (h : fld (wordAt w 0) 63 60 = 1) (hs : s.packetStatus q w = some st) :
    s.dispatch q k w = s.complete q k st 0 := by simp only [State.dispatch, h, hs]

theorem dispatch_launched (h : fld (wordAt w 0) 63 60 = 1) (hs : s.packetStatus q w = none) :
    s.dispatch q k w = ((s.setPacket q k (.launched w)).setLaunch (launchKey q k)
      (newLaunch q k (s.queueCtx q) (packetParams w) s.mem)).refreshReady := by simp only [State.dispatch, h, hs]

theorem dispatch_barrier (h : fld (wordAt w 0) 63 60 = 0) : s.dispatch q k w =
    if fld (wordAt w 7) 63 57 ≠ 0 ∨ fld (wordAt w 7) 3 0 ≠ 0 then s.complete q k 3 0
    else if bitAt (wordAt w 0) 57 = true ∧ k ≠ 0 ∧ s.packetOver q (k - 1) = false then s else s.complete q k 0 0 := by
  simp only [State.dispatch, h]
  refine ite_congr rfl (fun _ => rfl) fun _ => if_congr ?_ rfl rfl
  simp [and_assoc]

theorem dispatch_unknown (h : 2 ≤ fld (wordAt w 0) 63 60) : s.dispatch q k w = s.complete q k 3 0 := by
  unfold State.dispatch
  split
  · omega
  · omega
  · rfl

end

/-! ### Placement -/

namespace Still

theorem addWaves_launches (s : Machine.State) (g : Nat) (w : WG) (l : Launch) : (s.addWaves g w l).sch = s.sch := by
  unfold State.addWaves
  induction List.range w.nw generalizing s with
  | nil => rfl
  | cons i r ih =>
    rw [List.foldl_cons, ih]
    rfl

theorem passTag (s : Machine.State) (t : BitVec 12) : Still s (s.passTag t) := ⟨rfl, rfl, rfl, rfl⟩

end Still

/-- A launch with one more workgroup placed. -/
def Machine.Launch.placed (l : Launch) (m : Mem) (win : Map Nat) : Launch := { l with next := l.next + 1, snap := m, win := win }

/-- A placement counts the workgroup in its launch; nothing after that changes the launch again. -/
theorem place_launch (s : Machine.State) (i : Nat) (l : Launch) (core slot : Nat) :
    ∃ m, (s.place i l core slot).launch i = some m ∧ m.next = l.next + 1 ∧ m.par = l.par ∧ m.phase = l.phase := by
  unfold State.place
  extract_lets c th room busy first s0 s1 s2 pad0 w g src s3 s4 s5 tags s6
  have h4 : s4.launch i = some (l.placed (if l.next = 0 then s.mem else l.snap) (if th.isSome then Map.put l.win c room.1 else l.win)) :=
    (congrArg (fun u : Sched => Map.find u.launches i) (Still.addWaves_launches (s3.setLaunch i _) g w l)).trans
      (State.setLaunch_launch_same s3 i _)
  have h5 : s5.launch i = s4.launch i := by
    clear_value s4 th
    cases th <;> rfl
  refine ⟨_, Eq.trans ?_ (h5.trans h4), rfl, rfl, rfl⟩
  rw [Still.launch (Still.ofOuter (Outer.refreshReady _)), Still.launch (Still.ofOuter (Outer.syncClus _ _ _)),
    Still.launch (Still.moveStreams _ _ _ _), Still.launch (Still.ofOuter (Outer.modNode _ _ _)),
    Still.launch (Still.ofOuter (Outer.syncCores _ _)), Still.launch (Still.foldl _ Still.passTag _ _)]

section
variable {s : Machine.State} {q k : Nat}

theorem exec_place {l : Launch} {core slot : Nat} (hl : s.nextLaunch q = some (launchKey q k, l))
    (hc : s.pickCore (launchKey q k) l = some (core, slot)) :
    Machine.exec (.workgroupPlace q k) s = .next (s.place (launchKey q k) l core slot) := by
  show execWorkgroupPlace q k s = _
  simp only [execWorkgroupPlace, hl, hc, if_true]

theorem exec_place_full {l : Launch} (hl : s.nextLaunch q = some (launchKey q k, l)) (hc : s.pickCore (launchKey q k) l = none) :
    Machine.exec (.workgroupPlace q k) s = .next s := by
  show execWorkgroupPlace q k s = _
  simp only [execWorkgroupPlace, hl, hc, if_true]

theorem exec_place_none (hl : s.nextLaunch q = none) : Machine.exec (.workgroupPlace q k) s = .next s := by
  show execWorkgroupPlace q k s = _
  simp only [execWorkgroupPlace, hl]

/-! ### The end of a launch -/

variable {l : Launch} (hl : s.launch (launchKey q k) = some l)
include hl

theorem exec_launchEnd_busy (hp : l.phase = .run) (hd : s.launchDrained (launchKey q k) l = false) :
    Machine.exec (.launchEnd q k) s = .next s := by
  show execLaunchEnd q k s = _
  simp only [execLaunchEnd, hl, hp, hd, Bool.false_eq_true, if_false]

theorem exec_launchEnd_drained (hp : l.phase = .run) (hd : s.launchDrained (launchKey q k) l = true) :
    let i := launchKey q k
    let r := s.startCommit .launch i (s.tagsOf i) true
    Machine.exec (.launchEnd q k) s = .next (if r.2.commitDone r.1 && !s.resultHeld l then (r.2.finishCommit r.1).closeLaunch i l
      else r.2.setLaunch i { l with phase := .commit r.1 }) := by
  show execLaunchEnd q k s = _
  simp only [execLaunchEnd, hl, hp, hd, if_true]

theorem exec_launchEnd_held {n : Nat} (hp : l.phase = .commit n) (hh : s.resultHeld l = true) :
    Machine.exec (.launchEnd q k) s = .next s := by
  show execLaunchEnd q k s = _
  simp only [execLaunchEnd, hl, hp, hh, if_true]

theorem exec_launchEnd_closes {n : Nat} (hp : l.phase = .commit n) (hh : s.resultHeld l = false) (hc : s.commitDone n = true) :
    Machine.exec (.launchEnd q k) s = .next ((s.finishCommit n).closeLaunch (launchKey q k) l) := by
  show execLaunchEnd q k s = _
  simp only [execLaunchEnd, hl, hp, hh, hc, Bool.true_or, Bool.false_eq_true, if_false, if_true]

end

/-! ### Slices and requests -/

theorem exec_slice_none {s : Machine.State} {core u : Nat}
    (h : ¬(u = 32768 ∧ (s.core core).inSlice = true ∧ (s.core core).active.isSome = true)) :
    Machine.exec (.sliceEnd core u) s = .next s := congrArg Host.Outcome.next (if_neg h)

theorem exec_slice {s : Machine.State} {core u : Nat} (h : u = 32768 ∧ (s.core core).inSlice = true ∧ (s.core core).active.isSome = true) :
    let k := s.core core
    let now := k.slice + BitVec.ofNat 64 u
    Machine.exec (.sliceEnd core u) s = .next
      ((((s.setCore core { k with cyc := if u ≤ k.run then k.cyc else now }).charge k.queue u).boundary core).rechoose core now) :=
  congrArg Host.Outcome.next (if_pos h)

section
variable {s : Machine.State} {core : Nat} {now : W64}

/-- The choice is what the core runs, or there is none: a new slice of the same context. -/
theorem rechoose_stays (h : ∀ q, s.choose core = some q → (s.core core).active = some (s.queueCtx q)) :
    ∃ p, s.rechoose core now = s.newSlice core { s.core core with queue := p, slice := now } ∧ ∀ q, s.choose core = some q → p = q := by
  unfold State.rechoose
  dsimp only
  split
  · next hc => exact ⟨(s.core core).queue, rfl, fun q hq => by rw [hc] at hq; cases hq⟩
  · next q hc =>
    rw [if_pos (h q hc)]
    exact ⟨q, rfl, fun p hp => Option.some.inj (hc.symm.trans hp)⟩

/-- A choice of another context makes a request. -/
theorem rechoose_requests {q : Nat} (hc : s.choose core = some q) (h : (s.core core).active ≠ some (s.queueCtx q)) :
    ∃ u f, Outer ((if f = true then s else s.unfill core).setCore core
      { s.core core with req := some (s.queueCtx q, q), filled := u, slice := now, inSlice := false, hold := false }) (s.rechoose core now) := by
  unfold State.rechoose
  rw [hc]
  dsimp only
  rw [if_neg h]
  refine ⟨(s.core core).filled && ((s.core core).req.map (·.1) == some (s.queueCtx q)),
    (s.core core).req.map (·.1) == some (s.queueCtx q), ?_⟩
  refine Outer.trans ?_ (Outer.syncBusy _ _)
  cases (s.core core).req with
  | none => exact Outer.refl _
  | some r => exact Outer.syncBusy _ _

theorem unfill_frame (s : Machine.State) (core : Nat) :
    (s.unfill core).spad = s.spad ∧ (s.unfill core).threads = s.threads ∧ (s.unfill core).sch = s.sch := ⟨rfl, rfl, rfl⟩

theorem rechoose_frame (s : Machine.State) (core : Nat) (now : W64) :
    (s.rechoose core now).spad = s.spad ∧ (s.rechoose core now).threads = s.threads := by
  by_cases h : ∀ q, s.choose core = some q → (s.core core).active = some (s.queueCtx q)
  · obtain ⟨p, hp, -⟩ := rechoose_stays (now := now) h
    rw [hp]
    exact ⟨rfl, rfl⟩
  · obtain ⟨q, hq⟩ := not_forall.1 h
    obtain ⟨hc, hne⟩ := Classical.not_imp.1 hq
    obtain ⟨u, f, ho⟩ := rechoose_requests (now := now) hc hne
    rw [ho.spad, ho.threads]
    cases f <;> exact ⟨rfl, rfl⟩

end

/-- A request of another context than the active one: it stands, and nothing of it is filled. -/
theorem request_core {s : Machine.State} {core x q : Nat} (h : (s.core core).active ≠ some x) :
    ((s.request core x q).core core) = { s.core core with req := some (x, q), filled := false, hold := false } := by
  have hset : (((s.unfill core).setCore core { (s.unfill core).core core with req := some (x, q), filled := false, hold := false }).core core) =
      { s.core core with req := some (x, q), filled := false, hold := false } := State.setCore_core_same _ _ _
  unfold State.request
  dsimp only
  rw [Outer.core (Outer.syncBusy _ _), if_neg (show ¬((s.unfill core).core core).active = some x from h)]
  cases hr : (s.core core).req with
  | none => exact hset
  | some r =>
    dsimp only
    rw [Outer.core (Outer.syncBusy _ _)]
    exact hset

section
variable {s : Machine.State} {core x q : Nat} (ha : (s.refreshReady.core core).active = some x) (hc : s.refreshReady.choose core = some q)
include ha hc

theorem exec_preemption_first (hr : (s.refreshReady.core core).req = none) : Machine.exec (.preemptionRequest core) s =
    .next (if s.refreshReady.queueCtx q ≠ x ∧ s.refreshReady.beats q x core = true
      then s.refreshReady.request core (s.refreshReady.queueCtx q) q else s.refreshReady) := by
  show execPreemptionRequest core s = _
  simp only [execPreemptionRequest, ha, hc, hr]

theorem exec_preemption_again {z p : Nat} (hr : (s.refreshReady.core core).req = some (z, p)) : Machine.exec (.preemptionRequest core) s =
    .next (if s.refreshReady.queueCtx q ≠ z ∧ s.refreshReady.effPrio p < s.refreshReady.effPrio q
      then s.refreshReady.request core (s.refreshReady.queueCtx q) q else s.refreshReady) := by
  show execPreemptionRequest core s = _
  simp only [execPreemptionRequest, ha, hc, hr]

end

/-! ### The flip -/

/-- A boundary of slices changes the device and the cores. -/
theorem boundary_frame (s : Machine.State) (core : Nat) : (s.boundary core).waves = s.waves ∧ (s.boundary core).spad = s.spad := by
  unfold State.boundary
  split
  · dsimp only
    split <;> exact ⟨rfl, rfl⟩
  · exact ⟨rfl, rfl⟩

theorem charge_outer (s : Machine.State) (q u : Nat) : Outer s (s.charge q u) := by
  unfold State.charge
  exact Outer.trans (Outer.refreshReady s) (Outer.foldl _ (fun t e => Outer.modNode t _ _) _ _)

theorem chargeRun_frame (s : Machine.State) (core : Nat) : (s.chargeRun core).waves = s.waves ∧ (s.chargeRun core).spad = s.spad := by
  unfold State.chargeRun
  dsimp only
  split
  · obtain ⟨hw, hs⟩ := boundary_frame (s.charge (s.core core).queue (min (s.core core).run 32768)) core
    exact ⟨hw.trans (charge_outer _ _ _).waves, hs.trans (charge_outer _ _ _).spad⟩
  · exact ⟨rfl, rfl⟩

/-- What the flip makes of a wave. -/
def Machine.Wave.flipped (v : Wave) (core x : Nat) : Wave :=
  if v.core = core ∧ v.ended = false then
    (if v.ctx = x ∧ v.bank = .filled then { v with bank := .active } else if v.ctx ≠ x ∧ v.bank = .active then v.leave else v)
  else v

theorem exec_flip_none {s : Machine.State} {core : Nat} (h : (s.core core).req = none) :
    Machine.exec (.bankFlip core) s = .next s := by
  show execBankFlip core s = _
  simp only [execBankFlip, h]

theorem exec_flip_waits {s : Machine.State} {core x q : Nat} (h : (s.core core).req = some (x, q)) (hr : s.flipReady core x = false) :
    Machine.exec (.bankFlip core) s = .next s := by
  show execBankFlip core s = _
  simp only [execBankFlip, h, hr, Bool.not_false, if_true]

theorem exec_flip {s : Machine.State} {core x q : Nat} (h : (s.core core).req = some (x, q)) (hr : s.flipReady core x = true) :
    ∃ t, Machine.exec (.bankFlip core) s = .next t ∧ (t.core core).active = some x ∧ (t.core core).queue = q ∧ (t.core core).req = none ∧
      (t.core core).filled = false ∧ t.spad = s.spad ∧ ∀ w v, s.wave w = some v → t.wave w = some (v.flipped core x) := by
  show ∃ t, execBankFlip core s = .next t ∧ _
  unfold execBankFlip
  rw [h]
  show ∃ t, Host.Outcome.next (if (!s.flipReady core x) = true then s else _) = .next t ∧ _
  rw [hr, if_neg (by simp)]
  obtain ⟨hwaves, hspad⟩ := chargeRun_frame s core
  extract_lets out s1 leaving waves wgs k src s2 s3 c s4 s5
  have h34 : Still s2 s4 := Still.trans (Still.trans (Still.ofOuter (Outer.headerBit _ _ _ _ _ _)) (Still.selectBanks _ _ _))
    (Still.foldl _ (fun t i => Still.moveThread _ _ _ _ _) _ _)
  have h45 : Still s4 s5 := by
    clear_value s4 out
    cases out with
    | none => exact Still.refl s4
    | some y =>
      exact Still.trans (Still.trans (Still.moveStreams _ _ _ _) (Still.ofOuter (Outer.syncClus _ _ _))) (Still.ofOuter (Outer.syncBusy _ _))
  have hend : Still s2 (((s5.moveStreams x c false).syncClus x c).refreshReady) :=
    Still.trans (h34.trans h45) (Still.trans (Still.trans (Still.moveStreams _ _ _ _) (Still.ofOuter (Outer.syncClus _ _ _)))
      (Still.ofOuter (Outer.refreshReady _)))
  have hcore := (hend.core core).trans (State.setCore_core_same _ core _)
  refine ⟨_, rfl, ?_, ?_, ?_, ?_, hend.spad.trans hspad, fun w v hv => ?_⟩
  · exact congrArg Core.active hcore
  · exact congrArg Core.queue hcore
  · exact congrArg Core.req hcore
  · exact congrArg Core.filled hcore
  · have hv1 : Map.find s1.waves w = some v := (congrArg (Map.find · w) hwaves).trans hv
    refine (hend.wave w).trans ?_
    show Map.find waves w = _
    simp only [waves]
    rw [Map.find_each, hv1, Option.map_some]
    refine congrArg some ?_
    unfold Wave.flipped
    simp

/-! ### The fill of the shadow bank and the spill -/

theorem exec_fill_none {s : Machine.State} {core : Nat} (h : (s.core core).req = none) :
    Machine.exec (.shadowFillComplete core) s = .next s := by
  show execShadowFillComplete core s = _
  simp only [execShadowFillComplete, h]

theorem exec_fill_waits {s : Machine.State} {core x q : Nat} (h : (s.core core).req = some (x, q))
    (hf : (s.core core).filled = true ∨ (s.core core).spill ≠ none) : Machine.exec (.shadowFillComplete core) s = .next s := by
  show execShadowFillComplete core s = _
  simp only [execShadowFillComplete, h]
  rw [if_pos]
  obtain hf | hf := hf
  · simp [hf]
  · simp [Option.isSome_iff_ne_none.2 hf]

theorem mem_of_find {V : Type} {m : Map V} {k : Nat} {v : V} (h : Map.find m k = some v) : (k, v) ∈ m := by
  induction m with
  | nil => cases h
  | cons e m ih =>
    obtain ⟨j, u⟩ := e
    by_cases hj : j = k
    · have hu : some u = some v := (if_pos hj).symm.trans h
      rw [hj, Option.some.inj hu]
      exact List.mem_cons_self
    · exact List.mem_cons_of_mem _ (ih ((if_neg hj).symm.trans h))

theorem find_of_mem {V : Type} {m : Map V} (hp : (m.map (·.1)).Pairwise (· < ·)) {e : Nat × V} (he : e ∈ m) :
    Map.find m e.1 = some e.2 := by
  induction m with
  | nil => cases he
  | cons d m ih =>
    rw [List.map_cons, List.pairwise_cons] at hp
    obtain rfl | he := List.mem_cons.1 he
    · exact if_pos rfl
    · have hlt := hp.1 e.1 (List.mem_map_of_mem he)
      exact (if_neg (Nat.ne_of_lt hlt)).trans (ih hp.2 he)

/-- Waves of a list, each at its own index, are written one after the other by steps that leave the other waves alone. -/
theorem wave_foldl_setWave (f : Machine.State → Nat × Wave → Machine.State) (g : Wave → Wave)
    (hf : ∀ t e w, (f t e).wave w = if w = e.1 then some (g e.2) else t.wave w) (l : List (Nat × Wave))
    (hp : (l.map (·.1)).Pairwise (· < ·)) (s : Machine.State) (w : Nat) :
    (l.foldl f s).wave w = match l.find? (fun e => e.1 == w) with | some e => some (g e.2) | none => s.wave w := by
  induction l generalizing s with
  | nil => rfl
  | cons d l ih =>
    rw [List.map_cons, List.pairwise_cons] at hp
    rw [List.foldl_cons, ih hp.2, hf]
    by_cases hd : d.1 = w
    · have hnone : l.find? (fun e => e.1 == w) = none := by
        rw [List.find?_eq_none]
        intro e he hew
        have hlt := hp.1 e.1 (List.mem_map_of_mem he)
        have := beq_iff_eq.1 hew
        omega
      rw [hnone, List.find?_cons_of_pos (by simp [hd]), if_pos hd.symm]
    · rw [List.find?_cons_of_neg (by simp [hd])]
      split
      · rfl
      · exact if_neg (Ne.symm hd)

theorem find_filter {V : Type} {m : Map V} (hp : (m.map (·.1)).Pairwise (· < ·)) (p : Nat × V → Bool) {w : Nat} {v : V}
    (hv : Map.find m w = some v) : (m.filter p).find? (fun e => e.1 == w) = if p (w, v) = true then some (w, v) else none := by
  have hkey (e : Nat × V) (he : e ∈ m) (hw : e.1 = w) : e = (w, v) := by
    have hfind := find_of_mem hp he
    rw [hw, hv] at hfind
    exact Prod.ext hw (Option.some.inj hfind).symm
  cases hf : (m.filter p).find? (fun e => e.1 == w) with
  | none =>
    rw [List.find?_eq_none] at hf
    rw [if_neg]
    intro hpw
    exact hf _ (List.mem_filter.2 ⟨mem_of_find hv, hpw⟩) (by simp)
  | some e =>
    obtain ⟨hmem, hpe⟩ := List.mem_filter.1 (List.mem_of_find?_eq_some hf)
    have he := hkey e hmem (by simpa using List.find?_some hf)
    rw [he] at hpe ⊢
    rw [if_pos hpe]

/-- A part of the state that each step of a sequence leaves alone. -/
theorem foldl_keeps {α β : Type} (p : Machine.State → α) (f : Machine.State → β → Machine.State) (hf : ∀ t b, p (f t b) = p t) (l : List β)
    (s : Machine.State) : p (l.foldl f s) = p s := by
  induction l generalizing s with
  | nil => rfl
  | cons b l ih => rw [List.foldl_cons, ih, hf]

theorem noteFill_outer (s : Machine.State) (x core : Nat) : Outer s (s.noteFill x core) := by
  unfold State.noteFill
  exact Outer.trans (Outer.foldl _ (fun t e => Outer.trans (Outer.physNote t _ _ _ _) (Outer.physNote _ _ _ _ _)) _ _)
    (Outer.foldl _ (fun t e => Outer.physNote t _ _ _ _) _ _)

theorem keys_filter_pairwise {V : Type} {m : Map V} (p : Nat × V → Bool) (hp : (m.map (·.1)).Pairwise (· < ·)) :
    ((m.filter p).map (·.1)).Pairwise (· < ·) :=
  hp.sublist (List.filter_sublist.map _)

theorem exec_fill {s : Machine.State} {core x q : Nat} (h : (s.core core).req = some (x, q)) (hf : (s.core core).filled = false)
    (hs : (s.core core).spill = none) (hp : (s.waves.map (·.1)).Pairwise (· < ·))
    (hg : ∀ e ∈ s.sch.wgs, e.2.ctx = x → e.2.core = core → e.2.out = true → s.wgThere e.2 = true) :
    ∃ t, Machine.exec (.shadowFillComplete core) s = .next t ∧ (t.core core).filled = true ∧ t.spad = s.spad ∧ t.threads = s.threads ∧
      ∀ w v, s.wave w = some v → t.wave w = some (if v.ctx = x ∧ v.core = core ∧ v.bank = .saved then s.fillWave v else v) := by
  have hgone : (s.sch.wgs.filter (fun e => e.2.ctx == x && e.2.core == core && e.2.out && !s.wgThere e.2)).map (·.1) = [] := by
    rw [List.map_eq_nil_iff, List.filter_eq_nil_iff]
    intro e he hc
    simp only [Bool.and_eq_true, beq_iff_eq, Bool.not_eq_true'] at hc
    obtain ⟨⟨⟨hx, hcore⟩, hout⟩, hthere⟩ := hc
    rw [hg e he hx hcore hout] at hthere
    cases hthere
  show ∃ t, execShadowFillComplete core s = .next t ∧ _
  unfold execShadowFillComplete
  extract_lets k
  rw [show k.req = some (x, q) from h]
  show ∃ t, Host.Outcome.next (if (k.filled || k.spill.isSome) = true then s else _) = .next t ∧ _
  rw [show k.filled = false from hf, show k.spill = none from hs, if_neg (by simp)]
  extract_lets s1 gone s2
  have hkill : (s2.waves.filter (fun e => gone.contains e.2.wg)).map (·.1) = [] := by
    rw [show gone = [] from hgone]
    simp
  rw [hkill, List.foldl_nil]
  have hbusy : Outer ((s1.noteFill x core).setCore core _) s2 := Outer.syncBusy _ _
  have hnote := noteFill_outer s1 x core
  refine ⟨s2, rfl, ?_, ?_, ?_, fun w v hv => ?_⟩
  · rw [hbusy.core, State.setCore_core_same]
  · rw [hbusy.spad]
    exact hnote.spad.trans ((foldl_keeps State.spad (fun t (e : Nat × Wave) => t.setWave e.1 (s.fillWave e.2)) (fun _ _ => rfl) _ _).trans rfl)
  · rw [hbusy.threads]
    exact hnote.threads.trans ((foldl_keeps State.threads (fun t (e : Nat × Wave) => t.setWave e.1 (s.fillWave e.2)) (fun _ _ => rfl) _ _).trans rfl)
  · rw [hbusy.wave]
    refine (hnote.wave w).trans ((wave_foldl_setWave _ s.fillWave (fun t e j => ?_) _ (keys_filter_pairwise _ hp) _ w).trans ?_)
    · by_cases hj : j = e.1
      · rw [hj, if_pos rfl, State.setWave_wave_same]
      · rw [if_neg hj, State.setWave_wave_other _ _ _ _ (Ne.symm hj)]
    · rw [find_filter hp _ hv]
      by_cases hc : v.ctx = x ∧ v.core = core ∧ v.bank = .saved
      · rw [if_pos (by simp [hc]), if_pos hc]
      · rw [if_neg (by simpa [and_assoc] using hc), if_neg hc]
        exact hv

theorem exec_spill_none {s : Machine.State} {core : Nat} (h : (s.core core).spill = none) :
    Machine.exec (.bankSpillComplete core) s = .next s := by
  show execBankSpillComplete core s = _
  simp only [execBankSpillComplete, h]

theorem storeWave_outer (s : Machine.State) (v : Wave) (j b a : Nat) : Outer s (s.storeWave v j b a) :=
  Outer.trans (Outer.physWords _ _ _ _ _) (Outer.physPut _ _ _ _ _)

theorem storeWgs_outer (s : Machine.State) (x core : Nat) : Outer s (s.storeWgs x core) := by
  unfold State.storeWgs
  refine Outer.foldl _ (fun t j => ?_) _ _
  dsimp only
  split <;> exact Outer.physWords _ _ _ _ _

/-- The waves that have left the core are saved; the others, the threads and the scratchpads stay. -/
theorem storeWaves_frame (s : Machine.State) (x core : Nat) (hp : (s.waves.map (·.1)).Pairwise (· < ·)) :
    (s.storeWaves x core).spad = s.spad ∧ (s.storeWaves x core).threads = s.threads ∧ ∀ w v, s.wave w = some v →
      (s.storeWaves x core).wave w = some (if v.ctx = x ∧ v.core = core ∧ v.bank = .out then { v with bank := .saved } else v) := by
  unfold State.storeWaves
  dsimp only
  refine ⟨foldl_keeps State.spad _ (fun t e => ?_) _ _, foldl_keeps State.threads _ (fun t e => ?_) _ _, fun w v hv => ?_⟩
  · exact (storeWave_outer _ _ _ _ _).spad
  · exact (storeWave_outer _ _ _ _ _).threads
  · refine (wave_foldl_setWave _ (fun v => { v with bank := .saved }) (fun t e j => ?_) _ (keys_filter_pairwise _ hp) _ w).trans ?_
    · by_cases hj : j = e.1
      · rw [hj, if_pos rfl, State.setWave_wave_same]
      · rw [if_neg hj, State.setWave_wave_other _ _ _ _ (Ne.symm hj)]
        exact (storeWave_outer _ _ _ _ _).wave j
    · rw [find_filter hp _ hv]
      by_cases hc : v.ctx = x ∧ v.core = core ∧ v.bank = .out
      · rw [if_pos (by simp [hc]), if_pos hc]
      · rw [if_neg (by simpa [and_assoc] using hc), if_neg hc]
        exact hv

theorem exec_spill {s : Machine.State} {core x : Nat} (h : (s.core core).spill = some x) (hp : (s.waves.map (·.1)).Pairwise (· < ·)) :
    ∃ t, Machine.exec (.bankSpillComplete core) s = .next t ∧ (t.core core).spill = none ∧ t.spad = s.spad ∧ t.threads = s.threads ∧
      ∀ w v, s.wave w = some v → t.wave w = some (if v.ctx = x ∧ v.core = core ∧ v.bank = .out then { v with bank := .saved } else v) := by
  show ∃ t, execBankSpillComplete core s = .next t ∧ _
  unfold execBankSpillComplete
  rw [h]
  dsimp -zeta only
  extract_lets s1 a s2 src s3 s4
  have hsave : Outer ((s.storeWgs x core).storeWaves x core) (s2.syncCore x core) :=
    Outer.trans (Outer.trans (Outer.physWords _ _ _ _ _) (Outer.physWords _ _ _ _ _)) (Outer.syncCore _ _ _)
  obtain ⟨hspad, hthreads, hwave⟩ := storeWaves_frame (s.storeWgs x core) x core (by rw [(storeWgs_outer s x core).waves]; exact hp)
  have hend (t : Machine.State) (ht : Outer s3 t) : (t.core core).spill = none ∧ t.spad = s.spad ∧ t.threads = s.threads ∧
      ∀ w v, s.wave w = some v → t.wave w = some (if v.ctx = x ∧ v.core = core ∧ v.bank = .out then { v with bank := .saved } else v) := by
    refine ⟨?_, ?_, ?_, fun w v hv => ?_⟩
    · rw [ht.core, State.setCore_core_same]
    · rw [ht.spad, State.setCore_spad, hsave.spad, hspad, (storeWgs_outer s x core).spad]
    · rw [ht.threads, State.setCore_threads, hsave.threads, hthreads, (storeWgs_outer s x core).threads]
    · rw [ht.wave, State.setCore_wave, hsave.wave, hwave w v (((storeWgs_outer s x core).wave w).trans hv)]
  split
  · exact ⟨_, rfl, hend _ (Outer.trans (Outer.syncBusy _ _) (Outer.syncBusy _ _))⟩
  · exact ⟨_, rfl, hend _ (Outer.syncBusy _ _)⟩

/-- Settles O56: each event by the equation of its case; waves, cores and launches by what the steps of a placement or a switch leave alone. -/
theorem launchesAndSwitches : Obligations.LaunchesAndSwitches := by
  refine ⟨fun s q n hn => ⟨exec_reread hn, exec_reread_waits hn, fun k => ⟨takeIndex_back hn, takeIndex_beyond hn, takeIndex_ahead hn⟩,
      takeIndex_same hn⟩,
    fun s q k n => exec_packet_waits, fun s q k w hw hh => ⟨fun st h hs => ?_, fun h hs => ?_, fun h => ⟨fun hr => ?_, fun hr hk => ?_, fun hr hk => ?_⟩,
      fun h => ?_⟩,
    fun s q k => ⟨fun l core slot hl hc => ⟨_, exec_place hl hc, rfl, place_launch s _ l core slot⟩, fun l => exec_place_full, exec_place_none⟩,
    fun s q k l hl => ⟨exec_launchEnd_busy hl, fun hp hd hc => ?_, fun hp hd hc hh => ?_, fun n => exec_launchEnd_held hl,
      fun n => exec_launchEnd_closes hl⟩,
    fun s core u => ⟨exec_slice_none, exec_slice⟩,
    fun s core now => ⟨fun h => ?_, fun q hc h => ?_, (rechoose_frame s core now).1, (rechoose_frame s core now).2⟩,
    fun s core x q ha hc => ⟨fun hr hy hb => ?_, fun hr hy => ?_, fun z p hr hy hb => ?_, fun z p hr hy => ?_⟩,
    fun s core => ⟨fun h => ⟨exec_flip_none h, exec_fill_none h⟩, exec_spill_none, fun x q h => ⟨exec_flip_waits h, fun hr => ?_, exec_fill_waits h,
      fun hf hs hp hg => exec_fill h hf hs hp hg⟩, fun x h hp => exec_spill h hp⟩⟩
  · rw [exec_packet hw hh, dispatch_rejected h hs]
  · refine ⟨_, newLaunch q k _ (packetParams w) _, (exec_packet hw hh).trans (congrArg _ (dispatch_launched h hs)),
      State.setLaunch_launch_same _ _ _, rfl, rfl, rfl, rfl, rfl, rfl, rfl, (readPacket_still s q k).waves⟩
  · rw [exec_packet hw hh, dispatch_barrier h, if_pos hr]
  · rw [exec_packet hw hh, dispatch_barrier h, if_neg hr, if_pos hk]
  · rw [exec_packet hw hh, dispatch_barrier h, if_neg hr, if_neg hk]
  · rw [exec_packet hw hh, dispatch_unknown h]
  · refine ⟨_, (exec_launchEnd_drained hl hp hd).trans (congrArg _ (if_neg ?_)), State.setLaunch_launch_same _ _ _⟩
    obtain hc | hc := hc <;> simp [hc]
  · rw [exec_launchEnd_drained hl hp hd, if_pos (by simp [hc, hh])]
  · obtain ⟨p, hp, hq⟩ := rechoose_stays (now := now) h
    have hcore : (s.rechoose core now).core core = _ := (congrArg (State.core · core) hp).trans (State.setCore_core_same _ _ _)
    rw [hcore]
    exact ⟨rfl, rfl, rfl, rfl, hq⟩
  · obtain ⟨u, f, ho⟩ := rechoose_requests (now := now) hc h
    rw [ho.core, State.setCore_core_same]
    exact ⟨rfl, rfl, rfl⟩
  · rw [exec_preemption_first ha hc hr, if_pos ⟨hy, hb⟩]
    refine ⟨_, rfl, ?_⟩
    rw [request_core (by rw [ha]; exact fun h => hy (Option.some.inj h).symm)]
    exact ⟨rfl, rfl, ha⟩
  · rw [exec_preemption_first ha hc hr, if_neg]
    rintro ⟨h1, h2⟩
    obtain h | h := hy
    · exact h1 h
    · rw [h] at h2
      cases h2
  · rw [exec_preemption_again ha hc hr, if_pos ⟨hy, hb⟩]
  · rw [exec_preemption_again ha hc hr, if_neg (by omega)]
  · obtain ⟨t, ht, h1, h2, h3, h4, h5, h6⟩ := exec_flip h hr
    exact ⟨t, ht, h1, h2, h3, h4, h5, h6⟩

end Sys2Proof

/-! The residency of experts: ERQ, ERPIN, ERUNPIN, and the steps of a fetch and of an eviction (R213, R215, R298, R299, R302). -/

namespace Sys2Proof

open Sys2Proof.Machine

/-! ### Fields of a word -/

/-- The value of a word one of whose fields is replaced. -/
theorem toNat_withFld (w : W64) {hi lo : Nat} (v : Nat) (hl : lo ≤ hi) (hh : hi < 64) :
    (withFld w hi lo v).toNat =
      (w.toNat / 2 ^ (hi + 1) * 2 ^ (hi + 1 - lo) + v % 2 ^ (hi + 1 - lo)) * 2 ^ lo + w.toNat % 2 ^ lo := by
  obtain ⟨d, hd⟩ : ∃ d, hi + 1 = lo + d := ⟨hi + 1 - lo, by omega⟩
  obtain ⟨k, hk⟩ : ∃ k, 64 = lo + d + k := ⟨63 - hi, by omega⟩
  have hsub : hi + 1 - lo = d := by omega
  have hw : w.toNat < 2 ^ lo * 2 ^ d * 2 ^ k := by rw [← Nat.pow_add, ← Nat.pow_add, ← hk]; exact w.isLt
  have hlo : 0 < 2 ^ lo := by positivity
  have hdp : 0 < 2 ^ d := by positivity
  have hv : v % 2 ^ d < 2 ^ d := Nat.mod_lt _ hdp
  have htop : w.toNat / 2 ^ (lo + d) < 2 ^ k := Nat.div_lt_of_lt_mul (by rw [Nat.pow_add]; exact hw)
  have hmid : w.toNat / 2 ^ lo = w.toNat / 2 ^ (lo + d) * 2 ^ d + w.toNat / 2 ^ lo % 2 ^ d := by
    rw [Nat.pow_add, ← Nat.div_div_eq_div_mul, Nat.div_add_mod']
  have hsplit : w.toNat = w.toNat / 2 ^ lo * 2 ^ lo + w.toNat % 2 ^ lo := (Nat.div_add_mod' _ _).symm
  have hlow : w.toNat % 2 ^ lo < 2 ^ lo := Nat.mod_lt _ hlo
  unfold withFld
  rw [hsub, hd, BitVec.toNat_ofNat]
  generalize w.toNat / 2 ^ (lo + d) = q at *
  generalize w.toNat % 2 ^ lo = r at *
  generalize w.toNat / 2 ^ lo % 2 ^ d = m at *
  generalize v % 2 ^ d = n at *
  have hval : w.toNat - m * 2 ^ lo + n * 2 ^ lo = (q * 2 ^ d + n) * 2 ^ lo + r := by
    rw [hsplit, hmid, Nat.add_mul (q * 2 ^ d) m, Nat.add_mul (q * 2 ^ d) n]
    omega
  rw [hval, Nat.mod_eq_of_lt]
  have h1 : q * 2 ^ d + n + 1 ≤ 2 ^ k * 2 ^ d := by
    calc q * 2 ^ d + n + 1 ≤ (q + 1) * 2 ^ d := by rw [Nat.add_mul]; omega
      _ ≤ 2 ^ k * 2 ^ d := Nat.mul_le_mul_right _ htop
  calc (q * 2 ^ d + n) * 2 ^ lo + r < (q * 2 ^ d + n + 1) * 2 ^ lo := by rw [Nat.add_mul (q * 2 ^ d + n)]; omega
    _ ≤ 2 ^ k * 2 ^ d * 2 ^ lo := Nat.mul_le_mul_right _ h1
    _ = 2 ^ 64 := by rw [hk, Nat.pow_add, Nat.pow_add]; ac_rfl

theorem fld_withFld_top (w : W64) (v : Nat) : fld (withFld w 63 61 v) 63 61 = v % 8 := by
  rw [fld_eq, toNat_withFld w v (by decide) (by decide)]
  simp only [Nat.reduceAdd, Nat.reduceSub, Nat.reducePow]
  omega

theorem bitAt_eq (w : W64) (n : Nat) : bitAt w n = decide (w.toNat / 2 ^ n % 2 = 1) := Nat.testBit_eq_decide_div_mod_eq

theorem bitAt_withFld_top (w : W64) (v : Nat) : bitAt (withFld w 63 61 v) 60 = bitAt w 60 := by
  rw [bitAt_eq, bitAt_eq, toNat_withFld w v (by decide) (by decide)]
  simp only [Nat.reduceAdd, Nat.reduceSub, Nat.reducePow]
  congr 2
  omega

theorem bitAt_withFld_same (w : W64) : bitAt (withFld w 60 60 1) 60 = true := by
  rw [bitAt_eq, toNat_withFld w 1 (by decide) (by decide), decide_eq_true_eq]
  simp only [Nat.reduceAdd, Nat.reduceSub, Nat.reducePow]
  omega

/-! ### Fetches that begin (R299) -/

theorem wordAt_words (m : Mem) (a : Nat) {n i : Nat} (h : i < n) : wordAt (Memory.words m a n) i = Memory.w64 m (a + 8 * i) := by
  simp [wordAt, Memory.words, h]

/-- The fetch of an entry of these words that has just begun: nothing is copied, and a backing that breaks R299 is its error. -/
structure Begun (s : Machine.State) (x id cl : Nat) (w : List W64) (e : Fetch) : Prop where
  ctx : e.ctx = x
  id : e.x = id
  cluster : e.cluster = cl
  running : e.running = decide (s.fetchesOf x < 16)
  kind : e.kind = fld (wordAt w 1) 63 62
  bpa : e.bpa = fld (wordAt w 1) 51 0
  range : (e.rva, e.blen) = ertRange w
  copied : e.copied = 0
  bad : s.backingOk e.kind e.bpa e.blen = false → e.bad = some (5, e.bpa)

theorem beginFetch_begins {s : Machine.State} {x id cl a : Nat} (h : s.ertAddr x id = some a) :
    ∃ e q u, Begun s x id cl (Memory.words s.mem a 8) e ∧ Charged s q ∧ u = q.putErt a 0 (withFld (Memory.w64 s.mem a) 63 61 1) ∧
      s.beginFetch x id cl = { u with eng := { u.eng with fetches := u.eng.fetches ++ [e] } } := by
  have hword : wordAt (Memory.words s.mem a 8) 0 = Memory.w64 s.mem a := wordAt_words s.mem a (by decide)
  unfold State.beginFetch
  rw [h]
  dsimp -zeta only
  extract_lets w bkind bpa r base vas f s1
  have hs1 : s1 = (s.readsMade x (vas.flatMap (s.walkReads (engTlb cl) x))).putErt a 0 (withFld (Memory.w64 s.mem a) 63 61 1) := by
    simp only [s1, w, hword]
  clear_value s1
  refine ⟨f, _, s1, ?_, Charged.readsMade s x (vas.flatMap (s.walkReads (engTlb cl) x)), hs1, rfl⟩
  by_cases hb : s.backingOk bkind bpa r.2 = true
  · cases hp : s.fetchPages (engTlb cl) x bpa vas with
    | ok l =>
      have hf : f = { base with pages := l } := by simp only [f, if_pos hb, hp]
      rw [hf]
      exact ⟨rfl, rfl, rfl, rfl, rfl, rfl, rfl, rfl, fun hn => absurd (hb.symm.trans hn) (by decide)⟩
    | error b =>
      have hf : f = { base with bad := some b } := by simp only [f, if_pos hb, hp]
      rw [hf]
      exact ⟨rfl, rfl, rfl, rfl, rfl, rfl, rfl, rfl, fun hn => absurd (hb.symm.trans hn) (by decide)⟩
  · have hf : f = { base with bad := some (5, bpa) } := if_neg hb
    rw [hf]
    exact ⟨rfl, rfl, rfl, rfl, rfl, rfl, rfl, rfl, fun _ => rfl⟩

/-! ### The instructions of R215 -/

/-- What an instruction of R215 does to its entry: the state after it, and whether it has taken a use. -/
def expertAct : Instr → Machine.State → Agent → Nat → Nat → W64 → Machine.State × Bool
  | .erqAcq _, t, ag, id, a, w0 =>
    if fld w0 63 61 = 2 ∨ fld w0 63 61 = 3 then ((t.putErt a 0 (withFld w0 31 0 (fld w0 31 0 + 1))).modUses (t.launchOf ag) id (· + 1), true)
    else if fld w0 63 61 = 0 then (t.beginFetch (t.ctxOf ag) id (t.clusterOf ag), false) else (t, false)
  | .erqRel _, t, ag, id, a, w0 =>
    if fld w0 31 0 = 0 then (t, false)
    else ((t.putErt a 0 (withFld w0 31 0 (fld w0 31 0 - 1))).modUses (t.launchOf ag) id (· - 1), false)
  | .erpin _, t, ag, id, a, w0 =>
    if fld w0 63 61 = 2 then (t.putErt a 0 (withFld w0 63 61 3), false)
    else if fld w0 63 61 = 1 then (t.putErt a 0 (withFld w0 60 60 1), false)
    else if fld w0 63 61 = 0 then ((t.putErt a 0 (withFld w0 60 60 1)).beginFetch (t.ctxOf ag) id (t.clusterOf ag), false) else (t, false)
  | .erunpin _, t, _, _, a, w0 => (if fld w0 63 61 = 3 then t.putErt a 0 (withFld w0 63 61 2) else t, false)
  | _, t, _, _, _, _ => (t, false)

theorem exec_expert {i : Instr} {f : EF} (s : Machine.State)
    (hinstr : i = .erqQry f ∨ i = .erqAcq f ∨ i = .erqRel f ∨ i = .erpin f ∨ i = .erunpin f) :
    Machine.exec i s = expertOp f s (expertAct i) := by
  rcases hinstr with rfl | rfl | rfl | rfl | rfl
  · rfl
  · show execErqAcq f s = _
    refine congrArg (expertOp f s) ?_
    funext t ag id a w0
    simp only [expertAct]
    split
    · next h => rw [h, if_pos (.inl rfl)]
    · next h => rw [h, if_pos (.inr rfl)]
    · next h => rw [h, if_neg (by decide), if_pos rfl]
    · next h2 h3 h0 => rw [if_neg (not_or.2 ⟨h2, h3⟩), if_neg h0]
  · rfl
  · show execErpin f s = _
    refine congrArg (expertOp f s) ?_
    funext t ag id a w0
    simp only [expertAct]
    split
    · next h => rw [h, if_pos rfl]
    · next h => rw [h, if_neg (by decide), if_pos rfl]
    · next h => rw [h, if_neg (by decide), if_neg (by decide), if_pos rfl]
    · next h2 h1 h0 => rw [if_neg h2, if_neg h1, if_neg h0]
  · rfl

/-- The agents, the scratchpads and what the clusters evict are the same. -/
structure Abides (s t : Machine.State) : Prop where
  waves : t.waves = s.waves
  threads : t.threads = s.threads
  issue : t.issue = s.issue
  spad : t.spad = s.spad
  evicts : t.eng.evicts = s.eng.evicts

theorem Abides.trans {s t u : Machine.State} (h : Abides s t) (g : Abides t u) : Abides s u :=
  ⟨g.waves.trans h.waves, g.threads.trans h.threads, g.issue.trans h.issue, g.spad.trans h.spad, g.evicts.trans h.evicts⟩

theorem Abides.ofOuter {s t : Machine.State} (h : Outer s t) : Abides s t := ⟨h.waves, h.threads, h.issue, h.spad, congrArg Engines.evicts h.eng⟩

theorem ctxOf_outer {s t : Machine.State} (h : Outer s t) (ag : Agent) : t.ctxOf ag = s.ctxOf ag := by
  obtain ⟨a, rfl, -⟩ := h
  rfl

/-- Uses of an expert are counted in the launches alone. -/
theorem modUses_frame (s : Machine.State) (l id : Nat) (g : Nat → Nat) :
    Abides s (s.modUses l id g) ∧ (s.modUses l id g).eng = s.eng ∧ (s.modUses l id g).mem = s.mem := by
  unfold State.modUses
  split
  · exact ⟨⟨rfl, rfl, rfl, rfl, rfl⟩, rfl, rfl⟩
  · exact ⟨⟨rfl, rfl, rfl, rfl, rfl⟩, rfl, rfl⟩

/-- Memory holds a word at an address and is otherwise that of s. -/
def WordAt (s t : Machine.State) (a : Nat) (w : W64) : Prop :=
  Memory.w64 t.mem a = w ∧ ∀ y, (y < a ∨ a + 8 ≤ y) → Memory.get t.mem y = Memory.get s.mem y

theorem WordAt.refl (s : Machine.State) (a : Nat) : WordAt s s a (Memory.w64 s.mem a) := ⟨rfl, fun _ _ => rfl⟩

theorem WordAt.ofMem {s t u : Machine.State} {a : Nat} {w : W64} (h : WordAt s t a w) (hm : u.mem = t.mem) : WordAt s u a w := by
  unfold WordAt at *
  rw [hm]
  exact h

theorem WordAt.trans {s t u : Machine.State} {a : Nat} {w x : W64} (h : WordAt s t a w) (g : WordAt t u a x) : WordAt s u a x :=
  ⟨g.1, fun y hy => (g.2 y hy).trans (h.2 y hy)⟩

theorem WordAt.putErt {s t : Machine.State} (hm : t.mem = s.mem) (a : Nat) (w : W64) : WordAt s (t.putErt a 0 w) a w := by
  refine ⟨Memory.w64_write_same t.mem a w, fun y hy => ?_⟩
  exact (Memory.get_write_outside t.mem a y _ (by rw [length_leBytes]; omega)).trans (by rw [hm])

/-- A fetch that begins: the entry is fetching, and only its first word is another. -/
theorem beginFetch_frame {s : Machine.State} {x id cl a : Nat} (h : s.ertAddr x id = some a) :
    Abides s (s.beginFetch x id cl) ∧ WordAt s (s.beginFetch x id cl) a (withFld (Memory.w64 s.mem a) 63 61 1) ∧
      ∃ e, Begun s x id cl (Memory.words s.mem a 8) e ∧ (s.beginFetch x id cl).eng = { s.eng with fetches := s.eng.fetches ++ [e] } := by
  obtain ⟨e, q, u, he, hq, hu, hb⟩ := beginFetch_begins (cl := cl) h
  have hqm : q.mem = s.mem := by obtain ⟨_, _, _, _, rfl, -⟩ := hq; rfl
  have hout : Outer s u := by rw [hu]; exact (Outer.ofCharged hq).trans (Outer.putErt _ _ _ _)
  have hw : WordAt s u a (withFld (Memory.w64 s.mem a) 63 61 1) := by rw [hu]; exact WordAt.putErt hqm a _
  rw [hb]
  refine ⟨(Abides.ofOuter hout).trans ⟨rfl, rfl, rfl, rfl, rfl⟩, hw.ofMem rfl, e, he, ?_⟩
  rw [hout.eng]

/-- What an instruction of R215 leaves in the first word of an entry that it does not begin to fetch. -/
def expertWord (i : Instr) (w0 : W64) : W64 :=
  match i with
  | .erqAcq _ => if fld w0 63 61 = 2 ∨ fld w0 63 61 = 3 then withFld w0 31 0 (fld w0 31 0 + 1) else w0
  | .erqRel _ => if fld w0 31 0 = 0 then w0 else withFld w0 31 0 (fld w0 31 0 - 1)
  | .erpin _ => if fld w0 63 61 = 2 then withFld w0 63 61 3 else if fld w0 63 61 = 1 then withFld w0 60 60 1 else w0
  | .erunpin _ => if fld w0 63 61 = 3 then withFld w0 63 61 2 else w0
  | _ => w0

/-- An instruction of R215 that begins the fetch of an absent entry. -/
def Fetches (i : Instr) (w0 : W64) : Prop := fld w0 63 61 = 0 ∧ ((∃ g, i = .erqAcq g) ∨ (∃ g, i = .erpin g))

section
variable {i : Instr} {f : EF} {t : Machine.State} {ag : Agent} {id a : Nat}
  (hinstr : i = .erqQry f ∨ i = .erqAcq f ∨ i = .erqRel f ∨ i = .erpin f ∨ i = .erunpin f)
include hinstr

/-- An entry that is not fetched: at most its first word changes. -/
theorem expertAct_keeps (hn : ¬Fetches i (Memory.w64 t.mem a)) :
    let r := expertAct i t ag id a (Memory.w64 t.mem a)
    Abides t r.1 ∧ r.1.eng = t.eng ∧ WordAt t r.1 a (expertWord i (Memory.w64 t.mem a)) := by
  have hsame : Abides t t ∧ t.eng = t.eng ∧ WordAt t t a (Memory.w64 t.mem a) := ⟨⟨rfl, rfl, rfl, rfl, rfl⟩, rfl, WordAt.refl t a⟩
  have hput (w : W64) : Abides t (t.putErt a 0 w) ∧ (t.putErt a 0 w).eng = t.eng ∧ WordAt t (t.putErt a 0 w) a w :=
    ⟨Abides.ofOuter (Outer.putErt _ _ _ _), rfl, WordAt.putErt rfl a w⟩
  have huses (w : W64) (l n : Nat) (g : Nat → Nat) : Abides t ((t.putErt a 0 w).modUses l n g) ∧
      ((t.putErt a 0 w).modUses l n g).eng = t.eng ∧ WordAt t ((t.putErt a 0 w).modUses l n g) a w := by
    obtain ⟨h1, h2, h3⟩ := hput w
    obtain ⟨g1, g2, g3⟩ := modUses_frame (t.putErt a 0 w) l n g
    exact ⟨h1.trans g1, g2.trans h2, h3.ofMem g3⟩
  rcases hinstr with rfl | rfl | rfl | rfl | rfl
  · exact hsame
  · have h0 : fld (Memory.w64 t.mem a) 63 61 ≠ 0 := fun h => hn ⟨h, .inl ⟨f, rfl⟩⟩
    by_cases h2 : fld (Memory.w64 t.mem a) 63 61 = 2 ∨ fld (Memory.w64 t.mem a) 63 61 = 3
    · simp only [expertAct, expertWord, if_pos h2]
      exact huses _ _ _ _
    · simpa only [expertAct, expertWord, if_neg h2, if_neg h0] using hsame
  · by_cases h0 : fld (Memory.w64 t.mem a) 31 0 = 0
    · simpa only [expertAct, expertWord, if_pos h0] using hsame
    · simp only [expertAct, expertWord, if_neg h0]
      exact huses _ _ _ _
  · have h0 : fld (Memory.w64 t.mem a) 63 61 ≠ 0 := fun h => hn ⟨h, .inr ⟨f, rfl⟩⟩
    by_cases h2 : fld (Memory.w64 t.mem a) 63 61 = 2
    · simp only [expertAct, expertWord, if_pos h2]
      exact hput _
    · by_cases h1 : fld (Memory.w64 t.mem a) 63 61 = 1
      · simp only [expertAct, expertWord, if_neg h2, if_pos h1]
        exact hput _
      · simpa only [expertAct, expertWord, if_neg h2, if_neg h1, if_neg h0] using hsame
  · by_cases h3 : fld (Memory.w64 t.mem a) 63 61 = 3
    · simp only [expertAct, expertWord, if_pos h3]
      exact hput _
    · simpa only [expertAct, expertWord, if_neg h3] using hsame

/-- An absent entry that is acquired or pinned begins to be fetched, and a pin is noted in it. -/
theorem expertAct_fetches (ha : t.ertAddr (t.ctxOf ag) id = some a) (hf : Fetches i (Memory.w64 t.mem a)) :
    let r := expertAct i t ag id a (Memory.w64 t.mem a)
    Abides t r.1 ∧ ∃ w, WordAt t r.1 a w ∧ fld w 63 61 = 1 ∧ ((∃ g, i = .erpin g) → bitAt w 60 = true) ∧
      ∃ e, Begun t (t.ctxOf ag) id (t.clusterOf ag) (Memory.words t.mem a 8) e ∧
        r.1.eng = { t.eng with fetches := t.eng.fetches ++ [e] } := by
  obtain ⟨h0, hi⟩ := hf
  rcases hi with ⟨g, rfl⟩ | ⟨g, rfl⟩
  · obtain ⟨h1, h2, h3⟩ := beginFetch_frame (cl := t.clusterOf ag) ha
    have hr : expertAct (.erqAcq g) t ag id a (Memory.w64 t.mem a) = (t.beginFetch (t.ctxOf ag) id (t.clusterOf ag), false) := by
      simp only [expertAct, h0, Nat.reduceEqDiff, or_self, if_false, if_true]
    rw [hr]
    exact ⟨h1, _, h2, fld_withFld_top _ _, fun ⟨_, h⟩ => (nomatch h), h3⟩
  · have hput : WordAt t (t.putErt a 0 (withFld (Memory.w64 t.mem a) 60 60 1)) a (withFld (Memory.w64 t.mem a) 60 60 1) :=
      WordAt.putErt rfl a _
    have hr : expertAct (.erpin g) t ag id a (Memory.w64 t.mem a) =
        ((t.putErt a 0 (withFld (Memory.w64 t.mem a) 60 60 1)).beginFetch (t.ctxOf ag) id (t.clusterOf ag), false) := by
      simp only [expertAct, h0, Nat.reduceEqDiff, if_false, if_true]
    have ha' : (t.putErt a 0 (withFld (Memory.w64 t.mem a) 60 60 1)).ertAddr (t.ctxOf ag) id = some a := ha
    obtain ⟨h1, h2, e, he, h3⟩ := beginFetch_frame (cl := t.clusterOf ag) ha'
    have hword (k : Nat) (hk : k < 8) (h : k ≠ 0) :
        wordAt (Memory.words (t.putErt a 0 (withFld (Memory.w64 t.mem a) 60 60 1)).mem a 8) k = wordAt (Memory.words t.mem a 8) k := by
      rw [wordAt_words _ _ hk, wordAt_words _ _ hk]
      exact Memory.w64_write_outside _ (by rw [length_leBytes]; omega)
    have hrange : ertRange (Memory.words (t.putErt a 0 (withFld (Memory.w64 t.mem a) 60 60 1)).mem a 8) = ertRange (Memory.words t.mem a 8) := by
      unfold ertRange
      rw [hword 3 (by decide) (by decide), hword 2 (by decide) (by decide)]
    obtain ⟨e1, e2, e3, e4, e5, e6, e7, e8, e9⟩ := he
    rw [hr]
    rw [hput.1] at h2
    rw [hword 1 (by decide) (by decide)] at e5 e6
    refine ⟨(Abides.ofOuter (Outer.putErt _ _ _ _)).trans h1, _, hput.trans h2, fld_withFld_top _ _, fun _ => ?_, e,
      ⟨e1, e2, e3, e4, e5, e6, e7.trans hrange, e8, e9⟩, h3⟩
    rw [bitAt_withFld_top, bitAt_withFld_same]

/-- A use is taken of a resident or pinned entry, by an acquire. -/
theorem expertAct_uses : (expertAct i t ag id a (Memory.w64 t.mem a)).2 = true ↔
    (∃ g, i = .erqAcq g) ∧ (fld (Memory.w64 t.mem a) 63 61 = 2 ∨ fld (Memory.w64 t.mem a) 63 61 = 3) := by
  rcases hinstr with rfl | rfl | rfl | rfl | rfl
  · exact ⟨nofun, fun ⟨⟨_, h⟩, _⟩ => nomatch h⟩
  · by_cases h2 : fld (Memory.w64 t.mem a) 63 61 = 2 ∨ fld (Memory.w64 t.mem a) 63 61 = 3
    · simp only [expertAct, if_pos h2]
      exact ⟨fun _ => ⟨⟨f, rfl⟩, h2⟩, fun _ => trivial⟩
    · simp only [expertAct, if_neg h2]
      refine ⟨fun h => ?_, fun h => absurd h.2 h2⟩
      split at h <;> exact nomatch h
  · refine ⟨fun h => ?_, fun ⟨⟨_, h⟩, _⟩ => nomatch h⟩
    simp only [expertAct] at h
    split at h <;> exact nomatch h
  · refine ⟨fun h => ?_, fun ⟨⟨_, h⟩, _⟩ => nomatch h⟩
    simp only [expertAct] at h
    split_ifs at h
  · exact ⟨nofun, fun ⟨⟨_, h⟩, _⟩ => nomatch h⟩

end

/-- Evictions that end as uses are given back leave the agents as they stand. -/
theorem settleEvicts_agents (s : Machine.State) :
    s.settleEvicts.waves = s.waves ∧ s.settleEvicts.threads = s.threads ∧ s.settleEvicts.issue = s.issue := by
  have hreply (t u : Machine.State) (b st r : Nat) (hu : (u.waves, u.threads, u.issue) = (t.waves, t.threads, t.issue)) :
      ((u.reply b st r).waves, (u.reply b st r).threads, (u.reply b st r).issue) = (t.waves, t.threads, t.issue) := by
    have ho := Outer.reply u b st r
    rw [ho.waves, ho.threads, ho.issue, hu]
  have h : (s.settleEvicts.waves, s.settleEvicts.threads, s.settleEvicts.issue) = (s.waves, s.threads, s.issue) := by
    refine foldl_keeps (fun t : Machine.State => (t.waves, t.threads, t.issue)) _ (fun t w => ?_) s.eng.evicts s
    cases t.ertAddr w.ctx w.x with
    | none => rfl
    | some a =>
      dsimp only
      by_cases h2 : fld (Memory.w64 t.mem a) 63 61 = 2
      · by_cases h0 : fld (Memory.w64 t.mem a) 31 0 ≠ 0
        · rw [if_pos ⟨h2, h0⟩]
        · rw [if_neg (fun hc => h0 hc.2), if_pos h2]
          exact hreply _ _ _ _ _ rfl
      · rw [if_neg (fun hc => h2 hc.1), if_neg h2]
        exact hreply _ _ _ _ _ rfl
  obtain ⟨hw, hrest⟩ := Prod.mk.inj h
  exact ⟨hw, Prod.mk.inj hrest⟩

theorem settleEvicts_none {s : Machine.State} (h : s.eng.evicts = []) : s.settleEvicts = s := by
  unfold State.settleEvicts
  rw [h]
  rfl

/-- A thread that writes a result and goes on changes threads alone. -/
theorem exists_put64_retire {u : Machine.State} {c k : Nat} (o : Opnd) (x n : Nat) (hi : u.issue = some ⟨.thread c k, false⟩) :
    ∃ l, (u.put64 (.thread c k) o x).retire n .none = { u with threads := l, issue := none } := by
  have hput : ∃ l, u.put64 (.thread c k) o x = { u with threads := l } := by
    unfold State.put64 State.putReg
    cases o with
    | q m => exact ⟨_, rfl⟩
    | _ => exact ⟨u.threads, rfl⟩
  obtain ⟨l, hl⟩ := hput
  rw [hl]
  simp only [State.retire, hi, Bool.false_eq_true, if_false, State.stepped]
  unfold State.advance
  dsimp only
  split
  · exact ⟨_, rfl⟩
  · exact ⟨_, rfl⟩

/-- The end of an instruction of a thread with a 64-bit result, whose effect leaves the agents as they stand. -/
theorem put64_done {s u : Machine.State} {c k : Nat} {kind : ClauseKind} {o : Opnd} (x n : Nat) (hi : s.issue = some ⟨.thread c k, false⟩)
    (hf : Agent.fits (.thread c k) kind) (ho : regOk kind true o = true) (hw : u.waves = s.waves) (ht : u.threads = s.threads)
    (hu : u.issue = s.issue) :
    let t := (u.put64 (.thread c k) o x).retire n .none
    After s t (.thread c k) n ∧ t.reg (.thread c k) o true = BitVec.ofNat 64 x ∧
      (∀ m, m ∉ dstRegs (.thread c k) o true → (t.thread c k).getQ m = (s.thread c k).getQ m) ∧
      t.mem = u.mem ∧ t.spad = u.spad ∧ t.waves = u.waves ∧ t.eng = u.eng := by
  have hui : u.issue = some ⟨.thread c k, false⟩ := hu.trans hi
  have hpi : (u.put64 (.thread c k) o x).issue = some ⟨.thread c k, false⟩ := (Machine.State.putReg_issue u _ _ _ _ _).trans hui
  obtain ⟨l, hl⟩ := exists_put64_retire o x n hui
  have hthread : u.thread c k = s.thread c k := by rw [State.thread, ht, State.thread]
  refine ⟨?_, ?_, fun m hm => ?_, ?_, ?_, ?_, ?_⟩
  · exact (SamePlace.ofAgents _ hw ht).after ((SamePlace.putReg u _ o true false _).after (after_retire _ _ n .none hpi trivial))
  · refine (reg_retire _ _ kind o true n .none hpi trivial ho).trans ?_
    exact reg_putReg u (.thread c k) kind o true false _ trivial hf ho
  · refine (((kept_scalar u (.thread c k) o true false (BitVec.ofNat 64 x) n .none hui).thread c k rfl).q m hm).trans ?_
    rw [hthread]
  all_goals rw [hl]

/-! ### ERQ, ERPIN and ERUNPIN (R213, R215) -/

theorem legal_expert {k : ClauseKind} {i : Instr} {f : EF} (h : legal k i = true)
    (hinstr : i = .erqQry f ∨ i = .erqAcq f ∨ i = .erqRel f ∨ i = .erpin f ∨ i = .erunpin f) : isQ f.dst = true := by
  rcases hinstr with rfl | rfl | rfl | rfl | rfl <;>
    · simp only [legal, Instr.view, legalE, Bool.and_eq_true] at h
      tauto

theorem regOk_of_isQ {o : Opnd} {c k : Nat} {kind : ClauseKind} (hf : Agent.fits (.thread c k) kind) (h : isQ o = true) : regOk kind true o = true := by
  cases o with
  | q n =>
    have hk : kind = .seq := hf
    rw [hk]
    rfl
  | _ => exact nomatch h

section
variable {i : Instr} {f : EF} {s : Machine.State} {ag : Agent} (hi : s.issue = some ⟨ag, false⟩)
  (hinstr : i = .erqQry f ∨ i = .erqAcq f ∨ i = .erqRel f ∨ i = .erpin f ∨ i = .erunpin f)
include hi hinstr

theorem exec_expert_waits (h : (s.l1Sync ag).expertHeld ag (s.expertId ag f.sa) = true) : Machine.exec i s = .next s.stall := by
  rw [exec_expert s hinstr]
  simp only [expertOp, issued, hi, h, if_true]

variable (hh : (s.l1Sync ag).expertHeld ag (s.expertId ag f.sa) = false)
include hh

theorem exec_expert_none (h : 4096 ≤ s.expertId ag f.sa ∨ (s.l1Sync ag).expert (s.ctxOf ag) (s.expertId ag f.sa) = none) :
    Machine.exec i s = .next ((s.l1Sync ag).trap ag 0x17 none 0 0) := by
  have hctx : (s.l1Sync ag).ctxOf ag = s.ctxOf ag := ctxOf_outer (Outer.l1Sync s ag) ag
  have hnone : (if s.expertId ag f.sa < 4096 then (s.l1Sync ag).expert ((s.l1Sync ag).ctxOf ag) (s.expertId ag f.sa) else none) = none := by
    rw [hctx]
    split
    · exact h.resolve_left (by omega)
    · rfl
  rw [exec_expert s hinstr]
  simp only [expertOp, issued, hi, hh, Bool.false_eq_true, if_false, hnone]

theorem exec_expert_acts {a : Nat} {w : List W64} (hid : s.expertId ag f.sa < 4096)
    (h : (s.l1Sync ag).expert (s.ctxOf ag) (s.expertId ag f.sa) = some (a, w)) :
    let r := expertAct i (s.l1Sync ag) ag (s.expertId ag f.sa) a (wordAt w 0)
    Machine.exec i s = .next ((r.1.settleEvicts.put64 ag f.dst (ertReport (Memory.w64 r.1.settleEvicts.mem a) r.2)).retire
      (nSlots [f.sa]) .none) := by
  have hctx : (s.l1Sync ag).ctxOf ag = s.ctxOf ag := ctxOf_outer (Outer.l1Sync s ag) ag
  have hsome : (if s.expertId ag f.sa < 4096 then (s.l1Sync ag).expert ((s.l1Sync ag).ctxOf ag) (s.expertId ag f.sa) else none) = some (a, w) := by
    rw [hctx, if_pos hid, h]
  rw [exec_expert s hinstr]
  simp only [expertOp, issued, hi, hh, Bool.false_eq_true, if_false, hsome]

end

theorem expert_words {s : Machine.State} {x id a : Nat} {w : List W64} (h : s.expert x id = some (a, w)) :
    s.ertAddr x id = some a ∧ w = Memory.words s.mem a 32 := by
  unfold State.expert at h
  cases he : s.ertAddr x id with
  | none => rw [he] at h; exact nomatch h
  | some b =>
    rw [he] at h
    simp only [Option.ite_none_left_eq_some, Option.some.injEq, Prod.mk.injEq] at h
    obtain ⟨-, rfl, rfl⟩ := h
    exact ⟨rfl, rfl⟩

/-! ### Bytes that software may not write, where only budgets are charged -/

theorem any_unsent (p : Nat × Node → Bool) (hp : ∀ a n, p (a, { n with sent := 0 }) = p (a, n)) (l : Map Node) : (unsent l).any p = l.any p := by
  unfold unsent
  rw [List.any_map]
  exact congrArg (List.any l) (funext fun e => hp e.1 e.2)

theorem barred_charged {s q : Machine.State} (h : Charged s q) (ever : Bool) (pa : Nat) : q.barred ever pa = s.barred ever pa := by
  obtain ⟨free, tlb, nodes, used, rfl, hn⟩ := h
  have hany (p : Nat × Node → Bool) (hp : ∀ a n, p (a, { n with sent := 0 }) = p (a, n)) : nodes.any p = s.sch.nodes.any p := by
    rw [← any_unsent p hp, hn, any_unsent p hp]
  have hsave : (s.spend free tlb nodes used).inSave ever pa = s.inSave ever pa := hany _ fun _ _ => rfl
  have howned : (s.spend free tlb nodes used).inOwned pa = s.inOwned pa := by
    unfold State.inOwned
    exact congrArg (fun b => b || _ || _ || _) (hany _ fun _ _ => rfl)
  unfold State.barred
  rw [hsave, howned]
  rfl

/-- A byte that software may never write here is none that it may not write now. -/
theorem open_of_never {s : Machine.State} {pa : Nat} (h : s.barred true pa = false) : s.barred false pa = false := by
  rw [← Bool.not_eq_true] at h ⊢
  refine fun hb => h ?_
  simp only [State.barred, Bool.or_eq_true] at hb ⊢
  rcases hb with ((hb | hb) | hb) | hb
  · refine .inl (.inl (.inl ?_))
    simp only [State.inSave, List.any_eq_true, Bool.and_eq_true, Bool.or_eq_true] at hb ⊢
    obtain ⟨e, he, h1, -⟩ := hb
    exact ⟨e, he, h1, .inl trivial⟩
  · refine .inl (.inl (.inr ?_))
    simp only [State.inEntry, List.any_eq_true, Bool.and_eq_true, Bool.or_eq_true] at hb ⊢
    obtain ⟨e, he, p, hp, h1, h2⟩ := hb
    refine ⟨e, he, p, hp, h1, h2.imp id fun h3 => ⟨h3.1, .inl trivial⟩⟩
  · exact .inl (.inr hb)
  · exact .inr hb

/-! ### The steps of a fetch (R298, R299) -/

section
variable {s : Machine.State} {x id a : Nat} {e : Fetch} (he : s.fetchOf x id = some e)
include he

theorem exec_fetchStart (hr : e.running = false) (hn : s.fetchesOf x < 16) : Machine.exec (.expertFetchStart x id) s =
    .next { s with eng := { s.eng with fetches := s.eng.fetches.map (fun g => if g = e then { g with running := true } else g) } } := by
  show execExpertFetchStart x id s = _
  simp only [execExpertFetchStart, he, hr, hn, decide_true, Bool.not_false, Bool.and_self, if_true]

theorem exec_fetchStart_waits (h : e.running = true ∨ 16 ≤ s.fetchesOf x) : Machine.exec (.expertFetchStart x id) s = .next s := by
  show execExpertFetchStart x id s = _
  have hc : ¬(!e.running && decide (s.fetchesOf x < 16)) = true := by
    simp only [Bool.and_eq_true, Bool.not_eq_true', decide_eq_true_eq, not_and]
    intro hr
    rcases h with h | h
    · exact absurd (h.symm.trans hr) (by decide)
    · omega
  simp only [execExpertFetchStart, he, if_neg hc]

variable (ha : s.ertAddr x id = some a)
include ha

/-- Something stops the next copy of a fetch. -/
def copyStopped (s : Machine.State) (e : Fetch) : Prop :=
  s.fetchRevoked e = true ∨ s.badBytes (s.fetchSrc e) (min 4096 (e.blen - e.copied)) = true ∨ s.severed e.cluster (s.fetchSrc e) = true ∨
    s.copyHeld e (min 4096 (e.blen - e.copied)) = true

theorem exec_fetch_stays (h : e.running = false ∨ e.bad ≠ none ∨ (e.copied < e.blen ∧ copyStopped s e) ∨ (e.blen ≤ e.copied ∧ s.fetchFar e = true)) :
    Machine.exec (.expertFetchComplete x id) s = .next s := by
  show execExpertFetchComplete x id s = _
  simp only [execExpertFetchComplete, he, ha]
  refine congrArg Host.Outcome.next ?_
  by_cases hw : (!e.running || e.bad.isSome) = true
  · rw [if_pos hw]
  · have hw' := hw
    simp only [Bool.or_eq_true, Bool.not_eq_true', not_or, Bool.not_eq_false, Bool.not_eq_true, Option.isSome_eq_false_iff, Option.isNone_iff_eq_none] at hw'
    obtain ⟨hr, hb⟩ := hw'
    rw [if_neg hw]
    rcases h with h | h | ⟨hlt, h⟩ | ⟨hge, h⟩
    · exact absurd (hr.symm.trans h) (by decide)
    · exact absurd hb h
    · rw [if_pos hlt, if_pos (by simpa only [copyStopped, Bool.or_eq_true, or_assoc] using h)]
    · rw [if_neg (by omega), if_pos h]

section
variable (hr : e.running = true) (hb : e.bad = none)
include hr hb

theorem exec_fetch_copies (hlt : e.copied < e.blen) (h : ¬copyStopped s e) :
    Machine.exec (.expertFetchComplete x id) s = .next (s.copyFetch e (min 4096 (e.blen - e.copied))) := by
  show execExpertFetchComplete x id s = _
  have hs : ¬((s.fetchRevoked e || s.badBytes (s.fetchSrc e) (min 4096 (e.blen - e.copied)) || s.severed e.cluster (s.fetchSrc e) ||
      s.copyHeld e (min 4096 (e.blen - e.copied))) = true) := by simpa only [copyStopped, Bool.or_eq_true, or_assoc] using h
  simp only [execExpertFetchComplete, he, ha, hr, hb, Bool.not_true, Option.isSome_none, Bool.or_self, Bool.false_eq_true, if_false, if_pos hlt, if_neg hs]

theorem exec_fetch_completes (hge : e.blen ≤ e.copied) (hf : s.fetchFar e = false) (hq : fld (Memory.w64 s.mem (a + 32)) 63 32 = 0) :
    Machine.exec (.expertFetchComplete x id) s = .next (((s.dropFetch e).putErt a 0 (withFld (withFld (withFld (Memory.w64 s.mem a) 63 61
      (if bitAt (Memory.w64 s.mem a) 60 then 3 else 2)) 60 60 0) 59 56 0)).putErt a 7 (Memory.w64 s.mem (a + 56) + 1)) := by
  show execExpertFetchComplete x id s = _
  have hm : (s.dropFetch e).mem = s.mem := rfl
  simp only [execExpertFetchComplete, he, ha, hr, hb, Bool.not_true, Option.isSome_none, Bool.or_self, Bool.false_eq_true, if_false,
    if_neg (not_lt.2 hge), hf, hm, wordAt_words s.mem a (show 0 < 8 by decide), wordAt_words s.mem a (show 4 < 8 by decide),
    wordAt_words s.mem a (show 7 < 8 by decide), Nat.reduceMul, Nat.add_zero, hq]
  rfl

end

theorem exec_fetchFail {code addr : Nat} (n : Nat) (cause : FetchErr) (hr : e.running = true) (hb : e.bad = some (code, addr)) :
    Machine.exec (.expertFetchFail x id n cause) s = .next (s.failFetch e a code addr) := by
  show execExpertFetchFail x id n cause s = _
  simp only [execExpertFetchFail, he, ha, hr, hb, Bool.not_true, Bool.false_eq_true, if_false]

end

/-- A fetch that is complete leaves two words of its entry changed. -/
theorem completed_entry (s : Machine.State) (e : Fetch) (a : Nat) (w n : W64) :
    let t := ((s.dropFetch e).putErt a 0 w).putErt a 7 n
    t.eng.fetches = s.eng.fetches.erase e ∧ Memory.w64 t.mem a = w ∧ Memory.w64 t.mem (a + 56) = n ∧ t.spad = s.spad ∧ t.waves = s.waves ∧
      t.threads = s.threads ∧ ∀ y, (y < a ∨ a + 8 ≤ y) → (y < a + 56 ∨ a + 64 ≤ y) → Memory.get t.mem y = Memory.get s.mem y := by
  intro t
  have hm : t.mem = Memory.write (Memory.write s.mem a (leBytes 8 w.toNat)) (a + 56) (leBytes 8 n.toNat) := rfl
  have ho : Outer (s.dropFetch e) t := (Outer.putErt _ a 0 w).trans (Outer.putErt _ a 7 n)
  refine ⟨congrArg Engines.fetches ho.eng, ?_, ?_, ho.spad, ho.waves, ho.threads, fun y h1 h2 => ?_⟩
  · rw [hm]
    exact (Memory.w64_write_outside _ (.inl (by omega))).trans (Memory.w64_write_same _ _ _)
  · rw [hm]
    exact Memory.w64_write_same _ _ _
  · have hl (x : W64) : (leBytes 8 x.toNat).length = 8 := length_leBytes _ _
    rw [hm]
    exact (Memory.get_write_outside _ _ _ _ (by rw [hl]; omega)).trans (Memory.get_write_outside _ _ _ _ (by rw [hl]; omega))

/-- A copy within this device, of bytes that nothing bars: they stand at their place, and no other byte is another. -/
theorem copyFetch_copies {s : Machine.State} {e : Fetch} {n src pa : Nat} (hsrc : s.fetchSrc e = .mem src) (hd : e.dest = some (.mem pa))
    (hcut : s.severed e.cluster (.mem pa) = false) (hopen : ∀ y, y < n → s.barred true (pa + y) = false) :
    let t := s.copyFetch e n
    t.eng = { s.eng with fetches := s.eng.fetches.map (fun g => if g = e then { e with copied := e.copied + n } else g) } ∧
      t.mem = Memory.write s.mem pa (Memory.read s.mem src n) ∧ t.spad = s.spad ∧ t.waves = s.waves ∧ t.threads = s.threads := by
  have hcost : Charged s ((if e.kind = 2 then s.chargeFab e.ctx n else s).useHbm pa n) := by
    refine Charged.trans ?_ (Charged.useHbm _ _ _)
    split
    · exact Charged.chargeFab _ _ _
    · exact Charged.refl s
  obtain ⟨q, hq, hc⟩ : ∃ q, Charged s q ∧ s.copyFetch e n = (q.writeMem pa (q.disown pa (Memory.read s.mem src n))).setFetch e
      { e with copied := e.copied + n } := by
    refine ⟨_, hcost, ?_⟩
    simp only [State.copyFetch, hsrc, hd]
    generalize (if e.kind = 2 then s.chargeFab e.ctx n else s).useHbm pa n = q at hcost ⊢
    have hcq : q.severed e.cluster (.mem pa) = false := by obtain ⟨_, _, _, _, rfl, -⟩ := hcost; exact hcut
    simp only [State.fetchPut, hcq, Bool.false_eq_true, if_false]
    rfl
  have hdis : q.disown pa (Memory.read s.mem src n) = Memory.read s.mem src n :=
    disown_of_open fun y hy => open_of_never ((barred_charged hq true _).trans (hopen y (by simpa [Memory.read] using hy)))
  rw [hdis] at hc
  obtain ⟨_, _, _, _, rfl, -⟩ := hq
  rw [hc]
  exact ⟨rfl, rfl, rfl, rfl, rfl⟩

/-! ### The end of an eviction (R298, R302) -/

/-- An evicting entry that nothing uses and no translation pins. -/
def MayEvict (s : Machine.State) (x a : Nat) : Prop :=
  ertState (Memory.words s.mem a 8) = 4 ∧ fld (wordAt (Memory.words s.mem a 8) 0) 31 0 = 0 ∧
    s.pinned x (ertRange (Memory.words s.mem a 8)).1 (ertRange (Memory.words s.mem a 8)).2 = false

section
variable {s : Machine.State} {x id a : Nat} (ha : s.ertAddr x id = some a)
include ha

theorem exec_evict_waits (h : ¬MayEvict s x a) : Machine.exec (.expertEvictComplete x id) s = .next s := by
  show execExpertEvictComplete x id s = _
  simp only [execExpertEvictComplete, ha, Bool.not_eq_true']
  exact congrArg Host.Outcome.next (if_neg h)

theorem exec_evict (h : MayEvict s x a) (hq : fld (wordAt (Memory.words s.mem a 8) 4) 63 32 = 0) :
    Machine.exec (.expertEvictComplete x id) s = .next ((s.dropTlb x (ertRange (Memory.words s.mem a 8)).1
      (ertRange (Memory.words s.mem a 8)).2).putErt a 0 (withFld (wordAt (Memory.words s.mem a 8) 0) 63 61 0)) := by
  show execExpertEvictComplete x id s = _
  simp only [execExpertEvictComplete, ha, Bool.not_eq_true', hq, if_true]
  exact congrArg Host.Outcome.next (if_pos h)

end

theorem dropTlb_drops {s : Machine.State} {x base len : Nat} {e : TlbEntry} (he : e ∈ (s.dropTlb x base len).path.tlb) :
    ¬(e.ctx = x ∧ base < e.vpn * 4096 + 4096 ∧ e.vpn * 4096 < base + len) := by
  have hp := (List.mem_filter.1 he).2
  simp only [Bool.or_eq_true, bne_iff_ne, decide_eq_true_eq] at hp
  rintro ⟨h1, h2, h3⟩
  rcases hp with (hp | hp) | hp
  · exact hp h1
  · omega
  · omega

/-- Settles O53: of an instruction of R215, what it does to its entry (`expertAct`) is followed by the report of Table 16-6 in its
destination; a fetch and an eviction take their steps by cases of the model. -/
theorem expertResidency : Obligations.ExpertResidency := by
  unfold Obligations.ExpertResidency
  refine ⟨?_, ?_, ?_⟩
  · intro i f s c k hready hinstr ag id x v
    obtain ⟨hi, -, kind, hf, hl⟩ := hready
    have hv : Outer s v := Outer.l1Sync s ag
    have hctx : v.ctxOf ag = x := ctxOf_outer hv ag
    have hreg := regOk_of_isQ hf (legal_expert hl hinstr)
    refine ⟨exec_expert_waits hi hinstr, exec_expert_none hi hinstr, ?_⟩
    intro a w hh hid hw w0 st uses absent
    obtain ⟨ha, hwords⟩ := expert_words hw
    have hw0 : w0 = Memory.w64 v.mem a := by rw [show w0 = wordAt w 0 from rfl, hwords]; exact wordAt_words v.mem a (by decide)
    have hact := exec_expert_acts hi hinstr hh hid hw
    rw [show wordAt w 0 = Memory.w64 v.mem a from hw0] at hact
    have hkeeps := expertAct_keeps (ag := ag) (id := id) (a := a) (t := v) hinstr
    have hfetch := expertAct_fetches (ag := ag) (a := a) (t := v) hinstr (by rw [hctx]; exact ha)
    have huses := expertAct_uses (ag := ag) (id := id) (a := a) (t := v) hinstr
    have habsent : absent ↔ Fetches i (Memory.w64 v.mem a) := by rw [← hw0]; exact Iff.rfl
    have hab : Abides v (expertAct i v ag id a (Memory.w64 v.mem a)).1 := by
      by_cases hab : absent
      · exact (hfetch (habsent.1 hab)).1
      · exact (hkeeps (fun h => hab (habsent.2 h))).1
    generalize expertAct i v ag id a (Memory.w64 v.mem a) = r at hact hkeeps hfetch huses hab
    obtain ⟨hsw, hst, hsi⟩ := settleEvicts_agents r.1
    have habs := (Abides.ofOuter hv).trans hab
    obtain ⟨hafter, hval, hq, hmem, hspad, hwaves, heng⟩ := put64_done (u := r.1.settleEvicts) (o := f.dst)
      (ertReport (Memory.w64 r.1.settleEvicts.mem a) r.2) (nSlots [f.sa]) hi hf hreg (hsw.trans habs.waves) (hst.trans habs.threads)
      (hsi.trans habs.issue)
    have hsettled (h : s.eng.evicts = []) : r.1.settleEvicts = r.1 := settleEvicts_none (habs.evicts.trans h)
    refine ⟨_, r.2, hact, hafter, ?_, hq, ?_, ?_, ?_, ?_⟩
    · rw [hval, hmem]
    · rw [huses, ← hw0]
      exact Iff.rfl
    · intro hev
      rw [hmem, hspad, hwaves, hsettled hev]
      refine ⟨habs.spad, habs.waves, fun y hy => ?_⟩
      by_cases hab : absent
      · obtain ⟨-, w, hword, -⟩ := hfetch (habsent.1 hab)
        exact hword.2 y hy
      · exact (hkeeps (fun h => hab (habsent.2 h))).2.2.2 y hy
    · intro hev hab
      obtain ⟨-, he, hword, -⟩ := hkeeps (fun h => hab (habsent.2 h))
      rw [heng, hmem, hsettled hev]
      refine ⟨he.trans hv.eng, hword.trans ?_⟩
      rw [← hw0]
      rcases hinstr with rfl | rfl | rfl | rfl | rfl <;> rfl
    · intro hev hab
      obtain ⟨-, w', hword, hone, hpin, e, hbegun, hr⟩ := hfetch (habsent.1 hab)
      obtain ⟨e1, e2, e3, e4, e5, e6, e7, e8, e9⟩ := hbegun
      have hfetches : v.fetchesOf x = s.fetchesOf x := by rw [State.fetchesOf, hv.eng, State.fetchesOf]
      have hback (b1 b2 b3 : Nat) : v.backingOk b1 b2 b3 = s.backingOk b1 b2 b3 := by obtain ⟨_, hb, -⟩ := hv; rw [hb]; rfl
      have hcell (i : Nat) (hi : i < 8) : wordAt (Memory.words v.mem a 8) i = wordAt w i := by
        rw [hwords, wordAt_words _ _ hi, wordAt_words _ _ (by omega)]
      have hrange : ertRange (Memory.words v.mem a 8) = ertRange w := by
        unfold ertRange
        rw [hcell 3 (by decide), hcell 2 (by decide)]
      rw [hmem, heng, hsettled hev, hword.1]
      rw [hctx, hfetches] at e4
      rw [hcell 1 (by decide)] at e5 e6
      refine ⟨hone, hpin, e, ?_, e1.trans hctx, e2, e3, e4, e5, e6, e7.trans hrange, e8, fun h => e9 ((hback _ _ _).trans h)⟩
      rw [hr, hv.eng]
  · intro s x id e a he ha w0 n stopped
    refine ⟨?_, ?_, exec_fetch_stays he ha, ?_, exec_fetchStart he, exec_fetchStart_waits he⟩
    · intro src pa hr hb hlt hstop hsrc hd hcut hopen
      obtain ⟨heng, hmem, hspad, hwaves, hthreads⟩ := copyFetch_copies hsrc hd hcut hopen
      have hlen : (Memory.read s.mem src n).length = n := by simp [Memory.read]
      refine ⟨_, exec_fetch_copies he ha hr hb hlt hstop, by rw [heng], fun y hy => ?_, fun y hy => ?_, hspad, hwaves, hthreads⟩
      · rw [hmem, Memory.get_write_inside _ _ _ _ (by rw [hlen]; exact hy)]
        simp [Memory.read, hy]
      · rw [hmem]
        exact Memory.get_write_outside _ _ _ _ (by rw [hlen]; exact hy)
    · intro hr hb hge hfar hq
      exact ⟨_, exec_fetch_completes he ha hr hb hge hfar hq, completed_entry s e a _ _⟩
    · intro code addr n cause hr hb
      have hword := WordAt.putErt (s := s) (t := s.dropFetch e) rfl a (withFld (withFld w0 63 61 0) 59 56 code)
      exact ⟨(s.dropFetch e).putErt a 0 (withFld (withFld w0 63 61 0) 59 56 code), exec_fetchFail he ha n cause hr hb, rfl, hword.1, hword.2,
        rfl, rfl, rfl⟩
  · intro s x id a ha w r may
    refine ⟨exec_evict_waits ha, fun hmay hq => ?_⟩
    have hword := WordAt.putErt (s := s) (t := s.dropTlb x r.1 r.2) rfl a (withFld (wordAt w 0) 63 61 0)
    exact ⟨_, exec_evict ha hmay hq, hword.1, fun e he => dropTlb_drops he, hword.2, rfl, rfl, rfl, rfl⟩

end Sys2Proof

/-! Waits and barriers: WAITC, WAITTL, BAR, SLEEP, the end of a barrier and of a sleep (R47, R161 to R163, R225). -/

namespace Sys2Proof

open Sys2Proof.Machine

/-! ### Caches that hold no line -/

/-- Nothing is written back where no L1 holds a line. -/
theorem l1Sync_empty {s : Machine.State} (ag : Agent) (h : s.path.l1 = []) : s.l1Sync ag = s := by
  unfold State.l1Sync State.l1SyncAt
  split
  · unfold State.l1Flush State.l1Drop
    have huncorr : s.uncorr.filter (fun _ => true) = s.uncorr := List.filter_true _
    have hpath : { s.path with l1 := [] } = s.path := by rw [← h]
    simp only [h, List.filter_nil, List.foldl_nil, List.any_nil, Bool.not_false, huncorr, hpath]
  · rfl

/-- What an ordered instruction writes back first. -/
theorem ordered_quiet {s : Machine.State} (ag : Agent) {o : Order} (h : s.quiet o) : (if o = .acquire then s.l1Sync ag else s) = s := by
  rcases h with h | ⟨h, -⟩
  · rw [l1Sync_empty ag h, ite_self]
  · exact if_neg h

/-- An instruction that changes no register and whose effect leaves the agents as they stand goes on. -/
theorem retire_done {s u : Machine.State} {ag : Agent} (n : Nat) (hi : s.issue = some ⟨ag, false⟩) (hp : ag.present s) (h : Outer s u) :
    After s (u.retire n .none) ag n ∧ (u.retire n .none).spad = s.spad := by
  have hpu : ag.present u := present_of_waves hp h.waves
  refine ⟨(h.samePlace ag).after (after_retire u ag n .none (h.issue.trans hi) hpu), ?_⟩
  exact (congrArg State.spad (Kept.retire ag u n .none [] [] false false (h.issue.trans hi)).rest :).trans h.spad

/-! ### WAITC and WAITTL (R161, R162) -/

section
variable {s : Machine.State} {ag : Agent} {f : MF} (hi : s.issue = some ⟨ag, false⟩)
include hi

theorem exec_waitc (h : s.waitcReady ag f = true) :
    Machine.exec (.waitc f) s = .next ((if f.ord = .acquire then s.l1Sync ag else s).retire 1 .none) := by
  show execWaitc f s = _
  simp only [execWaitc, issued, hi, h, if_true]

theorem exec_waitc_waits (h : s.waitcReady ag f = false) : Machine.exec (.waitc f) s = .next s.stall := by
  show execWaitc f s = _
  simp only [execWaitc, issued, hi, h, Bool.false_eq_true, if_false]

theorem exec_waittl_none (h : s.timeline ag (s.srcBits ag 32 0 f.sa) = none) :
    Machine.exec (.waittl f) s = .next (s.trap ag 0x0F none 0 0) := by
  show execWaittl f s = _
  simp only [execWaittl, issued, hi, State.ttlOf, h]

variable {n : Nat} (ht : s.timeline ag (s.srcBits ag 32 0 f.sa) = some n)
include ht

theorem exec_waittl (h : s.srcBits ag 64 0 f.sb ≤ n) :
    Machine.exec (.waittl f) s = .next ((s.l1Sync ag).retire (nSlots [f.sa, f.sb]) .none) := by
  show execWaittl f s = _
  simp only [execWaittl, issued, hi, State.ttlOf, ht]
  exact congrArg Host.Outcome.next (if_pos h)

theorem exec_waittl_waits (h : n < s.srcBits ag 64 0 f.sb) : Machine.exec (.waittl f) s = .next s.stall := by
  show execWaittl f s = _
  simp only [execWaittl, issued, hi, State.ttlOf, ht]
  exact congrArg Host.Outcome.next (if_neg (not_le.2 h))

end

/-! ### BAR and SLEEP (R163, R225) -/

/-- A wave that goes to a clause stands at its first slot with the wait that it goes with. -/
theorem jump_wave {s : Machine.State} {w : Nat} {v : Wave} (pc : BitVec 57) (wt : Wait) (hv : s.wave w = some v) :
    ∃ u, (s.jump (.wave w) pc wt).wave w = some u ∧ u.path.pc = pc ∧ u.path.slot = 1 ∧ u.path.wait = wt := by
  have hgo : (s.goto (.wave w) pc wt).unlatch.wave w =
      some (v.setPath { v.path with pc := pc, slot := 1, code := none, named := false, wait := wt }) := by
    simp only [State.goto, hv, State.unlatch_wave, State.setWave_wave_same]
  unfold State.jump State.stepped
  simp only [hgo]
  split
  · refine ⟨_, State.setWave_wave_same _ _ _, ?_⟩
    cases hb : v.alt <;> simp [Wave.halt, Wave.setPath, Wave.path, hb]
  · refine ⟨_, hgo, ?_⟩
    cases hb : v.alt <;> simp [Wave.setPath, Wave.path, hb]

theorem jump_thread (s : Machine.State) (c k : Nat) (pc : BitVec 57) (wt : Wait) :
    ((s.jump (.thread c k) pc wt).thread c k).wait = wt := by
  simp [State.jump, State.stepped, State.goto]

section
variable {s : Machine.State} {w : Nat} {v : Wave} {f : MF} (hi : s.issue = some ⟨.wave w, false⟩) (hv : s.wave w = some v)
include hi hv

theorem exec_bar_stacked (h : v.dstkdepth ≠ 0) : Machine.exec (.bar f) s = .next (s.trap (.wave w) 0x0C none 0 0) := by
  show execBar f s = _
  simp only [execBar, issued, hi, hv, if_pos h]

theorem exec_bar (h : v.dstkdepth = 0) (hd : s.drained (.wave w) = true) :
    Machine.exec (.bar f) s = .next (s.jump (.wave w) (s.nextPc (.wave w)) (.bar (f.off.toNat % 16))) := by
  show execBar f s = _
  simp only [execBar, issued, hi, hv, if_neg (not_not.2 h), hd, if_true]

theorem exec_bar_waits (h : v.dstkdepth = 0) (hd : s.drained (.wave w) = false) : Machine.exec (.bar f) s = .next s.stall := by
  show execBar f s = _
  simp only [execBar, issued, hi, hv, if_neg (not_not.2 h), hd, Bool.false_eq_true, if_false]

end

theorem exec_sleep {s : Machine.State} {ag : Agent} {f : SF} (hi : s.issue = some ⟨ag, false⟩) :
    Machine.exec (.sleep f) s = .next (s.jump ag (s.nextPc ag)
      (if s.srcBits ag 32 f.imm f.sa = 0 then .none else .sleep (s.clockOf ag + s.srcBits ag 32 f.imm f.sa))) := by
  show execSleep f s = _
  simp only [execSleep, issued, hi]

/-! ### The end of a barrier (R47) -/

/-- A wave of a workgroup that has not ended. -/
def barrierOf (g : Nat) (v : Wave) : Bool := v.wg == g && !v.ended

/-- A wave whose arrivals at a barrier are over. -/
def Machine.Wave.passed (v : Wave) (b : Nat) : Wave := { v with p0 := v.p0.pass b, p1 := v.p1.pass b }

/-- A wave passes its barrier, and the L1 of its seat is written back. -/
def Machine.State.passBar (b : Nat) (t : Machine.State) (e : Nat × Wave) : Machine.State := (t.setWave e.1 (e.2.passed b)).l1Sync (.wave e.1)

theorem exec_barrierComplete {s : Machine.State} {g b : Nat} (hp : (s.waves.map (·.1)).Pairwise (· < ·))
    (hsome : ∃ w v, s.wave w = some v ∧ barrierOf g v = true)
    (hall : ∀ w v, s.wave w = some v → barrierOf g v = true → v.arrived b = true ∧ v.bank = .active) :
    Machine.exec (.barrierComplete g b) s = .next ((s.waves.filter (fun e => barrierOf g e.2)).foldl (State.passBar b) s) := by
  have hmine (e : Nat × Wave) (he : e ∈ s.waves.filter (fun e => barrierOf g e.2)) : e.2.arrived b = true ∧ e.2.bank = .active := by
    obtain ⟨hmem, hb⟩ := List.mem_filter.1 he
    exact hall e.1 e.2 (find_of_mem hp hmem) hb
  have hne : (s.waves.filter (fun e => barrierOf g e.2)).isEmpty = false := by
    obtain ⟨w, v, hv, hb⟩ := hsome
    rw [List.isEmpty_eq_false_iff]
    exact List.ne_nil_of_mem (List.mem_filter.2 ⟨mem_of_find hv, hb⟩)
  show execBarrierComplete g b s = _
  refine congrArg Host.Outcome.next (if_pos ?_)
  refine Bool.and_eq_true_iff.2 ⟨Bool.and_eq_true_iff.2 ⟨?_, List.all_eq_true.2 fun e he => (hmine e he).1⟩,
    List.all_eq_true.2 fun e he => beq_iff_eq.2 (hmine e he).2⟩
  exact congrArg not hne

theorem passBar_outer (t : Machine.State) (e : Nat × Wave) (b : Nat) : Outer (t.setWave e.1 (e.2.passed b)) (t.passBar b e) :=
  Outer.l1Sync _ _

theorem passBar_wave (t : Machine.State) (e : Nat × Wave) (b w : Nat) :
    (t.passBar b e).wave w = if w = e.1 then some (e.2.passed b) else t.wave w := by
  unfold State.passBar
  rw [(Outer.l1Sync _ _).wave]
  split
  · next h => rw [h, State.setWave_wave_same]
  · next h => exact State.setWave_wave_other t e.1 w _ (Ne.symm h)

theorem rest_foldl_passBar (l : List (Nat × Wave)) (b : Nat) {s : Machine.State} (h : s.path.l1 = []) :
    (l.foldl (State.passBar b) s).rest = s.rest := by
  induction l generalizing s with
  | nil => rfl
  | cons e l ih =>
    have hstep : s.passBar b e = s.setWave e.1 (e.2.passed b) := l1Sync_empty _ h
    rw [List.foldl_cons, hstep, ih (s := s.setWave e.1 (e.2.passed b)) h]
    rfl

/-! ### The end of a sleep (R225) -/

theorem exec_sleepExpire_wave {s : Machine.State} {w n : Nat} {v : Wave} {alt : Bool} (hv : s.wave w = some v)
    (h : (v.slotAt alt).wait = .sleep n) : Machine.exec (.sleepExpire (.wave w) alt) s =
      .next ((s.setWave w (v.setSlotAt alt { v.slotAt alt with wait := .none })).setCore v.core
        { s.core v.core with cyc := BitVec.ofNat 64 (max (s.core v.core).cyc.toNat n) }) := by
  show execSleepExpire (.wave w) alt s = _
  simp only [execSleepExpire, hv, h]

/-- A state in which the clock of a cluster has another value. -/
def Machine.State.setClk (s : Machine.State) (c : Nat) (x : W64) : Machine.State := { s with sch := { s.sch with clk := Map.put s.sch.clk c x } }

theorem exec_sleepExpire_thread {s : Machine.State} {c k n : Nat} (h : (s.thread c k).wait = .sleep n) :
    ∃ t, Machine.exec (.sleepExpire (.thread c k) false) s = .next t ∧ t.thread c k = { s.thread c k with wait := .none } ∧
      SameBytes s t ∧ Map.at t.sch.clk c 0 = BitVec.ofNat 64 (max (Map.at s.sch.clk c 0).toNat n) := by
  have hexec : Machine.exec (.sleepExpire (.thread c k) false) s =
      .next ((s.setThread c k { s.thread c k with wait := .none }).setClk c (BitVec.ofNat 64 (max (Map.at s.sch.clk c 0).toNat n))) := by
    show execSleepExpire (.thread c k) false s = _
    unfold execSleepExpire
    dsimp only
    rw [h]
    rfl
  exact ⟨_, hexec, State.setThread_thread_same s c k _, fun _ => ⟨rfl, rfl⟩, Map.at_put_same s.sch.clk c _ 0⟩

/-- Settles O43: a wait whose condition holds goes on, BAR and SLEEP go to the next clause with what they wait for, and the end of a
barrier passes each wave of the workgroup. -/
theorem waitsAndBarriers : Obligations.WaitsAndBarriers := by
  unfold Obligations.WaitsAndBarriers
  refine ⟨?waitc, ?waittl, ?bar, ?sleep, ?complete, ?wave, ?thread⟩
  case waitc =>
    rintro f s ag ⟨hi, hp, -⟩
    refine ⟨fun hr => ?_, exec_waitc_waits hi⟩
    have ho : Outer s (if f.ord = .acquire then s.l1Sync ag else s) := Outer.ite (Outer.l1Sync s ag) (Outer.refl s)
    obtain ⟨hafter, hspad⟩ := retire_done 1 hi hp ho
    refine ⟨_, exec_waitc hi hr, hafter, hspad, fun hq => ?_⟩
    rw [ordered_quiet ag hq]
    exact Kept.retire ag s 1 .none [] [] false false hi
  case waittl =>
    rintro f s ag ⟨hi, hp, -⟩ id
    refine ⟨fun n ht hle => ?_, fun n ht hlt => exec_waittl_waits hi ht hlt, exec_waittl_none hi⟩
    obtain ⟨hafter, hspad⟩ := retire_done (nSlots [f.sa, f.sb]) hi hp (Outer.l1Sync s ag)
    refine ⟨_, exec_waittl hi ht hle, hafter, hspad, fun hq => ?_⟩
    rw [l1Sync_empty ag hq]
    exact Kept.retire ag s _ .none [] [] false false hi
  case bar =>
    rintro f s w v ⟨hi, -, -⟩ hv
    refine ⟨exec_bar_stacked hi hv, fun h hd => ?_, exec_bar_waits hi hv⟩
    obtain ⟨u, hu, hpc, hslot, hwait⟩ := jump_wave (s.nextPc (.wave w)) (.bar (f.off.toNat % 16)) hv
    refine ⟨_, u, exec_bar hi hv h hd, hu, hwait, hpc.trans ?_, hslot, Kept.jump _ s _ _ _ _ _ _⟩
    simp only [State.nextPc, State.pcOf, hv]
  case sleep =>
    rintro f s ag ⟨hi, hp, -⟩ n wt
    refine ⟨_, exec_sleep hi, Kept.jump _ s _ _ _ _ _ _, ?_, fun k v hag ht => ?_, fun c k hag => ?_⟩
    · rw [pcOf_jump s ag _ _ hp]
      rfl
    · subst hag
      obtain ⟨v0, hv0⟩ := Option.isSome_iff_exists.1 hp
      obtain ⟨u, hu, -, -, hwait⟩ := jump_wave (s.nextPc (.wave k)) wt hv0
      have huv : u = v := Option.some.inj (hu.symm.trans ht)
      rw [← huv]
      exact hwait
    · subst hag
      exact jump_thread s c k _ wt
  case complete =>
    intro s g b hp mine hsome hall
    refine ⟨_, exec_barrierComplete hp hsome hall, foldl_keeps State.threads _ (fun t e => (passBar_outer t e b).threads) _ _,
      foldl_keeps State.spad _ (fun t e => (passBar_outer t e b).spad) _ _, fun h => ?_, fun w v hv => ?_⟩
    · have hrest := rest_foldl_passBar (s.waves.filter (fun e => barrierOf g e.2)) b h
      exact ⟨SameBytes.ofRest hrest, hrest⟩
    · refine (wave_foldl_setWave (State.passBar b) (fun v => v.passed b) (fun t e j => passBar_wave t e b j) _
        (keys_filter_pairwise _ hp) s w).trans ?_
      rw [find_filter hp _ hv]
      by_cases hm : mine v = true
      · rw [if_pos hm, if_pos (show barrierOf g (w, v).2 = true from hm)]
        rfl
      · rw [if_neg hm, if_neg (show ¬barrierOf g (w, v).2 = true from hm)]
        exact hv
  case wave =>
    intro s w n v alt hv h
    refine ⟨_, _, exec_sleepExpire_wave hv h, ?_, rfl, fun _ => ⟨rfl, rfl⟩, ?_⟩
    · exact (State.setCore_wave _ _ _ _).trans (State.setWave_wave_same _ _ _)
    · rw [State.setCore_core_same, BitVec.toNat_ofNat]
  case thread =>
    intro s c k n h
    obtain ⟨t, ht, hthread, hbytes, hclk⟩ := exec_sleepExpire_thread h
    exact ⟨t, ht, hthread, hbytes, by rw [hclk, BitVec.toNat_ofNat]⟩

end Sys2Proof

/-! Barrier objects and circular buffers: ARRV, BOWAIT, CBACQ and CBREL (R48, R164 to R166, R240, R241). -/

namespace Sys2Proof

open Sys2Proof.Machine

/-! ### Objects in scratchpads -/

theorem leNat_append (l r : List Byte) : leNat (l ++ r) = leNat l + 256 ^ l.length * leNat r := by
  induction l with
  | nil => simp [leNat]
  | cons b l ih =>
    rw [List.cons_append, leNat, leNat, ih, List.length_cons, Nat.pow_succ]
    ring

theorem Memory.num_add (m : Mem) (a n k : Nat) : Memory.num m a (n + k) = Memory.num m a n + 256 ^ n * Memory.num m (a + n) k := by
  have hread : Memory.read m a (n + k) = Memory.read m a n ++ Memory.read m (a + n) k := by
    simp only [Memory.read, List.range_add, List.map_append, List.map_map, Function.comp_def, Nat.add_assoc]
  rw [Memory.num, hread, leNat_append, Memory.num, Memory.num]
  simp [Memory.read]

/-- A launch-view address is one of a scratchpad. -/
theorem view_spad {s : Machine.State} {g : Option Nat} {l c addr n : Nat} {h : Home} (hv : s.view g l c addr n = some h) :
    ∃ o, h = .spad c o := by
  unfold State.view at hv
  dsimp only at hv
  split at hv
  · split at hv
    · split at hv
      · exact ⟨_, (Option.some.inj hv).symm⟩
      · exact nomatch hv
    · exact nomatch hv
  · split at hv
    · split at hv
      · split at hv
        · exact ⟨_, (Option.some.inj hv).symm⟩
        · exact nomatch hv
      · exact nomatch hv
    · split at hv
      · exact nomatch hv
      · split at hv
        · split at hv
          · exact ⟨_, (Option.some.inj hv).symm⟩
          · exact nomatch hv
        · exact nomatch hv

theorem spadHome_spad (s : Machine.State) (ag : Agent) (a n : Nat) : ∃ c o, s.spadHome ag a n = .spad c o := by
  unfold State.spadHome
  cases hv : s.viewOf ag a n with
  | none => exact ⟨0, 0, rfl⟩
  | some h =>
    obtain ⟨o, rfl⟩ := view_spad hv
    exact ⟨_, o, rfl⟩

theorem spadHome_of_view {s : Machine.State} {ag : Agent} {a n : Nat} {h : Home} (hv : s.viewOf ag a n = some h) : s.spadHome ag a n = h := by
  rw [State.spadHome, hv, Option.getD_some]

theorem spadFault_none {s : Machine.State} {ag : Agent} {a n : Nat} {h : Home} (ha : a % n = 0) (hv : s.viewOf ag a n = some h) :
    s.spadFault ag a n n = none := by
  rw [State.spadFault, if_neg (not_not.2 ha), hv, Option.isNone_some, if_neg Bool.false_ne_true]

/-- A state with other scratchpads. -/
def Machine.State.withPad (s : Machine.State) (m : Mem) (bad : List Nat) : Machine.State := { s with spad := m, spadBad := bad }

/-- Bytes that are written over leave no uncorrectable error behind where there was none. -/
theorem badBytes_putAt {s : Machine.State} {c a n : Nat} (bs : List Byte) (h : s.badBytes (.spad c a) n = false) :
    (s.putAt (.spad c a) bs).badBytes (.spad c a) n = false := by
  rw [← Bool.not_eq_true] at h ⊢
  refine fun hb => h ?_
  simp only [State.badBytes, Bool.and_eq_true, List.any_eq_true] at hb ⊢
  obtain ⟨h0, w, hw, h1⟩ := hb
  exact ⟨h0, w, (List.mem_filter.1 hw).1, h1⟩

/-! ### Barrier objects (Table 03-5) -/

/-- The fields of an object as it is read. -/
structure Machine.BarObj.Valid (o : BarObj) : Prop where
  expected : 0 < o.expected ∧ o.expected < 2 ^ 16
  remaining : o.remaining < 2 ^ 16
  phase : o.phase < 2 ^ 64

theorem barObj_valid {s : Machine.State} {h : Home} {o : BarObj} (ho : s.barObj h = some o) : o.Valid ∧ s.badBytes h 16 = false := by
  unfold State.barObj at ho
  cases hb : s.badBytes h 16 with
  | true =>
    rw [hb] at ho
    exact absurd ho (by simp)
  | false =>
    rw [hb] at ho
    simp only [Bool.false_eq_true, if_false, Option.ite_none_left_eq_some, Option.some.injEq, not_or, not_not] at ho
    obtain ⟨⟨-, -, h3⟩, rfl⟩ := ho
    exact ⟨⟨⟨Nat.pos_of_ne_zero h3, Nat.mod_lt _ (by decide)⟩, Nat.mod_lt _ (by decide), Nat.mod_lt _ (by decide)⟩, rfl⟩

/-- An object reads back as it was written. -/
theorem barObj_put {s : Machine.State} {c a : Nat} {o : BarObj} (hv : o.Valid) (hb : s.badBytes (.spad c a) 16 = false) :
    (s.putBarObj (.spad c a) o).barObj (.spad c a) = some o := by
  obtain ⟨⟨he0, he⟩, hr, hp⟩ := hv
  have hbad : (s.putBarObj (.spad c a) o).badBytes (.spad c a) 16 = false := badBytes_putAt _ hb
  have hnum : leNat ((s.putBarObj (.spad c a) o).bytesAt (.spad c a) 16) =
      o.expected * 2 ^ 96 + o.remaining * 2 ^ 64 + o.phase := by
    simp only [State.putBarObj, State.putAt, State.bytesAt]
    rw [← Memory.num, Memory.num_write_same, Nat.mod_eq_of_lt hr, Nat.mod_eq_of_lt]
    norm_num
    omega
  unfold State.barObj
  rw [hbad, hnum]
  simp only [Bool.false_eq_true, if_false]
  rw [if_neg (by omega)]
  refine congrArg some ?_
  obtain ⟨x, y, z⟩ := o
  simp only [BarObj.mk.injEq] at he0 he hr hp ⊢
  omega

/-- What k arrivals make of an object (R48). -/
theorem arrive_counts {o : BarObj} {k : Nat} (hv : o.Valid) (hk : 0 < k) :
    (o.arrive k).Valid ∧ (o.arrive k).expected = o.expected ∧
      (k < o.remaining → (o.arrive k).remaining = o.remaining - k ∧ (o.arrive k).phase = o.phase) ∧
      (o.remaining ≤ k → ∃ n, 0 < n ∧ o.remaining + (n - 1) * o.expected ≤ k ∧ k < o.remaining + n * o.expected ∧
        (o.arrive k).remaining + k = o.remaining + n * o.expected ∧ (o.arrive k).phase = (o.phase + n) % 2 ^ 64) := by
  obtain ⟨⟨he0, he⟩, hr, hp⟩ := hv
  by_cases hlt : k < o.remaining
  · have ha : o.arrive k = { o with remaining := o.remaining - k } := if_pos hlt
    rw [ha]
    exact ⟨⟨⟨he0, he⟩, lt_of_le_of_lt (Nat.sub_le _ _) hr, hp⟩, rfl, fun _ => ⟨rfl, rfl⟩, fun h => absurd hlt (not_lt.2 h)⟩
  · have hn : o.remaining + (k - o.remaining) / o.expected * o.expected ≤ k := by
      have := Nat.div_mul_le_self (k - o.remaining) o.expected
      omega
    have hn1 : k < o.remaining + ((k - o.remaining) / o.expected + 1) * o.expected := by
      have := Nat.lt_div_mul_add (a := k - o.remaining) he0
      rw [Nat.add_mul]
      omega
    have ha : o.arrive k = { o with
        remaining := o.remaining + ((k - o.remaining) / o.expected + 1) * o.expected - k
        phase := (o.phase + ((k - o.remaining) / o.expected + 1)) % 2 ^ 64 } := if_neg hlt
    rw [ha]
    refine ⟨⟨⟨he0, he⟩, ?_, Nat.mod_lt _ (by decide)⟩, rfl, fun h => absurd h hlt, fun _ =>
      ⟨_, Nat.succ_pos _, by simpa using hn, hn1, Nat.sub_add_cancel hn1.le, rfl⟩⟩
    dsimp only
    rw [Nat.add_mul] at hn1 ⊢
    omega

theorem arriveAt_eq {s : Machine.State} {h : Home} {o : BarObj} (k : Nat) (ho : s.barObj h = some o) : s.arriveAt h k = s.putBarObj h (o.arrive k) := by
  rw [State.arriveAt, ho]

/-- An arrival changes scratchpads only, and depends on nothing else. -/
theorem arriveAt_pad (s : Machine.State) (c a k : Nat) : ∃ m b, ∀ t : Machine.State, t.spad = s.spad → t.spadBad = s.spadBad →
    t.arriveAt (.spad c a) k = t.withPad m b := by
  have hobj (t : Machine.State) (h1 : t.spad = s.spad) (h2 : t.spadBad = s.spadBad) : t.barObj (.spad c a) = s.barObj (.spad c a) := by
    unfold State.barObj
    have hbad : t.badBytes (.spad c a) 16 = s.badBytes (.spad c a) 16 := by simp only [State.badBytes, h2]
    have hbytes : t.bytesAt (.spad c a) 16 = s.bytesAt (.spad c a) 16 := by simp only [State.bytesAt, h1]
    rw [hbad, hbytes]
  cases ho : s.barObj (.spad c a) with
  | none =>
    refine ⟨s.spad, s.spadBad, fun t h1 h2 => ?_⟩
    rw [State.arriveAt, hobj t h1 h2, ho, ← h1, ← h2]
    rfl
  | some o =>
    refine ⟨(s.putBarObj (.spad c a) (o.arrive k)).spad, (s.putBarObj (.spad c a) (o.arrive k)).spadBad, fun t h1 h2 => ?_⟩
    rw [State.arriveAt, hobj t h1 h2, ho]
    simp only [State.putBarObj, State.putAt, State.withPad, h1, h2]

/-- Arrivals lane by lane. -/
theorem arrivals_pad (h : Nat → Home) (hh : ∀ l, ∃ c o, h l = .spad c o) (k : Nat) (ls : List Nat) (s : Machine.State) :
    ∃ m b, ∀ t : Machine.State, t.spad = s.spad → t.spadBad = s.spadBad → ls.foldl (fun u l => u.arriveAt (h l) k) t = t.withPad m b := by
  induction ls generalizing s with
  | nil => exact ⟨s.spad, s.spadBad, fun t h1 h2 => by rw [← h1, ← h2]; rfl⟩
  | cons l ls ih =>
    obtain ⟨c, o, hl⟩ := hh l
    obtain ⟨m, b, hstep⟩ := arriveAt_pad s c o k
    obtain ⟨m', b', hrest⟩ := ih (s.withPad m b)
    refine ⟨m', b', fun t h1 h2 => ?_⟩
    rw [List.foldl_cons, hl, hstep t h1 h2, hrest (t.withPad m b) rfl rfl]
    rfl

/-! ### Descriptors of circular buffers (Table 18-4) -/

/-- The fields of a descriptor as it is read. -/
structure Machine.CirBuf.Valid (c : CirBuf) : Prop where
  slots : 0 < c.slots ∧ c.slots ≤ 4096
  ssize : c.ssize ≠ 0 ∧ c.ssize % 16 = 0 ∧ c.ssize < 2 ^ 32
  counts : c.free + c.filled ≤ c.slots
  pidx : c.pidx < c.slots
  cidx : c.cidx < c.slots

/-- The descriptor that 32 bytes read as a number hold (R241). -/
def cirOf (b : Nat) : Option CirBuf :=
  let g (lo n : Nat) : Nat := b / 2 ^ lo % 2 ^ n
  let c : CirBuf := ⟨g 48 16, g 32 16, g 16 16, g 112 16, g 96 16, g 64 32, g 128 32⟩
  if g 0 16 ≠ 0 ∨ g 160 32 ≠ 0 ∨ g 192 64 ≠ 0 ∨ c.slots = 0 ∨ 4096 < c.slots ∨ c.ssize = 0 ∨ c.ssize % 16 ≠ 0
      ∨ c.slots < c.free + c.filled ∨ c.slots ≤ c.pidx ∨ c.slots ≤ c.cidx then none
  else some c

theorem cirBuf_eq (s : Machine.State) (h : Home) : s.cirBuf h = cirOf (if s.badBytes h 32 then 0 else leNat (s.bytesAt h 32)) := rfl

/-- The low half of a descriptor as a number. -/
def cirWord (d : CirBuf) : Nat :=
  d.slots * 2 ^ 48 + d.free * 2 ^ 32 + d.filled * 2 ^ 16 + d.pidx * 2 ^ 112 + d.cidx * 2 ^ 96 + d.ssize * 2 ^ 64

theorem cirWord_lt {d : CirBuf} (hv : d.Valid) : cirWord d < 2 ^ 128 := by
  obtain ⟨⟨hs0, hs⟩, ⟨hz0, hz16, hz⟩, hcnt, hp, hc⟩ := hv
  unfold cirWord
  norm_num at hz ⊢
  omega

theorem cirOf_some {lo hi : Nat} {d : CirBuf} (hlo : lo < 2 ^ 128) (hhi : hi < 2 ^ 128) (h : cirOf (lo + 2 ^ 128 * hi) = some d) :
    d.Valid ∧ d.base = hi ∧ d.base < 2 ^ 32 := by
  have hshift (n m : Nat) : (lo + 2 ^ 128 * hi) / 2 ^ (128 + n) % 2 ^ m = hi / 2 ^ n % 2 ^ m := by
    rw [Nat.pow_add, ← Nat.div_div_eq_div_mul, Nat.add_mul_div_left _ _ (by decide), Nat.div_eq_of_lt hlo, Nat.zero_add]
  have h128 := hshift 0 32
  have h160 := hshift 32 32
  have h192 := hshift 64 64
  unfold cirOf at h
  simp only [Option.ite_none_left_eq_some, Option.some.injEq, not_or, not_not] at h
  rw [h128, h160, h192] at h
  obtain ⟨⟨-, h1, h2, hslots, hmax, hss, hss16, hcnt, hp, hc⟩, rfl⟩ := h
  refine ⟨⟨⟨Nat.pos_of_ne_zero hslots, not_lt.1 hmax⟩, ⟨hss, hss16, Nat.mod_lt _ (by decide)⟩, not_lt.1 hcnt, not_le.1 hp, not_le.1 hc⟩,
    ?_, Nat.mod_lt _ (by decide)⟩
  show hi / 2 ^ 0 % 2 ^ 32 = hi
  clear h128 h160 h192 hshift hlo hslots hmax hss hss16 hcnt hp hc
  omega

/-- One field of a number made of fields. -/
theorem digit {b lo k hi p n : Nat} (hb : b = lo + 2 ^ p * (k + 2 ^ n * hi)) (hlo : lo < 2 ^ p) (hk : k < 2 ^ n) : b / 2 ^ p % 2 ^ n = k := by
  rw [hb, Nat.add_mul_div_left _ _ (by positivity), Nat.div_eq_of_lt hlo, Nat.zero_add, Nat.add_mul_mod_self_left, Nat.mod_eq_of_lt hk]

theorem cirOf_word {d : CirBuf} (hv : d.Valid) (hb : d.base < 2 ^ 32) : cirOf (cirWord d + 2 ^ 128 * d.base) = some d := by
  obtain ⟨⟨hs0, hs⟩, ⟨hz0, hz16, hz⟩, hcnt, hp, hc⟩ := hv
  obtain ⟨slots, free, filled, pidx, cidx, ssize, base⟩ := d
  simp only at hs0 hs hz0 hz16 hz hcnt hp hc hb
  obtain ⟨hs2, hf2, hg2, hp2, hc2⟩ : slots < 2 ^ 16 ∧ free < 2 ^ 16 ∧ filled < 2 ^ 16 ∧ pidx < 2 ^ 16 ∧ cidx < 2 ^ 16 := by omega
  unfold cirOf cirWord
  have e0 : (slots * 2 ^ 48 + free * 2 ^ 32 + filled * 2 ^ 16 + pidx * 2 ^ 112 + cidx * 2 ^ 96 + ssize * 2 ^ 64 + 2 ^ 128 * base) / 2 ^ 0 % 2 ^ 16 = 0 :=
    digit (lo := 0) (hi := filled * 2 ^ 0 + free * 2 ^ 16 + slots * 2 ^ 32 + ssize * 2 ^ 48 + cidx * 2 ^ 80 + pidx * 2 ^ 96 + base * 2 ^ 112)
      (by ring) (by clear * - hs2 hf2 hg2 hp2 hc2 hz hb; omega) (by decide)
  have e16 : (slots * 2 ^ 48 + free * 2 ^ 32 + filled * 2 ^ 16 + pidx * 2 ^ 112 + cidx * 2 ^ 96 + ssize * 2 ^ 64 + 2 ^ 128 * base) / 2 ^ 16 % 2 ^ 16 = filled :=
    digit (lo := 0) (hi := free * 2 ^ 0 + slots * 2 ^ 16 + ssize * 2 ^ 32 + cidx * 2 ^ 64 + pidx * 2 ^ 80 + base * 2 ^ 96)
      (by ring) (by clear * - hs2 hf2 hg2 hp2 hc2 hz hb; omega) hg2
  have e32 : (slots * 2 ^ 48 + free * 2 ^ 32 + filled * 2 ^ 16 + pidx * 2 ^ 112 + cidx * 2 ^ 96 + ssize * 2 ^ 64 + 2 ^ 128 * base) / 2 ^ 32 % 2 ^ 16 = free :=
    digit (lo := filled * 2 ^ 16) (hi := slots * 2 ^ 0 + ssize * 2 ^ 16 + cidx * 2 ^ 48 + pidx * 2 ^ 64 + base * 2 ^ 80)
      (by ring) (by clear * - hs2 hf2 hg2 hp2 hc2 hz hb; omega) hf2
  have e48 : (slots * 2 ^ 48 + free * 2 ^ 32 + filled * 2 ^ 16 + pidx * 2 ^ 112 + cidx * 2 ^ 96 + ssize * 2 ^ 64 + 2 ^ 128 * base) / 2 ^ 48 % 2 ^ 16 = slots :=
    digit (lo := filled * 2 ^ 16 + free * 2 ^ 32) (hi := ssize * 2 ^ 0 + cidx * 2 ^ 32 + pidx * 2 ^ 48 + base * 2 ^ 64)
      (by ring) (by clear * - hs2 hf2 hg2 hp2 hc2 hz hb; omega) hs2
  have e64 : (slots * 2 ^ 48 + free * 2 ^ 32 + filled * 2 ^ 16 + pidx * 2 ^ 112 + cidx * 2 ^ 96 + ssize * 2 ^ 64 + 2 ^ 128 * base) / 2 ^ 64 % 2 ^ 32 = ssize :=
    digit (lo := filled * 2 ^ 16 + free * 2 ^ 32 + slots * 2 ^ 48) (hi := cidx * 2 ^ 0 + pidx * 2 ^ 16 + base * 2 ^ 32)
      (by ring) (by clear * - hs2 hf2 hg2 hp2 hc2 hz hb; omega) hz
  have e96 : (slots * 2 ^ 48 + free * 2 ^ 32 + filled * 2 ^ 16 + pidx * 2 ^ 112 + cidx * 2 ^ 96 + ssize * 2 ^ 64 + 2 ^ 128 * base) / 2 ^ 96 % 2 ^ 16 = cidx :=
    digit (lo := filled * 2 ^ 16 + free * 2 ^ 32 + slots * 2 ^ 48 + ssize * 2 ^ 64) (hi := pidx * 2 ^ 0 + base * 2 ^ 16)
      (by ring) (by clear * - hs2 hf2 hg2 hp2 hc2 hz hb; omega) hc2
  have e112 : (slots * 2 ^ 48 + free * 2 ^ 32 + filled * 2 ^ 16 + pidx * 2 ^ 112 + cidx * 2 ^ 96 + ssize * 2 ^ 64 + 2 ^ 128 * base) / 2 ^ 112 % 2 ^ 16 = pidx :=
    digit (lo := filled * 2 ^ 16 + free * 2 ^ 32 + slots * 2 ^ 48 + ssize * 2 ^ 64 + cidx * 2 ^ 96) (hi := base * 2 ^ 0)
      (by ring) (by clear * - hs2 hf2 hg2 hp2 hc2 hz hb; omega) hp2
  have e128 : (slots * 2 ^ 48 + free * 2 ^ 32 + filled * 2 ^ 16 + pidx * 2 ^ 112 + cidx * 2 ^ 96 + ssize * 2 ^ 64 + 2 ^ 128 * base) / 2 ^ 128 % 2 ^ 32 = base :=
    digit (lo := filled * 2 ^ 16 + free * 2 ^ 32 + slots * 2 ^ 48 + ssize * 2 ^ 64 + cidx * 2 ^ 96 + pidx * 2 ^ 112) (hi := 0)
      (by ring) (by clear * - hs2 hf2 hg2 hp2 hc2 hz hb; omega) hb
  have e160 : (slots * 2 ^ 48 + free * 2 ^ 32 + filled * 2 ^ 16 + pidx * 2 ^ 112 + cidx * 2 ^ 96 + ssize * 2 ^ 64 + 2 ^ 128 * base) / 2 ^ 160 % 2 ^ 32 = 0 :=
    digit (lo := filled * 2 ^ 16 + free * 2 ^ 32 + slots * 2 ^ 48 + ssize * 2 ^ 64 + cidx * 2 ^ 96 + pidx * 2 ^ 112 + base * 2 ^ 128) (hi := 0)
      (by ring) (by clear * - hs2 hf2 hg2 hp2 hc2 hz hb; omega) (by decide)
  have e192 : (slots * 2 ^ 48 + free * 2 ^ 32 + filled * 2 ^ 16 + pidx * 2 ^ 112 + cidx * 2 ^ 96 + ssize * 2 ^ 64 + 2 ^ 128 * base) / 2 ^ 192 % 2 ^ 64 = 0 :=
    digit (lo := filled * 2 ^ 16 + free * 2 ^ 32 + slots * 2 ^ 48 + ssize * 2 ^ 64 + cidx * 2 ^ 96 + pidx * 2 ^ 112 + base * 2 ^ 128) (hi := 0)
      (by ring) (by clear * - hs2 hf2 hg2 hp2 hc2 hz hb; omega) (by decide)
  generalize slots * 2 ^ 48 + free * 2 ^ 32 + filled * 2 ^ 16 + pidx * 2 ^ 112 + cidx * 2 ^ 96 + ssize * 2 ^ 64 + 2 ^ 128 * base = b at *
  simp only [e0, e16, e32, e48, e64, e96, e112, e128, e160, e192]
  clear e0 e16 e32 e48 e64 e96 e112 e128 e160 e192
  exact if_neg (by omega)

theorem num_pad_lt (s : Machine.State) (a : Nat) : Memory.num s.spad a 16 < 2 ^ 128 := by
  refine lt_of_lt_of_eq (leNat_lt _) ?_
  simp [Memory.read]

theorem cirBuf_clean {s : Machine.State} {c a : Nat} (hb : s.badBytes (.spad c a) 32 = false) : s.cirBuf (.spad c a) =
    cirOf (Memory.num s.spad (spadAt c a) 16 + 2 ^ 128 * Memory.num s.spad (spadAt c a + 16) 16) := by
  rw [cirBuf_eq, hb, if_neg Bool.false_ne_true]
  exact congrArg cirOf (Memory.num_add s.spad (spadAt c a) 16 16)

/-- A descriptor that is read meets no error, and its other half holds its base. -/
theorem cirBuf_valid {s : Machine.State} {c a : Nat} {d : CirBuf} (hd : s.cirBuf (.spad c a) = some d) :
    d.Valid ∧ s.badBytes (.spad c a) 32 = false ∧ d.base = Memory.num s.spad (spadAt c a + 16) 16 ∧ d.base < 2 ^ 32 := by
  cases hb : s.badBytes (.spad c a) 32 with
  | true =>
    rw [cirBuf_eq, hb, if_pos rfl] at hd
    exact nomatch hd
  | false =>
    rw [cirBuf_clean hb] at hd
    obtain ⟨hv, hbase, hlt⟩ := cirOf_some (num_pad_lt _ _) (num_pad_lt _ _) hd
    exact ⟨hv, rfl, hbase, hlt⟩

/-- A descriptor reads back as it was written over one with its base. -/
theorem cirBuf_put {s : Machine.State} {c a : Nat} {x d : CirBuf} (hx : s.cirBuf (.spad c a) = some x) (hbase : d.base = x.base) (hv : d.Valid) :
    (s.putCirBuf (.spad c a) d).cirBuf (.spad c a) = some d := by
  obtain ⟨-, hb, hxb, hlt⟩ := cirBuf_valid hx
  have hmem : (s.putCirBuf (.spad c a) d).spad = Memory.write s.spad (spadAt c a) (leBytes 16 (cirWord d)) := rfl
  have hlow : Memory.num (s.putCirBuf (.spad c a) d).spad (spadAt c a) 16 = cirWord d := by
    rw [hmem, Memory.num_write_same]
    exact Nat.mod_eq_of_lt (lt_of_lt_of_eq (cirWord_lt hv) (by norm_num))
  have hhigh : Memory.num (s.putCirBuf (.spad c a) d).spad (spadAt c a + 16) 16 = d.base := by
    rw [hmem, Memory.num_write_outside _ (.inr (by rw [length_leBytes])), hbase, hxb]
  have hbad : (s.putCirBuf (.spad c a) d).badBytes (.spad c a) 32 = false := badBytes_putAt _ hb
  rw [cirBuf_clean hbad, hlow, hhigh]
  exact cirOf_word hv (hbase ▸ hlt)

/-- A descriptor written back changes scratchpads only, and depends on nothing else. -/
theorem putCirBuf_pad (s : Machine.State) (c a : Nat) (d : CirBuf) : ∃ m b, ∀ t : Machine.State, t.spad = s.spad → t.spadBad = s.spadBad →
    t.putCirBuf (.spad c a) d = t.withPad m b := by
  refine ⟨(s.putCirBuf (.spad c a) d).spad, (s.putCirBuf (.spad c a) d).spadBad, fun t h1 h2 => ?_⟩
  simp only [State.putCirBuf, State.putAt, State.withPad, h1, h2]

/-- The descriptor after an acquire by a producer or a consumer. -/
def Machine.CirBuf.taken (c : CirBuf) (prod : Bool) : CirBuf :=
  if prod then { c with free := c.free - 1, pidx := (c.pidx + 1) % c.slots } else { c with filled := c.filled - 1, cidx := (c.cidx + 1) % c.slots }

/-- The descriptor after a release by a producer or a consumer. -/
def Machine.CirBuf.given (c : CirBuf) (prod : Bool) : CirBuf :=
  if prod then { c with filled := c.filled + 1 } else { c with free := c.free + 1 }

theorem taken_valid {c : CirBuf} (prod : Bool) (hv : c.Valid) : (c.taken prod).Valid ∧ (c.taken prod).base = c.base := by
  obtain ⟨hs, hz, hcnt, hp, hc⟩ := hv
  cases prod with
  | true => exact ⟨⟨hs, hz, le_trans (Nat.add_le_add_right (Nat.sub_le _ _) _) hcnt, Nat.mod_lt _ hs.1, hc⟩, rfl⟩
  | false => exact ⟨⟨hs, hz, le_trans (Nat.add_le_add_left (Nat.sub_le _ _) _) hcnt, hp, Nat.mod_lt _ hs.1⟩, rfl⟩

theorem given_valid {c : CirBuf} (prod : Bool) (hv : c.Valid) (hroom : c.free + c.filled ≠ c.slots) :
    (c.given prod).Valid ∧ (c.given prod).base = c.base := by
  obtain ⟨hs, hz, hcnt, hp, hc⟩ := hv
  cases prod with
  | true => exact ⟨⟨hs, hz, by show c.free + (c.filled + 1) ≤ c.slots; omega, hp, hc⟩, rfl⟩
  | false => exact ⟨⟨hs, hz, by show c.free + 1 + c.filled ≤ c.slots; omega, hp, hc⟩, rfl⟩

/-! ### What an instruction on an object leaves -/

theorem outer_pad {s u : Machine.State} (h : Outer s u) : u.spad = s.spad ∧ u.spadBad = s.spadBad := by
  obtain ⟨a, rfl, -⟩ := h
  exact ⟨rfl, rfl⟩

section
variable {s u : Machine.State} {ag : Agent} {m : Mem} {b : List Nat} (n : Nat) (hi : s.issue = some ⟨ag, false⟩) (hp : ag.present s)
  (h : Outer s u)
include hi hp h

/-- An instruction that leaves other scratchpads goes on. -/
theorem pad_done :
    let t := (u.withPad m b).retire n .none
    After s t ag n ∧ t.spad = m ∧ t.spadBad = b ∧ (u = s → Kept ag { s with spad := t.spad, spadBad := t.spadBad } t [] [] false false) := by
  intro t
  have hui : (u.withPad m b).issue = some ⟨ag, false⟩ := h.issue.trans hi
  have hkept := Kept.retire ag (u.withPad m b) n .none [] [] false false hui
  have hpad : t.spad = m := (congrArg State.spad hkept.rest :)
  have hbad : t.spadBad = b := (congrArg State.spadBad hkept.rest :)
  have hpu : ag.present (u.withPad m b) := present_of_waves hp h.waves
  refine ⟨((h.samePlace ag).trans (SamePlace.ofAgents ag rfl rfl)).after (after_retire _ ag n .none hui hpu), hpad, hbad, fun hu => ?_⟩
  rw [hpad, hbad]
  subst hu
  exact hkept

/-- An instruction that leaves other scratchpads and a number in its destination goes on. -/
theorem pad_put_done {k : ClauseKind} {o : Opnd} {x : Nat} (hf : ag.fits k) (ho : regOk k false o = true) (hx : x < 2 ^ 32) :
    let t := ((u.withPad m b).put32 ag o x).retire n .none
    After s t ag n ∧ t.reg ag o false = BitVec.ofNat 64 x ∧ t.spad = m ∧ t.spadBad = b ∧
      (u = s → Kept ag { s with spad := t.spad, spadBad := t.spadBad } t (dstRegs ag o false) [] false false) := by
  intro t
  have hui : (u.withPad m b).issue = some ⟨ag, false⟩ := h.issue.trans hi
  have hpu : ag.present (u.withPad m b) := present_of_waves hp h.waves
  obtain ⟨hkept, hafter, hval, -⟩ := put32_done (x := x) n hui hpu hf (.inr ho) hx
  have hpad : t.spad = m := (congrArg State.spad hkept.rest :)
  have hbad : t.spadBad = b := (congrArg State.spadBad hkept.rest :)
  refine ⟨((h.samePlace ag).trans (SamePlace.ofAgents ag rfl rfl)).after hafter, hval (fun he => ?_), hpad, hbad, fun hu => ?_⟩
  · rw [he] at ho
    exact nomatch ho
  · rw [hpad, hbad]
    subst hu
    exact hkept

end

/-- A 64-bit result of an agent, whose instruction has changed nothing else of it. -/
theorem wide_done {s u : Machine.State} {ag : Agent} {k : ClauseKind} {o : Opnd} (x n : Nat) (hi : s.issue = some ⟨ag, false⟩)
    (hp : ag.present s) (hf : ag.fits k) (ho : regOk k true o = true) (h : Outer s u) :
    let t := (u.put64 ag o x).retire n .none
    After s t ag n ∧ t.reg ag o true = BitVec.ofNat 64 x ∧ t.spad = s.spad ∧ (u = s → Kept ag s t (dstRegs ag o true) [] false false) := by
  intro t
  have hui : u.issue = some ⟨ag, false⟩ := h.issue.trans hi
  have hpu : ag.present u := present_of_waves hp h.waves
  have hput := Kept.putReg ag u o true false (BitVec.ofNat 64 x) (dstRegs ag o true) [] false false (fun _ hm => hm)
  have hpi : (u.put64 ag o x).issue = some ⟨ag, false⟩ := (Machine.State.putReg_issue u _ _ _ _ _).trans hui
  have hkept := kept_scalar u ag o true false (BitVec.ofNat 64 x) n .none hui
  refine ⟨?_, ?_, (congrArg State.spad hkept.rest :).trans h.spad, fun hu => ?_⟩
  · exact ((h.samePlace ag).trans (SamePlace.putReg u ag o true false _)).after (after_retire _ ag n .none hpi (hput.present hpu))
  · refine (reg_retire _ ag k o true n .none hpi (hput.present hpu) ho).trans ?_
    exact reg_putReg u ag k o true false _ hpu hf ho
  · subst hu
    exact hkept

/-- What a release, or an acquire, writes back first. -/
def Machine.State.synced (s : Machine.State) (ag : Agent) (o p : Order) : Machine.State := if o = p then s.l1Sync ag else s

theorem synced_outer (s : Machine.State) (ag : Agent) (o p : Order) : Outer s (s.synced ag o p) := Outer.ite (Outer.l1Sync s ag) (Outer.refl s)

theorem synced_quiet {s : Machine.State} (ag : Agent) {o p : Order} (h : s.quiet o) (hp : p = .acquire ∨ p = .release) : s.synced ag o p = s := by
  unfold State.synced
  rcases h with h | ⟨ha, hr⟩
  · rw [l1Sync_empty ag h, ite_self]
  · rcases hp with rfl | rfl
    · exact if_neg ha
    · exact if_neg hr

/-! ### ARRV (R164) -/

section
variable {s : Machine.State} {ag : Agent} {f : MF} (hi : s.issue = some ⟨ag, false⟩) (hr : s.regsOk ag [(f.sb, 0)] = true)
include hi hr

theorem exec_arrv_nothing (h : s.srcBits ag 32 0 f.dst = 0) :
    Machine.exec (.arrv f) s = .next (s.retire (nSlots [f.dst, f.sa, f.sb]) .none) := by
  show execArrv f s = _
  simp only [execArrv, issued, hi, hr, if_true, h]

variable (hk : s.srcBits ag 32 0 f.dst ≠ 0)
include hk

theorem exec_arrv_fails {l c a : Nat}
    (h : s.arrvCheck ag (fun l => s.spadEa ag f false l 0) (s.accLanes ag (isV f.sb)) = some (l, c, a)) :
    Machine.exec (.arrv f) s = .next (s.trap ag c (laneOf (isV f.sb) l) 0 a) := by
  show execArrv f s = _
  simp only [execArrv, issued, hi, hr, if_true, if_neg hk, h]

theorem exec_arrv (h : s.arrvCheck ag (fun l => s.spadEa ag f false l 0) (s.accLanes ag (isV f.sb)) = none)
    (hb : (s.accLanes ag (isV f.sb)).any (fun l => s.held ag (s.spadHome ag (s.spadEa ag f false l 0) 16) 16) = false)
    (hd : f.ord = .release → s.drained ag = true) :
    Machine.exec (.arrv f) s = .next (((s.accLanes ag (isV f.sb)).foldl
      (fun u l => u.arriveAt (s.spadHome ag (s.spadEa ag f false l 0) 16) (s.srcBits ag 32 0 f.dst)) (s.synced ag f.ord .release)).retire
        (nSlots [f.dst, f.sa, f.sb]) .none) := by
  have hrel : (f.ord == .release && !s.drained ag) = false := by
    by_cases ho : f.ord = .release
    · rw [hd ho, Bool.not_true, Bool.and_false]
    · rw [beq_eq_false_iff_ne.2 ho, Bool.false_and]
  show execArrv f s = _
  simp only [execArrv, issued, hi, hr, if_true, if_neg hk, h, hb, hrel, Bool.or_self, Bool.false_eq_true, if_false]
  rfl

end

theorem arrvCheck_none {s : Machine.State} {ag : Agent} {ea : Nat → Nat} {ls : List Nat}
    (h : ∀ l ∈ ls, ea l % 16 = 0 ∧ ∃ h o, s.viewOf ag (ea l) 16 = some h ∧ s.barObj h = some o) : s.arrvCheck ag ea ls = none := by
  rw [State.arrvCheck, List.findSome?_eq_none_iff]
  intro l hl
  obtain ⟨ha, hm, o, hv, ho⟩ := h l hl
  rw [spadFault_none ha hv, spadHome_of_view hv, ho]
  rfl

/-! ### BOWAIT (R165) -/

section
variable {s : Machine.State} {ag : Agent} {f : MF} (hi : s.issue = some ⟨ag, false⟩)

/-- The address of a BOWAIT. -/
def boAddr (s : Machine.State) (ag : Agent) (f : MF) : Nat := unsigned 32 ((s.reg ag f.sa false).toNat + MF.offset f false)

theorem boOf_ok {h : Home} {o : BarObj} (ha : boAddr s ag f % 16 = 0) (hv : s.viewOf ag (boAddr s ag f) 16 = some h) (ho : s.barObj h = some o) :
    s.boOf ag f = .ok o := by
  show (match s.spadFault ag (boAddr s ag f) 16 16 with
    | some c => Except.error (c, boAddr s ag f)
    | none => match s.barObj (s.spadHome ag (boAddr s ag f) 16) with | some o => .ok o | none => .error (0x0D, boAddr s ag f)) = _
  rw [spadFault_none ha hv, spadHome_of_view hv, ho]

include hi

theorem exec_bowait_fails {c a : Nat} (h : s.boOf ag f = .error (c, a)) : Machine.exec (.bowait f) s = .next (s.trap ag c none 0 a) := by
  show execBowait f s = _
  simp only [execBowait, issued, hi, h]

variable {o : BarObj} (ho : s.boOf ag f = .ok o)
include ho

theorem exec_bowait (hd : phaseDone o.phase (s.srcBits ag 64 0 f.sb) = true) (ha : s.acquiring ag = false) : Machine.exec (.bowait f) s =
    .next (((s.synced ag f.ord .acquire).put64 ag f.dst o.phase).retire (nSlots [f.sb]) .none) := by
  show execBowait f s = _
  simp only [execBowait, issued, hi, ho, hd, ha, Bool.not_false, Bool.and_self, if_true]
  rfl

theorem exec_bowait_waits (h : phaseDone o.phase (s.srcBits ag 64 0 f.sb) = false ∨ s.acquiring ag = true) :
    Machine.exec (.bowait f) s = .next s.stall := by
  have hc : (phaseDone o.phase (s.srcBits ag 64 0 f.sb) && !s.acquiring ag) = false := by
    rcases h with h | h
    · rw [h, Bool.false_and]
    · rw [h, Bool.not_true, Bool.and_false]
  show execBowait f s = _
  simp only [execBowait, issued, hi, ho, hc, Bool.false_eq_true, if_false]

end

theorem legal_bowait {k : ClauseKind} {f : MF} (h : legal k (.bowait f) = true) : regOk k true f.dst = true := by
  simp only [legal, Instr.view, legalM, Bool.and_eq_true] at h
  obtain ⟨⟨⟨-, hd⟩, -⟩, -⟩ := h
  exact hd

/-! ### CBACQ and CBREL (R166) -/

theorem exec_cbacq {i : Instr} {f : MF} {prod : Bool} (s : Machine.State) (h : i = (if prod then .cbacqProd f else .cbacqCons f)) :
    Machine.exec i s = cbAcquire f s prod := by
  subst h
  cases prod <;> rfl

theorem exec_cbrel {i : Instr} {f : MF} {prod : Bool} (s : Machine.State) (h : i = (if prod then .cbrelProd f else .cbrelCons f)) :
    Machine.exec i s = cbRelease f s prod := by
  subst h
  cases prod <;> rfl

theorem legal_cbacq {k : ClauseKind} {i : Instr} {f : MF} {prod : Bool} (h : legal k i = true)
    (hinstr : i = (if prod then .cbacqProd f else .cbacqCons f)) : regOk k false f.dst = true := by
  subst hinstr
  cases prod <;>
    · simp only [Bool.false_eq_true, if_false, if_true, legal, Instr.view, legalM, Bool.and_eq_true] at h
      obtain ⟨⟨⟨-, hd⟩, -⟩, -⟩ := h
      exact hd

theorem acquire_eq (c : CirBuf) (prod : Bool) : c.acquire prod =
    if (if prod then c.free else c.filled) = 0 then none else some (if prod then c.pidx else c.cidx, c.taken prod) := by
  cases prod <;> rfl

theorem release_eq (c : CirBuf) (prod : Bool) : c.release prod = if c.free + c.filled = c.slots then none else some (c.given prod) := by
  cases prod <;> rfl

section
variable {s : Machine.State} {ag : Agent} {f : MF} {prod : Bool} (hi : s.issue = some ⟨ag, false⟩)

theorem cbOf_ok {h : Home} {c : CirBuf} (ha : s.cbAddr ag f % 32 = 0) (hv : s.viewOf ag (s.cbAddr ag f) 32 = some h) (hc : s.cirBuf h = some c) :
    s.cbOf ag f = .ok (h, c) := by
  simp only [State.cbOf, spadFault_none ha hv, spadHome_of_view hv, hc]

include hi

theorem cbAcquire_fails {c a : Nat} (h : s.cbOf ag f = .error (c, a)) : cbAcquire f s prod = .next (s.trap ag c none 0 a) := by
  simp only [cbAcquire, issued, hi, h]

theorem cbRelease_fails {c a : Nat} (h : s.cbOf ag f = .error (c, a)) : cbRelease f s prod = .next (s.trap ag c none 0 a) := by
  simp only [cbRelease, issued, hi, h]

variable {h : Home} {c : CirBuf} (hc : s.cbOf ag f = .ok (h, c))
include hc

theorem cbAcquire_empty (h0 : (if prod then c.free else c.filled) = 0) : cbAcquire f s prod = .next s.stall := by
  simp only [cbAcquire, issued, hi, hc, acquire_eq, if_pos h0]

theorem cbAcquire_held (h0 : (if prod then c.free else c.filled) ≠ 0) (hh : s.held ag h 32 = true) : cbAcquire f s prod = .next s.stall := by
  simp only [cbAcquire, issued, hi, hc, acquire_eq, if_neg h0, hh, if_true]

theorem cbAcquire_takes (h0 : (if prod then c.free else c.filled) ≠ 0) (hh : s.held ag h 32 = false) : cbAcquire f s prod =
    .next ((((s.synced ag f.ord .acquire).putCirBuf h (c.taken prod)).put32 ag f.dst (if prod then c.pidx else c.cidx)).retire 1 .none) := by
  simp only [cbAcquire, issued, hi, hc, acquire_eq, if_neg h0, hh, Bool.false_eq_true, if_false]
  rfl

theorem cbRelease_over (h0 : c.free + c.filled = c.slots) : cbRelease f s prod = .next (s.trap ag 0x0E none 0 (s.cbAddr ag f)) := by
  simp only [cbRelease, issued, hi, hc, release_eq, if_pos h0]

theorem cbRelease_gives (h0 : c.free + c.filled ≠ c.slots) (hh : s.held ag h 32 = false) (hd : f.ord = .release → s.drained ag = true) :
    cbRelease f s prod = .next (((s.synced ag f.ord .release).putCirBuf h (c.given prod)).retire 1 .none) := by
  have hrel : (f.ord == .release && !s.drained ag) = false := by
    by_cases ho : f.ord = .release
    · rw [hd ho, Bool.not_true, Bool.and_false]
    · rw [beq_eq_false_iff_ne.2 ho, Bool.false_and]
  simp only [cbRelease, issued, hi, hc, release_eq, if_neg h0, hh, hrel, Bool.or_self, Bool.false_eq_true, if_false]
  rfl

end

theorem cirBuf_of_pad {s t : Machine.State} {c a : Nat} (h1 : t.spad = s.spad) (h2 : t.spadBad = s.spadBad) :
    t.cirBuf (.spad c a) = s.cirBuf (.spad c a) := by
  have hbad : t.badBytes (.spad c a) 32 = s.badBytes (.spad c a) 32 := by simp only [State.badBytes, h2]
  have hbytes : t.bytesAt (.spad c a) 32 = s.bytesAt (.spad c a) 32 := by simp only [State.bytesAt, h1]
  rw [cirBuf_eq, cirBuf_eq, hbad, hbytes]

/-- Settles O44: each arrival by the fields of its object, an acquire and a release by the descriptor that they read and write back. -/
theorem sharedObjects : Obligations.SharedObjects := by
  unfold Obligations.SharedObjects
  refine ⟨?arrv, ?counts, ?bowait, ?buffers, ?frame⟩
  case arrv =>
    rintro f s ag ⟨hi, hp, -⟩ hr k ls ea busy n
    refine ⟨fun h0 => ?_, fun hk hobj hbusy hd => ?_, fun l c a hk hc => exec_arrv_fails hi hr hk hc⟩
    · exact ⟨_, exec_arrv_nothing hi hr h0, Kept.retire ag s n .none [] [] false false hi, after_retire s ag n .none hi hp⟩
    · have ho := synced_outer s ag f.ord .release
      obtain ⟨h1, h2⟩ := outer_pad ho
      obtain ⟨m, b, hpad⟩ := arrivals_pad (fun l => s.spadHome ag (ea l) 16) (fun l => spadHome_spad s ag (ea l) 16) k ls s
      have hexec := exec_arrv hi hr hk (arrvCheck_none hobj) hbusy hd
      rw [hpad _ h1 h2] at hexec
      obtain ⟨hafter, hspad, -, hkept⟩ := pad_done (m := m) (b := b) n hi hp ho
      refine ⟨_, hexec, hafter, hspad.trans ?_, fun hq => hkept (synced_quiet ag hq (.inr rfl))⟩
      rw [hpad s rfl rfl]
      rfl
  case counts =>
    intro s c a k o ho hk
    obtain ⟨hv, hb⟩ := barObj_valid ho
    obtain ⟨hv', he, hlt, hge⟩ := arrive_counts hv hk
    rw [arriveAt_eq k ho]
    refine ⟨o.arrive k, barObj_put hv' hb, he, hlt, hge, fun x hx => ?_⟩
    exact Memory.get_write_outside _ _ _ _ (by rw [length_leBytes]; exact hx)
  case bowait =>
    rintro f s ag ⟨hi, hp, kind, hf, hl⟩ a reached
    refine ⟨fun h o ha hv ho => ?_, fun c a hc => exec_bowait_fails hi hc⟩
    have hbo := boOf_ok ha hv ho
    refine ⟨fun hreach hacq => ?_, fun hwait => exec_bowait_waits hi hbo (hwait.imp_left fun h => decide_eq_false h)⟩
    obtain ⟨hafter, hval, hspad, hkept⟩ := wide_done o.phase (nSlots [f.sb]) hi hp hf (legal_bowait hl) (synced_outer s ag f.ord .acquire)
    exact ⟨_, exec_bowait hi hbo (decide_eq_true hreach) hacq, hafter, fun _ => hval, hspad, fun hq => hkept (synced_quiet ag hq (.inl rfl))⟩
  case buffers =>
    rintro i f prod s ag ⟨hi, hp, kind, hf, hl⟩ a
    refine ⟨fun hinstr => ?_, fun hinstr => ?_⟩
    · rw [exec_cbacq s hinstr]
      refine ⟨fun c a hc => cbAcquire_fails hi hc, fun h c ha hv hc => ?_⟩
      intro d
      have hcb := cbOf_ok ha hv hc
      refine ⟨cbAcquire_empty hi hcb, cbAcquire_held hi hcb, fun h0 hh => ?_⟩
      obtain ⟨o, rfl⟩ := view_spad hv
      obtain ⟨hvalid, -⟩ := cirBuf_valid hc
      obtain ⟨hdv, hdb⟩ := taken_valid prod hvalid
      obtain ⟨m, b, hpad⟩ := putCirBuf_pad s (s.clusterOf ag) o (c.taken prod)
      have ho := synced_outer s ag f.ord .acquire
      obtain ⟨h1, h2⟩ := outer_pad ho
      have hidx : (if prod then c.pidx else c.cidx) < 2 ^ 32 := by
        have := hvalid.slots
        have := hvalid.pidx
        have := hvalid.cidx
        split <;> omega
      have hexec := cbAcquire_takes hi hcb h0 hh
      rw [hpad _ h1 h2] at hexec
      obtain ⟨hafter, hval, hspad, hbad, hkept⟩ := pad_put_done (m := m) (b := b) 1 hi hp ho hf (legal_cbacq hl hinstr) hidx
      have hread := cirBuf_put hc hdb hdv
      rw [hpad s rfl rfl] at hread
      refine ⟨_, hexec, hafter, hval, (cirBuf_of_pad hspad hbad).trans hread, hspad.trans ?_, fun hq => hkept (synced_quiet ag hq (.inl rfl))⟩
      show m = (s.putCirBuf _ (c.taken prod)).spad
      rw [hpad s rfl rfl]
      rfl
    · rw [exec_cbrel s hinstr]
      refine ⟨fun c a hc => cbRelease_fails hi hc, fun h c ha hv hc => ?_⟩
      intro d
      have hcb := cbOf_ok ha hv hc
      refine ⟨cbRelease_over hi hcb, fun h0 hh hd => ?_⟩
      obtain ⟨o, rfl⟩ := view_spad hv
      obtain ⟨hvalid, -⟩ := cirBuf_valid hc
      obtain ⟨hdv, hdb⟩ := given_valid prod hvalid h0
      obtain ⟨m, b, hpad⟩ := putCirBuf_pad s (s.clusterOf ag) o (c.given prod)
      have ho := synced_outer s ag f.ord .release
      obtain ⟨h1, h2⟩ := outer_pad ho
      have hexec := cbRelease_gives hi hcb (prod := prod) h0 hh hd
      rw [hpad _ h1 h2] at hexec
      obtain ⟨hafter, hspad, hbad, hkept⟩ := pad_done (m := m) (b := b) 1 hi hp ho
      have hread := cirBuf_put hc hdb hdv
      rw [hpad s rfl rfl] at hread
      refine ⟨_, hexec, hafter, (cirBuf_of_pad hspad hbad).trans hread, hspad.trans ?_, fun hq => hkept (synced_quiet ag hq (.inr rfl))⟩
      show m = (s.putCirBuf _ (c.given prod)).spad
      rw [hpad s rfl rfl]
      rfl
  case frame =>
    intro s ag f h c hc t d x ht hx
    subst ht
    have hh : h = s.spadHome ag (s.cbAddr ag f) 32 := by
      unfold State.cbOf at hc
      dsimp only at hc
      split at hc
      · exact nomatch hc
      · split at hc
        · exact (congrArg Prod.fst (Except.ok.inj hc)).symm
        · exact nomatch hc
    obtain ⟨k, o, ho⟩ := spadHome_spad s ag (s.cbAddr ag f) 32
    simp only [State.padAddr, ho] at hx
    rw [hh, ho]
    exact Memory.get_write_outside _ _ _ _ (by rw [length_leBytes]; exact hx)

end Sys2Proof

/-! The matrix instructions at issue (R186 to R190, R193). -/

namespace Sys2Proof

open Sys2Proof.Machine

/-! ### What moving the banks of a unit leaves alone -/

/-- Agents, scratchpads, the operations in flight and their numbers are the same. -/
structure Moved (s t : Machine.State) : Prop where
  waves : t.waves = s.waves
  threads : t.threads = s.threads
  issue : t.issue = s.issue
  mops : t.mx.mops = s.mx.mops
  counts : t.mx.counts = s.mx.counts

namespace Moved

theorem refl (s : Machine.State) : Moved s s := ⟨rfl, rfl, rfl, rfl, rfl⟩

theorem trans {s t u : Machine.State} (h : Moved s t) (g : Moved t u) : Moved s u :=
  ⟨g.waves.trans h.waves, g.threads.trans h.threads, g.issue.trans h.issue, g.mops.trans h.mops, g.counts.trans h.counts⟩

theorem ofOuter {s t : Machine.State} (h : Outer s t) : Moved s t :=
  ⟨h.waves, h.threads, h.issue, congrArg Matrix.mops h.mx, congrArg Matrix.counts h.mx⟩

theorem setAcc (s : Machine.State) (x u n : Nat) (a : Acc) : Moved s (s.setAcc x u n a) := ⟨rfl, rfl, rfl, rfl, rfl⟩

theorem spillAcc (s : Machine.State) (x u n : Nat) : Moved s (s.spillAcc x u n) := ofOuter (Outer.physPut _ _ _ _ _)

theorem moveBank (s : Machine.State) (u : Nat) (second : Bool) (x n : Nat) : Moved s (s.moveBank u second x n) := by
  unfold State.moveBank
  extract_lets b old s1 racc s2 nb mx s3 addr
  have h1 : Moved s s1 := by
    simp only [s1]
    split
    · exact spillAcc _ _ _ _
    · exact refl s
  have h2 : Moved s1 s2 := by
    simp only [s2]
    split
    · exact (ofOuter (Outer.physNote _ _ _ _ _)).trans (setAcc _ _ _ _ _)
    · exact setAcc _ _ _ _ _
  have h3 : Moved s2 s3 := ⟨rfl, rfl, rfl, rfl, rfl⟩
  exact ((h1.trans h2).trans h3).trans (ofOuter (Outer.physWords _ _ _ _ _))

theorem needBank (s : Machine.State) (x u n keep : Nat) : Moved s (s.needBank x u n keep) := by
  unfold State.needBank
  split
  · exact refl s
  · exact moveBank _ _ _ _ _

end Moved

theorem needBank_held {s : Machine.State} {x u n : Nat} (keep : Nat) (h : s.inBank x u n = true) : s.needBank x u n keep = s := if_pos h

/-! ### The instructions -/

/-- The matrix instructions of a format-E word. -/
def matrixInstrs (f : EF) : List Instr :=
  [.mma f, .mmaSp f, .mmaChk f, .miter f, .miterCont f, .aclr f, .ain f, .aout f, .aoutClr f, .epi f, .kld f, .kldAll f, .actxSwap f, .actxRel f]

theorem exec_matrix {i : Instr} {f : EF} (s : Machine.State) (h : i ∈ matrixInstrs f) : Machine.exec i s = matrixIssue i s ∧ Instr.ef i = f := by
  simp only [matrixInstrs, List.mem_cons, List.not_mem_nil, or_false] at h
  rcases h with rfl | rfl | rfl | rfl | rfl | rfl | rfl | rfl | rfl | rfl | rfl | rfl | rfl | rfl <;> exact ⟨rfl, rfl⟩

/-- The state in which the context of an operation is in its bank, and claimed. -/
def Machine.State.readied (s : Machine.State) (i : Instr) (x u n : Nat) : Machine.State :=
  match i with
  | .actxRel _ => s
  | .actxSwap _ => (s.needBank x u 0 1).needBank x u 1 0
  | _ =>
    let t := s.needBank x u n n
    if n = 1 then t.setAcc x u 1 { t.acc x u 1 with claimed := true } else t

/-- The context with which an operation starts, and what it gives if it is over at once. -/
def Machine.State.firstStep (s : Machine.State) (i : Instr) (m : MOp) (u n : Nat) : Acc × Option Nat :=
  match i with
  | .miter _ => miterStart (s.acc m.ctx u n) ((Instr.ef i).fn.toNat % 4) (Instr.ef i).ty (EF.tile (Instr.ef i)) m.c
  | .miterCont _ => miterResume (s.acc m.ctx u n)
  | _ => (s.acc m.ctx u n, some 0)

/-- The state in which the loop of a MITER has begun. -/
def Machine.State.looped (s : Machine.State) (i : Instr) (x u n : Nat) (a : Acc) : Machine.State :=
  match i with
  | .miter _ => s.setAcc x u n a
  | _ => s

/-- An operation in flight on its unit, with its number. -/
def Machine.State.fly (s : Machine.State) (u key : Nat) (m : MOp) (cnt : Nat × Nat) : Machine.State :=
  { s with mx := { s.mx with mops := Map.put s.mx.mops u m, counts := Map.put s.mx.counts key (cnt.1 + 1, cnt.2) } }

theorem readied_moved (s : Machine.State) (i : Instr) (x u n : Nat) : Moved s (s.readied i x u n) := by
  unfold State.readied
  split
  · exact Moved.refl s
  · exact (Moved.needBank _ _ _ _ _).trans (Moved.needBank _ _ _ _ _)
  · dsimp only
    split
    · exact (Moved.needBank _ _ _ _ _).trans (Moved.setAcc _ _ _ _ _)
    · exact Moved.needBank _ _ _ _ _

theorem looped_moved (s : Machine.State) (i : Instr) (x u n : Nat) (a : Acc) : Moved s (s.looped i x u n a) := by
  unfold State.looped
  split
  · exact Moved.setAcc _ _ _ _ _
  · exact Moved.refl s

/-- A context that stands in its bank is claimed where it is the second, and nothing is stored. -/
theorem readied_held {s : Machine.State} {i : Instr} {x u n : Nat}
    (h : (∀ g, i ≠ .actxSwap g ∧ i ≠ .actxRel g) → s.inBank x u n = true)
    (hs : (∃ g, i = .actxSwap g) → s.inBank x u 0 = true ∧ s.inBank x u 1 = true) :
    ((n ≠ 1 ∨ ∃ g, i = .actxSwap g ∨ i = .actxRel g) → (s.readied i x u n).mx.accs = s.mx.accs) ∧
      (s.readied i x u n).mem = s.mem ∧ (s.readied i x u n).spad = s.spad := by
  unfold State.readied
  split
  · exact ⟨fun _ => rfl, rfl, rfl⟩
  · next g =>
    obtain ⟨h0, h1⟩ := hs ⟨g, rfl⟩
    rw [needBank_held 1 h0, needBank_held 0 h1]
    exact ⟨fun _ => rfl, rfl, rfl⟩
  · next hr hw =>
    dsimp only
    rw [needBank_held n (h fun g => ⟨hw g, hr g⟩)]
    by_cases hn : n = 1
    · rw [if_pos hn]
      refine ⟨fun hc => ?_, rfl, rfl⟩
      rcases hc with hc | ⟨g, hc | hc⟩
      · exact absurd hn hc
      · exact absurd hc (hw g)
      · exact absurd hc (hr g)
    · rw [if_neg hn]
      exact ⟨fun _ => rfl, rfl, rfl⟩

theorem looped_same {s : Machine.State} {i : Instr} (x u n : Nat) (a : Acc) :
    ((∀ g, i ≠ .miter g) → (s.looped i x u n a).mx.accs = s.mx.accs) ∧ (s.looped i x u n a).mem = s.mem ∧ (s.looped i x u n a).spad = s.spad := by
  unfold State.looped
  split
  · next g => exact ⟨fun h => absurd rfl (h g), rfl, rfl⟩
  · exact ⟨fun _ => rfl, rfl, rfl⟩

/-! ### The end of the issue -/

/-- A thread that has begun an operation with a flag goes on: its registers stay, and so do the other threads. -/
theorem raise_retire {s u : Machine.State} {c t n : Nat} {flag : Option Nat} (hi : s.issue = some ⟨.thread c t, false⟩)
    (hb : s.banked (.thread c t)) (hw : u.waves = s.waves) (ht : u.threads = s.threads) (hui : u.issue = s.issue) :
    let r := (u.raise (.thread c t) flag false false).retire n .none
    After s r (.thread c t) n ∧ (∀ k, (r.thread c t).getQ k = (s.thread c t).getQ k) ∧ r.waves = s.waves ∧
      (∀ k, 4 * c + t ≠ k → Map.find r.threads k = Map.find s.threads k) ∧ r.mx = u.mx ∧ r.mem = u.mem ∧ r.spad = u.spad := by
  have hthread : u.thread c t = s.thread c t := by rw [State.thread, ht, State.thread]
  have hbank : (u.thread c t).bank ≠ .saved := by rw [hthread]; exact hb
  obtain ⟨g, hg, hpc, hq⟩ : ∃ g : Thread, u.raise (.thread c t) flag false false = u.setThread c t g ∧
      (g.pc = (u.thread c t).pc ∧ g.slot = (u.thread c t).slot ∧ g.code = (u.thread c t).code) ∧ g.q = (u.thread c t).q := by
    unfold State.raise State.setCounts State.putThread State.liveThread
    dsimp only
    rw [if_neg hbank, if_neg hbank]
    exact ⟨_, rfl, ⟨rfl, rfl, rfl⟩, rfl⟩
  rw [hg]
  intro r
  have hgi : (u.setThread c t g).issue = some ⟨.thread c t, false⟩ := hui.trans hi
  have hkept := Kept.retire (.thread c t) (u.setThread c t g) n .none [] [] false false hgi
  have hplace : SamePlace (.thread c t) u (u.setThread c t g) := by
    simp only [SamePlace, State.pcOf, State.codeOf, State.setThread_thread_same]
    obtain ⟨h1, h2, h3⟩ := hpc
    rw [h1, h2, h3]
    exact ⟨rfl, rfl⟩
  have hwaves : r.waves = u.waves := by
    simp only [r, State.retire, hgi, Bool.false_eq_true, if_false, State.stepped]
    unfold State.advance
    dsimp only
    split <;> rfl
  refine ⟨(SamePlace.ofAgents _ hw ht).after (hplace.after (after_retire _ _ n .none hgi trivial)), fun k => ?_, hwaves.trans hw, fun k hk => ?_,
    (congrArg State.mx hkept.rest :), (congrArg State.mem hkept.rest :), (congrArg State.spad hkept.rest :)⟩
  · refine ((hkept.thread c t rfl).q k (List.not_mem_nil)).trans ?_
    rw [State.setThread_thread_same, ← hthread]
    simp only [Thread.getQ, hq]
  · refine (hkept.threads k fun h => hk (Option.some.inj h)).trans ?_
    rw [State.setThread_find_other u c t k g hk, ht]

section
variable {i : Instr} {f : EF} {s : Machine.State} {c t : Nat}

/-- The workgroups of the thread's launch on the core of a unit. -/
def unitGroups (s : Machine.State) (f : EF) (c t : Nat) : Map WG :=
  s.sch.wgs.filter (fun e => e.2.launch == (s.thread c t).launch && e.2.core == 4 * c + f.aux.toNat % 16 / 4)

/-- Nothing holds an operation on a unit back. -/
def UnitFree (s : Machine.State) (f : EF) (c t : Nat) : Prop :=
  Map.find s.mx.mops (16 * c + f.aux.toNat % 16) = none ∧ (unitGroups s f c t).all (fun e => e.2.out) = false ∧
    (s.core (4 * c + f.aux.toNat % 16 / 4)).active = some (s.thread c t).ctx ∧ (s.core (4 * c + f.aux.toNat % 16 / 4)).req = none ∧
    s.acquiring (.thread c t) = false

/-- What holds an operation back, as the machine asks it. -/
def unitHeld (s : Machine.State) (f : EF) (c t : Nat) : Bool :=
  !(unitGroups s f c t).isEmpty && ((Map.find s.mx.mops (16 * c + f.aux.toNat % 16)).isSome || (unitGroups s f c t).all (fun e => e.2.out) ||
    (s.core (4 * c + f.aux.toNat % 16 / 4)).active != some (s.thread c t).ctx || (s.core (4 * c + f.aux.toNat % 16 / 4)).req.isSome ||
    s.acquiring (.thread c t))

theorem unitHeld_iff : unitHeld s f c t = true ↔ unitGroups s f c t ≠ [] ∧ ¬UnitFree s f c t := by
  unfold unitHeld UnitFree
  simp only [Bool.and_eq_true, Bool.not_eq_true', List.isEmpty_eq_false_iff, Bool.or_eq_true, bne_iff_ne, Option.isSome_iff_ne_none]
  refine and_congr_right fun _ => ?_
  simp only [← Bool.not_eq_true]
  tauto

/-- The issue of an operation, by what it meets (R187 to R190, R310). -/
theorem matrixIssue_eq (hi : s.issue = some ⟨.thread c t, false⟩) (hf : Instr.ef i = f) :
    matrixIssue i s = .next (if unitHeld s f c t then s.stall else
      match pickCause (s.opFaults (s.mopOf i c t) ++ (if (unitGroups s f c t).isEmpty then [(0x12, 0)] else [])) with
      | some (cause, a) => s.trap (.thread c t) cause none 0 a
      | none =>
        if !(s.countRoom (.thread c t) (s.flagFor (.thread c t) f.fs) false false) then s.stall
        else
          let x := (s.thread c t).ctx
          let u := 16 * c + f.aux.toNat % 16
          let key := unitKey x c (f.aux.toNat % 16)
          let m := s.mopOf i c t
          let s3 := s.readied i x u f.actx.toNat
          let cnt := Map.at s3.mx.counts key (0, 0)
          let st := s3.firstStep i m u f.actx.toNat
          let m1 := { m with num := cnt.1 + 1, more := st.2.isNone, out := st.2.getD 0, snap := s3.opReads m, trec := { m.trec with w2 := BitVec.ofNat 64 (cnt.1 + 1) } }
          ((((s3.looped i x u f.actx.toNat st.1).fly u key m1 cnt).raise (.thread c t) (s.flagFor (.thread c t) f.fs) false false).retire
            (nSlots [f.sa, f.sc]) .none)) := by
  subst hf
  unfold matrixIssue issued
  rw [hi]
  rfl

section
variable (hi : s.issue = some ⟨.thread c t, false⟩) (hf : Instr.ef i = f)
include hi hf

theorem matrixIssue_unowned {cause a : Nat} (hm : unitGroups s f c t = []) (hp : pickCause (s.opFaults (s.mopOf i c t) ++ [(0x12, 0)]) = some (cause, a)) :
    matrixIssue i s = .next (s.trap (.thread c t) cause none 0 a) := by
  have hheld : unitHeld s f c t = false := by rw [← Bool.not_eq_true, unitHeld_iff]; exact fun h => h.1 hm
  rw [matrixIssue_eq hi hf, hheld, if_neg Bool.false_ne_true, hm, List.isEmpty_nil, if_pos rfl, hp]

theorem matrixIssue_waits (hm : unitGroups s f c t ≠ []) (hn : ¬UnitFree s f c t) : matrixIssue i s = .next s.stall := by
  rw [matrixIssue_eq hi hf, if_pos (unitHeld_iff.2 ⟨hm, hn⟩)]

variable (hm : unitGroups s f c t ≠ []) (hfree : UnitFree s f c t)
include hm hfree

theorem matrixIssue_traps {cause a : Nat} (hp : pickCause (s.opFaults (s.mopOf i c t)) = some (cause, a)) :
    matrixIssue i s = .next (s.trap (.thread c t) cause none 0 a) := by
  have hne : ¬(unitGroups s f c t).isEmpty = true := by rwa [List.isEmpty_iff]
  rw [matrixIssue_eq hi hf, if_neg (fun h => (unitHeld_iff.1 h).2 hfree), if_neg hne, List.append_nil, hp]

variable (hok : s.opFaults (s.mopOf i c t) = [])
include hok

theorem matrixIssue_full (hr : s.countRoom (.thread c t) (s.flagFor (.thread c t) f.fs) false false = false) : matrixIssue i s = .next s.stall := by
  have hne : ¬(unitGroups s f c t).isEmpty = true := by rwa [List.isEmpty_iff]
  rw [matrixIssue_eq hi hf, if_neg (fun h => (unitHeld_iff.1 h).2 hfree), if_neg hne, List.append_nil, hok, hr]
  rfl

/-- An operation that starts is in flight on its unit under the next number, and only its unit and its thread are touched. -/
theorem matrixIssue_starts (hb : s.banked (.thread c t)) (hr : s.countRoom (.thread c t) (s.flagFor (.thread c t) f.fs) false false = true) :
    let x := (s.thread c t).ctx
    let u := 16 * c + f.aux.toNat % 16
    let n := f.actx.toNat
    let key := unitKey x c (f.aux.toNat % 16)
    let cnt := Map.at s.mx.counts key (0, 0)
    let m := s.mopOf i c t
    ∃ r more out snap trec, matrixIssue i s = .next r ∧
      Map.find r.mx.mops u = some { m with num := cnt.1 + 1, more := more, out := out, snap := snap, trec := trec } ∧
      Map.at r.mx.counts key (0, 0) = (cnt.1 + 1, cnt.2) ∧ (∀ v, v ≠ u → Map.find r.mx.mops v = Map.find s.mx.mops v) ∧
      (((∀ g, i ≠ .actxSwap g ∧ i ≠ .actxRel g) → s.inBank x u n = true) →
        ((∃ g, i = .actxSwap g) → s.inBank x u 0 = true ∧ s.inBank x u 1 = true) →
        ((n = 0 ∨ ∃ g, i = .actxSwap g ∨ i = .actxRel g) → (∀ g, i ≠ .miter g) → r.mx.accs = s.mx.accs) ∧ SameBytes s r) ∧
      (∀ k, (r.thread c t).getQ k = (s.thread c t).getQ k) ∧ After s r (.thread c t) (nSlots [f.sa, f.sc]) ∧ r.waves = s.waves ∧
      ∀ k, 4 * c + t ≠ k → Map.find r.threads k = Map.find s.threads k := by
  intro x u n key cnt m
  have hne : ¬(unitGroups s f c t).isEmpty = true := by rwa [List.isEmpty_iff]
  have h3 := readied_moved s i x u n
  have hstill := readied_held (s := s) (i := i) (x := x) (u := u) (n := n)
  have hexec := matrixIssue_eq hi hf
  rw [if_neg (fun h => (unitHeld_iff.1 h).2 hfree), if_neg hne, List.append_nil, hok, hr] at hexec
  generalize hs3 : s.readied i x u n = s3 at h3 hstill
  have hcnt : Map.at s3.mx.counts key (0, 0) = cnt := congrArg (fun l => Map.at l key (0, 0)) h3.counts
  have h4 (a : Acc) := looped_moved s3 i x u n a
  have hsame (a : Acc) := looped_same (s := s3) (i := i) x u n a
  obtain ⟨st, m1, hm1, hr⟩ : ∃ (st : Acc) (m1 : MOp),
      (∃ more out snap trec, m1 = { m with num := cnt.1 + 1, more := more, out := out, snap := snap, trec := trec }) ∧
      matrixIssue i s = .next ((((s3.looped i x u n st).fly u key m1 cnt).raise (.thread c t) (s.flagFor (.thread c t) f.fs) false false).retire
            (nSlots [f.sa, f.sc]) .none) := by
    rw [← hcnt, ← hs3]
    exact ⟨_, _, ⟨_, _, _, _, rfl⟩, hexec⟩
  obtain ⟨more, out, snap, trec, rfl⟩ := hm1
  have h5 := h3.trans (h4 st)
  obtain ⟨hafter, hq, hwaves, hthreads, hmx, hmem, hspad⟩ := raise_retire (n := nSlots [f.sa, f.sc]) (flag := s.flagFor (.thread c t) f.fs) hi hb
    (u := (s3.looped i x u n st).fly u key { m with num := cnt.1 + 1, more := more, out := out, snap := snap, trec := trec } cnt)
    h5.waves h5.threads h5.issue
  refine ⟨_, more, out, snap, trec, hr, ?_, ?_, fun v hv => ?_, fun h1 h2 => ⟨fun hk hmi => ?_, fun a => ?_⟩, hq, hafter, hwaves, hthreads⟩
  · rw [hmx]
    exact Map.find_put_same _ _ _
  · rw [hmx]
    exact Map.at_put_same _ _ _ _
  · rw [hmx]
    refine (Map.find_put_other _ _ _ _ hv.symm).trans ?_
    rw [h5.mops]
  · rw [hmx]
    refine ((hsame st).1 hmi).trans ((hstill h1 h2).1 (hk.imp_left fun h => ?_))
    omega
  · rw [hmem, hspad]
    obtain ⟨-, hm3, hp3⟩ := hstill h1 h2
    obtain ⟨-, hm4, hp4⟩ := hsame st
    exact ⟨congrArg (Memory.get · a) (hm4.trans hm3), congrArg (Memory.get · a) (hp4.trans hp3)⟩

end

end

/-- Settles O48: an operation is held back, stopped or started by what its unit and its checks say. -/
theorem matrixInstructionsIssue : Obligations.MatrixInstructionsIssue := by
  unfold Obligations.MatrixInstructionsIssue
  intro i f s c t hready hmem hb u core x mine free n cnt m
  obtain ⟨hi, -⟩ := hready
  obtain ⟨hexec, hf⟩ := exec_matrix s hmem
  rw [hexec]
  refine ⟨fun hm hok => ?_, fun cause a hm hp => matrixIssue_unowned hi hf hm hp, fun hm hn => matrixIssue_waits hi hf hm hn,
    fun cause a hm hfree hp => matrixIssue_traps hi hf hm hfree hp, fun hm hfree hok hr => matrixIssue_full hi hf hm hfree hok hr,
    fun hm hfree hok hr => ?_⟩
  · refine matrixIssue_unowned hi hf hm ?_
    rw [hok]
    rfl
  · obtain ⟨r, more, out, snap, trec, h1, h2, h3, h4, h5, h6, h7, h8, h9⟩ := matrixIssue_starts hi hf hm hfree hok hb hr
    exact ⟨r, _, h1, h2, rfl, rfl, rfl, rfl, rfl, rfl, by rw [← hf]; rfl, rfl, h3, h4, h5, h6, h7, h8, h9⟩

end Sys2Proof

/-! The divergence stack: entries read and stored through the caches, and paths put in place (R42 to R45, Table 03-4). -/

namespace Sys2Proof

open Sys2Proof.Machine

/-! ### Reads through an L1 whose lines are clean -/

theorem Memory.read_add (m : Mem) (a n k : Nat) : Memory.read m a (n + k) = Memory.read m a n ++ Memory.read m (a + n) k := by
  simp only [Memory.read, List.range_add, List.map_append, List.map_map, Function.comp_def, Nat.add_assoc]

/-- A line that holds what memory holds. -/
def CleanLine (m : Mem) (l : L1Line) : Prop := (∀ d ∈ l.dirty, d = false) ∧ l.bytes = Memory.read m (l.line * 128) 128

/-- Every line of an L1 is clean. -/
def CleanLines (s : Machine.State) : Prop := ∀ l ∈ s.path.l1, CleanLine s.mem l

theorem flushBytes_clean (m : Mem) (a : Nat) (bs : List Byte) {ds : List Bool} (h : ∀ d ∈ ds, d = false) : flushBytes m a bs ds = m := by
  induction bs generalizing a ds with
  | nil => cases ds <;> rfl
  | cons b bs ih =>
    cases ds with
    | nil => rfl
    | cons d ds =>
      have hd : d = false := h d List.mem_cons_self
      subst hd
      exact ih _ (fun e he => h e (List.mem_cons_of_mem _ he))

theorem foldl_flush_clean (m : Mem) (l : List L1Line) (h : ∀ k ∈ l, CleanLine m k) :
    l.foldl (fun m k => flushBytes m (k.line * 128) k.bytes k.dirty) m = m := by
  induction l with
  | nil => rfl
  | cons k l ih =>
    rw [List.foldl_cons, flushBytes_clean _ _ _ (h k List.mem_cons_self).1]
    exact ih fun j hj => h j (List.mem_cons_of_mem _ hj)

theorem lineLost_clean {s : Machine.State} {l : L1Line} (h : CleanLine s.mem l) : s.lineLost l = false := by
  have hd : l.dirty.any id = false := by
    rw [List.any_eq_false]
    intro d hd
    rw [h.1 d hd]
    exact Bool.false_ne_true
  rw [State.lineLost, hd, Bool.false_and]

/-- Clean lines that are written back leave memory as it is. -/
theorem l1Drop_clean {s : Machine.State} (p : L1Line → Bool) (h : CleanLines s) :
    (s.l1Drop p).mem = s.mem ∧ (s.l1Drop p).path.l1 = s.path.l1.filter (fun l => !p l) := by
  have hlost : (s.path.l1.filter p).filter (fun l => s.lineLost l) = [] := by
    rw [List.filter_eq_nil_iff]
    intro l hl
    rw [lineLost_clean (h l (List.mem_filter.1 hl).1)]
    exact Bool.false_ne_true
  unfold State.l1Drop
  simp only [hlost, List.foldl_nil]
  exact ⟨foldl_flush_clean _ _ fun l hl => h l (List.mem_filter.1 (List.mem_filter.1 hl).1).1, trivial⟩

theorem l1Flush_clean {s : Machine.State} (o : Nat) (p : L1Line → Bool) (h : CleanLines s) : (s.l1Flush o p).mem = s.mem ∧ CleanLines (s.l1Flush o p) := by
  obtain ⟨hm, hl⟩ := l1Drop_clean (s := s) (fun l => l.owner == o && p l) h
  refine ⟨hm, fun l hmem => ?_⟩
  have hmem' : l ∈ (s.l1Drop (fun l => l.owner == o && p l)).path.l1 := hmem
  rw [hl] at hmem'
  show CleanLine (s.l1Drop _).mem l
  rw [hm]
  exact h l (List.mem_filter.1 hmem').1

theorem addLine_clean {s : Machine.State} {l : L1Line} (h : CleanLines s) (hl : CleanLine s.mem l) :
    (s.addLine l).mem = s.mem ∧ CleanLines (s.addLine l) := by
  have hadd (t : Machine.State) (ht : t.mem = s.mem ∧ CleanLines t) :
      CleanLines { t with path := { t.path with l1 := l :: t.path.l1 } } := by
    intro k hk
    rcases List.mem_cons.1 hk with rfl | hk
    · show CleanLine t.mem k
      rw [ht.1]
      exact hl
    · exact ht.2 k hk
  unfold State.addLine
  dsimp only
  split
  · next o _ =>
    split
    · have hf := l1Flush_clean o.owner (fun k => k.line == o.line) h
      exact ⟨hf.1, hadd _ hf⟩
    · exact ⟨rfl, hadd s ⟨rfl, h⟩⟩
  · exact ⟨rfl, hadd s ⟨rfl, h⟩⟩

/-- A read of bytes of one line gives those of memory. -/
theorem lineRead_clean {s : Machine.State} (p : Seat) (sc : Scope) (c : Bool) {pa n : Nat} (h : CleanLines s) (hn : n + pa % 128 ≤ 128) :
    (s.lineRead p sc c pa n).1 = Memory.read s.mem pa n ∧ (s.lineRead p sc c pa n).2.mem = s.mem ∧ CleanLines (s.lineRead p sc c pa n).2 := by
  have hfree : CleanLines { s with free := s.free + 1 } := h
  unfold State.lineRead
  split
  · split
    · next o _ _ l hl =>
      have hline : l.line = pa / 128 := by
        have := List.find?_some hl
        simp only [Bool.and_eq_true, beq_iff_eq] at this
        exact this.2
      have hbytes := (h l (List.mem_of_find?_eq_some hl)).2
      refine ⟨?_, ?_⟩
      · refine List.map_congr_left fun i hi => ?_
        rw [List.mem_range] at hi
        rw [hbytes, hline]
        simp only [Memory.read, List.getD_eq_getElem?_getD, List.getElem?_map]
        rw [List.getElem?_range (by omega), Option.map_some, Option.getD_some]
        congr 1
        omega
      · split
        · exact ⟨rfl, hfree⟩
        · exact l1Flush_clean _ _ hfree
    · dsimp only
      refine ⟨rfl, ?_⟩
      split
      · refine addLine_clean hfree ⟨fun d hd => ?_, rfl⟩
        exact List.eq_of_mem_replicate hd
      · exact ⟨rfl, hfree⟩
  · have hs : ((match s.l1Any p with | some o => s.l1Flush o (fun l => l.line == pa / 128) | none => s).mem = s.mem) ∧
        CleanLines (match s.l1Any p with | some o => s.l1Flush o (fun l => l.line == pa / 128) | none => s) := by
      cases s.l1Any p with
      | none => exact ⟨rfl, h⟩
      | some o => exact l1Flush_clean _ _ h
    exact ⟨congrArg (Memory.read · pa n) hs.1, hs⟩

theorem spanRead_clean {s : Machine.State} (p : Seat) (sc : Scope) (c : Bool) {k pa n : Nat} (h : CleanLines s) (hn : n + pa % 128 ≤ 128 * k) :
    (s.spanRead p sc c k pa n).1 = Memory.read s.mem pa n ∧ (s.spanRead p sc c k pa n).2.mem = s.mem := by
  induction k generalizing s pa n with
  | zero =>
    have h0 : n = 0 := by omega
    subst h0
    exact ⟨rfl, rfl⟩
  | succ k ih =>
    unfold State.spanRead
    by_cases hone : n ≤ 128 - pa % 128
    · rw [if_pos hone]
      obtain ⟨h1, h2, -⟩ := lineRead_clean (n := n) p sc c h (pa := pa) (by omega)
      exact ⟨h1, h2⟩
    · rw [if_neg hone]
      obtain ⟨h1, h2, h3⟩ := lineRead_clean (n := 128 - pa % 128) p sc c h (pa := pa) (by omega)
      obtain ⟨g1, g2⟩ := ih (pa := pa + (128 - pa % 128)) (n := n - (128 - pa % 128)) h3 (by omega)
      refine ⟨?_, g2.trans h2⟩
      dsimp only
      rw [h1, g1, h2, ← Memory.read_add, Nat.add_sub_cancel' (by omega)]

/-- A read of an agent from memory of this device, past an L1 without lines. -/
theorem agentLoad_clean {s : Machine.State} {ag : Agent} {sc : Scope} {e : W64} {pa n : Nat} (hl : s.path.l1 = [])
    (hb : s.badBytes (.mem pa) n = false) (hs : s.severed (s.clusterOf ag) (.mem pa) = false) :
    (s.agentLoad ag sc e (.mem pa) n).1 = Memory.read s.mem pa n ∧ (s.agentLoad ag sc e (.mem pa) n).2.mem = s.mem := by
  obtain ⟨u, hu⟩ := useHbm_withUsed s pa n
  have hclean : CleanLines (s.withUsed u) := fun l hm => by
    have hm' : l ∈ s.path.l1 := hm
    rw [hl] at hm'
    cases hm'
  have hload : s.agentLoad ag sc e (.mem pa) n = (s.withUsed u).spanRead (s.seat ag) sc (cacheable e) (n / 128 + 2) pa n := by
    unfold State.agentLoad
    dsimp only
    rw [hb, Bool.false_and, if_neg Bool.false_ne_true]
    unfold State.agentGet
    dsimp only
    rw [hs, Bool.false_and, if_neg Bool.false_ne_true, hu]
    rfl
  rw [hload]
  exact spanRead_clean _ _ _ hclean (by omega)

/-- A write of an agent to memory of this device, past an L1 without lines. -/
theorem agentPut_clean {s : Machine.State} {ag : Agent} {sc : Scope} {e : W64} {pa : Nat} {bs : List Byte} (hl : s.path.l1 = [])
    (hs : s.severed (s.clusterOf ag) (.mem pa) = false) : (s.agentPut ag sc e (.mem pa) bs).mem = Memory.write s.mem pa (s.disown pa bs) := by
  obtain ⟨u, hu⟩ := useHbm_withUsed s pa bs.length
  have hflush (o : Nat) (p : L1Line → Bool) : ((s.withUsed u).l1Flush o p).mem = s.mem :=
    (l1Flush_clean o p (s := s.withUsed u) fun l hm => by
      have hm' : l ∈ s.path.l1 := hm
      rw [hl] at hm'
      cases hm').1
  have hline (o : Nat) : (s.withUsed u).l1Line o pa = none := by
    show s.path.l1.find? _ = none
    rw [hl]
    rfl
  unfold State.agentPut
  dsimp only
  rw [hs, Bool.false_and, if_neg Bool.false_ne_true, hu]
  unfold State.cachedWrite
  dsimp only
  split
  · rw [hline]
    rfl
  · show Memory.write (State.mem _) pa _ = _
    cases (s.withUsed u).l1Any (s.seat ag) with
    | none => rfl
    | some o =>
      dsimp only
      rw [hflush]
      rfl

/-! ### Causes of translation faults -/

theorem walkFrom_err (s : Machine.State) (u : Nat) {level table va c : Nat} (h : s.walkFrom u level table va = .err c) : 0x20 ≤ c ∧ c ≤ 0x25 := by
  induction level generalizing table with
  | zero =>
    unfold State.walkFrom at h
    dsimp only at h
    split at h
    · exact nomatch h
    · split at h
      · exact nomatch h
      · cases h; decide
  | succ l ih =>
    unfold State.walkFrom at h
    dsimp only at h
    split at h
    · exact nomatch h
    · split at h
      · split at h
        · exact nomatch h
        · cases h; decide
      · split at h
        · cases h; decide
        · split at h
          · exact ih h
          · cases h; decide

theorem leafRights_cause {s : Machine.State} {va c : Nat} {e : W64} {rd wr : Bool} (h : s.leafRights va e rd wr = some c) : 0x20 ≤ c ∧ c ≤ 0x25 := by
  unfold State.leafRights at h
  dsimp only at h
  split at h
  · split_ifs at h <;> (cases h; decide)
  · split_ifs at h
    cases h
    decide

theorem leafRules_cause {s : Machine.State} {x va c : Nat} {e : W64} (h : s.leafRules x va e = some c) : 0x20 ≤ c ∧ c ≤ 0x25 := by
  unfold State.leafRules at h
  dsimp only at h
  split_ifs at h <;> (cases h; decide)

/-- A translation that fails names one of the causes of translation (Table 27-2). -/
theorem xlate_cause {s : Machine.State} {u x va c : Nat} {rd wr : Bool} (h : s.xlate u x va rd wr = .error c) : 0x20 ≤ c ∧ c ≤ 0x25 := by
  unfold State.xlate at h
  split at h
  · cases h; decide
  · split at h
    · split at h
      · next hr => cases h; exact leafRights_cause hr
      · exact nomatch h
    · split at h
      · next hw => cases h; exact walkFrom_err s u hw
      · exact nomatch h
      · split at h
        · next hf =>
          cases h
          unfold State.leafFault at hf
          split at hf
          · next hr => cases hf; exact leafRules_cause hr
          · exact leafRights_cause hf
        · exact nomatch h

theorem raiseStop_fault {s : Machine.State} {u x va c : Nat} {rd wr : Bool} (ag : Agent) (a : Nat) (h : s.xlate u x va rd wr = .error c) :
    s.raiseStop ag c a = s.faultHere ag c none a 0 := if_pos (xlate_cause h)

/-! ### Entries read and stored (R44, R45) -/

theorem clusterOf_wave {s : Machine.State} {w : Nat} {v : Wave} (hv : s.wave w = some v) : s.clusterOf (.wave w) = v.cluster := by
  simp only [State.clusterOf, hv]

section
variable {s : Machine.State} {w : Nat} {v : Wave} (hv : s.wave w = some v)

theorem writeTop_full {e : List W64} (h : v.dstkdepth = v.dstklen) : s.writeTop w v e = .stop 0x08 0 := if_pos h

theorem writeTop_fault {e : List W64} {c : Nat} (h : v.dstkdepth ≠ v.dstklen)
    (hx : s.xlate (s.tlbOf (.wave w)) v.ctx (v.entryVa v.dstkdepth.toNat) false true = .error c) :
    s.writeTop w v e = .stop c (v.entryVa v.dstkdepth.toNat) := by
  simp only [State.writeTop, if_neg h, hx]

theorem writeTop_deferred {e : List W64} {pa : Nat} {leaf : W64} (h : v.dstkdepth ≠ v.dstklen)
    (hx : s.xlate (s.tlbOf (.wave w)) v.ctx (v.entryVa v.dstkdepth.toNat) false true = .ok (pa, leaf)) (hd : bitAt leaf 53 = true) :
    s.writeTop w v e = .stop 0x0A (v.entryVa v.dstkdepth.toNat) := by
  simp only [State.writeTop, if_neg h, hx, hd, if_true]

theorem words_write (m : Mem) (a : Nat) {e : List W64} (he : e.length = 4) : Memory.words (Memory.write m a (wordBytes e)) a 4 = e := by
  refine List.ext_getElem (by simp [Memory.words, he]) fun i h1 h2 => ?_
  simp only [Memory.words, List.getElem_map, List.getElem_range]
  exact Memory.w64_write_wordBytes m a (List.getElem?_eq_getElem h2)

include hv in
/-- An entry that a wave stores, whose translation has been paid for. -/
theorem entry_stored {q : Machine.State} {e : List W64} {pa : Nat} (leaf : W64) (hq : Charged s q) (he : e.length = 4) :
    EntryStored s (q.agentPut (.wave w) .wave leaf (s.home pa) (wordBytes e)) v pa e := by
  intro a ha hs hl
  have hcl : q.severed (q.clusterOf (.wave w)) (.mem a) = false := by
    rw [clusterOf_wave (v := v) (((Outer.ofCharged hq).wave w).trans hv)]
    obtain ⟨_, _, _, _, rfl, -⟩ := hq
    exact hs
  have hlines : q.path.l1 = [] := by
    obtain ⟨_, _, _, _, rfl, -⟩ := hq
    exact hl
  have hqm : q.mem = s.mem := by
    obtain ⟨_, _, _, _, rfl, -⟩ := hq
    rfl
  have hmem := agentPut_clean (sc := .wave) (e := leaf) (bs := wordBytes e) hlines hcl
  have hlen : (wordBytes e).length = 32 := by rw [length_wordBytes, he]
  rw [ha]
  refine ⟨fun hopen => ?_, fun x hx => ?_, fun x => ?_⟩
  · rw [hmem, disown_of_open fun i hi => (barred_charged hq false _).trans (hopen i (by omega))]
    exact words_write _ a he
  · rw [hmem, Memory.get_write_outside _ _ _ _ (by rw [length_disown, hlen]; exact hx), hqm]
  · rw [((Outer.ofCharged hq).trans (Outer.agentPut q (.wave w) .wave leaf (wordBytes e) (by nofun))).spad]

include hv in
/-- An entry that is pushed stands where its translation leads. -/
theorem writeTop_pushes {e : List W64} {pa : Nat} {leaf : W64} (h : Pushes s w v pa leaf) (he : e.length = 4) :
    ∃ t, s.writeTop w v e = .ok t ∧ Outer s t ∧ EntryStored s t v pa e := by
  obtain ⟨hroom, hpage, hplain, halone, hwalks⟩ := h
  have hq : Charged s (s.keepTlb (s.tlbOf (.wave w)) v.ctx (v.entryVa v.dstkdepth.toNat) leaf) := Charged.keepTlb _ _ _ _ _
  refine ⟨_, ?_, (Outer.ofCharged hq).trans (Outer.agentPut _ (.wave w) .wave leaf (wordBytes e) (Outer.home_ne_spad s pa)),
    entry_stored hv leaf hq he⟩
  simp only [State.writeTop, if_neg hroom, hpage, hplain, halone, hwalks, Bool.or_self, Bool.false_eq_true, if_false]
  rfl

theorem readTop_fault {c : Nat} (hx : s.xlate (s.tlbOf (.wave w)) v.ctx (v.entryVa (v.dstkdepth.toNat - 1)) true false = .error c) :
    s.readTop w v = .stop c (v.entryVa (v.dstkdepth.toNat - 1)) := by
  simp only [State.readTop, hx]

theorem words_of_read (m : Mem) (a : Nat) :
    (List.range 4).map (fun i => BitVec.ofNat 64 (leNat (((Memory.read m a 32).drop (8 * i)).take 8))) = Memory.words m a 4 := by
  refine List.map_congr_left fun i hi => ?_
  rw [List.mem_range] at hi
  have hsplit : Memory.read m a 32 = Memory.read m a (8 * i) ++ (Memory.read m (a + 8 * i) 8 ++ Memory.read m (a + 8 * i + 8) (24 - 8 * i)) := by
    rw [← Memory.read_add, ← Memory.read_add]
    congr 1
    omega
  rw [hsplit, List.drop_left' (by simp [Memory.read]), List.take_left' (by simp [Memory.read])]
  rfl

/-- Four words of 32 bytes. -/
def quadOf (bs : List Byte) : List W64 := (List.range 4).map (fun i => BitVec.ofNat 64 (leNat ((bs.drop (8 * i)).take 8)))

include hv in
theorem entry_read {q : Machine.State} {pa : Nat} {e : List W64} (leaf : W64) (hq : Charged s q) (he : EntryAt s v pa e) :
    quadOf (q.agentLoad (.wave w) .wave leaf (s.home pa) 32).1 = e ∧ (q.agentLoad (.wave w) .wave leaf (s.home pa) 32).2.mem = s.mem := by
  obtain ⟨⟨a, ha, hs, hb, rfl⟩, hl⟩ := he
  have hwave := ((Outer.ofCharged hq).wave w).trans hv
  obtain ⟨free, tlb, nodes, used, rfl, -⟩ := hq
  obtain ⟨h1, h2⟩ := agentLoad_clean (s := s.spend free tlb nodes used) (ag := .wave w) (sc := .wave) (e := leaf) (pa := a) (n := 32) hl hb
    (by rw [clusterOf_wave hwave]; exact hs)
  rw [ha, h1]
  exact ⟨words_of_read _ a, h2⟩

include hv in
/-- An entry that is read: its words where it stands in this device's memory, whose bytes are as they were. -/
theorem readTop_pops {pa : Nat} (h : Pops s w v pa) :
    ∃ e t, s.readTop w v = .ok (e, t) ∧ Outer s t ∧ ∀ e', EntryAt s v pa e' → e = e' ∧ t.mem = s.mem := by
  obtain ⟨-, ⟨leaf, hpage⟩, halone, hwalks⟩ := h
  have hq : Charged s (s.keepTlb (s.tlbOf (.wave w)) v.ctx (v.entryVa (v.dstkdepth.toNat - 1)) leaf) := Charged.keepTlb _ _ _ _ _
  refine ⟨quadOf _, _, ?_, (Outer.ofCharged hq).trans (Outer.agentLoad _ (.wave w) .wave leaf (s.home pa) 32), fun e' he => entry_read hv leaf hq he⟩
  simp only [State.readTop, hpage, halone, hwalks, Bool.or_self, Bool.false_eq_true, if_false]
  rfl

end

/-! ### Waves that are put in place -/

/-- A path that is the same but for the clause that it holds. -/
structure PathLike (p q : Path) : Prop where
  st : q.st = p.st
  pc : q.pc = p.pc
  depth : q.depth = p.depth
  mask : q.mask = p.mask

theorem PathLike.refl (p : Path) : PathLike p p := ⟨rfl, rfl, rfl, rfl⟩

/-- A wave that is the same but for its stop, its records and the clauses that its paths hold. -/
structure WaveLike (v u : Wave) : Prop where
  alt : u.alt = v.alt
  sreg : u.sreg = v.sreg
  vreg : u.vreg = v.vreg
  fpstat : u.fpstat = v.fpstat
  dstkdepth : u.dstkdepth = v.dstkdepth
  other : u.other = v.other
  path : PathLike v.path u.path

theorem WaveLike.p0 {v u : Wave} (h : WaveLike v u) : PathLike v.p0 u.p0 := by
  have h1 := h.other
  have h2 := h.path
  unfold Wave.other at h1
  unfold Wave.path at h2
  rw [h.alt] at h1 h2
  cases hb : v.alt with
  | false => rw [hb] at h2; exact h2
  | true =>
    rw [hb] at h1
    have h3 : u.p0 = v.p0 := h1
    rw [h3]
    exact PathLike.refl _

theorem WaveLike.p1 {v u : Wave} (h : WaveLike v u) : PathLike v.p1 u.p1 := by
  have h1 := h.other
  have h2 := h.path
  unfold Wave.other at h1
  unfold Wave.path at h2
  rw [h.alt] at h1 h2
  cases hb : v.alt with
  | true => rw [hb] at h2; exact h2
  | false =>
    rw [hb] at h1
    have h3 : u.p1 = v.p1 := h1
    rw [h3]
    exact PathLike.refl _

theorem stepped_like {s : Machine.State} {w : Nat} {v : Wave} (hv : s.wave w = some v) :
    ∃ u, (s.stepped (.wave w)).wave w = some u ∧ WaveLike v u := by
  unfold State.stepped
  simp only [hv]
  split
  · refine ⟨_, State.setWave_wave_same _ _ _, ?_⟩
    cases hb : v.alt <;> exact ⟨by simp [Wave.halt, Wave.setPath, hb], by simp [Wave.halt, Wave.setPath, hb], by simp [Wave.halt, Wave.setPath, hb],
      by simp [Wave.halt, Wave.setPath, hb], by simp [Wave.halt, Wave.setPath, hb], by simp [Wave.halt, Wave.setPath, Wave.other, hb],
      by simp [Wave.halt, Wave.setPath, Wave.path, hb], by simp [Wave.halt, Wave.setPath, Wave.path, hb],
      by simp [Wave.halt, Wave.setPath, Wave.path, hb], by simp [Wave.halt, Wave.setPath, Wave.path, hb]⟩
  · exact ⟨v, hv, rfl, rfl, rfl, rfl, rfl, rfl, PathLike.refl _⟩

/-- A wave put in place once its checks have passed. -/
theorem setPassed_wave (s : Machine.State) (w : Nat) (v : Wave) : ∃ l, (s.setPassed w v).wave w = some { v with touched := l } :=
  ⟨_, State.setWave_wave_same _ _ _⟩

theorem setPassed_passing (s : Machine.State) (w : Nat) (v : Wave) : Passing (.wave w) s (s.setPassed w v) := by
  obtain ⟨hbytes, hrest, hwaves, hthreads⟩ := Passing.passes s (.wave w) false
  refine ⟨hbytes, hrest, fun i hi => ?_, hthreads⟩
  exact (State.setWave_wave_other _ w i _ (fun e => hi (by rw [e]))).trans (hwaves i hi)

theorem setPassed_issue (s : Machine.State) (w : Nat) (v : Wave) : (s.setPassed w v).issue = s.issue := passes_issue s (.wave w) false

/-- A wave that has been put in place, and stands behind its instruction. -/
def Machine.State.finish (s : Machine.State) (w : Nat) : Machine.State := s.unlatch.stepped (.wave w)

theorem finish_like {s : Machine.State} {w : Nat} {v : Wave} (hv : s.wave w = some v) : ∃ u, (s.finish w).wave w = some u ∧ WaveLike v u :=
  stepped_like (s := s.unlatch) hv

theorem finish_kept (s : Machine.State) (w : Nat) : Apart (.wave w) s (s.finish w) :=
  ((Kept.unlatch (.wave w) s [] [] false false).trans (Kept.stepped (.wave w) s.unlatch [] [] false false)).apart

theorem Passing.apart {ag : Agent} {s t u : Machine.State} (h : Passing ag s t) (g : Apart ag t u) : Passing ag s u := by
  refine ⟨fun a => ⟨(g.bytes a).1.trans (h.bytes a).1, (g.bytes a).2.trans (h.bytes a).2⟩, ?_, fun w hw => (g.waves w hw).trans (h.waves w hw),
    fun k hk => (g.threads k hk).trans (h.threads k hk)⟩
  rw [g.rest]
  exact h.rest

theorem Apart.passing {ag : Agent} {s t : Machine.State} (h : Apart ag s t) : Passing ag s t := (Passing.refl ag s).apart h

/-- A wave put in place by an instruction that is over. -/
theorem placed_wave (s : Machine.State) (w : Nat) (v : Wave) :
    ∃ u, ((s.setPassed w v).finish w).wave w = some u ∧ WaveLike v u := by
  obtain ⟨l, hl⟩ := setPassed_wave s w v
  obtain ⟨u, hu, hlike⟩ := finish_like hl
  exact ⟨u, hu, hlike.alt, hlike.sreg, hlike.vreg, hlike.fpstat, hlike.dstkdepth, hlike.other, hlike.path⟩

theorem placed_passing (s : Machine.State) (w : Nat) (v : Wave) : Passing (.wave w) s ((s.setPassed w v).finish w) :=
  (setPassed_passing s w v).apart (finish_kept _ w)

/-- Memory and scratchpads as a stack step left them. -/
theorem EntryStored.ofPassing {s t r : Machine.State} {ag : Agent} {v : Wave} {pa : Nat} {e : List W64} (h : EntryStored s t v pa e)
    (hp : Passing ag t r) : EntryStored s r v pa e := by
  intro a ha hs hl
  obtain ⟨h1, h2, h3⟩ := h a ha hs hl
  have hm (x : Nat) : Memory.get r.mem x = Memory.get t.mem x := (hp.bytes x).1
  refine ⟨fun hopen => ?_, fun x hx => (hm x).trans (h2 x hx), fun x => (hp.bytes x).2.trans (h3 x)⟩
  rw [← h1 hopen]
  refine List.map_congr_left fun i _ => ?_
  unfold Memory.w64
  rw [Memory.num_eq_of_get fun j _ => hm _]

end Sys2Proof

/-! BSPLIT, BJOIN, DPUSH and DPOP (R42 to R45, R121 to R123). -/

namespace Sys2Proof

open Sys2Proof.Machine

theorem getS_of_sreg {v u : Wave} (h : WaveLike v u) (n : Nat) : u.getS n = v.getS n := by
  have hm := h.path.mask
  simp only [Wave.getS, h.sreg, hm]

/-- A wave whose stop is not a fault. -/
theorem raiseStop_trap {s : Machine.State} {ag : Agent} {c : Nat} (a : Nat) (h : ¬(0x20 ≤ c ∧ c ≤ 0x25)) : s.raiseStop ag c a = s.trap ag c none 0 a :=
  if_neg h

/-! ### BSPLIT (R42, R121) -/

/-- A side of a split: its lanes run at a clause, one level deeper. -/
def sideOf (v : Wave) (m : Mask) (pc : BitVec 57) : Path := ⟨.running, pc, 1, v.path.depth + 1, m, none, .none, false⟩

/-- A wave that has split: its slot keeps the other lanes, the other slot runs the taken ones. -/
def Machine.Wave.halves (v : Wave) (taken fall : Mask) (pc next : BitVec 57) : Wave := (v.setPath (sideOf v fall next)).setOther (sideOf v taken pc)

theorem halves_fields (v : Wave) (taken fall : Mask) (pc next : BitVec 57) :
    (v.halves taken fall pc next).path = sideOf v fall next ∧ (v.halves taken fall pc next).other = sideOf v taken pc ∧
      (v.halves taken fall pc next).sreg = v.sreg ∧ (v.halves taken fall pc next).vreg = v.vreg ∧
      (v.halves taken fall pc next).dstkdepth = v.dstkdepth ∧ (v.halves taken fall pc next).fpstat = v.fpstat := by
  unfold Wave.halves Wave.setOther Wave.setPath Wave.path Wave.other
  cases hb : v.alt <;> simp [hb]

section
variable {s : Machine.State} {w : Nat} {v : Wave} {f : SF} {pc : BitVec 57} (hi : s.issue = some ⟨.wave w, false⟩) (hv : s.wave w = some v)
  (ht : s.target (.wave w) f = some pc) (hr : v.inRange f.sb 0 = true)
include hi hv ht hr

/-- BSPLIT by its lanes. -/
theorem exec_bsplit : Machine.exec (.bsplit f) s = .next (
    let taken := v.splitLanes s (.wave w) f &&& v.path.mask
    let fall := v.path.mask &&& ~~~taken
    if taken = 0 then s.jump (.wave w) (s.nextPc (.wave w)) .none
    else if fall = 0 then s.jump (.wave w) pc .none
    else s.stackEnd (.wave w) (s.split w v taken fall pc (s.nextPc (.wave w)))) := by
  show execBsplit f s = _
  unfold execBsplit
  rw [transfer_of_target _ hi ht]
  simp only [hv, hr, if_true]

end

section
variable {s : Machine.State} {w : Nat} {v : Wave} (taken fall : Mask) (pc next : BitVec 57)

theorem split_deep (h : v.path.depth = 63) : s.split w v taken fall pc next = .stop 0x07 0 := if_pos h

variable (h : v.path.depth ≠ 63)
include h

theorem split_alone (he : v.other.st = .empty) :
    s.split w v taken fall pc next = .ok ((s.setPassed w (v.halves taken fall pc next)).finish w) :=
  (if_neg h).trans (if_pos he)

variable (he : v.other.st ≠ .empty)
include he

theorem split_stops {c a : Nat} (hw : s.writeTop w v (entryOf v.other) = .stop c a) : s.split w v taken fall pc next = .stop c a := by
  refine (if_neg h).trans ((if_neg he).trans ?_)
  rw [hw]

theorem split_pushes {t : Machine.State} (hw : s.writeTop w v (entryOf v.other) = .ok t) : s.split w v taken fall pc next =
    .ok ((t.setPassed w { v.halves taken fall pc next with dstkdepth := v.dstkdepth + 1 }).finish w) := by
  refine (if_neg h).trans ((if_neg he).trans ?_)
  rw [hw]
  rfl

end

theorem nextPc_wave {s : Machine.State} {w : Nat} {v : Wave} (hv : s.wave w = some v) : s.nextPc (.wave w) = v.path.pc + 64 := by
  simp only [State.nextPc, State.pcOf, hv]

/-- A jump of a wave without a wait. -/
theorem jump_kept {s : Machine.State} {w : Nat} {v : Wave} (pc : BitVec 57) (hv : s.wave w = some v) :
    ∃ u, (s.jump (.wave w) pc .none).wave w = some u ∧ u.path.pc = pc ∧ WaveKept v u [] [] false false ∧
      Kept (.wave w) s (s.jump (.wave w) pc .none) [] [] false false := by
  obtain ⟨u, hu, hpc, -, -⟩ := jump_wave pc .none hv
  have hk := Kept.jump (.wave w) s pc .none [] [] false false
  obtain ⟨u', hu', hkept⟩ := hk.wave w v rfl hv
  have : u' = u := Option.some.inj (hu'.symm.trans hu)
  subst this
  exact ⟨u', hu, hpc, hkept, hk⟩

/-- Settles O26: each case of R42 by what the other slot and the stack hold. -/
theorem split : Obligations.Split := by
  unfold Obligations.Split
  rintro s w v f pc ⟨hi, -, -⟩ hv ht hr taken fall
  have hexec := exec_bsplit hi hv ht hr
  rw [nextPc_wave hv] at hexec
  refine ⟨fun h0 => ?_, fun h0 h1 => ?_, fun h0 h1 hd he => ?_, fun h0 h1 hd he => ?_, fun h0 h1 hd => ?_⟩
  · obtain ⟨u, hu, hpc, -, hk⟩ := jump_kept (v.path.pc + 64) hv
    exact ⟨_, u, hexec.trans (congrArg Host.Outcome.next (if_pos h0)), hu, hpc, hk⟩
  · obtain ⟨u, hu, hpc, -, hk⟩ := jump_kept pc hv
    exact ⟨_, u, hexec.trans (congrArg Host.Outcome.next ((if_neg h0).trans (if_pos h1))), hu, hpc, hk⟩
  all_goals replace hexec := hexec.trans (congrArg Host.Outcome.next ((if_neg h0).trans (if_neg h1)))
  · rw [split_alone _ _ _ _ hd he] at hexec
    obtain ⟨u, hu, hlike⟩ := placed_wave s w (v.halves taken fall pc (v.path.pc + 64))
    obtain ⟨hp, ho, h2, h3, h4, h5⟩ := halves_fields v taken fall pc (v.path.pc + 64)
    have hpath := hlike.path
    have hother : u.other = sideOf v taken pc := hlike.other.trans ho
    rw [hp] at hpath
    exact ⟨_, u, hexec, hu, placed_passing _ _ _, hlike.sreg.trans h2, hlike.vreg.trans h3, hpath.mask, hpath.pc, hpath.depth, hpath.st,
      congrArg Path.mask hother, congrArg Path.pc hother, congrArg Path.depth hother, congrArg Path.st hother, hlike.dstkdepth.trans h4, hlike.fpstat.trans h5⟩
  · intro va
    refine ⟨fun hf => ?_, fun hroom => ⟨fun c hx => ?_, fun pa leaf hx hdef => ?_⟩, fun pa leaf hpush => ?_⟩
    · rw [split_stops _ _ _ _ hd he (writeTop_full hf)] at hexec
      exact hexec.trans (congrArg Host.Outcome.next (raiseStop_trap 0 (by decide)))
    · rw [split_stops _ _ _ _ hd he (writeTop_fault hroom hx)] at hexec
      exact hexec.trans (congrArg Host.Outcome.next (raiseStop_fault _ _ hx))
    · rw [split_stops _ _ _ _ hd he (writeTop_deferred hroom hx hdef)] at hexec
      exact hexec.trans (congrArg Host.Outcome.next (raiseStop_trap _ (by decide)))
    · obtain ⟨t, hw, hout, hstored⟩ := writeTop_pushes hv hpush (e := entryOf v.other) rfl
      rw [split_pushes _ _ _ _ hd he hw] at hexec
      obtain ⟨u, hu, hlike⟩ := placed_wave t w { v.halves taken fall pc (v.path.pc + 64) with dstkdepth := v.dstkdepth + 1 }
      obtain ⟨hp, ho, h2, h3, h4, h5⟩ := halves_fields v taken fall pc (v.path.pc + 64)
      have hpath : PathLike (sideOf v fall (v.path.pc + 64)) u.path := hp ▸ hlike.path
      have hother : u.other = sideOf v taken pc := hlike.other.trans ho
      exact ⟨_, u, hexec, hu, hstored.ofPassing (placed_passing _ _ _), hlike.sreg.trans h2, hlike.vreg.trans h3, hpath.mask, hpath.pc,
        hpath.depth, hpath.st, congrArg Path.mask hother, congrArg Path.pc hother, congrArg Path.depth hother, congrArg Path.st hother, hlike.dstkdepth, hlike.fpstat.trans h5⟩
  · rw [split_deep _ _ _ _ hd] at hexec
    exact hexec.trans (congrArg Host.Outcome.next (raiseStop_trap 0 (by decide)))

/-! ### BJOIN (R43, R122) -/

theorem slotAt_alt (v : Wave) : v.slotAt v.alt = v.path := by
  unfold Wave.slotAt Wave.path
  rfl

theorem slotAt_not_alt (v : Wave) : v.slotAt (!v.alt) = v.other := by
  unfold Wave.slotAt Wave.other
  cases v.alt <;> rfl

/-- A path that goes on at a clause. -/
def Machine.Path.onward (p : Path) (pc : BitVec 57) : Path := { p with st := .running, pc := pc, slot := 1, code := Option.none, wait := .none, named := false }

/-- Both paths in the primary slot, one level up (R43). -/
def Machine.Wave.merged (v : Wave) (pc : BitVec 57) : Wave :=
  { v with p0 := { v.path.onward pc with depth := v.path.depth - 1, mask := v.path.mask ||| v.other.mask }, p1 := Path.none }

section
variable {v : Wave} (pc : BitVec 57) (h : v.path.depth ≠ 0)
include h

theorem join_up (he : v.other.st = .empty ∨ v.other.depth < v.path.depth) :
    v.join v.alt pc = (v.setPath { v.path.onward pc with depth := v.path.depth - 1 }, none) := by
  unfold Wave.join
  rw [slotAt_alt, slotAt_not_alt]
  dsimp only
  rw [if_neg h, if_pos he]
  rfl

variable (he : v.other.st ≠ .empty)
include he

theorem join_merges (hj : v.other.st = .joined) (hd : v.other.depth = v.path.depth) : v.join v.alt pc = (v.merged pc, some true) := by
  have hn : ¬(v.other.st = .empty ∨ v.other.depth < v.path.depth) := by
    rintro (h1 | h1)
    · exact he h1
    · omega
  unfold Wave.join
  rw [slotAt_alt, slotAt_not_alt]
  dsimp only
  rw [if_neg h, if_neg hn, if_pos ⟨hj, hd⟩]
  rfl

theorem join_waits (hle : v.path.depth ≤ v.other.depth) (hn : ¬(v.other.st = .joined ∧ v.other.depth = v.path.depth)) :
    v.join v.alt pc = (v.setPath { v.path.onward pc with st := .joined }, none) := by
  have hn' : ¬(v.other.st = .empty ∨ v.other.depth < v.path.depth) := by
    rintro (h1 | h1)
    · exact he h1
    · omega
  unfold Wave.join
  rw [slotAt_alt, slotAt_not_alt]
  dsimp only
  rw [if_neg h, if_neg hn', if_neg hn]
  rfl

end

section
variable {s : Machine.State} {w : Nat} {v : Wave} {f : SF} (hi : s.issue = some ⟨.wave w, false⟩) (hv : s.wave w = some v)
include hi hv

theorem exec_bjoin_outer (h : v.path.depth = 0) : Machine.exec (.bjoin f) s = .next (s.jump (.wave w) (v.path.pc + 64) .none) := by
  rw [← nextPc_wave hv]
  show execBjoin f s = _
  simp only [execBjoin, issued, hi, hv, if_pos h]

theorem exec_bjoin_slot {v1 : Wave} (h : v.path.depth ≠ 0) (hj : v.join v.alt (v.path.pc + 64) = (v1, none)) :
    Machine.exec (.bjoin f) s = .next ((s.setWave w v1).finish w) := by
  rw [← nextPc_wave hv] at hj
  show execBjoin f s = _
  simp only [execBjoin, issued, hi, hv, if_neg h, hj]
  rfl

theorem exec_bjoin_empties {v1 : Wave} {b : Bool} (h : v.path.depth ≠ 0) (hj : v.join v.alt (v.path.pc + 64) = (v1, some b)) :
    Machine.exec (.bjoin f) s = .next (s.stackEnd (.wave w) (s.emptied w v1 b)) := by
  rw [← nextPc_wave hv] at hj
  show execBjoin f s = _
  simp only [execBjoin, issued, hi, hv, if_neg h, hj]

end

/-- A wave that goes on with another path in its slot. -/
theorem moved_path {s : Machine.State} {w : Nat} {v : Wave} (p : Path) : ∃ u, ((s.setWave w (v.setPath p)).finish w).wave w = some u ∧
    Passing (.wave w) s ((s.setWave w (v.setPath p)).finish w) ∧ u.sreg = v.sreg ∧ u.vreg = v.vreg ∧ u.fpstat = v.fpstat ∧
      u.dstkdepth = v.dstkdepth ∧ PathLike p u.path ∧ u.other = v.other := by
  obtain ⟨u, hu, hlike⟩ := finish_like (State.setWave_wave_same s w (v.setPath p))
  have hset : Passing (.wave w) s (s.setWave w (v.setPath p)) :=
    ⟨fun _ => ⟨rfl, rfl⟩, rfl, fun i hi => State.setWave_wave_other s w i _ (fun e => hi (by rw [e])), fun _ _ => rfl⟩
  refine ⟨u, hu, hset.apart (finish_kept _ w), hlike.sreg.trans (by simp), hlike.vreg.trans (by simp), hlike.fpstat.trans (by simp),
    hlike.dstkdepth.trans (by simp), ?_, hlike.other.trans (by simp)⟩
  have hpath := hlike.path
  rwa [Wave.setPath_path] at hpath

/-- A path that goes to a clause. -/
def Machine.Path.jumped (p : Path) (pc : BitVec 57) : Path := { p with pc := pc, slot := 1, code := Option.none, named := false, wait := .none }

theorem jump_eq {s : Machine.State} {w : Nat} {v : Wave} (pc : BitVec 57) (hv : s.wave w = some v) :
    s.jump (.wave w) pc .none = (s.setWave w (v.setPath (v.path.jumped pc))).finish w := by
  unfold State.jump State.goto
  simp only [hv]
  rfl

/-! ### Entries popped into a slot -/

/-- The path that an entry names, where the primary slot runs at a depth (R43; log entry 33). -/
theorem place_popped {v : Wave} (e : List W64) (hst : v.p0.st = .running) :
    ∃ p, v.place true (pathOf e) = ({ v with p1 := p }, none) ∧ p.pc = (pathOf e).pc ∧ p.mask = (pathOf e).mask ∧
      ((pathOf e).st = .joined ∧ (pathOf e).depth ≠ 0 ∧ (pathOf e).depth ≤ v.p0.depth → p.st = .joined ∧ p.depth = (pathOf e).depth) ∧
      ((pathOf e).st = .joined ∧ (pathOf e).depth ≠ 0 ∧ v.p0.depth < (pathOf e).depth → p.st = .running ∧ p.depth = (pathOf e).depth - 1) ∧
      ((pathOf e).st ≠ .joined ∨ (pathOf e).depth = 0 → p.st = .running ∧ p.depth = (pathOf e).depth) := by
  generalize pathOf e = x
  have hempty : v.p0.st ≠ .empty := by rw [hst]; nofun
  have hjoined : ¬(v.p0.st = .joined ∧ v.p0.depth = x.depth) := by rw [hst]; exact fun h => nomatch h.1
  by_cases hx : x.st = .joined
  · by_cases h0 : x.depth = 0
    · refine ⟨_, (if_pos hx).trans (if_pos h0), rfl, rfl, fun h => absurd h0 h.2.1, fun h => absurd h0 h.2.1, fun _ => ⟨rfl, rfl⟩⟩
    · by_cases hlt : v.p0.depth < x.depth
      · exact ⟨_, (if_pos hx).trans ((if_neg h0).trans (if_pos (.inr hlt))), rfl, rfl, fun h => absurd hlt (not_lt.2 h.2.2), fun _ => ⟨rfl, rfl⟩,
          fun h => absurd (h.resolve_left (not_not.2 hx)) h0⟩
      · refine ⟨_, (if_pos hx).trans ((if_neg h0).trans ((if_neg ?_).trans (if_neg hjoined))), rfl, rfl, fun _ => ⟨rfl, rfl⟩,
          fun h => absurd h.2.2 hlt, fun h => absurd (h.resolve_left (not_not.2 hx)) h0⟩
        exact fun h => h.elim hempty hlt
  · exact ⟨_, if_neg hx, rfl, rfl, fun h => absurd h.1 hx, fun h => absurd h.1 hx, fun _ => ⟨rfl, rfl⟩⟩

theorem pathOf_joined (e : List W64) : (pathOf e).st = .joined ↔ fld (wordAt e 0) 0 0 = 1 := by
  have hb : bitAt (wordAt e 0) 0 = decide (fld (wordAt e 0) 0 0 = 1) := by
    rw [bitAt_eq, fld_eq]
    norm_num
  unfold pathOf
  dsimp only
  rw [hb]
  by_cases h : fld (wordAt e 0) 0 0 = 1
  · simp [h]
  · simp [h]

section
variable {s : Machine.State} {w : Nat} {v : Wave}

theorem emptied_ends {v1 : Wave} {t : Machine.State} {alt : Bool} (hpop : s.popInto w v alt 3 = .ok (t, v1)) (hst : v1.p0.st = .running) :
    s.emptied w v alt = .ok ((t.setPassed w v1).finish w) := by
  have hend : v1.ended = false := by
    unfold Wave.ended
    rw [hst]
    rfl
  unfold State.emptied
  rw [hpop]
  dsimp only
  rw [hend, if_neg Bool.false_ne_true]
  rfl

theorem emptied_stops {c a : Nat} {alt : Bool} (hpop : s.popInto w v alt 3 = .stop c a) : s.emptied w v alt = .stop c a := by
  unfold State.emptied
  rw [hpop]

theorem popInto_none {alt : Bool} (h : v.dstkdepth = 0) : s.popInto w v alt 3 = .ok (s, v) := if_pos h

variable (h : v.dstkdepth ≠ 0)
include h

theorem popInto_fault {c a : Nat} {alt : Bool} (hr : s.readTop w v = .stop c a) : s.popInto w v alt 3 = .stop c a := by
  refine (if_neg h).trans ?_
  rw [hr]

variable {e : List W64} {t : Machine.State} (hr : s.readTop w v = .ok (e, t))
include hr

theorem popInto_corrupt {alt : Bool} (hb : entryBad e = true) : s.popInto w v alt 3 = .stop 0x0B 0 := by
  refine (if_neg h).trans ?_
  rw [hr]
  exact if_pos hb

theorem popInto_places {alt : Bool} {v1 : Wave} (hb : entryBad e = false)
    (hp : ({ v with dstkdepth := v.dstkdepth - 1 } : Wave).place alt (pathOf e) = (v1, none)) : s.popInto w v alt 3 = .ok (t, v1) := by
  refine (if_neg h).trans ?_
  rw [hr]
  dsimp only
  rw [hb, if_neg Bool.false_ne_true, hp]

end

theorem passing_bytes {s t u : Machine.State} {ag : Agent} (h : Outer s t) (hm : t.mem = s.mem) (hp : Passing ag t u) : SameBytes s u := by
  intro a
  obtain ⟨h1, h2⟩ := hp.bytes a
  rw [h1, h2, hm, h.spad]
  exact ⟨rfl, rfl⟩

/-- Settles O27: the cases of R43, and what the stack gives the slot that a merge leaves Empty. -/
theorem join : Obligations.Join := by
  unfold Obligations.Join
  rintro s w v f ⟨hi, -, -⟩ hv merges
  refine ⟨fun hm hd0 => ?_, fun hcase => ?_⟩
  · obtain ⟨h0, hj, hd⟩ := hm
    have he : v.other.st ≠ .empty := by rw [hj]; nofun
    have hexec := exec_bjoin_empties (f := f) hi hv h0 (join_merges (v.path.pc + 64) h0 he hj hd)
    have hread : s.readTop w (v.merged (v.path.pc + 64)) = s.readTop w v := rfl
    have hd1 : (v.merged (v.path.pc + 64)).dstkdepth ≠ 0 := hd0
    refine ⟨fun c hx => ?_, fun pa e hpop hat => ⟨fun hb => ?_, fun hb => ?_⟩⟩
    · rw [emptied_stops (popInto_fault hd1 (hread.trans (readTop_fault hx)))] at hexec
      exact hexec.trans (congrArg Host.Outcome.next (raiseStop_fault _ _ hx))
    · obtain ⟨e', t, hr, -, heq⟩ := readTop_pops hv hpop
      obtain ⟨rfl, -⟩ := heq e hat
      rw [emptied_stops (popInto_corrupt hd1 (hread.trans hr) hb)] at hexec
      exact hexec.trans (congrArg Host.Outcome.next (raiseStop_trap 0 (by decide)))
    · obtain ⟨e', t, hr, hout, heq⟩ := readTop_pops hv hpop
      obtain ⟨rfl, hmem⟩ := heq e hat
      obtain ⟨p, hplace, hpc, hmask, hjoined, hover, hrun⟩ :=
        place_popped (v := { v.merged (v.path.pc + 64) with dstkdepth := v.dstkdepth - 1 }) e' rfl
      rw [emptied_ends (popInto_places hd1 (hread.trans hr) hb hplace) rfl] at hexec
      obtain ⟨u, hu, hlike⟩ := placed_wave t w { { v.merged (v.path.pc + 64) with dstkdepth := v.dstkdepth - 1 } with p1 := p }
      have hp0 := hlike.p0
      have hp1 := hlike.p1
      rw [pathOf_joined] at hjoined hover
      rw [ne_eq, pathOf_joined] at hrun
      refine ⟨_, u, hexec, hu, passing_bytes hout hmem (placed_passing t w _), hlike.sreg, hlike.vreg, hlike.dstkdepth, hp0.pc, hp0.depth, hp0.mask,
        hp0.st, hp1.pc.trans hpc, hp1.mask.trans hmask, fun hc => ?_, fun hc => ?_, fun hc => ?_⟩
      · exact ⟨hp1.st.trans (hjoined hc).1, hp1.depth.trans (hjoined hc).2⟩
      · exact ⟨hp1.st.trans (hover hc).1, hp1.depth.trans (hover hc).2⟩
      · exact ⟨hp1.st.trans (hrun hc).1, hp1.depth.trans (hrun hc).2⟩
  · by_cases h0 : v.path.depth = 0
    · obtain ⟨u, hu, hpass, hsreg, hvreg, hfp, hdep, hpath, hother⟩ := moved_path (s := s) (w := w) (v := v) (v.path.jumped (v.path.pc + 64))
      rw [← jump_eq _ hv] at hu hpass
      exact ⟨_, u, exec_bjoin_outer hi hv h0, hu, hpass, hsreg, hvreg, hfp, hdep, fun _ => ⟨hpath.pc, hpath.depth.trans h0, hpath.mask, hother⟩,
        fun h => absurd h0 h, fun h => absurd h0 h, fun h => absurd h0 h⟩
    · by_cases he : v.other.st = .empty ∨ v.other.depth < v.path.depth
      · obtain ⟨u, hu, hpass, hsreg, hvreg, hfp, hdep, hpath, hother⟩ :=
          moved_path (s := s) (w := w) (v := v) { v.path.onward (v.path.pc + 64) with depth := v.path.depth - 1 }
        exact ⟨_, u, exec_bjoin_slot hi hv h0 (join_up _ h0 he), hu, hpass, hsreg, hvreg, hfp, hdep, fun h => absurd h h0,
          fun _ _ => ⟨hpath.pc, hpath.depth, hpath.mask, hother⟩,
          fun _ hj hd => absurd he (by rw [hj, hd]; simp),
          fun _ he' hle => absurd he (not_or.2 ⟨he', not_lt.2 hle⟩)⟩
      · obtain ⟨he1, hle⟩ := not_or.1 he
        by_cases hj : v.other.st = .joined ∧ v.other.depth = v.path.depth
        · have hd0 : v.dstkdepth = 0 := hcase.resolve_left (not_not.2 ⟨h0, hj⟩)
          have hexec := exec_bjoin_empties (f := f) hi hv h0 (join_merges (v.path.pc + 64) h0 he1 hj.1 hj.2)
          rw [emptied_ends (popInto_none (v := v.merged (v.path.pc + 64)) hd0) rfl] at hexec
          obtain ⟨u, hu, hlike⟩ := placed_wave s w (v.merged (v.path.pc + 64))
          have hp0 := hlike.p0
          exact ⟨_, u, hexec, hu, placed_passing _ _ _, hlike.sreg, hlike.vreg, hlike.fpstat, hlike.dstkdepth, fun h => absurd h h0,
            fun _ h => absurd h he, fun _ _ _ => ⟨hp0.pc, hp0.depth, hp0.mask, hp0.st, hlike.p1.st⟩, fun _ _ _ h => absurd hj h⟩
        · obtain ⟨u, hu, hpass, hsreg, hvreg, hfp, hdep, hpath, hother⟩ :=
            moved_path (s := s) (w := w) (v := v) { v.path.onward (v.path.pc + 64) with st := .joined }
          exact ⟨_, u, exec_bjoin_slot hi hv h0 (join_waits _ h0 he1 (not_lt.1 hle) hj), hu, hpass, hsreg, hvreg, hfp, hdep, fun h => absurd h h0,
            fun _ h => absurd h he, fun _ h1 h2 => absurd ⟨h1, h2⟩ hj, fun _ _ _ _ => ⟨hpath.st, hpath.depth, hpath.mask, hpath.pc, hother⟩⟩

end Sys2Proof


/-! ## Entries pushed and popped by software: DPUSH and DPOP (O28) -/

namespace Sys2Proof

open Sys2Proof.Machine

/-! ### The eight registers of an entry -/

/-- A word put in two registers. -/
def Machine.Wave.putPair (v : Wave) (k : Nat) (x : W64) : Wave := (v.putS k (x.truncate 32)).putS (k + 1) ((x >>> (32 : Nat)).truncate 32)

theorem putQuad_eq (v : Wave) (n : Nat) (e : List W64) : v.putQuad n e =
    (((v.putPair n (wordAt e 0)).putPair (n + 2) (wordAt e 1)).putPair (n + 4) (wordAt e 2)).putPair (n + 6) (wordAt e 3) := rfl

theorem getS_putPair_other (v : Wave) {k j : Nat} (x : W64) (hj : j < 64) (h : j < k ∨ k + 2 ≤ j) : (v.putPair k x).getS j = v.getS j :=
  (Wave.getS_putS_other _ _ _ _ hj (by omega)).trans (Wave.getS_putS_other _ _ _ _ hj (by omega))

theorem pair32_halves (x : W64) : pair32 (x.truncate 32 : W32).toNat ((x >>> (32 : Nat)).truncate 32 : W32).toNat = x := by
  apply BitVec.eq_of_toNat_eq
  rw [pair32_toNat, BitVec.toNat_setWidth, BitVec.toNat_setWidth, BitVec.toNat_ushiftRight, Nat.shiftRight_eq_div_pow]
  have := x.isLt
  omega

/-- What a pair of registers holds as one word. -/
def Machine.Wave.pairAt (v : Wave) (k : Nat) : W64 := pair32 (v.getS k).toNat (v.getS (k + 1)).toNat

theorem pairAt_putPair_same (v : Wave) {k : Nat} (x : W64) (hk : k + 1 < 64) : (v.putPair k x).pairAt k = x := by
  have hlow : (v.putPair k x).getS k = x.truncate 32 :=
    (Wave.getS_putS_other _ _ _ _ (by omega) (by omega)).trans (Wave.getS_putS_same _ _ _ (by omega))
  have hhigh : (v.putPair k x).getS (k + 1) = (x >>> (32 : Nat)).truncate 32 := Wave.getS_putS_same _ _ _ hk
  rw [Wave.pairAt, hlow, hhigh, pair32_halves]

theorem pairAt_putPair_other (v : Wave) {k j : Nat} (x : W64) (hj : j + 1 < 64) (h : j + 2 ≤ k) : (v.putPair k x).pairAt j = v.pairAt j := by
  rw [Wave.pairAt, getS_putPair_other v x (by omega) (by omega), getS_putPair_other v x hj (by omega)]
  rfl

theorem getS_putQuad_other (v : Wave) {n k : Nat} (e : List W64) (hk : k < 64) (h : k < n ∨ n + 8 ≤ k) : (v.putQuad n e).getS k = v.getS k := by
  rw [putQuad_eq, getS_putPair_other _ _ hk (by omega), getS_putPair_other _ _ hk (by omega), getS_putPair_other _ _ hk (by omega),
    getS_putPair_other _ _ hk (by omega)]

theorem pairAt_putQuad (v : Wave) {n i : Nat} (e : List W64) (hn : n ≤ 48) (hi : i < 4) : (v.putQuad n e).pairAt (n + 2 * i) = wordAt e i := by
  rw [putQuad_eq]
  obtain rfl | rfl | rfl | rfl : i = 0 ∨ i = 1 ∨ i = 2 ∨ i = 3 := by omega
  · rw [pairAt_putPair_other _ _ (by omega) (by omega), pairAt_putPair_other _ _ (by omega) (by omega),
      pairAt_putPair_other _ _ (by omega) (by omega)]
    exact pairAt_putPair_same _ _ (by omega)
  · rw [pairAt_putPair_other _ _ (by omega) (by omega), pairAt_putPair_other _ _ (by omega) (by omega)]
    exact pairAt_putPair_same _ _ (by omega)
  · rw [pairAt_putPair_other _ _ (by omega) (by omega)]
    exact pairAt_putPair_same _ _ (by omega)
  · exact pairAt_putPair_same _ _ (by omega)

theorem putPair_sreg (v : Wave) {k : Nat} (x : W64) (hk : k + 1 < 61) : ∃ r, v.putPair k x = { v with sreg := r } := by
  unfold Wave.putPair Wave.putS
  rw [if_pos hk, if_pos (by omega : k < 61)]
  exact ⟨_, rfl⟩

/-- The eight registers lie below the masks, so that nothing but scalar registers is written. -/
theorem putQuad_sreg (v : Wave) {n : Nat} (e : List W64) (hn : n ≤ 48) : ∃ r, v.putQuad n e = { v with sreg := r } := by
  rw [putQuad_eq]
  obtain ⟨r0, h0⟩ := putPair_sreg v (wordAt e 0) (show n + 1 < 61 by omega)
  rw [h0]
  obtain ⟨r1, h1⟩ := putPair_sreg { v with sreg := r0 } (wordAt e 1) (show n + 2 + 1 < 61 by omega)
  rw [h1]
  obtain ⟨r2, h2⟩ := putPair_sreg { v with sreg := r1 } (wordAt e 2) (show n + 4 + 1 < 61 by omega)
  rw [h2]
  exact putPair_sreg { v with sreg := r2 } (wordAt e 3) (by omega)

theorem length_quad (v : Wave) (n : Nat) : (v.quad n).length = 4 := rfl

/-! ### Where a wave stands after it -/

theorem advance_path {s : Machine.State} {w : Nat} {v : Wave} (n : Nat) (wt : Wait) (hv : s.wave w = some v) :
    ∃ p, (s.advance (.wave w) n wt).wave w = some (v.setPath p) ∧ p.mask = v.path.mask := by
  unfold State.advance
  dsimp only
  split
  · simp only [State.toSlot, hv]
    exact ⟨_, State.setWave_wave_same _ _ _, rfl⟩
  · simp only [State.goto, hv]
    exact ⟨_, State.setWave_wave_same _ _ _, rfl⟩

/-- An instruction of a wave that is over leaves its registers and masks. -/
theorem retire_like {s : Machine.State} {w : Nat} {v : Wave} (n : Nat) (wt : Wait) (hi : s.issue = some ⟨.wave w, false⟩)
    (hv : s.wave w = some v) : ∃ u, (s.retire n wt).wave w = some u ∧ u.sreg = v.sreg ∧ u.vreg = v.vreg ∧ u.dstkdepth = v.dstkdepth ∧
      u.other = v.other ∧ u.path.mask = v.path.mask := by
  have hfin : s.retire n wt = (s.advance (.wave w) n wt).finish w := by
    simp only [State.retire, hi, Bool.false_eq_true, if_false]
    rfl
  obtain ⟨p, hp, hmask⟩ := advance_path n wt hv
  obtain ⟨u, hu, hlike⟩ := finish_like hp
  have hpath := hlike.path
  rw [Wave.setPath_path] at hpath
  rw [hfin]
  exact ⟨u, hu, hlike.sreg.trans (by simp), hlike.vreg.trans (by simp), hlike.dstkdepth.trans (by simp), hlike.other.trans (by simp),
    hpath.mask.trans hmask⟩

/-- A wave put in place by an instruction that goes on in its clause. -/
theorem passed_retire {s : Machine.State} {w : Nat} (v : Wave) (hi : s.issue = some ⟨.wave w, false⟩) :
    Passing (.wave w) s ((s.setPassed w v).retire 1 .none) ∧
    ∃ u, ((s.setPassed w v).retire 1 .none).wave w = some u ∧ u.sreg = v.sreg ∧ u.vreg = v.vreg ∧ u.dstkdepth = v.dstkdepth ∧
      u.other = v.other ∧ u.path.mask = v.path.mask := by
  have hi1 := (setPassed_issue s w v).trans hi
  obtain ⟨l, hl⟩ := setPassed_wave s w v
  obtain ⟨u, hu, hfields⟩ := retire_like 1 .none hi1 hl
  exact ⟨(setPassed_passing s w v).apart (Kept.retire (.wave w) _ 1 .none [] [] false false hi1).apart, u, hu, hfields⟩

/-- The same wave, standing where it stood, is one instruction further. -/
theorem passed_after {s t : Machine.State} {w : Nat} {v v1 : Wave} (hi : s.issue = some ⟨.wave w, false⟩) (hv : s.wave w = some v)
    (ho : Outer s t) (halt : v1.alt = v.alt) (hpath : v1.path = v.path) : After s ((t.setPassed w v1).retire 1 .none) (.wave w) 1 := by
  have hi1 := (setPassed_issue t w v1).trans (ho.issue.trans hi)
  obtain ⟨u, hu, ha, hp⟩ : ∃ u, (t.setPassed w v1).wave w = some u ∧ u.alt = v.alt ∧ u.path = v.path := by
    obtain ⟨l, hl⟩ := setPassed_wave t w v1
    exact ⟨_, hl, halt, hpath⟩
  have hpres : (Agent.wave w).present (t.setPassed w v1) := by
    show (State.wave _ w).isSome = true
    rw [hu]
    rfl
  have hplace : SamePlace (.wave w) s (t.setPassed w v1) := by
    constructor
    · simp only [State.pcOf, hu, hv, hp, ha]
    · simp only [State.codeOf, hu, hv, hp]
  exact hplace.after (after_retire _ _ 1 .none hi1 hpres)

/-! ### DPUSH and DPOP (R44, R123) -/

section
variable {s : Machine.State} {w : Nat} {v : Wave} {f : SF} {n : Fin 64} (hi : s.issue = some ⟨.wave w, false⟩) (hv : s.wave w = some v)
include hi hv

section
variable (hsa : f.sa = .s n)
include hsa

theorem exec_dpush_places (he : v.other.st = .empty) (hb : entryBad (v.quad n.val) = false) : Machine.exec (.dpush f) s =
    .next ((s.setPassed w (v.place (!v.alt) (pathOf (v.quad n.val))).1).retire 1 .none) := by
  show execDpush f s = _
  simp only [execDpush, issued, hi, hsa, hv, he, hb, if_true, Bool.false_eq_true, if_false]

theorem exec_dpush_corrupt (he : v.other.st = .empty) (hb : entryBad (v.quad n.val) = true) :
    Machine.exec (.dpush f) s = .next (s.trap (.wave w) 0x0B none 0 0) := by
  show execDpush f s = _
  simp only [execDpush, issued, hi, hsa, hv, he, hb, if_true]

variable (he : v.other.st ≠ .empty)
include he

theorem exec_dpush_stops {c a : Nat} (hw : s.writeTop w v (v.quad n.val) = .stop c a) :
    Machine.exec (.dpush f) s = .next (s.raiseStop (.wave w) c a) := by
  show execDpush f s = _
  simp only [execDpush, issued, hi, hsa, hv, he, if_false, hw]

theorem exec_dpush_stores {t : Machine.State} (hw : s.writeTop w v (v.quad n.val) = .ok t) : Machine.exec (.dpush f) s =
    .next ((t.setPassed w { v with dstkdepth := v.dstkdepth + 1 }).retire 1 .none) := by
  show execDpush f s = _
  simp only [execDpush, issued, hi, hsa, hv, he, if_false, hw]

end

variable (hdst : f.dst = .s n)
include hdst

theorem exec_dpop_none (h : v.dstkdepth = 0) : Machine.exec (.dpop f) s = .next (s.trap (.wave w) 0x09 none 0 0) := by
  show execDpop f s = _
  simp only [execDpop, issued, hi, hdst, hv, h, if_true]

variable (h : v.dstkdepth ≠ 0)
include h

theorem exec_dpop_stops {c a : Nat} (hr : s.readTop w v = .stop c a) : Machine.exec (.dpop f) s = .next (s.raiseStop (.wave w) c a) := by
  show execDpop f s = _
  simp only [execDpop, issued, hi, hdst, hv, h, if_false, hr]

theorem exec_dpop_loads {t : Machine.State} {e : List W64} (hr : s.readTop w v = .ok (e, t)) : Machine.exec (.dpop f) s =
    .next ((t.setPassed w (({ v with dstkdepth := v.dstkdepth - 1 } : Wave).putQuad n.val e)).retire 1 .none) := by
  show execDpop f s = _
  simp only [execDpop, issued, hi, hdst, hv, h, if_false, hr]

end

/-- A running entry takes the slot that is Empty. -/
theorem place_running (v : Wave) {e : List W64} (h : fld (wordAt e 0) 0 0 = 0) :
    (v.place (!v.alt) (pathOf e)).1 = v.setOther { pathOf e with st := .running } := by
  have hne : (pathOf e).st ≠ .joined := fun hj => by
    rw [pathOf_joined, h] at hj
    exact absurd hj (by decide)
  have hplace : v.place (!v.alt) (pathOf e) = (v.setSlotAt (!v.alt) { pathOf e with st := .running }, none) := if_neg hne
  rw [hplace]
  unfold Wave.setSlotAt Wave.setOther
  cases v.alt <;> rfl

theorem legal_dpop {k : ClauseKind} {f : SF} {n : Fin 64} (h : legal k (.dpop f) = true) (hd : f.dst = .s n) : n.val ≤ 48 := by
  have hl : legalS k (.dpop f) f = true := h
  simp only [legalS, hd, Bool.and_eq_true, decide_eq_true_eq] at hl
  exact hl.2.2

theorem setOther_fields (v : Wave) (p : Path) : (v.setOther p).sreg = v.sreg ∧ (v.setOther p).dstkdepth = v.dstkdepth ∧ (v.setOther p).other = p := by
  unfold Wave.setOther Wave.other
  cases hb : v.alt <;> simp [hb]

/-- Settles O28: what a push and a pop do is a store and a load at the entry's address, and a path placed where there is room. -/
theorem stackPushPop : Obligations.StackPushPop := by
  unfold Obligations.StackPushPop
  intro s w v f n hv
  refine ⟨fun hready hsa => ?_, fun hready hdst => ?_⟩
  · obtain ⟨hi, -, -⟩ := hready
    refine ⟨fun he hb => ?_, fun he hb => exec_dpush_corrupt hi hv hsa he hb, fun he hd => ?_, fun he hd => ⟨fun c hx => ?_, fun pa leaf hx hdef => ?_⟩,
      fun pa leaf he hpush => ?_⟩
    · obtain ⟨hpass, u, hu, hsreg, -, hdep, hother, -⟩ := passed_retire (v.place (!v.alt) (pathOf (v.quad n.val))).1 hi
      refine ⟨_, exec_dpush_places hi hv hsa he hb, rfl, hpass.bytes, fun hrun => ?_⟩
      obtain ⟨h1, h2, h3⟩ := setOther_fields v { pathOf (v.quad n.val) with st := .running }
      rw [place_running v hrun] at hsreg hdep hother
      rw [h3] at hother
      exact ⟨u, hu, congrArg Path.mask hother, congrArg Path.depth hother, congrArg Path.pc hother, congrArg Path.st hother, hsreg.trans h1, hdep.trans h2⟩
    · exact (exec_dpush_stops hi hv hsa he (writeTop_full hd)).trans (congrArg Host.Outcome.next (raiseStop_trap 0 (by decide)))
    · exact (exec_dpush_stops hi hv hsa he (writeTop_fault hd hx)).trans (congrArg Host.Outcome.next (raiseStop_fault _ _ hx))
    · exact (exec_dpush_stops hi hv hsa he (writeTop_deferred hd hx hdef)).trans (congrArg Host.Outcome.next (raiseStop_trap _ (by decide)))
    · obtain ⟨t, hw, hout, hstored⟩ := writeTop_pushes hv hpush (length_quad v n.val)
      obtain ⟨hpass, u, hu, hsreg, hvreg, hdep, hother, hmask⟩ := passed_retire { v with dstkdepth := v.dstkdepth + 1 } (hout.issue.trans hi)
      exact ⟨_, u, exec_dpush_stores hi hv hsa he hw, hu, hstored.ofPassing hpass, hsreg, hvreg, hother, hmask, hdep,
        passed_after hi hv hout rfl rfl⟩
  · obtain ⟨hi, -, k, -, hl⟩ := hready
    have hn := legal_dpop hl hdst
    refine ⟨fun hd => exec_dpop_none hi hv hdst hd, fun c hd hx => ?_, fun pa hpop => ?_⟩
    · exact (exec_dpop_stops hi hv hdst hd (readTop_fault hx)).trans (congrArg Host.Outcome.next (raiseStop_fault _ _ hx))
    · obtain ⟨e, t, hr, hout, heq⟩ := readTop_pops hv hpop
      have hexec := exec_dpop_loads hi hv hdst hpop.some hr
      obtain ⟨r, hput⟩ := putQuad_sreg ({ v with dstkdepth := v.dstkdepth - 1 } : Wave) e hn
      obtain ⟨hpass, u, hu, hsreg, hvreg, hdep, hother, hmask⟩ :=
        passed_retire (({ v with dstkdepth := v.dstkdepth - 1 } : Wave).putQuad n.val e) (hout.issue.trans hi)
      have hget (j : Nat) : u.getS j = (({ v with dstkdepth := v.dstkdepth - 1 } : Wave).putQuad n.val e).getS j := by
        unfold Wave.getS
        rw [hsreg, hmask]
      have hafter := passed_after hi hv hout (v1 := ({ v with dstkdepth := v.dstkdepth - 1 } : Wave).putQuad n.val e) (by rw [hput]) (by rw [hput]; rfl)
      refine ⟨_, u, hexec, hu, hdep.trans (by rw [hput]), hvreg.trans (by rw [hput]), hother.trans (by rw [hput]; rfl), fun j hj hout' => ?_, hafter,
        fun e' hat => ?_⟩
      · exact (hget j).trans (getS_putQuad_other _ e hj hout')
      · obtain ⟨rfl, hmem⟩ := heq e' hat
        refine ⟨passing_bytes hout hmem hpass, fun i hi4 => ?_⟩
        rw [hget, hget]
        exact pairAt_putQuad _ e hn hi4

end Sys2Proof


/-! ## The debug window, HALT and PGMAP (O54) -/

namespace Sys2Proof

open Sys2Proof.Machine

/-! ### Waves that are gone stay gone -/

/-- A wave that is not there before is not there after. -/
def Gone (w : Nat) (s t : Machine.State) : Prop := s.wave w = none → t.wave w = none

theorem Gone.ofWaves {w : Nat} {s t : Machine.State} (h : t.waves = s.waves) : Gone w s t := fun hs => by rwa [State.wave, h]

theorem Gone.trans {w : Nat} {s t u : Machine.State} (h : Gone w s t) (g : Gone w t u) : Gone w s u := fun hs => g (h hs)

theorem Gone.ite {w : Nat} {s t u : Machine.State} {p : Prop} [Decidable p] (h : Gone w s t) (g : Gone w s u) : Gone w s (if p then t else u) := by
  split <;> assumption

theorem find_each {V : Type} (m : Map V) (f : Nat → V → V) (k : Nat) : Map.find (Map.each m f) k = (Map.find m k).map (f k) := by
  induction m with
  | nil => rfl
  | cons e m ih =>
    obtain ⟨j, x⟩ := e
    by_cases hj : j = k
    · subst hj
      simp [Map.each, Map.find]
    · simpa [Map.each, Map.find, hj] using ih

theorem Gone.unfill (w : Nat) (s : Machine.State) (core : Nat) : Gone w s (s.unfill core) := fun hs => by
  unfold State.unfill State.wave
  rw [find_each]
  exact congrArg (Option.map _) hs

theorem Gone.rechoose (w : Nat) (s : Machine.State) (core : Nat) (now : W64) : Gone w s (s.rechoose core now) := by
  by_cases h : ∀ q, s.choose core = some q → (s.core core).active = some (s.queueCtx q)
  · obtain ⟨p, hp, -⟩ := rechoose_stays (now := now) h
    rw [hp]
    exact .ofWaves rfl
  · obtain ⟨q, hq⟩ := not_forall.1 h
    obtain ⟨hc, hne⟩ := Classical.not_imp.1 hq
    obtain ⟨u, f, ho⟩ := rechoose_requests (now := now) hc hne
    refine Gone.trans ?_ (.ofWaves ho.waves)
    cases f
    · exact Gone.unfill w s core
    · exact .ofWaves rfl

/-- A state whose deferred path stands otherwise. -/
def Machine.State.refiled (s : Machine.State) (n : Nat) (d : Deferred) : Machine.State := { s with fresh := n, dfd := d }

/-- Nothing but the deferred path differs. -/
def Filed (s t : Machine.State) : Prop := ∃ n d, t = s.refiled n d

namespace Filed

theorem refl (s : Machine.State) : Filed s s := ⟨s.fresh, s.dfd, rfl⟩

theorem trans {s t u : Machine.State} (h : Filed s t) (g : Filed t u) : Filed s u := by
  obtain ⟨n, d, rfl⟩ := h
  obtain ⟨m, e, rfl⟩ := g
  exact ⟨m, e, rfl⟩

theorem ite {s t u : Machine.State} {p : Prop} [Decidable p] (h : Filed s t) (g : Filed s u) : Filed s (if p then t else u) := by
  split <;> assumption

theorem foldl {β : Type} (f : Machine.State → β → Machine.State) (hf : ∀ t b, Filed t (f t b)) (l : List β) (s : Machine.State) :
    Filed s (l.foldl f s) := by
  induction l generalizing s with
  | nil => exact refl s
  | cons b l ih => exact (hf s b).trans (ih _)

theorem modChan (s : Machine.State) (die : Nat) (dest : BinDest) (f : Chan → Chan) : Filed s (s.modChan die dest f) := ⟨_, _, rfl⟩

theorem modCommit (s : Machine.State) (n : Nat) (f : Commit → Commit) : Filed s (s.modCommit n f) := ⟨_, _, rfl⟩

theorem addNotice (s : Machine.State) (p : Nat × BinDest) (nt : Notice) (cm : Commit) : Filed s (s.addNotice p nt cm) := modChan _ _ _ _

theorem nextGroup (s : Machine.State) (core : Nat) : Filed s (s.nextGroup core) := ⟨_, _, rfl⟩

theorem noticeFor (s : Machine.State) (n core : Nat) : Filed s (s.noticeFor n core) := by
  unfold State.noticeFor
  dsimp only
  split
  · exact refl s
  · refine trans (trans (trans ?_ (foldl _ (fun t p => addNotice t p _ _) _ _)) (foldl _ (fun t p => addNotice t p _ _) _ _)) (modCommit _ _ _)
    exact ⟨_, _, rfl⟩

theorem placeMarker (s : Machine.State) (n core : Nat) : Filed s (s.placeMarker n core) := by
  unfold State.placeMarker
  split
  · exact refl s
  · dsimp only
    have hmod := modCommit s n
    split
    · refine trans ?_ (nextGroup _ _)
      split
      · exact hmod _
      · exact (hmod _).trans (noticeFor _ _ _)
    · refine trans ?_ ⟨_, _, rfl⟩
      split
      · exact hmod _
      · exact (hmod _).trans (noticeFor _ _ _)

theorem startCommit (s : Machine.State) (why : CommitFor) (l : Nat) (tags : List (BitVec 12)) (pod : Bool) :
    Filed s (s.startCommit why l tags pod).2 := by
  unfold State.startCommit
  dsimp only
  refine trans ?_ (foldl _ (fun t k => ite (placeMarker t _ _) (refl t)) _ _)
  exact ⟨_, _, rfl⟩

theorem retireTag (s : Machine.State) (l : Nat) (tag : BitVec 12) : Filed s (s.retireTag l tag) := startCommit _ _ _ _ _

theorem waves {s t : Machine.State} (h : Filed s t) : t.waves = s.waves := by
  obtain ⟨n, d, rfl⟩ := h
  rfl

end Filed

theorem lastEnded_gone (w : Nat) (s : Machine.State) (core : Nat) : Gone w s (s.lastEnded core) := by
  unfold State.lastEnded
  refine Gone.ite (.ofWaves rfl) ?_
  have hcharge : Gone w s (s.chargeRun core) := .ofWaves (chargeRun_frame s core).1
  exact Gone.ite (hcharge.trans (Gone.rechoose _ _ _ _)) (hcharge.trans (.ofWaves rfl))

theorem freeThread_waves (s : Machine.State) (c t : Nat) : (s.freeThread c t).waves = s.waves := by
  have htag := (Filed.retireTag s (s.thread c t).launch (s.tagOf (.thread c t))).waves
  unfold State.freeThread
  dsimp only
  split
  · split
    · refine ((Outer.syncClus _ _ _).waves.trans ?_).trans htag
      split <;> rfl
    · refine Eq.trans ?_ htag
      split <;> rfl
  · rfl

/-- A workgroup whose waves have all ended is gone, and none of its waves is left. -/
theorem reap_cases (s : Machine.State) (g w : Nat) : s.reap g = s ∨ ((∀ v, (w, v) ∈ s.waves → v.wg = g) → (s.reap g).wave w = none) := by
  unfold State.reap
  split
  · exact .inl rfl
  · extract_lets mine tag sch s1 k s2 s3 s3' s4
    split
    · refine .inr fun hall => ?_
      have h1 : s1.wave w = none := by
        by_contra hne
        obtain ⟨v, hv⟩ := Option.ne_none_iff_exists'.1 hne
        obtain ⟨hmem, hg⟩ := List.mem_filter.1 (mem_of_find hv)
        exact absurd (hall v hmem) (by simpa using hg)
      have h3 : Gone w s2 s3 := .ofWaves (Filed.retireTag s2 _ tag).waves
      have h3' : Gone w s3 s3' := .ite (.ofWaves (Outer.syncCore _ _ _).waves) (.ofWaves rfl)
      have h4 : Gone w s3' s4 := by
        refine Gone.trans (t := match s3'.launch _ with | some l => s3'.syncCores l.q | none => s3') ?_ (lastEnded_gone _ _ _)
        split
        · exact .ofWaves (Outer.syncCores _ _).waves
        · exact .ofWaves rfl
      have h5 : s4.wave w = none := h4 (h3' (h3 h1))
      refine (Gone.ofWaves (Outer.refreshReady _).waves :) ?_
      split
      · exact (Gone.ofWaves (freeThread_waves _ _ _) :) h5
      · exact h5
    · exact .inl rfl

theorem mem_put {V : Type} {m : Map V} {k : Nat} {v : V} {e : Nat × V} (h : e ∈ Map.put m k v) : e = (k, v) ∨ e ∈ m := by
  induction m with
  | nil => exact .inl (List.mem_singleton.1 h)
  | cons d m ih =>
    obtain ⟨j, x⟩ := d
    unfold Map.put at h
    split_ifs at h with h1 h2
    · exact (List.mem_cons.1 h)
    · exact (List.mem_cons.1 h).imp_right (List.mem_cons_of_mem _)
    · exact (List.mem_cons.1 h).elim (fun he => .inr (he ▸ List.mem_cons_self)) fun hm => (ih hm).imp_right (List.mem_cons_of_mem _)

/-- A wave that is ended by force has ended, where it is not gone with its workgroup. -/
theorem killWave_ends {s : Machine.State} {w : Nat} {v u : Wave} (hone : ∀ x, (w, x) ∈ s.waves → x = v) (hv : s.wave w = some v)
    (hu : (s.killWave w).wave w = some u) : u.ended = true ∧ u.stop = .run := by
  unfold State.killWave at hu
  rw [hv] at hu
  dsimp only at hu
  rcases reap_cases ((s.setWave w { v with p0 := Path.none, p1 := Path.none, dstkdepth := 0, stop := .run, inh := none, step := false }).dropReserve w)
    v.wg w with h | h
  · rw [h] at hu
    have hset : some u = some _ := hu.symm.trans (State.setWave_wave_same s w _)
    cases hset
    exact ⟨rfl, rfl⟩
  · refine absurd (hu.symm.trans (h fun x hx => ?_)) nofun
    rcases mem_put hx with he | hm
    · cases he
      rfl
    · rw [hone x hm]

/-! ### The debug window (R220, R221) -/

section
variable {i : Instr} {f : SF} {s : Machine.State} {ag : Agent} (hi : s.issue = some ⟨ag, false⟩)
include hi

theorem debugWindow_none (k : Agent → Nat → Wave → Option Machine.State) (h : s.stoppedWave ag (s.reg ag f.sa true) = none) :
    debugWindow f s k = .next (s.trap ag 0x18 none 0 0) := by
  simp only [debugWindow, issued, hi, h]

variable {w : Nat} {v : Wave} (h : s.stoppedWave ag (s.reg ag f.sa true) = some (w, v))
include h

theorem debugWindow_out (k : Agent → Nat → Wave → Option Machine.State) (ho : s.waveOut v = true) : debugWindow f s k = .next s.stall := by
  simp only [debugWindow, issued, hi, h, ho, if_true]

variable (ho : s.waveOut v = false)
include ho

theorem debugWindow_traps {k : Agent → Nat → Wave → Option Machine.State} (hk : k ag w v = none) :
    debugWindow f s k = .next (s.trap ag 0x18 none 0 0) := by
  simp only [debugWindow, issued, hi, h, ho, Bool.false_eq_true, if_false, hk]

theorem debugWindow_acts {k : Agent → Nat → Wave → Option Machine.State} {t : Machine.State} (hk : k ag w v = some t) :
    debugWindow f s k = .next t := by
  simp only [debugWindow, issued, hi, h, ho, Bool.false_eq_true, if_false, hk]

end

/-- What the instructions of the debug window do to a stopped wave. -/
def debugAct (i : Instr) (f : SF) (s : Machine.State) (ag : Agent) (w : Nat) (v : Wave) : Option Machine.State :=
  match i with
  | .dwrd _ => (s.debugRead w v f.fn.toNat f.imm.toNat (s.laneOp ag f)).map (fun x => (s.put64 ag f.dst x).retire (nSlots [f.sb]) .none)
  | .dwwr _ => (debugWrite v f.fn.toNat f.imm.toNat (s.laneOp ag f) (BitVec.ofNat 64 (s.srcBits ag 64 f.imm f.sc))).map
      (fun u => ((s.debugPut w v u).map (fun t => t.retire (nSlots [f.sb, f.sc]) .none)).getD s.stall)
  | .dwresResume _ => some ((s.letGo w v false).retire 1 .none)
  | .dwresKill _ => some ((s.killWave w).retire 1 .none)
  | _ => some ((s.letGo w v true).retire 1 .none)

theorem exec_debugWindow {i : Instr} {f : SF} (s : Machine.State)
    (h : i = .dwrd f ∨ i = .dwwr f ∨ i = .dwresResume f ∨ i = .dwresKill f ∨ i = .dwstep f) :
    Machine.exec i s = debugWindow f s (debugAct i f s) := by
  rcases h with rfl | rfl | rfl | rfl | rfl
  · show execDwrd f s = _
    refine congrArg (debugWindow f s) (funext fun ag => funext fun w => funext fun v => ?_)
    show _ = Option.map _ _
    cases s.debugRead w v f.fn.toNat f.imm.toNat (s.laneOp ag f) <;> rfl
  · show execDwwr f s = _
    refine congrArg (debugWindow f s) (funext fun ag => funext fun w => funext fun v => ?_)
    show _ = Option.map _ _
    cases debugWrite v f.fn.toNat f.imm.toNat (s.laneOp ag f) (BitVec.ofNat 64 (s.srcBits ag 64 f.imm f.sc)) with
    | none => rfl
    | some u =>
      dsimp only [Option.map_some]
      cases s.debugPut w v u <;> rfl
  all_goals rfl

/-- A stopped wave that a handle names stands in the machine and has not ended. -/
theorem stoppedWave_some {s : Machine.State} {ag : Agent} {h : W64} {w : Nat} {v : Wave} (hs : s.stoppedWave ag h = some (w, v)) :
    (w, v) ∈ s.waves ∧ v.ended = false := by
  unfold State.stoppedWave at hs
  split at hs
  · cases hs
  · split at hs
    · next i x hb =>
      split at hs
      · cases hs
        refine ⟨List.mem_of_find?_eq_some hb, ?_⟩
        have hp := List.find?_some hb
        simp only [Bool.and_eq_true, Bool.not_eq_true'] at hp
        exact hp.2
      · cases hs
    · cases hs

/-- An instruction of a thread that puts another wave in place and goes on. -/
theorem placed_other {s : Machine.State} {c k w n : Nat} (u : Wave) (hi : s.issue = some ⟨.thread c k, false⟩) :
    let t := (s.setWave w u).retire n .none
    t.wave w = some u ∧ Kept (.thread c k) { s with waves := t.waves } t [] [] false false ∧ (∀ j, j ≠ w → t.wave j = s.wave j) ∧
      After s t (.thread c k) n := by
  have hi1 : (s.setWave w u).issue = some ⟨.thread c k, false⟩ := hi
  have hkept := Kept.retire (.thread c k) (s.setWave w u) n .none [] [] false false hi1
  obtain ⟨hbytes, hrest, hwaves, hthreads, -, hthread⟩ := hkept
  refine ⟨(hwaves w nofun).trans (State.setWave_wave_same _ _ _), ⟨hbytes, hrest, fun _ _ => rfl, hthreads, fun j x e => (nomatch e), hthread⟩,
    fun j hj => (hwaves j nofun).trans (State.setWave_wave_other s w j u (Ne.symm hj)), ?_⟩
  exact SamePlace.after (s1 := s.setWave w u) ⟨rfl, rfl⟩ (after_retire _ _ n .none hi1 trivial)

theorem debugPut_stays {s : Machine.State} {w : Nat} {v u : Wave} (hn : v.newlyEmpty u = none) (he : u.ended = false) :
    s.debugPut w v u = some (s.setWave w u) := by
  simp only [State.debugPut, hn, he, Bool.false_eq_true, if_false]

theorem debugPut_ends {s : Machine.State} {w : Nat} {v u : Wave} (hn : v.newlyEmpty u = none) (he : u.ended = true) :
    s.debugPut w v u = some (((s.setWave w { u with stop := .run, dlv := false, step := false }).dropReserve w).reap u.wg) := by
  simp only [State.debugPut, hn, he, if_true]

theorem debugPut_waits {s : Machine.State} {w : Nat} {v u : Wave} {alt : Bool} (hn : v.newlyEmpty u = some alt)
    (hp : s.popInto w u alt 3 = .wait) : s.debugPut w v u = none := by
  simp only [State.debugPut, hn, hp]

theorem debugPut_pops {s t : Machine.State} {w : Nat} {v u x : Wave} {alt : Bool} (hn : v.newlyEmpty u = some alt)
    (hp : s.popInto w u alt 3 = .ok (t, x)) (he : x.ended = false) : s.debugPut w v u = some (t.setWave w x) := by
  simp only [State.debugPut, hn, hp, he, Bool.false_eq_true, if_false]

theorem letGo_live {s : Machine.State} {w : Nat} {v : Wave} (step : Bool) (he : v.ended = false) :
    s.letGo w v step = s.setWave w { v with stop := .run, dlv := false, step := step } := by
  simp only [State.letGo, he, Bool.false_eq_true, if_false]

section
variable {s : Machine.State} {c k w : Nat} {v : Wave} {f : SF}

theorem legal_dwrd {kind : ClauseKind} (h : legal kind (.dwrd f) = true) : isQ f.dst = true := by
  have hl : legalS kind (.dwrd f) f = true := h
  simp only [legalS, Bool.and_eq_true] at hl
  tauto

variable (hs : s.stoppedWave (.thread c k) (s.reg (.thread c k) f.sa true) = some (w, v)) (ho : s.waveOut v = false)
include hs ho

theorem exec_dwrd_traps (hi : s.issue = some ⟨.thread c k, false⟩)
    (hr : s.debugRead w v f.fn.toNat f.imm.toNat (s.laneOp (.thread c k) f) = none) :
    Machine.exec (.dwrd f) s = .next (s.trap (.thread c k) 0x18 none 0 0) :=
  (exec_debugWindow s (.inl rfl)).trans (debugWindow_traps hi hs ho (congrArg (Option.map _) hr))

theorem exec_dwrd {z : Nat} (hi : s.issue = some ⟨.thread c k, false⟩)
    (hr : s.debugRead w v f.fn.toNat f.imm.toNat (s.laneOp (.thread c k) f) = some z) :
    Machine.exec (.dwrd f) s = .next ((s.put64 (.thread c k) f.dst z).retire (nSlots [f.sb]) .none) :=
  (exec_debugWindow s (.inl rfl)).trans (debugWindow_acts hi hs ho (congrArg (Option.map _) hr))

theorem exec_dwwr_traps (hi : s.issue = some ⟨.thread c k, false⟩)
    (hr : debugWrite v f.fn.toNat f.imm.toNat (s.laneOp (.thread c k) f) (BitVec.ofNat 64 (s.srcBits (.thread c k) 64 f.imm f.sc)) = none) :
    Machine.exec (.dwwr f) s = .next (s.trap (.thread c k) 0x18 none 0 0) :=
  (exec_debugWindow s (.inr (.inl rfl))).trans (debugWindow_traps hi hs ho (congrArg (Option.map _) hr))

theorem exec_dwwr {u : Wave} {r : Option Machine.State} (hi : s.issue = some ⟨.thread c k, false⟩)
    (hr : debugWrite v f.fn.toNat f.imm.toNat (s.laneOp (.thread c k) f) (BitVec.ofNat 64 (s.srcBits (.thread c k) 64 f.imm f.sc)) = some u)
    (hp : s.debugPut w v u = r) :
    Machine.exec (.dwwr f) s = .next ((r.map (fun t => t.retire (nSlots [f.sb, f.sc]) .none)).getD s.stall) :=
  (exec_debugWindow s (.inr (.inl rfl))).trans (debugWindow_acts hi hs ho (by rw [← hp]; exact congrArg (Option.map _) hr))

theorem exec_dwres_resume (hi : s.issue = some ⟨.thread c k, false⟩) :
    Machine.exec (.dwresResume f) s = .next ((s.letGo w v false).retire 1 .none) := debugWindow_acts (k := debugAct (.dwresResume f) f s) hi hs ho rfl

theorem exec_dwstep (hi : s.issue = some ⟨.thread c k, false⟩) :
    Machine.exec (.dwstep f) s = .next ((s.letGo w v true).retire 1 .none) := debugWindow_acts (k := debugAct (.dwstep f) f s) hi hs ho rfl

theorem exec_dwres_kill (hi : s.issue = some ⟨.thread c k, false⟩) :
    Machine.exec (.dwresKill f) s = .next ((s.killWave w).retire 1 .none) := debugWindow_acts (k := debugAct (.dwresKill f) f s) hi hs ho rfl

end

/-- A register or a lane that a debug write names. -/
theorem debugWrite_register {v u : Wave} {sel lane : Nat} {y : W64} (h : debugWrite v 0 sel lane y = some u) : u = v.putS sel (y.truncate 32) := by
  have h' : (if sel < 61 then some (v.putS sel (y.truncate 32)) else none) = some u := h
  split_ifs at h'
  exact (Option.some.inj h').symm

theorem debugWrite_lane {v u : Wave} {sel lane : Nat} {y : W64} (h : debugWrite v 2 sel lane y = some u) : u = v.putLane sel lane (y.truncate 32) := by
  have h' : (if sel < v.allot ∧ lane < 96 then some (v.putLane sel lane (y.truncate 32)) else none) = some u := h
  split_ifs at h'
  exact (Option.some.inj h').symm

/-! ### HALT (R225) -/

section
variable {s : Machine.State} {w : Nat} {v : Wave} {f : SF} (hi : s.issue = some ⟨.wave w, false⟩) (hv : s.wave w = some v)
  (h0 : v.dstkdepth = 0) (hh : v.inh = none)
include hi hv h0 hh

theorem exec_halt_wave : Machine.exec (.halt f) s = .next (
    if (v.setPath Path.none).ended then (((s.setPassed w (v.setPath Path.none)).unlatch).dropReserve w).reap v.wg
    else (s.setPassed w (v.setPath Path.none)).finish w) := by
  have hsame : ({ v.setPath Path.none with inh := if v.inh = some v.alt then none else v.inh } : Wave) = v.setPath Path.none := by
    have hinh : (v.setPath Path.none).inh = if v.inh = some v.alt then none else v.inh := by simp [hh]
    rw [← hinh]
  have hpop : s.popInto w (v.setPath Path.none) v.alt 3 = .ok (s, v.setPath Path.none) := popInto_none (by simp [h0])
  have hexec : Machine.exec (.halt f) s = .next (s.stackEnd (.wave w)
      (s.emptied w { v.setPath Path.none with inh := if v.inh = some v.alt then none else v.inh } v.alt)) := by
    show execHalt f s = _
    simp only [execHalt, issued, hi, hv]
  have hempty : s.emptied w (v.setPath Path.none) v.alt = .ok (if (v.setPath Path.none).ended
      then (((s.setPassed w (v.setPath Path.none)).unlatch).dropReserve w).reap (v.setPath Path.none).wg
      else (s.setPassed w (v.setPath Path.none)).finish w) := by
    unfold State.emptied
    rw [hpop]
    rfl
  rw [hexec, hsame, hempty, Wave.setPath_wg]
  rfl

end

theorem ended_of_halt (v : Wave) (h0 : v.dstkdepth = 0) : (v.setPath Path.none).ended = true ↔ v.other.st = .empty := by
  unfold Wave.ended Wave.setPath Wave.other
  cases v.alt <;> simp [h0, Path.none]

/-- A wave whose path halts keeps its other path, and its slot is Empty. -/
theorem halted_path {s : Machine.State} {w : Nat} {v : Wave} :
    ∃ u, ((s.setPassed w (v.setPath Path.none)).finish w).wave w = some u ∧ u.path = Path.none ∧ u.other = v.other ∧ u.sreg = v.sreg ∧ u.vreg = v.vreg := by
  obtain ⟨l, hl⟩ := setPassed_wave s w (v.setPath Path.none)
  unfold State.finish State.stepped
  simp only [State.unlatch_wave, hl]
  split
  · refine ⟨_, State.setWave_wave_same _ _ _, ?_⟩
    cases hb : v.alt <;> simp [Wave.halt, Wave.setPath, Wave.path, Wave.other, hb, Path.none]
  · refine ⟨_, hl, ?_⟩
    cases hb : v.alt <;> simp [Wave.setPath, Wave.path, Wave.other, hb]

theorem freeThread_busy {s : Machine.State} {c k : Nat} (h : s.onCluster (s.thread c k).launch c = true) : s.freeThread c k = s := by
  unfold State.freeThread
  dsimp only
  rw [h]
  simp

/-! ### Frames of zeros (R226) -/

theorem zeroFrame_outer (s : Machine.State) (u x frame n : Nat) : Outer s (s.zeroFrame u x frame n) := by
  unfold State.zeroFrame
  split
  · exact Outer.of_eq rfl (Memory.wf_clear _ _ _)
  · exact Outer.devWrite _ _ _ _ (Outer.home_ne_spad s frame)

/-- A state whose pools stand otherwise. -/
def Machine.State.withPools (s : Machine.State) (p : Map Pool) : Machine.State := { s with flt := { s.flt with pools := p } }

/-- A frame that is mapped: memory and region nodes, and a pool. -/
theorem mapFrame_outer (s : Machine.State) (w x key ea : Nat) (e : W64) (frame : Nat) (p : Pool) :
    ∃ t l, Outer s t ∧ Outer (t.withPools l) (s.mapFrame w x key ea e frame p) := by
  refine ⟨_, Map.put (s.zeroFrame (s.tlbOf (.wave w)) x frame (pageBytes (fld e 11 9))).flt.pools key p,
    zeroFrame_outer s (s.tlbOf (.wave w)) x frame (pageBytes (fld e 11 9)), ?_⟩
  unfold State.mapFrame
  dsimp only
  have hleaf (t : Machine.State) : Outer t (t.writeLeaf w ea e frame) := Outer.agentPut _ _ _ _ _ (Outer.home_ne_spad _ _)
  split
  · exact (hleaf _).trans (Outer.modNodes _ _ _)
  · exact hleaf _

theorem mapFrame_abides (s : Machine.State) (w x key ea : Nat) (e : W64) (frame : Nat) (p : Pool) :
    Abides s (s.mapFrame w x key ea e frame p) := by
  obtain ⟨t, l, h1, h2⟩ := mapFrame_outer s w x key ea e frame p
  exact ((Abides.ofOuter h1).trans (u := t.withPools l) ⟨rfl, rfl, rfl, rfl, rfl⟩).trans (.ofOuter h2)

/-- A first-touch page that is mapped, or for which there is no frame. -/
theorem firstTouch_some {s t : Machine.State} {w x ea st : Nat} {e : W64} (h : s.firstTouch w x ea e = some (st, t)) :
    (st = 0 ∨ st = 2) ∧ (st = 2 → t = s) ∧ t.spad = s.spad ∧ t.issue = s.issue ∧ ((Agent.wave w).present s → (Agent.wave w).present t) := by
  have hmap (key : Nat) (frame : Nat) (p : Pool) := mapFrame_abides s w x key ea e frame p
  have hpres (u : Machine.State) (hu : u.waves = s.waves) (hp : (Agent.wave w).present s) : (Agent.wave w).present u := present_of_waves hp hu
  unfold State.firstTouch at h
  dsimp only at h
  split at h
  · cases h
    exact ⟨.inr rfl, fun _ => rfl, rfl, rfl, id⟩
  · split_ifs at h
    · cases h
      exact ⟨.inr rfl, fun _ => rfl, rfl, rfl, id⟩
    · cases h
      exact ⟨.inl rfl, nofun, (hmap _ _ _).spad, (hmap _ _ _).issue, hpres _ (hmap _ _ _).waves⟩
    · cases h
      have hnote (u : Machine.State) : (u.noteReserve w).spad = u.spad ∧ (u.noteReserve w).issue = u.issue ∧
          ((Agent.wave w).present u → (Agent.wave w).present (u.noteReserve w)) := by
        unfold State.noteReserve
        split
        · refine ⟨rfl, rfl, fun _ => ?_⟩
          show Option.isSome (State.wave _ w) = true
          rw [State.setWave_wave_same]
          rfl
        · exact ⟨rfl, rfl, id⟩
      obtain ⟨h1, h2, h3⟩ := hnote (s.mapFrame w x _ ea e _ _)
      exact ⟨.inl rfl, nofun, h1.trans (hmap _ _ _).spad, h2.trans (hmap _ _ _).issue, fun hp => h3 (hpres _ (hmap _ _ _).waves hp)⟩

theorem l1Flush_empty {s : Machine.State} (o : Nat) (p : L1Line → Bool) (h : s.path.l1 = []) : s.l1Flush o p = s := by
  unfold State.l1Flush State.l1Drop
  have huncorr : s.uncorr.filter (fun _ => true) = s.uncorr := List.filter_true _
  have hpath : { s.path with l1 := [] } = s.path := by rw [← h]
  simp only [h, List.filter_nil, List.foldl_nil, List.any_nil, Bool.not_false, huncorr, hpath]

/-- A write of an agent past an L1 without lines changes memory alone. -/
theorem agentPut_bare {s : Machine.State} {ag : Agent} {sc : Scope} {e : W64} {pa : Nat} {bs : List Byte} (hl : s.path.l1 = [])
    (hs : s.severed (s.clusterOf ag) (.mem pa) = false) :
    ∃ u, s.agentPut ag sc e (.mem pa) bs = (s.withUsed u).writeMem pa (s.disown pa bs) := by
  obtain ⟨u, hu⟩ := useHbm_withUsed s pa bs.length
  have hflush (o : Nat) (p : L1Line → Bool) : (s.withUsed u).l1Flush o p = s.withUsed u := l1Flush_empty o p hl
  have hline (o : Nat) : (s.withUsed u).l1Line o pa = none := by
    show s.path.l1.find? _ = none
    rw [hl]
    rfl
  refine ⟨u, ?_⟩
  unfold State.agentPut
  dsimp only
  rw [hs, Bool.false_and, if_neg Bool.false_ne_true, hu]
  unfold State.cachedWrite
  dsimp only
  split
  · rw [hline]
    rfl
  · cases (s.withUsed u).l1Any (s.seat ag) with
    | none => rfl
    | some o =>
      dsimp only
      rw [hflush]
      rfl

/-- n bytes of this device's memory made zero. -/
def Machine.State.zeroed (s : Machine.State) (a n : Nat) : Machine.State :=
  { s with
    mem := Memory.clear s.mem a n
    uncorr := restOf s.uncorr a n
    path := { s.path with l1 := s.path.l1.filter (fun l => decide (l.line * 128 + 128 ≤ a) || decide (a + n ≤ l.line * 128)) } }

theorem zeroFrame_mem {s : Machine.State} {frame : Nat} (u x n : Nat) (h : s.home frame = .mem frame) : s.zeroFrame u x frame n = s.zeroed frame n := by
  unfold State.zeroFrame
  rw [h]
  rfl

/-- What software may never write, it may never write whatever memory holds. -/
theorem barred_zeroed (s : Machine.State) (a n pa : Nat) (p : Map Pool) : ((s.zeroed a n).withPools p).barred true pa = s.barred true pa := by
  unfold State.barred State.inSave State.inEntry
  simp only [Bool.true_or]
  rfl

/-- A leaf that is made present. -/
def presentLeaf (e : W64) (frame : Nat) : W64 := withFld (withFld e 51 12 (frame / 4096)) 0 0 1

/-- A state whose frame for a page holds zeros, and has left its pool. -/
def Machine.State.zeroPage (s : Machine.State) (e : W64) (frame key : Nat) (p : Pool) : Machine.State :=
  (s.zeroed frame (pageBytes (fld e 11 9))).withPools (Map.put s.flt.pools key p)

section
variable {s : Machine.State} {w x ea frame : Nat} {e : W64} (key : Nat) (p : Pool) (heven : fld e 11 9 % 2 = 0)
  (hl : s.path.l1 = []) (hf : s.home frame = .mem frame) (he : s.home ea = .mem ea)
  (hs : s.severed (s.clusterOf (.wave w)) (.mem ea) = false) (hopen : ∀ y, y < 8 → s.barred true (ea + y) = false)
include heven hl he hs hopen

theorem writeLeaf_eq : ∃ u, (s.zeroPage e frame key p).writeLeaf w ea e frame =
    ((s.zeroPage e frame key p).withUsed u).writeMem ea (wordBytes [presentLeaf e frame]) := by
  have hlines : (s.zeroPage e frame key p).path.l1 = [] := by
    show s.path.l1.filter _ = []
    rw [hl]
    rfl
  have hfree : (s.zeroPage e frame key p).disown ea (wordBytes [presentLeaf e frame]) = wordBytes [presentLeaf e frame] :=
    disown_of_open fun y hy => open_of_never ((barred_zeroed s _ _ _ _).trans (hopen y (by simpa [length_wordBytes] using hy)))
  obtain ⟨u, hu⟩ := agentPut_bare (ag := .wave w) (sc := .device) (e := lostLeaf) (bs := wordBytes [presentLeaf e frame]) (pa := ea) hlines hs
  rw [hfree] at hu
  refine ⟨u, Eq.trans ?_ hu⟩
  unfold State.writeLeaf
  dsimp only
  rw [if_pos heven, if_pos heven]
  exact congrArg (fun h => State.agentPut _ (.wave w) .device lostLeaf h _) he

include hf

/-- A page of zeros that is mapped in this device's memory: its bytes, its leaf, and the nodes that count it. -/
theorem mapFrame_eq : ∃ u, s.mapFrame w x key ea e frame p = match s.ctxNode x with
      | some a => (((s.zeroPage e frame key p).withUsed u).writeMem ea (wordBytes [presentLeaf e frame])).modNodes (s.anc a)
          (fun m => { m with hbmuse := m.hbmuse + pageBytes (fld e 11 9) / 4096 })
      | none => ((s.zeroPage e frame key p).withUsed u).writeMem ea (wordBytes [presentLeaf e frame]) := by
  obtain ⟨u, hu⟩ := writeLeaf_eq (frame := frame) key p heven hl he hs hopen
  refine ⟨u, ?_⟩
  unfold State.mapFrame
  dsimp only
  rw [zeroFrame_mem _ _ _ hf]
  change (match ((s.zeroPage e frame key p).writeLeaf w ea e frame).ctxNode x with
    | some a => ((s.zeroPage e frame key p).writeLeaf w ea e frame).modNodes (((s.zeroPage e frame key p).writeLeaf w ea e frame).anc a) _
    | none => (s.zeroPage e frame key p).writeLeaf w ea e frame) = _
  rw [hu]
  rfl

/-- The bytes of a page that is mapped, of its leaf, and the others. -/
theorem mapFrame_memory {y : Nat} (hb : ∀ b ∈ (match s.ctxNode x with | some a => s.anc a | none => []), y < b + 112 ∨ b + 128 ≤ y) :
    Memory.get (s.mapFrame w x key ea e frame p).mem y =
      Memory.get (Memory.write (Memory.clear s.mem frame (pageBytes (fld e 11 9))) ea (wordBytes [presentLeaf e frame])) y := by
  obtain ⟨u, hu⟩ := mapFrame_eq (x := x) key p heven hl hf he hs hopen
  rw [hu]
  cases hc : s.ctxNode x with
  | none => rfl
  | some a =>
    rw [hc] at hb
    exact get_modNodes _ _ hb

end

/-! ### PGMAP (R226, R316) -/

section
variable {s : Machine.State} {w : Nat} {f : SF} (hi : s.issue = some ⟨.wave w, false⟩)
include hi

theorem exec_pgmap_beyond (h : 2 ^ 57 ≤ s.srcBits (.wave w) 64 0 f.sa) : Machine.exec (.pgmap f) s =
    .next ((s.leaveReserve w).faultHere (.wave w) 0x23 none (s.srcBits (.wave w) 64 0 f.sa) 0) := by
  show execPgmap f s = _
  unfold execPgmap issued
  rw [hi]
  exact congrArg Host.Outcome.next (if_pos h)

/-- The entries that the walk of a PGMAP reads. -/
def Machine.State.mapReads (s : Machine.State) (w : Nat) (f : SF) : List Nat :=
  s.walkPath (s.tlbOf (.wave w)) 4 (s.ptroot (s.ctxOf (.wave w))) (s.srcBits (.wave w) 64 0 f.sa)

/-- A state in which the entries of the walk have been read. -/
def Machine.State.mapHere (s : Machine.State) (w : Nat) (f : SF) : Machine.State :=
  (s.l1Sync (.wave w)).readsMade (s.ctxOf (.wave w)) (s.mapReads w f)

/-- What a PGMAP does once its entries have been read. -/
def Machine.State.mapEnd (s : Machine.State) (w : Nat) (f : SF) (r : Walk) : Machine.State :=
  let ag : Agent := .wave w
  let x := s.ctxOf ag
  let va := s.srcBits ag 64 0 f.sa
  let here := s.mapHere w f
  let bad := (here.leaveReserve w).trap ag 0x19 none 0 0
  let done (t : Machine.State) (st : Nat) : Machine.State := (t.put32 ag f.dst st).retire 1 .none
  match r with
  | .err _ => bad
  | .lost ea => ((here.leaveReserve w).agentItem ag 0x35 ea 0).trap ag 0x19 none 0 0
  | .leaf ea _ e =>
    if bitAt e 0 then (if s.leafFault x va e false false = some 0x21 then bad else done (here.leaveReserve w) 1)
    else if !bitAt e 52 then bad
    else
      match here.firstTouch w x ea e with
      | some (st, t) => done (t.leaveReserve w) st
      | none => (here.joinReserve w x e).stall

variable (h : s.srcBits (.wave w) 64 0 f.sa < 2 ^ 57)
include h

theorem exec_pgmap_waits (hw : s.drained (.wave w) = false ∨ s.readsHeld (s.ctxOf (.wave w)) (s.mapReads w f) = true) :
    Machine.exec (.pgmap f) s = .next s.stall := by
  show execPgmap f s = _
  unfold execPgmap issued
  rw [hi]
  refine congrArg Host.Outcome.next ((if_neg (not_le.2 h)).trans (if_pos ?_))
  rw [Bool.or_eq_true, Bool.not_eq_true']
  exact hw

theorem exec_pgmap_reads (hd : s.drained (.wave w) = true) (hr : s.readsHeld (s.ctxOf (.wave w)) (s.mapReads w f) = false) :
    Machine.exec (.pgmap f) s =
      .next (s.mapEnd w f ((s.mapHere w f).walk (s.tlbOf (.wave w)) (s.ctxOf (.wave w)) (s.srcBits (.wave w) 64 0 f.sa))) := by
  show execPgmap f s = _
  unfold execPgmap issued
  rw [hi]
  refine congrArg Host.Outcome.next ((if_neg (not_le.2 h)).trans (if_neg ?_))
  change ¬(!s.drained (.wave w) || s.readsHeld (s.ctxOf (.wave w)) (s.mapReads w f)) = true
  rw [hd, hr]
  exact Bool.false_ne_true

end

theorem mapHere_outer (s : Machine.State) (w : Nat) (f : SF) : Outer s (s.mapHere w f) :=
  (Outer.l1Sync s _).trans (Outer.ofCharged (Charged.readsMade _ _ _))

theorem mapHere_bytes {s : Machine.State} {w : Nat} {f : SF} (h : s.path.l1 = []) : SameBytes s (s.mapHere w f) := by
  have hcharged : Charged s (s.mapHere w f) := by
    unfold State.mapHere
    rw [l1Sync_empty _ h]
    exact Charged.readsMade _ _ _
  obtain ⟨_, _, _, _, hs, -⟩ := hcharged
  rw [hs]
  exact fun _ => ⟨rfl, rfl⟩

theorem legal_pgmap {k : ClauseKind} {f : SF} (h : legal k (.pgmap f) = true) : regOk k false f.dst = true := by
  have hl : legalS k (.pgmap f) f = true := h
  simp only [legalS, Bool.and_eq_true] at hl
  tauto

/-- The end of a PGMAP: its status stands in its destination, and nothing else changes but the place of its wave. -/
theorem mapped_retire {u : Machine.State} {w st : Nat} {f : SF} {k : ClauseKind} (hi : u.issue = some ⟨.wave w, false⟩)
    (hp : (Agent.wave w).present u) (hf : (Agent.wave w).fits k) (hl : legal k (.pgmap f) = true) (hst : st < 2 ^ 32) :
    let t := (u.put32 (.wave w) f.dst st).retire 1 .none
    t.reg (.wave w) f.dst false = BitVec.ofNat 64 st ∧ Kept (.wave w) u t (dstRegs (.wave w) f.dst false) [] false false ∧
      After u t (.wave w) 1 := by
  obtain ⟨hholds, hkept⟩ := put32_retire 1 hi hp hf (legal_pgmap hl) hst
  have hput := Kept.putReg (.wave w) u f.dst false false (BitVec.ofNat 64 (st % 2 ^ 32)) _ [] false false (fun _ hm => hm)
  have hword : BitVec.zeroExtend 64 (BitVec.truncate 32 (BitVec.ofNat 64 st)) = BitVec.ofNat 64 st := by
    apply BitVec.eq_of_toNat_eq
    simp only [BitVec.toNat_setWidth, BitVec.toNat_ofNat]
    omega
  exact ⟨hholds.1.trans hword, hkept, (SamePlace.putReg u _ _ false false _).after
    (after_retire _ _ 1 .none ((Machine.State.putReg_issue u _ _ _ _ _).trans hi) (hput.present hp))⟩

/-- Settles O54: the outcomes of the debug window by the handle and the selector, of HALT by the other path or the workgroups, of PGMAP
by the leaf that its walk finds, and the bytes of a page that is mapped. -/
theorem debugAndSystem : Obligations.DebugAndSystem := by
  unfold Obligations.DebugAndSystem
  refine ⟨?window, ?stopped, ?waves, ?threads, ?pages, ?frames⟩
  case window =>
    rintro i f s ag ⟨hi, -, -⟩ hinstr
    rw [exec_debugWindow s hinstr]
    exact ⟨fun h => debugWindow_none hi _ h, fun w v h ho => debugWindow_out hi h _ ho⟩
  case stopped =>
    intro f s c k w v hs ho
    obtain ⟨hmem, hlive⟩ := stoppedWave_some hs
    refine ⟨?rd, ?wr, ?resume, ?step, ?kill⟩
    case rd =>
      rintro ⟨hi, hp, kind, hf, hl⟩
      have hd := regOk_of_isQ hf (legal_dwrd hl)
      refine ⟨fun hr => exec_dwrd_traps hs ho hi hr, fun z hr => ⟨_, exec_dwrd hs ho hi hr, ?_⟩⟩
      obtain ⟨hafter, hreg, -⟩ := put64_done (s := s) (u := s) z (nSlots [f.sb]) hi hf hd rfl rfl rfl
      exact ⟨fun _ => hreg, kept_scalar s (.thread c k) f.dst true false _ _ .none hi, hafter⟩
    case wr =>
      rintro ⟨hi, -, -⟩
      refine ⟨fun hr => exec_dwwr_traps hs ho hi hr, fun u hr hn he => ?_, fun u alt hr hn => ⟨fun hpop => ?_, fun t0 x hpop he => ?_⟩,
        fun u hr hn he => ?_⟩
      · exact exec_dwwr hs ho hi hr (debugPut_ends hn he)
      · exact exec_dwwr hs ho hi hr (debugPut_waits hn hpop)
      · exact exec_dwwr hs ho hi hr (debugPut_pops hn hpop he)
      · obtain ⟨hw, hkept, hother, hafter⟩ := placed_other u hi (w := w) (n := nSlots [f.sb, f.sc])
        refine ⟨_, exec_dwwr hs ho hi hr (debugPut_stays hn he), hw, fun hc => ?_, fun hc => ?_, hkept, hother, hafter⟩
        · rw [hc] at hr
          exact debugWrite_register hr
        · rw [hc] at hr
          exact debugWrite_lane hr
    case resume =>
      rintro ⟨hi, -, -⟩
      have hexec := exec_dwres_resume hs ho hi
      rw [letGo_live false hlive] at hexec
      exact ⟨_, hexec, placed_other _ hi⟩
    case step =>
      rintro ⟨hi, -, -⟩
      have hexec := exec_dwstep hs ho hi
      rw [letGo_live true hlive] at hexec
      exact ⟨_, hexec, placed_other _ hi⟩
    case kill =>
      rintro ⟨hi, -, -⟩
      refine ⟨exec_dwres_kill hs ho hi, fun hone u hu => killWave_ends hone ?_ hu⟩
      obtain ⟨x, hx⟩ := find_of_mem_keys hmem
      have hv : s.wave w = some x := hx
      rw [hv, hone x (mem_of_find hx)]
  case waves =>
    rintro f s w v ⟨hi, -, -⟩ hv h0 hh
    have hexec := exec_halt_wave (f := f) hi hv h0 hh
    refine ⟨fun he => ?_, fun he => ?_⟩
    · rw [if_neg (fun hx => he ((ended_of_halt v h0).1 hx))] at hexec
      obtain ⟨u, hu, hpath, hother, hsreg, hvreg⟩ := halted_path (s := s) (w := w) (v := v)
      exact ⟨_, u, hexec, hu, hpath, hother, hsreg, hvreg, placed_passing _ _ _⟩
    · rw [if_pos ((ended_of_halt v h0).2 he)] at hexec
      exact hexec
  case threads =>
    rintro f s c k ⟨hi, -, -⟩
    have hexec : Machine.exec (.halt f) s =
        .next (((s.setThread c k { (s.thread c k).pastTrap with st := .halted }).freeThread c k).unlatch) := by
      show execHalt f s = _
      simp only [execHalt, issued, hi]
    refine ⟨fun hon => ?_, hexec⟩
    have hset := State.setThread_thread_same s c k { (s.thread c k).pastTrap with st := .halted }
    rw [freeThread_busy (by rw [hset]; exact hon)] at hexec
    refine ⟨_, hexec, ?_⟩
    rw [State.unlatch_thread, hset]
    exact ⟨rfl, rfl, rfl, rfl, rfl, fun _ => ⟨rfl, rfl⟩, rfl, fun _ _ => rfl,
      fun j hj => State.setThread_find_other s c k j _ fun h => hj (congrArg some h)⟩
  case pages =>
    rintro f s w ⟨hi, hp, k, hf, hl⟩
    refine ⟨fun h => exec_pgmap_beyond hi h, fun h hw => exec_pgmap_waits hi h hw, fun h hd hr => ⟨mapHere_bytes, ?_⟩⟩
    have hexec := exec_pgmap_reads hi h hd hr
    have hout := mapHere_outer s w f
    have hhi : ((s.mapHere w f).leaveReserve w).issue = some ⟨.wave w, false⟩ := hout.issue.trans hi
    have hhp : (Agent.wave w).present ((s.mapHere w f).leaveReserve w) := present_of_waves hp hout.waves
    refine ⟨fun z hz => ?_, fun ea z e hz => ⟨fun h0 hfault => ?_, fun hbad => ?_, fun h0 h52 => ⟨fun hn => ?_, fun st t0 ht => ?_⟩⟩⟩
    · exact hexec.trans (congrArg (fun r => Host.Outcome.next (s.mapEnd w f r)) hz)
    all_goals
      replace hexec := hexec.trans (congrArg (fun r => Host.Outcome.next (s.mapEnd w f r)) hz)
    · obtain ⟨hreg, hkept, hafter⟩ := mapped_retire (st := 1) hhi hhp hf hl (by decide)
      exact ⟨_, hexec.trans (congrArg Host.Outcome.next ((if_pos h0).trans (if_neg hfault))), fun _ => hreg, hkept,
        (hout.samePlace _).after hafter⟩
    · rcases hbad with ⟨h0, hfault⟩ | ⟨h0, h52⟩
      · exact hexec.trans (congrArg Host.Outcome.next ((if_pos h0).trans (if_pos hfault)))
      · exact hexec.trans (congrArg Host.Outcome.next ((if_neg (by simp [h0])).trans (if_pos (by simp [h52]))))
    · refine hexec.trans (congrArg Host.Outcome.next ((if_neg (by simp [h0])).trans ((if_neg (by simp [h52])).trans ?_)))
      change (match (s.mapHere w f).firstTouch w (s.ctxOf (.wave w)) ea e with | some (st, t) => _ | none => _) = _
      rw [show (s.mapHere w f).firstTouch w (s.ctxOf (.wave w)) ea e = none from hn]
      rfl
    · obtain ⟨hst, hsame, hspad, hissue, hpres⟩ := firstTouch_some ht
      have hti : (t0.leaveReserve w).issue = some ⟨.wave w, false⟩ := hissue.trans hhi
      obtain ⟨hreg, hkept, -⟩ := mapped_retire (st := st) (u := t0.leaveReserve w) hti (hpres hhp) hf hl (by omega)
      refine ⟨((t0.leaveReserve w).put32 (.wave w) f.dst st).retire 1 .none,
        hexec.trans (congrArg Host.Outcome.next ((if_neg (by simp [h0])).trans ((if_neg (by simp [h52])).trans ?_))), (congrArg State.mem hkept.rest :), (congrArg State.spad hkept.rest :).trans (hspad.trans hout.spad), fun _ => hreg, hst, hsame, hkept.rest⟩
      change (match (s.mapHere w f).firstTouch w (s.ctxOf (.wave w)) ea e with | some (st, t) => _ | none => _) = _
      rw [show (s.mapHere w f).firstTouch w (s.ctxOf (.wave w)) ea e = some (st, t0) from ht]
  case frames =>
    intro s w x key ea frame e p n blocks heven hapart hl hf he hs hopen hblocks
    have hget {y : Nat} (hb : ∀ b ∈ blocks, y < b + 112 ∨ b + 128 ≤ y) := mapFrame_memory (w := w) (x := x) key p heven hl hf he hs hopen hb
    have hlen : (wordBytes [presentLeaf e frame]).length = 8 := rfl
    refine ⟨?_, fun y hy => ?_, fun y hy hye hb => ?_⟩
    · unfold Memory.w64
      rw [Memory.num_eq_of_get fun j hj => hget fun b hb => by have := (hblocks b hb).2; omega]
      exact Memory.w64_write_wordBytes _ _ (k := 0) rfl
    · rw [hget fun b hb => by have := (hblocks b hb).1; omega, Memory.get_write_outside _ _ _ _ (by omega), Memory.get_clear, if_pos (by omega)]
    · rw [hget hb, Memory.get_write_outside _ _ _ _ (by omega), Memory.get_clear, if_neg (by omega)]

end Sys2Proof


/-! ## Memory stays in canonical form (O9): the rules of the state's own operations -/

namespace Sys2Proof

open Sys2Proof.Machine

/-- An outcome that is a next state leaves memory in canonical form. -/
def Tidied (o : Host.Outcome Machine.State Fault Refusal) : Prop := ∀ t, o = .next t → MemoryInv t

namespace MemoryInv

/-! ### Shapes of definitions -/

/-- A record of the other parts of a state, with the memories of one in canonical form. -/
theorem upd {a1 a2 a3 a4 a5 a6 a9 a10 a11 a12 a13 a14 a15 a16 a17 a18 a19 a20 a21 mem spad} (h : Memory.wf mem = true ∧ Memory.wf spad = true) :
    MemoryInv (State.mk a1 a2 a3 a4 a5 a6 mem spad a9 a10 a11 a12 a13 a14 a15 a16 a17 a18 a19 a20 a21) := h

theorem ite {p : Prop} [Decidable p] {s t : Machine.State} (h : MemoryInv s) (g : MemoryInv t) : MemoryInv (if p then s else t) := by
  split <;> assumption

theorem iteO {p : Prop} [Decidable p] {o r : Host.Outcome Machine.State Fault Refusal} (h : Tidied o) (g : Tidied r) :
    Tidied (if p then o else r) := by
  split <;> assumption

theorem foldl {β : Type} {f : Machine.State → β → Machine.State} {l : List β} {s : Machine.State} (h : MemoryInv s)
    (hf : ∀ t b, MemoryInv t → MemoryInv (f t b)) : MemoryInv (l.foldl f s) := by
  induction l generalizing s with
  | nil => exact h
  | cons b l ih => exact ih (hf s b h)

theorem foldl_snd {α β : Type} {f : α × Machine.State → β → α × Machine.State} {l : List β} {r : α × Machine.State} (h : MemoryInv r.2)
    (hf : ∀ q b, MemoryInv q.2 → MemoryInv (f q b).2) : MemoryInv (l.foldl f r).2 := by
  induction l generalizing r with
  | nil => exact h
  | cons b l ih => exact ih (hf r b h)

theorem foldl_option {β : Type} {f : Option Machine.State → β → Option Machine.State} {l : List β} {o : Option Machine.State}
    {t : Machine.State} (ho : ∀ u, o = some u → MemoryInv u)
    (hf : ∀ o b u, (∀ v, o = some v → MemoryInv v) → f o b = some u → MemoryInv u) (hr : l.foldl f o = some t) : MemoryInv t := by
  induction l generalizing o with
  | nil => exact ho t hr
  | cons b l ih => exact ih (fun u hu => hf o b u ho hu) hr

theorem snd_eq {α : Type} {r : α × Machine.State} {a : α} {t : Machine.State} (h : MemoryInv r.2) (hr : r = (a, t)) : MemoryInv t := by
  rwa [hr] at h

theorem next {s : Machine.State} (h : MemoryInv s) : Tidied (.next s) := fun t ht => by
  cases ht
  exact h

theorem refused {r : Refusal} : Tidied (.refused r) := by
  intro t ht
  cases ht

theorem issued {s : Machine.State} {f : Agent → Machine.State} (h : ∀ ag, MemoryInv (f ag)) : Tidied (Machine.issued s f) := by
  unfold Machine.issued
  split
  · exact next (h _)
  · exact refused

/-! ### What changes memory -/

theorem writeMem {s : Machine.State} {pa : Nat} {bs : List Byte} (h : MemoryInv s) : MemoryInv (s.writeMem pa bs) :=
  ⟨Memory.wf_write _ _ _ h.1, h.2⟩

theorem putAt {s : Machine.State} {a : Home} {bs : List Byte} (h : MemoryInv s) : MemoryInv (s.putAt a bs) := by
  cases a with
  | mem pa => exact h.writeMem
  | spad c o => exact ⟨h.1, Memory.wf_write _ _ _ h.2⟩
  | dev _ _ _ => exact h
  | down _ => exact h

theorem softPut {s : Machine.State} {a : Home} {bs : List Byte} (h : MemoryInv s) : MemoryInv (s.softPut a bs) := by
  unfold State.softPut
  split
  · exact h.putAt
  · exact h.putAt

/-- Scratchpad made zero in one range or in two. -/
theorem cleared {m p : Mem} {c : Prop} [Decidable c] {a n b k : Nat} (h : Memory.wf m = true ∧ Memory.wf p = true) :
    Memory.wf m = true ∧ Memory.wf (Memory.clear (if c then Memory.clear p a n else p) b k) = true := by
  refine ⟨h.1, Memory.wf_clear _ _ _ ?_⟩
  split
  · exact Memory.wf_clear _ _ _ h.2
  · exact h.2

theorem reset : MemoryInv State.reset := ⟨rfl, rfl⟩

end MemoryInv

end Sys2Proof


/-! ## Memory stays in canonical form (O9): the shared operations on the state -/

namespace Sys2Proof.MemoryInv

open Sys2Proof Sys2Proof.Machine

/-! ### Physical map (Table 18-1) -/

theorem bumpFree {s : State} {n : Nat} (h : MemoryInv s) : MemoryInv (s.bumpFree n) := upd h

theorem takeFree {s : State} (h : MemoryInv s) : MemoryInv s.takeFree.2 := upd h

/-! ### Waves, threads, workgroups, launches -/

theorem setWave {s : State} {w : Nat} {v : Wave} (h : MemoryInv s) : MemoryInv (s.setWave w v) := upd h

theorem setThread {s : State} {c t : Nat} {v : Thread} (h : MemoryInv s) : MemoryInv (s.setThread c t v) := upd h

theorem setCore {s : State} {n : Nat} {v : Core} (h : MemoryInv s) : MemoryInv (s.setCore n v) := upd h

theorem setLaunch {s : State} {l : Nat} {v : Launch} (h : MemoryInv s) : MemoryInv (s.setLaunch l v) := upd h

/-! ### Region control blocks -/

theorem setNode {s : State} {a : Nat} {n : Node} {coreuse : Nat} (h : MemoryInv s) : MemoryInv (s.setNode a n coreuse) :=
  (Outer.setNode _ _ _ _).memoryInv h

theorem modNode {s : State} {a : Nat} {f : Node → Node} (h : MemoryInv s) : MemoryInv (s.modNode a f) :=
  (Outer.modNode _ _ _).memoryInv h

theorem modNodes {s : State} {l : List Nat} {f : Node → Node} (h : MemoryInv s) : MemoryInv (s.modNodes l f) :=
  (Outer.modNodes _ _ _).memoryInv h

theorem syncCores {s : State} {q : Nat} (h : MemoryInv s) : MemoryInv (s.syncCores q) := (Outer.syncCores _ _).memoryInv h

/-! ### Translation -/

theorem chargeFab {s : State} {x n : Nat} (h : MemoryInv s) : MemoryInv (s.chargeFab x n) := (Outer.chargeFab _ _ _).memoryInv h

theorem useHbm {s : State} {pa n : Nat} (h : MemoryInv s) : MemoryInv (s.useHbm pa n) := (Outer.useHbm _ _ _).memoryInv h

theorem readsMade {s : State} {x : Nat} {l : List Nat} (h : MemoryInv s) : MemoryInv (s.readsMade x l) := by
  unfold State.readsMade
  refine foldl h.chargeFab (fun _ _ ht => ?_)
  split
  · exact ht.useHbm
  · exact ht

theorem keepTlb {s : State} {u x va : Nat} {e : W64} (h : MemoryInv s) : MemoryInv (s.keepTlb u x va e) :=
  ite (readsMade (upd h)) (upd (readsMade (upd h)))

/-! ### Links (R301) -/

theorem setLink {s : State} {x : Nat} {l nxt : W64} (h : MemoryInv s) : MemoryInv (s.setLink x l nxt) := by
  unfold State.setLink
  split
  · split
    · exact upd h
    · exact h
  · split
    · exact h.writeMem
    · exact h
  · exact h

theorem freeLink {s : State} {x : Nat} {l : W64} (h : MemoryInv s) : MemoryInv (s.freeLink x l) := by
  unfold State.freeLink
  split
  · exact upd h
  · exact upd h
  · exact h

theorem putErt {s : State} {a i : Nat} {w : W64} (h : MemoryInv s) : MemoryInv (s.putErt a i w) :=
  (Outer.putErt _ _ _ _).memoryInv h

/-! ### Tile-queue blocks (Table 25-5) -/

theorem putBlock {s : State} {h1 : Home} {q : TileQ} (h : MemoryInv s) : MemoryInv (s.putBlock h1 q) := h.putAt.putAt

theorem putEntry {s : State} {l c a : Nat} {e : W64 × W64} (h : MemoryInv s) : MemoryInv (s.putEntry l c a e) := by
  unfold State.putEntry
  split
  · exact h.putAt
  · exact h

theorem append {s : State} {l c : Nat} {h1 : Home} {q : TileQ} {rt : Bool} {e : W64 × W64} (h : MemoryInv s) :
    MemoryInv (s.append l c h1 q rt e) :=
  h.putEntry.putBlock

/-! ### Release (R301) -/

theorem unpark {s : State} {x e l : Nat} (h : MemoryInv s) : MemoryInv (s.unpark x e l) := by
  unfold State.unpark
  split
  · exact h
  · exact ite h (writeMem (foldl (foldl h (fun t _ ht => ht.setLink)) (fun t _ ht => ht.freeLink)))

theorem release {s : State} {x id k : Nat} (h : MemoryInv s) : MemoryInv (s.release x id k) := by
  induction k generalizing s with
  | zero => exact h
  | succ k ih =>
    unfold State.release
    split
    · exact h
    · dsimp only
      split
      · exact h
      · split
        · exact h
        · exact ite h (ih (ite h.append.freeLink.putErt.putErt.putErt h.append.freeLink.putErt.putErt))

theorem releaseAll {s : State} {x : Nat} (h : MemoryInv s) : MemoryInv (s.releaseAll x) := by
  unfold State.releaseAll
  split
  · exact h
  · refine foldl h (fun _ _ hu => ?_)
    split
    · exact ite hu.release hu
    · exact hu

/-! ### Requests to other devices (R33, R263, R290) -/

theorem farDrop {s : State} {dev pa n : Nat} (h : MemoryInv s) : MemoryInv (s.farDrop dev pa n) := upd h

theorem farPut {s : State} {die dev pa : Nat} {bs : List Byte} (h : MemoryInv s) : MemoryInv (s.farPut die dev pa bs) :=
  (Outer.farPut _ _ _ _ _).memoryInv h

theorem send {s : State} {x q dev pa : Nat} {k : FabKind} {lease : Option Nat} {l : Nat} {who : Option (Agent × Nat)}
    {keep : Bool} (h : MemoryInv s) :
    MemoryInv (s.send x q dev pa k lease l who keep).2 :=
  (Outer.send _ _ _ _ _ _ _ _ _ _).memoryInv h

/-! ### Fault records (Table 27-5, Table 27-6) -/

theorem setFbuf {s : State} {b : FaultBox} {f : FBuf} (h : MemoryInv s) : MemoryInv (s.setFbuf b f) :=
  (Outer.setFbuf _ _ _).memoryInv h

theorem writeHeld {s : State} {b : FaultBox} (h : MemoryInv s) : MemoryInv (s.writeHeld b) := (Outer.writeHeld _ _).memoryInv h

theorem sendRecord {s0 : State} {b : FaultBox} {kind : Nat} {w : Vector W64 8} (h : MemoryInv s0) :
    MemoryInv (State.sendRecord s0 b kind w) :=
  (Outer.sendRecord _ _ _ _).memoryInv h

theorem itemFailed {s : State} {x l cause addr num idx clus stack : Nat} (h : MemoryInv s) :
    MemoryInv (s.itemFailed x l cause addr num idx clus stack) :=
  (Outer.itemFailed _ _ _ _ _ _ _ _ _).memoryInv h

theorem rootItem {s : State} {cause addr dev : Nat} (h : MemoryInv s) : MemoryInv (s.rootItem cause addr dev) :=
  (Outer.rootItem _ _ _ _).memoryInv h

theorem physPut {s : State} {d x a : Nat} {bs : List Byte} (h : MemoryInv s) : MemoryInv (s.physPut d x a bs) :=
  (Outer.physPut _ _ _ _ _).memoryInv h

theorem physWords {s : State} {d x a : Nat} {ws : List W64} (h : MemoryInv s) : MemoryInv (s.physWords d x a ws) :=
  (Outer.physWords _ _ _ _ _).memoryInv h

theorem physNote {s : State} {d x a n : Nat} (h : MemoryInv s) : MemoryInv (s.physNote d x a n) :=
  (Outer.physNote _ _ _ _ _).memoryInv h

theorem fwNote {s : State} {a n : Nat} (h : MemoryInv s) : MemoryInv (s.fwNote a n) := (Outer.fwNote _ _ _).memoryInv h

theorem fwPut {s : State} {a : Nat} {bs : List Byte} (h : MemoryInv s) : MemoryInv (s.fwPut a bs) :=
  (Outer.fwPut _ _ _).memoryInv h

theorem agentItem {s : State} {ag : Agent} {cause addr idx : Nat} (h : MemoryInv s) : MemoryInv (s.agentItem ag cause addr idx) :=
  (Outer.agentItem _ _ _ _ _).memoryInv h

theorem stopRecord {s : State} {ag : Agent} {kind : Nat} {t : TRec} (h : MemoryInv s) : MemoryInv (s.stopRecord ag kind t) :=
  h.sendRecord

/-! ### L1 caches (R234, R235, R238) -/

theorem l1Drop {s : State} {p : L1Line → Bool} (h : MemoryInv s) : MemoryInv (s.l1Drop p) := (Outer.l1Drop _ _).memoryInv h

theorem l1Flush {s : State} {o : Nat} {p : L1Line → Bool} (h : MemoryInv s) : MemoryInv (s.l1Flush o p) :=
  (Outer.l1Flush _ _ _).memoryInv h

theorem l1FlushAll {s : State} (h : MemoryInv s) : MemoryInv (s.l1FlushAll) := (Outer.l1FlushAll _).memoryInv h

theorem l1SyncAt {s : State} {p : Seat} (h : MemoryInv s) : MemoryInv (s.l1SyncAt p) := (Outer.l1SyncAt _ _).memoryInv h

theorem l1Sync {s : State} {ag : Agent} (h : MemoryInv s) : MemoryInv (s.l1Sync ag) := (Outer.l1Sync _ _).memoryInv h

theorem spanRead {s : State} {p : Seat} {sc : Scope} {cached : Bool} {x x1 x2 : Nat} (h : MemoryInv s) :
    MemoryInv (s.spanRead p sc cached x x1 x2).2 :=
  (Outer.spanRead _ _ _ _ _ _ _).memoryInv h

theorem cachedRead {s : State} {p : Seat} {sc : Scope} {cached : Bool} {pa n : Nat} (h : MemoryInv s) :
    MemoryInv (s.cachedRead p sc cached pa n).2 :=
  h.spanRead

theorem cachedWrite {s : State} {p : Seat} {sc : Scope} {cached : Bool} {pa : Nat} {bs : List Byte} (h : MemoryInv s) :
    MemoryInv (s.cachedWrite p sc cached pa bs) :=
  (Outer.cachedWrite _ _ _ _ _ _).memoryInv h

/-! ### Commits (R169, R269, R270) -/

theorem modChan {s : State} {die : Nat} {dest : BinDest} {f : Chan → Chan} (h : MemoryInv s) : MemoryInv (s.modChan die dest f) :=
  upd h

theorem modCommit {s : State} {n : Nat} {f : Commit → Commit} (h : MemoryInv s) : MemoryInv (s.modCommit n f) := upd h

theorem addNotice {s : State} {p : Nat × BinDest} {nt : Notice} {cm : Commit} (h : MemoryInv s) :
    MemoryInv (s.addNotice p nt cm) :=
  h.modChan

theorem noticeFor {s : State} {n core : Nat} (h : MemoryInv s) : MemoryInv (s.noticeFor n core) := by
  unfold State.noticeFor
  dsimp only
  split
  · exact h
  · exact modCommit (foldl (foldl (upd h) (fun t p ht => ht.addNotice)) (fun t p ht => ht.addNotice))

theorem nextGroup {s : State} {core : Nat} (h : MemoryInv s) : MemoryInv (s.nextGroup core) := upd h

theorem markerDone {s : State} {n core : Nat} (h : MemoryInv s) : MemoryInv (s.markerDone n core) := nextGroup (ite h.noticeFor h)

theorem placeMarker {s : State} {n core : Nat} (h : MemoryInv s) : MemoryInv (s.placeMarker n core) := by
  unfold State.placeMarker
  split
  · exact h
  · exact ite (nextGroup (ite h.modCommit h.modCommit.noticeFor)) (upd (ite h.modCommit h.modCommit.noticeFor))

theorem enterMarkers {s : State} {core : Nat} (h : MemoryInv s) : MemoryInv (s.enterMarkers core) :=
  foldl h (fun _ _ ht => (ite ht.placeMarker ht))

theorem startCommit {s : State} {why : CommitFor} {launch : Nat} {tags : List (BitVec 12)} {pod : Bool} (h : MemoryInv s) :
    MemoryInv (s.startCommit why launch tags pod).2 :=
  foldl (upd h) (fun _ _ ht => (ite ht.placeMarker ht))

theorem passTag {s : State} {t : BitVec 12} (h : MemoryInv s) : MemoryInv (s.passTag t) := upd h

/-! ### The save area header (Table 27-8) -/

theorem headerBit {s : State} {d x off n : Nat} {v : Bool} (h : MemoryInv s) : MemoryInv (s.headerBit d x off n v) :=
  (Outer.headerBit _ _ _ _ _ _).memoryInv h

theorem syncClus {s : State} {x c : Nat} (h : MemoryInv s) : MemoryInv (s.syncClus x c) := (Outer.syncClus _ _ _).memoryInv h

theorem syncCore {s : State} {x core : Nat} (h : MemoryInv s) : MemoryInv (s.syncCore x core) :=
  (Outer.syncCore _ _ _).memoryInv h

theorem syncBusy {s : State} {x : Nat} (h : MemoryInv s) : MemoryInv (s.syncBusy x) := (Outer.syncBusy _ _).memoryInv h

/-! ### The choice of a context for a core (R33, R35, R49, R59 to R62) -/

theorem refreshReady {s : State} (h : MemoryInv s) : MemoryInv (s.refreshReady) := (Outer.refreshReady _).memoryInv h

theorem charge {s : State} {q u : Nat} (h : MemoryInv s) : MemoryInv (s.charge q u) :=
  foldl h.refreshReady (fun _ _ ht => ht.modNode)

theorem newSlice {s : State} {core : Nat} {k : Core} (h : MemoryInv s) : MemoryInv (s.newSlice core k) := h.setCore

theorem fullService {s : State} (h : MemoryInv s) : MemoryInv (s.fullService) := upd h

theorem boundary {s : State} {core : Nat} (h : MemoryInv s) : MemoryInv (s.boundary core) :=
  ite (ite h.setCore.fullService (upd h)) h

theorem chargeRun {s : State} {core : Nat} (h : MemoryInv s) : MemoryInv (s.chargeRun core) := ite h.charge.boundary h

theorem unfill {s : State} {core : Nat} (h : MemoryInv s) : MemoryInv (s.unfill core) := upd h

theorem rechoose {s : State} {core : Nat} {now : W64} (h : MemoryInv s) : MemoryInv (s.rechoose core now) := by
  unfold State.rechoose
  dsimp only
  split
  · exact h.newSlice
  · refine ite h.newSlice (syncBusy ?_)
    split
    · exact syncBusy (setCore (ite h h.unfill))
    · exact setCore (ite h h.unfill)

theorem lastEnded {s : State} {core : Nat} (h : MemoryInv s) : MemoryInv (s.lastEnded core) :=
  ite h (ite h.chargeRun.rechoose h.chargeRun.setCore)

/-! ### The end of workgroups and threads -/

theorem retireTag {s : State} {l : Nat} {tag : BitVec 12} (h : MemoryInv s) : MemoryInv (s.retireTag l tag) := h.startCommit

theorem freeThread {s : State} {c t : Nat} (h : MemoryInv s) : MemoryInv (s.freeThread c t) := by
  unfold State.freeThread
  refine ite (ite (syncClus (setThread ?_)) (setThread ?_)) h
  · split
    · exact h.retireTag.setLaunch
    · exact h.retireTag
  · split
    · exact h.retireTag.setLaunch
    · exact h.retireTag

theorem reap {s : State} {g : Nat} (h : MemoryInv s) : MemoryInv (s.reap g) := by
  unfold State.reap
  split
  · exact h
  · refine ite (refreshReady ?_) h
    split
    · refine freeThread (lastEnded ?_)
      split
      · exact syncCores (ite (syncCore (retireTag (setCore (upd h)))) (retireTag (setCore (upd h))))
      · exact ite (syncCore (retireTag (setCore (upd h)))) (retireTag (setCore (upd h)))
    · refine lastEnded ?_
      split
      · exact syncCores (ite (syncCore (retireTag (setCore (upd h)))) (retireTag (setCore (upd h))))
      · exact ite (syncCore (retireTag (setCore (upd h)))) (retireTag (setCore (upd h)))

theorem dropReserve {s : State} {w : Nat} (h : MemoryInv s) : MemoryInv (s.dropReserve w) := upd h

theorem killWave {s : State} {w : Nat} (h : MemoryInv s) : MemoryInv (s.killWave w) := by
  unfold State.killWave
  split
  · exact h
  · exact h.setWave.dropReserve.reap

/-! ### Experts (R298, R301, R302) -/

theorem reply {s : State} {a st res : Nat} (h : MemoryInv s) : MemoryInv (s.reply a st res) := (Outer.reply _ _ _ _).memoryInv h

theorem settleEvicts {s : State} (h : MemoryInv s) : MemoryInv (s.settleEvicts) := by
  unfold State.settleEvicts
  refine foldl h (fun _ _ ht => ?_)
  split
  · exact ht
  · exact ite ht (ite (reply (putErt (upd ht))) (reply (upd ht)))

theorem dropExperts {s : State} {l : Nat} (h : MemoryInv s) : MemoryInv (s.dropExperts l) := by
  unfold State.dropExperts
  split
  · exact h
  · dsimp only
    split
    · refine settleEvicts (releaseAll (foldl (foldl h (fun t u ht => ?_)) (fun u _ hu => hu.unpark)))
      split
      · exact ht.putErt
      · exact ht
    · refine foldl h (fun t u ht => ?_)
      split
      · exact ht.putErt
      · exact ht

/-! ### Requests to other devices, held and answered (R33, R290, R291) -/

theorem sendHeld {s : State} (h : MemoryInv s) : MemoryInv (s.sendHeld) := foldl h (fun _ _ ht => (ite (chargeFab (upd ht)) ht))

theorem farRead {s : State} {x n : Nat} {fail : State → State} (h : MemoryInv s) (hf : ∀ t, MemoryInv t → MemoryInv (fail t)) :
    MemoryInv (s.farRead x n fail).2 := by
  unfold State.farRead
  dsimp only
  split
  · exact hf _ (chargeFab (upd h))
  · exact chargeFab (upd h)

theorem devRead {s : State} {x a n : Nat} (h : MemoryInv s) : MemoryInv (s.devRead x a n).2 := (Outer.devRead _ _ _ _).memoryInv h

/-! ### Completion of packets (R55 to R58) -/

theorem setPacket {s : State} {q k : Nat} {p : PacketSt} (h : MemoryInv s) : MemoryInv (s.setPacket q k p) := upd h

theorem readPacket {s : State} {q k : Nat} (h : MemoryInv s) : MemoryInv (s.readPacket q k) := by
  unfold State.readPacket
  split
  · exact h.devRead.setPacket
  · exact h

theorem storeVa {s t : State} {x va : Nat} {bs : List Byte} (h : MemoryInv s) (hr : s.storeVa x va bs = .ok t) : MemoryInv t := by
  unfold State.storeVa at hr
  split at hr
  · cases hr
  · split at hr
    · split_ifs at hr
      cases hr
      exact h.l1Drop.putAt
    · cases hr
      exact h.send
    · cases hr

theorem complete {s : State} {q k st : Nat} {result : W32} (h : MemoryInv s) : MemoryInv (s.complete q k st result) := by
  unfold State.complete
  split
  · exact h
  · refine ite (modNode (upd h)) ?_
    dsimp only
    split
    · next s2 hr =>
        have hs2 : MemoryInv s2 := storeVa (modNode (upd h)) hr
        exact hs2
    · exact sendRecord (modNode (upd h))

theorem dropPacket {s : State} {q k st : Nat} (h : MemoryInv s) : MemoryInv (s.dropPacket q k st) := upd h.readPacket.complete

theorem cancel {s : State} {q : Nat} (h : MemoryInv s) : MemoryInv (s.cancel q) := foldl h (fun _ _ ht => ht.dropPacket)

theorem queueFault {s : State} {q cause w : Nat} (h : MemoryInv s) : MemoryInv (s.queueFault q cause w) := by
  unfold State.queueFault
  split
  · exact h
  · exact h.modNode.sendRecord.cancel

/-! ### Region capability entries and staging slots (R175, R274, R277) -/

theorem setCap {s : State} {stack e : Nat} {c : Cap} (h : MemoryInv s) : MemoryInv (s.setCap stack e c) := upd h

theorem letGoCap {s : State} {stack e swaps : Nat} (h : MemoryInv s) : MemoryInv (s.letGoCap stack e swaps) :=
  ite h.setCap h.setCap

theorem freeSlots {s : State} (h : MemoryInv s) : MemoryInv (s.freeSlots) := by
  unfold State.freeSlots
  refine foldl (upd h) (fun _ _ ht => ?_)
  split
  · exact ht.letGoCap
  · exact ht

/-! ### The end of a domain (R281, R318) -/

theorem failRecords {s : State} {l : Nat} (h : MemoryInv s) : MemoryInv (s.failRecords l) := freeSlots (upd h)

theorem dropTxf {s : State} {key : Nat} {c : TxfCmd} {cause : Nat} (h : MemoryInv s) : MemoryInv (s.dropTxf key c cause) := by
  unfold State.dropTxf
  split
  · exact h
  · exact foldl (ite (physWords (upd h)) (upd h)) (fun _ _ ht => ht.itemFailed)

theorem dropStreams {s : State} {l cause : Nat} (h : MemoryInv s) : MemoryInv (s.dropStreams l cause) :=
  foldl h (fun _ _ ht => (foldl ht (fun _ _ hu => hu.dropTxf)))

theorem endLaunch {s : State} {l cause : Nat} (h : MemoryInv s) : MemoryInv (s.endLaunch l cause) := by
  unfold State.endLaunch
  split
  · exact h
  · exact upd (complete (dropExperts (dropStreams (foldl (foldl h.setLaunch.failRecords (fun t e ht => ht.killWave))
        (fun t e ht => ht.setThread.freeThread)))))

theorem domainRecord {s : State} {a cause : Nat} {stop : Option (Nat × Nat)} {ended : List Nat} (h : MemoryInv s) :
    MemoryInv (s.domainRecord a cause stop ended) := by
  unfold State.domainRecord
  split
  · exact h
  · refine sendRecord ?_
    split
    · exact h
    · exact h
    · exact h.takeFree

theorem chargeFault {s : State} {a : Nat} (h : MemoryInv s) : MemoryInv (s.chargeFault a) := (Outer.chargeFault _ _).memoryInv h

theorem endDomain {s : State} {a cause : Nat} {stop : Option (Nat × Nat)} (h : MemoryInv s) :
    MemoryInv (s.endDomain a cause stop) :=
  foldl (modNode (chargeFault (domainRecord (foldl h (fun _ _ ht => ht.endLaunch))))) (fun _ _ ht => ht.cancel)

theorem tier3 {s : State} {ag : Agent} {kind : Nat} {t : TRec} (h : MemoryInv s) : MemoryInv (s.tier3 ag kind t) := by
  unfold State.tier3
  dsimp only
  split
  · exact h.stopRecord
  · exact ite (upd h.stopRecord.chargeFault.modNode) h.stopRecord.chargeFault.endDomain

/-! ### The save area -/

theorem storeWave {s : State} {v : Wave} {wgslot vbase age : Nat} (h : MemoryInv s) :
    MemoryInv (s.storeWave v wgslot vbase age) :=
  h.physWords.physPut

theorem putWave {s : State} {w : Nat} {v : Wave} (h : MemoryInv s) : MemoryInv (s.putWave w v) :=
  ite h.setWave.storeWave h.setWave

theorem storeThread {s : State} {c t : Nat} {h1 : Thread} (h : MemoryInv s) : MemoryInv (s.storeThread c t h1) := h.physWords

theorem putThread {s : State} {c t : Nat} {h1 : Thread} (h : MemoryInv s) : MemoryInv (s.putThread c t h1) :=
  ite h.setThread.storeThread h.setThread

/-! ### Header and streams (Table 27-8, R332) -/

theorem storeStream {s : State} {x c st : Nat} {t : Machine.Stream} (h : MemoryInv s) : MemoryInv (s.storeStream x c st t) := by
  unfold State.storeStream
  refine upd (foldl h.physWords (fun _ _ hu => ?_))
  split
  · exact hu.physWords.physPut
  · exact hu.physWords

theorem loadStream {s : State} {x c st : Nat} {t : Machine.Stream} (h : MemoryInv s) : MemoryInv (s.loadStream x c st t) :=
  upd (foldl h.physNote (fun _ _ hu => hu.physNote))

theorem moveStreams {s : State} {x c : Nat} {leaves : Bool} (h : MemoryInv s) : MemoryInv (s.moveStreams x c leaves) := by
  unfold State.moveStreams
  refine foldl h (fun _ _ ht => ?_)
  split
  · exact ht
  · exact ite ht.storeStream (ite ht.loadStream ht)

end Sys2Proof.MemoryInv


/-! ## Memory stays in canonical form (O9): agents, scalar instructions and control transfers -/

namespace Sys2Proof.MemoryInv

open Sys2Proof Sys2Proof.Machine

/-! ### Registers of an agent -/

theorem putReg {s : State} {ag : Agent} {o : Opnd} {wide sgn : Bool} {x : W64} (h : MemoryInv s) :
    MemoryInv (s.putReg ag o wide sgn x) := by
  unfold State.putReg
  split
  · split
    · exact ite h.setWave h.setWave
    · exact h
  · exact h.setThread
  · exact h

/-! ### Where the agent stands -/

theorem setRepctl {s : State} {ag : Agent} {x : W32} (h : MemoryInv s) : MemoryInv (s.setRepctl ag x) := by
  unfold State.setRepctl
  split
  · split
    · exact h.setWave
    · exact h
  · exact h.setThread

/-! ### Stops -/

theorem unlatch {s : State} (h : MemoryInv s) : MemoryInv (s.unlatch) := upd h

theorem queueTrap {s : State} {l c : Nat} {q : Queued} (h : MemoryInv s) : MemoryInv (s.queueTrap l c q) := by
  unfold State.queueTrap
  split
  · exact h.setThread
  · exact h

theorem trapAt {s : State} {ag : Agent} {cause slot : Nat} {lane : Option Nat} {code addr : Nat} (h : MemoryInv s) :
    MemoryInv (s.trapAt ag cause slot lane code addr) := by
  unfold State.trapAt
  dsimp only
  split
  · split
    · exact h.setWave.queueTrap.unlatch
    · exact h.unlatch
  · exact h.setThread.tier3.unlatch

theorem trap {s : State} {ag : Agent} {cause : Nat} {lane : Option Nat} {code addr : Nat} (h : MemoryInv s) :
    MemoryInv (s.trap ag cause lane code addr) :=
  h.trapAt

theorem enterHandler {s : State} {w slot resume va : Nat} {lanes : Mask} (h : MemoryInv s) :
    MemoryInv (s.enterHandler w slot resume va lanes) := by
  unfold State.enterHandler
  split
  · exact h.unlatch
  · exact h.setWave.unlatch

theorem passes {s : State} {ag : Agent} {fetch : Bool} (h : MemoryInv s) : MemoryInv (s.passes ag fetch) := by
  unfold State.passes
  split
  · exact h
  · split
    · exact h
    · split
      · exact ite h (ite h.setWave.dropReserve h.setWave)
      · exact h

theorem hostStop {s : State} {ag : Agent} {t : TRec} (h : MemoryInv s) : MemoryInv (s.hostStop ag t) := by
  unfold State.hostStop
  split
  · split
    · exact h.setWave.dropReserve.tier3.unlatch
    · exact h.unlatch
  · exact h.setThread.tier3.unlatch

theorem faultAt {s : State} {ag : Agent} {cause slot : Nat} {lane : Option Nat} {va : Nat} {touch : Mask} (h : MemoryInv s) :
    MemoryInv (s.faultAt ag cause slot lane va touch) := by
  unfold State.faultAt
  dsimp only
  split
  · split
    · exact ite h.enterHandler h.hostStop
    · exact h.unlatch
  · exact h.hostStop

theorem faultHere {s : State} {ag : Agent} {cause : Nat} {lane : Option Nat} {va : Nat} {touch : Mask} (h : MemoryInv s) :
    MemoryInv (s.faultHere ag cause lane va touch) :=
  h.faultAt

theorem leaveHandler {s : State} {w : Nat} (h : MemoryInv s) : MemoryInv (s.leaveHandler w) := by
  unfold State.leaveHandler
  split
  · exact h.unlatch
  · exact h.setWave.unlatch

theorem leaveTrap {s : State} {c t : Nat} (h : MemoryInv s) : MemoryInv (s.leaveTrap c t) :=
  ite h.setThread.unlatch.freeThread h.setThread.unlatch

/-! ### Going on -/

theorem goto {s : State} {ag : Agent} {pc : BitVec 57} {w : Wait} (h : MemoryInv s) : MemoryInv (s.goto ag pc w) := by
  unfold State.goto
  split
  · split
    · exact h.setWave
    · exact h
  · exact h.setThread

theorem toSlot {s : State} {ag : Agent} {k : Nat} (h : MemoryInv s) : MemoryInv (s.toSlot ag k) := by
  unfold State.toSlot
  split
  · split
    · exact h.setWave
    · exact h
  · exact h.setThread

theorem advance {s : State} {ag : Agent} {n : Nat} {w : Wait} (h : MemoryInv s) : MemoryInv (s.advance ag n w) :=
  ite h.toSlot h.goto

theorem stepped {s : State} {ag : Agent} (h : MemoryInv s) : MemoryInv (s.stepped ag) := by
  unfold State.stepped
  split
  · split
    · exact ite h.setWave h
    · exact h
  · exact h

theorem retire {s : State} {n : Nat} {w : Wait} (h : MemoryInv s) : MemoryInv (s.retire n w) := by
  unfold State.retire
  split
  · exact h
  · exact ite (ite h.setRepctl.unlatch.stepped h.setRepctl.advance.unlatch.stepped) h.advance.unlatch.stepped

theorem stall {s : State} (h : MemoryInv s) : MemoryInv (s.stall) := by
  unfold State.stall
  split
  · exact h.setThread.unlatch
  · exact h.unlatch

/-! ### Completion flags and counters (R91, R148) -/

theorem setCounts {s : State} {ag : Agent} {f : Vector Nat 12} {ld st : Nat} (h : MemoryInv s) :
    MemoryInv (s.setCounts ag f ld st) := by
  unfold State.setCounts
  split
  · split
    · exact h.putWave
    · exact h
  · exact h.putThread

theorem raise {s : State} {ag : Agent} {flag : Option Nat} {ld st : Bool} (h : MemoryInv s) : MemoryInv (s.raise ag flag ld st) :=
  h.setCounts

theorem lower {s : State} {ag : Agent} {flag : Option Nat} {ld st : Bool} (h : MemoryInv s) : MemoryInv (s.lower ag flag ld st) :=
  h.setCounts

theorem lowerAt {s : State} {ag : Agent} {p : Seat} {flag : Option Nat} {ld st : Bool} (h : MemoryInv s) :
    MemoryInv (s.lowerAt ag p flag ld st) :=
  ite h.lower h

theorem lateReg {s : State} {ag : Agent} {alt : Bool} {o : Opnd} {lane : Nat} {wide sgn : Bool} {x : W64} (h : MemoryInv s) :
    MemoryInv (s.lateReg ag alt o lane wide sgn x) := by
  unfold State.lateReg
  split
  · split
    · exact h.putWave
    · exact h.putWave
    · exact h
  · split
    · exact h.putThread
    · exact h

theorem lateAt {s : State} {ag : Agent} {p : Seat} {alt : Bool} {o : Opnd} {lane : Nat} {wide sgn : Bool} {x : W64}
    (h : MemoryInv s) :
    MemoryInv (s.lateAt ag p alt o lane wide sgn x) :=
  ite h.lateReg h

/-! ### Flags -/

theorem setFpstat {s : State} {ag : Agent} {x : W32} (h : MemoryInv s) : MemoryInv (s.setFpstat ag x) := by
  unfold State.setFpstat
  split
  · split
    · exact h.setWave
    · exact h
  · exact h.setThread

theorem withFlags {s : State} {ag : Agent} {fl : FFlags} {k : State → State} (h : MemoryInv s)
    (hk : ∀ t, MemoryInv t → MemoryInv (k t)) :
    MemoryInv (s.withFlags ag fl k) := by
  unfold State.withFlags
  exact ite h.trap (hk _ h.setFpstat)

/-! ### Scalar operands -/

theorem putTy {s : State} {ag : Agent} {o : Opnd} {t : Ty} {x : Nat} (h : MemoryInv s) : MemoryInv (s.putTy ag o t x) := h.putReg

theorem put32 {s : State} {ag : Agent} {o : Opnd} {x : Nat} (h : MemoryInv s) : MemoryInv (s.put32 ag o x) := h.putReg

theorem put64 {s : State} {ag : Agent} {o : Opnd} {x : Nat} (h : MemoryInv s) : MemoryInv (s.put64 ag o x) := h.putReg

theorem putTriple {s : State} {ag : Agent} {o : Opnd} {m : Mask} (h : MemoryInv s) : MemoryInv (s.putTriple ag o m) := by
  unfold State.putTriple
  split
  · split
    · exact h.setWave
    · exact h
  · exact h

/-! ### Vector operands -/

theorem vector {s : State} {ag : Agent} {d : Opnd} {regs : List Opnd} {op : Wave → Nat → W32 × FFlags} (h : MemoryInv s) :
    MemoryInv (s.vector ag d regs op) := by
  unfold State.vector
  split
  · exact h
  · split
    · exact h
    · refine ite (h.withFlags (fun _ ht => ?_)) h.trap
      split
      · exact ht.setWave.retire
      · exact ht

/-! ### Accesses at issue -/

theorem breakAgent {s : State} {ag : Agent} {bind launch : Nat} (h : MemoryInv s) : MemoryInv (s.breakAgent ag bind launch) :=
  (Outer.breakAgent _ _ _ _).memoryInv h

theorem breakHere {s : State} {ag : Agent} (h : MemoryInv s) : MemoryInv (s.breakHere ag) := (Outer.breakHere _ _).memoryInv h

theorem agentGet {s : State} {ag : Agent} {sc : Scope} {e : W64} {h1 : Home} {n : Nat} (h : MemoryInv s) :
    MemoryInv (s.agentGet ag sc e h1 n).2 :=
  (Outer.agentGet _ _ _ _ _ _).memoryInv h

theorem agentLoad {s : State} {ag : Agent} {sc : Scope} {e : W64} {h1 : Home} {n : Nat} (h : MemoryInv s) :
    MemoryInv (s.agentLoad ag sc e h1 n).2 :=
  (Outer.agentLoad _ _ _ _ _ _).memoryInv h

theorem agentPut {s : State} {ag : Agent} {sc : Scope} {e : W64} {h1 : Home} {bs : List Byte} (h : MemoryInv s) :
    MemoryInv (s.agentPut ag sc e h1 bs) := by
  unfold State.agentPut
  split
  · exact ite h.agentItem.breakHere h.useHbm.cachedWrite
  · exact h.putAt
  · exact ite h.agentItem.breakHere h.send
  · exact h.agentItem.breakHere

theorem raiseStop {s : State} {ag : Agent} {cause addr : Nat} (h : MemoryInv s) : MemoryInv (s.raiseStop ag cause addr) :=
  ite h.faultHere h.trap

/-! ### Scalar instructions -/

theorem scalarInt {f : SF} {s : State} {op : Nat → Bool → Nat → Nat → Nat → Nat} (h : MemoryInv s) :
    Tidied (Machine.scalarInt f s op) :=
  issued (fun _ => h.putTy.retire)

theorem execIadd {f : SF} {s : State} (h : MemoryInv s) : Tidied (Machine.execIadd f s) := h.scalarInt

theorem execIsub {f : SF} {s : State} (h : MemoryInv s) : Tidied (Machine.execIsub f s) := h.scalarInt

theorem execImul {f : SF} {s : State} (h : MemoryInv s) : Tidied (Machine.execImul f s) := h.scalarInt

theorem execImulh {f : SF} {s : State} (h : MemoryInv s) : Tidied (Machine.execImulh f s) := h.scalarInt

theorem execImad {f : SF} {s : State} (h : MemoryInv s) : Tidied (Machine.execImad f s) := h.scalarInt

theorem execIdiv {f : SF} {s : State} (h : MemoryInv s) : Tidied (Machine.execIdiv f s) := h.scalarInt

theorem execIrem {f : SF} {s : State} (h : MemoryInv s) : Tidied (Machine.execIrem f s) := h.scalarInt

theorem execImin {f : SF} {s : State} (h : MemoryInv s) : Tidied (Machine.execImin f s) := h.scalarInt

theorem execImax {f : SF} {s : State} (h : MemoryInv s) : Tidied (Machine.execImax f s) := h.scalarInt

theorem execAndS {f : SF} {s : State} (h : MemoryInv s) : Tidied (Machine.execAndS f s) := h.scalarInt

theorem execOrS {f : SF} {s : State} (h : MemoryInv s) : Tidied (Machine.execOrS f s) := h.scalarInt

theorem execXorS {f : SF} {s : State} (h : MemoryInv s) : Tidied (Machine.execXorS f s) := h.scalarInt

theorem execNotS {f : SF} {s : State} (h : MemoryInv s) : Tidied (Machine.execNotS f s) := h.scalarInt

theorem execShl {f : SF} {s : State} (h : MemoryInv s) : Tidied (Machine.execShl f s) := h.scalarInt

theorem execShr {f : SF} {s : State} (h : MemoryInv s) : Tidied (Machine.execShr f s) := h.scalarInt

theorem execSar {f : SF} {s : State} (h : MemoryInv s) : Tidied (Machine.execSar f s) := h.scalarInt

theorem execRot {f : SF} {s : State} (h : MemoryInv s) : Tidied (Machine.execRot f s) := h.scalarInt

theorem execClz {f : SF} {s : State} (h : MemoryInv s) : Tidied (Machine.execClz f s) := h.scalarInt

theorem execPopc {f : SF} {s : State} (h : MemoryInv s) : Tidied (Machine.execPopc f s) := h.scalarInt

theorem execBfx {f : SF} {s : State} (h : MemoryInv s) : Tidied (Machine.execBfx f s) := h.scalarInt

theorem execBfi {f : SF} {s : State} (h : MemoryInv s) : Tidied (Machine.execBfi f s) := h.scalarInt

theorem execIcmp {f : SF} {s : State} (h : MemoryInv s) : Tidied (Machine.execIcmp f s) := h.scalarInt

theorem execMov {f : SF} {s : State} (h : MemoryInv s) : Tidied (Machine.execMov f s) := h.scalarInt

theorem execSel {f : SF} {s : State} (h : MemoryInv s) : Tidied (Machine.execSel f s) := issued (fun _ => h.putTy.retire)

theorem execLea {f : SF} {s : State} (h : MemoryInv s) : Tidied (Machine.execLea f s) := issued (fun _ => h.put64.retire)

theorem scalarFloat {f : SF} {s : State} {op : FV → FV → FV → Nat × FFlags} (h : MemoryInv s) :
    Tidied (Machine.scalarFloat f s op) :=
  issued (fun _ => (h.withFlags (fun _ ht => ht.put32.retire)))

theorem execSfadd {f : SF} {s : State} (h : MemoryInv s) : Tidied (Machine.execSfadd f s) := h.scalarFloat

theorem execSfmul {f : SF} {s : State} (h : MemoryInv s) : Tidied (Machine.execSfmul f s) := h.scalarFloat

theorem execSfma {f : SF} {s : State} (h : MemoryInv s) : Tidied (Machine.execSfma f s) := h.scalarFloat

theorem execSfcmp {f : SF} {s : State} (h : MemoryInv s) : Tidied (Machine.execSfcmp f s) := h.scalarFloat

theorem execScvt {f : SF} {s : State} (h : MemoryInv s) : Tidied (Machine.execScvt f s) :=
  issued (fun _ => (h.withFlags (fun _ ht => ht.putTy.retire)))

theorem setSpr {s : State} {ag : Agent} {n : Nat} {x : W64} (h : MemoryInv s) : MemoryInv (s.setSpr ag n x) := by
  unfold State.setSpr
  split
  · split
    · exact h.setWave
    · exact h
  · dsimp only
    split
    · exact h.setThread
    · exact h.setThread
    · exact h.setThread
    · exact h

theorem execMfs {f : SF} {s : State} (h : MemoryInv s) : Tidied (Machine.execMfs f s) := issued (fun _ => h.putReg.retire)

theorem execMts {f : SF} {s : State} (h : MemoryInv s) : Tidied (Machine.execMts f s) := issued (fun _ => h.setSpr.retire)

/-! ### Control transfers -/

theorem jump {s : State} {ag : Agent} {pc : BitVec 57} {w : Wait} (h : MemoryInv s) : MemoryInv (s.jump ag pc w) :=
  h.goto.unlatch.stepped

theorem transfer {f : SF} {s : State} {k : Agent → BitVec 57 → State} (h : MemoryInv s) (hk : ∀ ag t, MemoryInv (k ag t)) :
    Tidied (Machine.transfer f s k) := by
  unfold Machine.transfer
  refine issued fun ag => ?_
  split
  · exact hk _ _
  · exact h.trap

theorem execBr {f : SF} {s : State} (h : MemoryInv s) : Tidied (Machine.execBr f s) := h.transfer (fun _ _ => h.jump)

theorem execBrx {f : SF} {s : State} (h : MemoryInv s) : Tidied (Machine.execBrx f s) := h.transfer (fun _ _ => h.jump)

theorem execRet {f : SF} {s : State} (h : MemoryInv s) : Tidied (Machine.execRet f s) := h.transfer (fun _ _ => h.jump)

theorem execBrc {f : SF} {s : State} (h : MemoryInv s) : Tidied (Machine.execBrc f s) := h.transfer (fun _ _ => h.jump)

theorem execCall {f : SF} {s : State} (h : MemoryInv s) : Tidied (Machine.execCall f s) := h.transfer (fun _ _ => h.put64.jump)

theorem execCallx {f : SF} {s : State} (h : MemoryInv s) : Tidied (Machine.execCallx f s) := h.transfer (fun _ _ => h.put64.jump)

/-! ### Paths and the divergence stack (Table 03-4) -/

theorem readTop {s t : State} {w : Nat} {v : Wave} {e : List W64} (h : MemoryInv s) (hr : s.readTop w v = .ok (e, t)) :
    MemoryInv t := by
  unfold State.readTop at hr
  dsimp only at hr
  split at hr
  · cases hr
  · split_ifs at hr
    cases hr
    exact h.keepTlb.agentLoad

theorem writeTop {s t : State} {w : Nat} {v : Wave} {e : List W64} (h : MemoryInv s) (hr : s.writeTop w v e = .ok t) :
    MemoryInv t := by
  unfold State.writeTop at hr
  dsimp only at hr
  split_ifs at hr
  split at hr
  · cases hr
  · split_ifs at hr
    cases hr
    exact h.keepTlb.agentPut

theorem popInto {s t : State} {w k : Nat} {v u : Wave} {alt : Bool} (h : MemoryInv s) (hr : s.popInto w v alt k = .ok (t, u)) :
    MemoryInv t := by
  induction k generalizing s v alt with
  | zero =>
    cases hr
    exact h
  | succ k ih =>
    unfold State.popInto at hr
    split_ifs at hr
    · cases hr
      exact h
    · split at hr
      · cases hr
      · cases hr
      · next _ s1 hread =>
        have h1 : MemoryInv s1 := h.readTop hread
        split_ifs at hr
        split at hr
        · cases hr
          exact h1
        · exact ih h1 hr

theorem stackEnd {s : State} {ag : Agent} {r : StackStep State} (h : MemoryInv s) (hr : ∀ t, r = .ok t → MemoryInv t) :
    MemoryInv (s.stackEnd ag r) := by
  unfold State.stackEnd
  split
  · exact h.raiseStop
  · exact h.stall
  · exact hr _ rfl

theorem setPassed {s : State} {w : Nat} {v : Wave} (h : MemoryInv s) : MemoryInv (s.setPassed w v) := h.passes.setWave

theorem emptied {s t : State} {w : Nat} {v : Wave} {alt : Bool} (h : MemoryInv s) (hr : s.emptied w v alt = .ok t) :
    MemoryInv t := by
  unfold State.emptied at hr
  split at hr
  · cases hr
  · cases hr
  · next s1 _ hpop =>
    have h1 : MemoryInv s1 := h.popInto hpop
    cases hr
    exact ite h1.setPassed.unlatch.dropReserve.reap h1.setPassed.unlatch.stepped

theorem split {s t : State} {w : Nat} {v : Wave} {taken fall : Mask} {pc next : BitVec 57} (h : MemoryInv s)
    (hr : s.split w v taken fall pc next = .ok t) :
    MemoryInv t := by
  unfold State.split at hr
  dsimp only at hr
  split at hr
  · cases hr
  · split at hr
    · cases hr
      exact h.setPassed.unlatch.stepped
    · split at hr
      · cases hr
      · cases hr
      · next _ hw =>
        cases hr
        exact (h.writeTop hw).setPassed.unlatch.stepped

theorem execBsplit {f : SF} {s : State} (h : MemoryInv s) : Tidied (Machine.execBsplit f s) := by
  unfold Machine.execBsplit
  refine h.transfer (fun _ _ => ?_)
  split
  · exact h.stall
  · split
    · exact h.stall
    · exact ite (ite h.jump (ite h.jump (stackEnd h fun _ hr => h.split hr))) h.trap

theorem execBjoin {x : SF} {s : State} (h : MemoryInv s) : Tidied (Machine.execBjoin x s) := by
  unfold Machine.execBjoin
  refine issued (fun _ => ?_)
  split
  · exact h.stall
  · split
    · exact h.stall
    · refine ite h.jump ?_
      split
      · exact h.setWave.unlatch.stepped
      · exact stackEnd h fun _ hr => h.emptied hr

theorem execDpush {f : SF} {s : State} (h : MemoryInv s) : Tidied (Machine.execDpush f s) := by
  unfold Machine.execDpush
  refine issued (fun _ => ?_)
  split
  · split
    · exact h.stall
    · refine ite (ite h.trap h.setPassed.retire) ?_
      split
      · exact h.raiseStop
      · exact h.stall
      · next t hr =>
          have ht : MemoryInv t := h.writeTop hr
          exact ht.setPassed.retire
  · exact h.stall

theorem execDpop {f : SF} {s : State} (h : MemoryInv s) : Tidied (Machine.execDpop f s) := by
  unfold Machine.execDpop
  refine issued (fun _ => ?_)
  split
  · split
    · exact h.stall
    · refine ite h.trap ?_
      split
      · exact h.raiseStop
      · exact h.stall
      · next _ t hr =>
          have ht : MemoryInv t := h.readTop hr
          exact ht.setPassed.retire
  · exact h.stall

theorem execMsk {f : SF} {s : State} (h : MemoryInv s) : Tidied (Machine.execMsk f s) := issued (fun _ => h.putTriple.retire)

theorem execMbcnt {f : SF} {s : State} (h : MemoryInv s) : Tidied (Machine.execMbcnt f s) := issued (fun _ => h.put32.retire)

theorem execMfirst {f : SF} {s : State} (h : MemoryInv s) : Tidied (Machine.execMfirst f s) := issued (fun _ => h.put32.retire)

theorem execNop {x : SF} {s : State} (h : MemoryInv s) : Tidied (Machine.execNop x s) := issued (fun _ => h.retire)

end Sys2Proof.MemoryInv


/-! ## Memory stays in canonical form (O9): vector instructions -/

namespace Sys2Proof.MemoryInv

open Sys2Proof Sys2Proof.Machine

/-! ### Elementwise integer instructions (R130) -/

theorem vecInt {f : VF} {s : State} {op : Nat → Bool → Nat → Nat → Nat → Nat} (h : MemoryInv s) :
    Tidied (Machine.vecInt f s op) :=
  issued (fun _ => h.vector)

theorem execViadd {f : VF} {s : State} (h : MemoryInv s) : Tidied (Machine.execViadd f s) := h.vecInt

theorem execVisub {f : VF} {s : State} (h : MemoryInv s) : Tidied (Machine.execVisub f s) := h.vecInt

theorem execVimul {f : VF} {s : State} (h : MemoryInv s) : Tidied (Machine.execVimul f s) := h.vecInt

theorem execVimad {f : VF} {s : State} (h : MemoryInv s) : Tidied (Machine.execVimad f s) := h.vecInt

theorem execVimin {f : VF} {s : State} (h : MemoryInv s) : Tidied (Machine.execVimin f s) := h.vecInt

theorem execVimax {f : VF} {s : State} (h : MemoryInv s) : Tidied (Machine.execVimax f s) := h.vecInt

theorem execViabs {f : VF} {s : State} (h : MemoryInv s) : Tidied (Machine.execViabs f s) := h.vecInt

theorem execViadds {f : VF} {s : State} (h : MemoryInv s) : Tidied (Machine.execViadds f s) := h.vecInt

theorem execVisubs {f : VF} {s : State} (h : MemoryInv s) : Tidied (Machine.execVisubs f s) := h.vecInt

theorem execVand {f : VF} {s : State} (h : MemoryInv s) : Tidied (Machine.execVand f s) := h.vecInt

theorem execVor {f : VF} {s : State} (h : MemoryInv s) : Tidied (Machine.execVor f s) := h.vecInt

theorem execVxor {f : VF} {s : State} (h : MemoryInv s) : Tidied (Machine.execVxor f s) := h.vecInt

theorem execVnot {f : VF} {s : State} (h : MemoryInv s) : Tidied (Machine.execVnot f s) := h.vecInt

theorem execVshl {f : VF} {s : State} (h : MemoryInv s) : Tidied (Machine.execVshl f s) := h.vecInt

theorem execVshr {f : VF} {s : State} (h : MemoryInv s) : Tidied (Machine.execVshr f s) := h.vecInt

theorem execVsar {f : VF} {s : State} (h : MemoryInv s) : Tidied (Machine.execVsar f s) := h.vecInt

theorem execVbfx {f : VF} {s : State} (h : MemoryInv s) : Tidied (Machine.execVbfx f s) := h.vecInt

theorem execVpopc {f : VF} {s : State} (h : MemoryInv s) : Tidied (Machine.execVpopc f s) := h.vecInt

theorem execVicmp {f : VF} {s : State} (h : MemoryInv s) : Tidied (Machine.execVicmp f s) := h.vecInt

theorem execVsel {f : VF} {s : State} (h : MemoryInv s) : Tidied (Machine.execVsel f s) := h.vecInt

theorem execVmov {f : VF} {s : State} (h : MemoryInv s) : Tidied (Machine.execVmov f s) := h.vecInt

/-! ### Elementwise floating instructions (R131 to R133, R139) -/

theorem vecFloat {f : VF} {s : State} {op : FFmt → Nat → Nat → Nat → Nat × FFlags} (h : MemoryInv s) :
    Tidied (Machine.vecFloat f s op) :=
  issued (fun _ => h.vector)

theorem execVfadd {f : VF} {s : State} (h : MemoryInv s) : Tidied (Machine.execVfadd f s) := h.vecFloat

theorem execVfsub {f : VF} {s : State} (h : MemoryInv s) : Tidied (Machine.execVfsub f s) := h.vecFloat

theorem execVfmul {f : VF} {s : State} (h : MemoryInv s) : Tidied (Machine.execVfmul f s) := h.vecFloat

theorem execVfma {f : VF} {s : State} (h : MemoryInv s) : Tidied (Machine.execVfma f s) := h.vecFloat

theorem execVfmin {f : VF} {s : State} (h : MemoryInv s) : Tidied (Machine.execVfmin f s) := h.vecFloat

theorem execVfmax {f : VF} {s : State} (h : MemoryInv s) : Tidied (Machine.execVfmax f s) := h.vecFloat

theorem execVfcmp {f : VF} {s : State} (h : MemoryInv s) : Tidied (Machine.execVfcmp f s) := h.vecFloat

theorem execVfclass {f : VF} {s : State} (h : MemoryInv s) : Tidied (Machine.execVfclass f s) := issued (fun _ => h.vector)

theorem special {f : VF} {s : State} {fn : FV → FV × FFlags} (h : MemoryInv s) : Tidied (Machine.special f s fn) := h.vecFloat

theorem execRcpF32 {f : VF} {s : State} (h : MemoryInv s) : Tidied (Machine.execRcpF32 f s) := h.special

theorem execRsqF32 {f : VF} {s : State} (h : MemoryInv s) : Tidied (Machine.execRsqF32 f s) := h.special

theorem execExp2 {f : VF} {s : State} (h : MemoryInv s) : Tidied (Machine.execExp2 f s) := h.special

theorem execLog2 {f : VF} {s : State} (h : MemoryInv s) : Tidied (Machine.execLog2 f s) := h.special

theorem execSinPi {f : VF} {s : State} (h : MemoryInv s) : Tidied (Machine.execSinPi f s) := h.special

theorem execCosPi {f : VF} {s : State} (h : MemoryInv s) : Tidied (Machine.execCosPi f s) := h.special

theorem execTanh {f : VF} {s : State} (h : MemoryInv s) : Tidied (Machine.execTanh f s) := h.special

theorem execRcpa {f : VF} {s : State} (h : MemoryInv s) : Tidied (Machine.execRcpa f s) := h.vecFloat

/-! ### Conversions (R134 to R137) -/

theorem execVcvt {f : VF} {s : State} (h : MemoryInv s) : Tidied (Machine.execVcvt f s) := issued (fun _ => h.vector)

theorem execVpack {f : VF} {s : State} (h : MemoryInv s) : Tidied (Machine.execVpack f s) := issued (fun _ => h.vector)

theorem execVunpk {f : VF} {s : State} (h : MemoryInv s) : Tidied (Machine.execVunpk f s) := issued (fun _ => h.vector)

/-! ### Dot products (R138) -/

theorem dot {f : VF} {s : State} {w : Nat} {ta tb : NumFmt} (h : MemoryInv s) : Tidied (Machine.dot f s w ta tb) :=
  issued (fun _ => h.vector)

theorem execDot4 {f : VF} {s : State} (h : MemoryInv s) : Tidied (Machine.execDot4 f s) := h.dot

theorem execDot8 {f : VF} {s : State} (h : MemoryInv s) : Tidied (Machine.execDot8 f s) := h.dot

/-! ### Cross-lane instructions (R140 to R144) -/

theorem execShfl {f : VF} {s : State} (h : MemoryInv s) : Tidied (Machine.execShfl f s) := issued (fun _ => h.vector)

theorem execBcast {f : VF} {s : State} (h : MemoryInv s) : Tidied (Machine.execBcast f s) := issued (fun _ => h.vector)

theorem execVred {f : VF} {s : State} (h : MemoryInv s) : Tidied (Machine.execVred f s) := by
  unfold Machine.execVred
  refine issued (fun _ => ?_)
  split
  · exact h.stall
  · split
    · exact h.stall
    · refine ite (h.withFlags (fun _ ht => ?_)) h.trap
      split
      · exact ht.setWave.retire
      · exact ht.put32.retire

theorem execVscan {f : VF} {s : State} (h : MemoryInv s) : Tidied (Machine.execVscan f s) := by
  unfold Machine.execVscan
  refine issued (fun _ => ?_)
  split
  · exact h.stall
  · split
    · exact h.stall
    · refine ite (h.withFlags (fun _ ht => ?_)) h.trap
      split
      · exact ht.setWave.retire
      · exact ht.stall

theorem execTopk {f : VF} {s : State} (h : MemoryInv s) : Tidied (Machine.execTopk f s) := by
  unfold Machine.execTopk
  refine issued (fun _ => ?_)
  split
  · split
    · exact h.stall
    · exact ite h.setWave.retire h.trap
  · exact h.stall

theorem execBallot {f : VF} {s : State} (h : MemoryInv s) : Tidied (Machine.execBallot f s) := by
  unfold Machine.execBallot
  refine issued (fun _ => ?_)
  split
  · exact h.stall
  · split
    · exact h.stall
    · exact ite h.putTriple.retire h.trap

end Sys2Proof.MemoryInv


/-! ## Memory stays in canonical form (O9): memory and memory-side instructions -/

namespace Sys2Proof.MemoryInv

open Sys2Proof Sys2Proof.Machine

/-! ### Checks at issue -/

theorem checkAccess {s t : State} {ag : Agent} {vec : Bool} {ea : Nat → Nat} {size : Nat} {rd wr : Bool} {dfr : Option Nat}
    (h : MemoryInv s) (hr : s.checkAccess ag vec ea size rd wr dfr = .stop t) :
    MemoryInv t := by
  unfold State.checkAccess at hr
  dsimp only at hr
  split at hr
  · cases hr
    exact h.trap
  · split at hr
    · cases hr
      exact h.stall
    · split at hr
      · cases hr
        exact h.faultHere
      · split at hr
        · cases hr
          exact h.trap
        · cases hr

theorem passed {s : State} {ag : Agent} {tr : List LaneTr} (h : MemoryInv s) : MemoryInv (s.passed ag tr) :=
  passes (foldl h (fun _ _ ht => ht.keepTlb))

/-! ### Issuing an access (R147, R148) -/

theorem addAccess {s : State} {ag : Agent} {f : MF} {r : AccReq} {tr : List LaneTr} {val cmp : Nat → W64} (h : MemoryInv s) :
    MemoryInv (s.addAccess ag f r tr val cmp) :=
  retire (raise (upd h))

theorem access {s : State} {ag : Agent} {f : MF} {r : AccReq} {regs : List (Opnd × Nat)} {ea : Nat → Nat} {val cmp : Nat → W64}
    (h : MemoryInv s) :
    MemoryInv (s.access ag f r regs ea val cmp) := by
  unfold State.access
  refine ite ?_ h.trap
  split
  · next t hr =>
      have ht : MemoryInv t := h.checkAccess hr
      exact ht
  · exact ite h.passed.addAccess h.stall

theorem execLd {f : MF} {s : State} (h : MemoryInv s) : Tidied (Machine.execLd f s) := issued (fun _ => h.access)

theorem execSt {f : MF} {s : State} (h : MemoryInv s) : Tidied (Machine.execSt f s) := issued (fun _ => h.access)

theorem execSld {f : MF} {s : State} (h : MemoryInv s) : Tidied (Machine.execSld f s) := issued (fun _ => h.access)

theorem execSst {f : MF} {s : State} (h : MemoryInv s) : Tidied (Machine.execSst f s) := issued (fun _ => h.access)

theorem execLdx {f : MF} {s : State} (h : MemoryInv s) : Tidied (Machine.execLdx f s) := issued (fun _ => h.access)

theorem execAtom {f : MF} {s : State} (h : MemoryInv s) : Tidied (Machine.execAtom f s) := issued (fun _ => h.access)

theorem execRed {f : MF} {s : State} (h : MemoryInv s) : Tidied (Machine.execRed f s) := issued (fun _ => h.access)

theorem execCas {f : MF} {s : State} (h : MemoryInv s) : Tidied (Machine.execCas f s) := issued (fun _ => h.access)

theorem execSatom {f : MF} {s : State} (h : MemoryInv s) : Tidied (Machine.execSatom f s) := issued (fun _ => h.access)

/-! ### Scratchpad (R153, R154) -/

theorem padItem {s : State} {ag : Agent} {addr idx : Nat} (h : MemoryInv s) : MemoryInv (s.padItem ag addr idx) := h.itemFailed

theorem padLoad {s : State} {ag : Agent} {f : MF} {h1 : Home} {addr i : Nat} (h : MemoryInv s) :
    MemoryInv (s.padLoad ag f h1 addr i) :=
  ite h.lateReg.padItem h.lateReg

theorem padStore {s : State} {ag : Agent} {size : Nat} {h1 : Home} {addr i : Nat} {x : W64} (h : MemoryInv s) :
    MemoryInv (s.padStore ag size h1 addr i x) :=
  ite h.padItem h.putAt

theorem execLdsp {f : MF} {s : State} (h : MemoryInv s) : Tidied (Machine.execLdsp f s) := by
  unfold Machine.execLdsp
  refine issued (fun _ => (ite ?_ h.trap))
  split
  · exact h.trap
  · exact ite h.stall (retire (ite (l1Sync (foldl h (fun t i ht => ht.padLoad))) (foldl h (fun t i ht => ht.padLoad))))

theorem execStsp {f : MF} {s : State} (h : MemoryInv s) : Tidied (Machine.execStsp f s) := by
  unfold Machine.execStsp
  refine issued (fun _ => (ite ?_ h.trap))
  split
  · exact h.trap
  · exact ite h.stall (retire (foldl (ite h.l1Sync h) (fun _ _ ht => ht.padStore)))

/-! ### Counters and timelines -/

theorem execWaitc {f : MF} {s : State} (h : MemoryInv s) : Tidied (Machine.execWaitc f s) :=
  issued (fun _ => (ite (retire (ite h.l1Sync h)) h.stall))

theorem execWaittl {f : MF} {s : State} (h : MemoryInv s) : Tidied (Machine.execWaittl f s) := by
  unfold Machine.execWaittl
  refine issued (fun _ => ?_)
  split
  · exact h.trap
  · exact ite h.l1Sync.retire h.stall

/-! ### Barriers -/

theorem execBar {f : MF} {s : State} (h : MemoryInv s) : Tidied (Machine.execBar f s) := by
  unfold Machine.execBar
  refine issued (fun _ => ?_)
  split
  · exact h.stall
  · split
    · exact h.stall
    · exact ite h.trap (ite h.jump h.stall)

/-! ### Barrier objects (Table 03-5) -/

theorem putBarObj {s : State} {h1 : Home} {o : BarObj} (h : MemoryInv s) : MemoryInv (s.putBarObj h1 o) := h.putAt

theorem arriveAt {s : State} {h1 : Home} {k : Nat} (h : MemoryInv s) : MemoryInv (s.arriveAt h1 k) := by
  unfold State.arriveAt
  split
  · exact h.putBarObj
  · exact h

theorem execArrv {f : MF} {s : State} (h : MemoryInv s) : Tidied (Machine.execArrv f s) := by
  unfold Machine.execArrv
  refine issued (fun _ => (ite (ite h.retire ?_) h.trap))
  split
  · exact h.trap
  · exact ite h.stall (retire (foldl (ite h.l1Sync h) (fun _ _ ht => ht.arriveAt)))

theorem execBowait {f : MF} {s : State} (h : MemoryInv s) : Tidied (Machine.execBowait f s) := by
  unfold Machine.execBowait
  refine issued (fun _ => ?_)
  split
  · exact h.trap
  · exact ite (retire (put64 (ite h.l1Sync h))) h.stall

/-! ### Circular buffers (Table 18-4) -/

theorem putCirBuf {s : State} {h1 : Home} {c : CirBuf} (h : MemoryInv s) : MemoryInv (s.putCirBuf h1 c) := h.putAt

theorem cbAcquire {f : MF} {s : State} {prod : Bool} (h : MemoryInv s) : Tidied (Machine.cbAcquire f s prod) := by
  unfold Machine.cbAcquire
  refine issued (fun _ => ?_)
  split
  · exact h.trap
  · split
    · exact h.stall
    · exact ite h.stall (retire (put32 (putCirBuf (ite h.l1Sync h))))

theorem cbRelease {f : MF} {s : State} {prod : Bool} (h : MemoryInv s) : Tidied (Machine.cbRelease f s prod) := by
  unfold Machine.cbRelease
  refine issued (fun _ => ?_)
  split
  · exact h.trap
  · split
    · exact h.trap
    · exact ite h.stall (retire (putCirBuf (ite h.l1Sync h)))

theorem execCbacqProd {f : MF} {s : State} (h : MemoryInv s) : Tidied (Machine.execCbacqProd f s) := h.cbAcquire

theorem execCbacqCons {f : MF} {s : State} (h : MemoryInv s) : Tidied (Machine.execCbacqCons f s) := h.cbAcquire

theorem execCbrelProd {f : MF} {s : State} (h : MemoryInv s) : Tidied (Machine.execCbrelProd f s) := h.cbRelease

theorem execCbrelCons {f : MF} {s : State} (h : MemoryInv s) : Tidied (Machine.execCbrelCons f s) := h.cbRelease

/-! ### Commits -/

theorem endWait {s : State} {ag : Agent} {n : Nat} (h : MemoryInv s) : MemoryInv (s.endWait ag n) := by
  unfold State.endWait
  split
  · split
    · exact h.setWave
    · exact h
  · exact h.setThread

theorem dropReplayed {s : State} {c : Commit} (h : MemoryInv s) : MemoryInv (s.dropReplayed c) :=
  upd (foldl h (fun _ _ ht => ht.farDrop))

theorem finishCommit {s : State} {n : Nat} (h : MemoryInv s) : MemoryInv (s.finishCommit n) := by
  unfold State.finishCommit
  split
  · exact h
  · dsimp only
    split
    · exact l1SyncAt (endWait (lateAt (ite (dropReplayed (upd h)) (upd h))))
    · exact ite (dropReplayed (upd h)) (upd h)
    · exact ite (dropReplayed (upd h)) (upd h)

theorem commitOf {f : SF} {s : State} {tags : Agent → List (BitVec 12)} {all pod : Bool} (h : MemoryInv s) :
    Tidied (Machine.commitOf f s tags all pod) :=
  issued (fun _ => (ite h.stall (ite h.startCommit.jump.finishCommit h.startCommit.jump)))

theorem execCommitBlock {f : SF} {s : State} (h : MemoryInv s) : Tidied (Machine.execCommitBlock f s) := h.commitOf

theorem execCommitGrid {f : SF} {s : State} (h : MemoryInv s) : Tidied (Machine.execCommitGrid f s) := h.commitOf

theorem execCommitPod {f : SF} {s : State} (h : MemoryInv s) : Tidied (Machine.execCommitPod f s) := h.commitOf

theorem dflush {s : State} {pod : Bool} (h : MemoryInv s) : Tidied (Machine.dflush s pod) := issued (fun _ => (retire (upd h)))

theorem execDflushGrid {x : SF} {s : State} (h : MemoryInv s) : Tidied (Machine.execDflushGrid x s) := h.dflush

theorem execDflushPod {x : SF} {s : State} (h : MemoryInv s) : Tidied (Machine.execDflushPod x s) := h.dflush

/-! ### Capability handles (R173 to R176) -/

theorem dropCap {s : State} {stack e : Nat} (h : MemoryInv s) : MemoryInv (s.dropCap stack e) := h.setCap

theorem revokeCap {s : State} {stack e : Nat} (h : MemoryInv s) : MemoryInv (s.revokeCap stack e) := ite h.dropCap h.setCap

theorem stackLost {s : State} {ag : Agent} {st : Nat} (h : MemoryInv s) : MemoryInv (s.stackLost ag st) := h.agentItem

theorem execCapnew {f : SF} {s : State} (h : MemoryInv s) : Tidied (Machine.execCapnew f s) := by
  unfold Machine.execCapnew
  refine issued (fun _ => (ite h.trap ?_))
  split
  · exact h.faultHere
  · refine ite h.trap (ite h.stall (ite h.keepTlb.passes.stackLost.put32.retire ?_))
    split
    · exact h.keepTlb.passes.put32.retire
    · exact h.keepTlb.passes.setCap.put32.retire

theorem execCapswap {f : SF} {s : State} (h : MemoryInv s) : Tidied (Machine.execCapswap f s) := by
  unfold Machine.execCapswap
  refine issued (fun _ => (ite h.stall (ite h.stackLost.put32.retire ?_)))
  split
  · exact ite (retire (put32 (revokeCap (upd h.setCap)))) h.put32.retire
  · exact h.put32.retire

theorem execCaprev {f : SF} {s : State} (h : MemoryInv s) : Tidied (Machine.execCaprev f s) := by
  unfold Machine.execCaprev
  refine issued (fun _ => (ite h.stall (ite h.stackLost.put32.retire ?_)))
  split
  · exact h.revokeCap.put32.retire
  · exact h.put32.retire

theorem execCapqry {f : SF} {s : State} (h : MemoryInv s) : Tidied (Machine.execCapqry f s) :=
  issued (fun _ => (ite h.stall (ite h.stackLost.put32.retire h.put32.retire)))

/-! ### Command blocks (R177 to R179) -/

theorem rejectOffer {s : State} {o : Offer} {code : Nat} (h : MemoryInv s) : MemoryInv (s.rejectOffer o code) :=
  lowerAt (ite h.itemFailed h.lateAt)

theorem offerBlock {f : MF} {s : State} {kind : Nat} (h : MemoryInv s) : Tidied (Machine.offerBlock f s kind) := by
  unfold Machine.offerBlock
  refine issued (fun _ => ?_)
  dsimp only
  split
  · next t hr =>
      have ht : MemoryInv t := h.checkAccess hr
      exact ht
  · split
    · exact h.stall
    · exact ite h.stall (retire (ite (rejectOffer (raise (upd h.passed.agentLoad)))
          (ite (rejectOffer (raise (upd h.passed.agentLoad))) (upd (raise (upd h.passed.agentLoad))))))

theorem execMred {f : MF} {s : State} (h : MemoryInv s) : Tidied (Machine.execMred f s) := h.offerBlock

theorem execMired {f : MF} {s : State} (h : MemoryInv s) : Tidied (Machine.execMired f s) := h.offerBlock

theorem execMeval {f : MF} {s : State} (h : MemoryInv s) : Tidied (Machine.execMeval f s) := h.offerBlock

theorem execMfill {f : MF} {s : State} (h : MemoryInv s) : Tidied (Machine.execMfill f s) := h.offerBlock

/-! ### Accesses under way -/

theorem modAcc {s : State} {n : Nat} {f : Access → Access} (h : MemoryInv s) : MemoryInv (s.modAcc n f) := upd h

theorem give {s : State} {a : Access} {l : LaneAcc} {x : W64} (h : MemoryInv s) : MemoryInv (s.give a l x) := h.lateAt

theorem failLane {s : State} {a : Access} {l : LaneAcc} {cause addr : Nat} (h : MemoryInv s) :
    MemoryInv (s.failLane a l cause addr) :=
  itemFailed (ite h.give h)

theorem loseLane {s : State} {a : Access} {l : LaneAcc} (h : MemoryInv s) : MemoryInv (s.loseLane a l) :=
  ite h.failLane.breakAgent h.failLane

theorem memLane {s : State} {a : Access} {l : LaneAcc} {pa : Nat} (h : MemoryInv s) : MemoryInv (s.memLane a l pa) := by
  unfold State.memLane
  refine ite h.failLane ?_
  split
  · exact h.cachedWrite
  · exact h.cachedRead.give
  · exact ite h.cachedRead.cachedWrite.give h.cachedRead.cachedWrite

theorem devLane {s t : State} {a : Access} {l : LaneAcc} {dev pa : Nat} {w : Option Nat} (h : MemoryInv s)
    (hr : s.devLane a l dev pa w = some t) :
    MemoryInv t := by
  unfold State.devLane at hr
  dsimp only at hr
  split at hr
  · split at hr
    · cases hr
    · split at hr
      · split_ifs at hr
        · cases hr
          exact give (upd h)
        · cases hr
          exact modAcc (send (upd h))
      · split_ifs at hr
        cases hr
        exact modAcc (send (upd h))
  · split_ifs at hr
    cases hr
    exact h.send.modAcc
  · split_ifs at hr
    cases hr
    exact h.send.modAcc

theorem oneLane {s t : State} {a : Access} {l : LaneAcc} (h : MemoryInv s) (hr : s.oneLane a l = some t) : MemoryInv t := by
  have h1 : MemoryInv (if a.ord = .release && a.scope == .pod then { s with free := s.free + 1 } else s) := ite (upd h) h
  unfold State.oneLane at hr
  dsimp only at hr
  split at hr
  · cases hr
  · split at hr
    · split at hr
      · cases hr
        exact h1.memLane
      · split at hr
        · cases hr
          exact h1.loseLane
        · split at hr
          · cases hr
          · cases hr
            exact h1.memLane.useHbm
    · cases hr
      exact h1
    · cases hr
      exact h1.loseLane
    · split at hr
      · cases hr
        exact h1.loseLane
      · exact h1.devLane hr

theorem someLanes {s : State} {n k : Nat} (h : MemoryInv s) : MemoryInv (s.someLanes n k) := by
  induction k generalizing s with
  | zero => exact h
  | succ k ih =>
    unfold State.someLanes
    split
    · exact h
    · split
      · exact h
      · split
        · exact h
        · next _ hr => exact ih (h.oneLane hr).modAcc

theorem logRecs {s : State} {n : Nat} (h : MemoryInv s) : MemoryInv (s.logRecs n) := by
  unfold State.logRecs
  split
  · exact h
  · exact ite h (enterMarkers (modAcc (upd h)))

theorem closeAccess {s : State} {n : Nat} (h : MemoryInv s) : MemoryInv (s.closeAccess n) := by
  unfold State.closeAccess
  split
  · exact h
  · exact ite (ite (l1SyncAt (lowerAt (upd h))) (lowerAt (upd h))) h

theorem execAccessComplete {n : Nat} {s : State} (h : MemoryInv s) : Tidied (Machine.execAccessComplete n s) := by
  unfold Machine.execAccessComplete
  refine next ?_
  split
  · exact h
  · exact closeAccess (logRecs (ite (someLanes (ite (l1SyncAt (upd h)) (upd h))) (upd h)))

theorem execCommitComplete {n : Nat} {s : State} (h : MemoryInv s) : Tidied (Machine.execCommitComplete n s) :=
  next (ite h.finishCommit h)

/-! ### Regions -/

theorem holdCap {s : State} {stack e : Nat} (h : MemoryInv s) : MemoryInv (s.holdCap stack e) := h.setCap

/-! ### Acceptance (R179) -/

theorem acceptOffer {s : State} {o : Offer} {d : Region} {a i : Option Region} {prog : List Byte} {bad : Bool}
    (h : MemoryInv s) :
    MemoryInv (s.acceptOffer o d a i prog bad) :=
  lowerAt (ite (foldl (upd h) (fun _ _ ht => ht.holdCap)) (lateAt (foldl (upd h) (fun _ _ ht => ht.holdCap))))

theorem flushRanges {s : State} {p : Seat} {l : List (Nat × Nat)} (h : MemoryInv s) : MemoryInv (s.flushRanges p l) := by
  unfold State.flushRanges
  split
  · exact h.l1Flush
  · exact h

theorem loseOffer {s : State} {o : Offer} (h : MemoryInv s) : MemoryInv (s.loseOffer o) :=
  lowerAt (ite h.takeFree.itemFailed h.takeFree.itemFailed.lateAt)

theorem execCommandBlockAcceptance {n : Nat} {s : State} (h : MemoryInv s) : Tidied (Machine.execCommandBlockAcceptance n s) := by
  unfold Machine.execCommandBlockAcceptance
  refine next ?_
  split
  · exact h
  · refine ite (ite (loseOffer (upd (ite h.l1SyncAt h.flushRanges)))
        (ite (loseOffer (upd (upd (ite h.l1SyncAt h.flushRanges)))) ?_)) h
    split
    · exact rejectOffer (upd (ite h.l1SyncAt h.flushRanges))
    · exact acceptOffer (upd (ite h.l1SyncAt h.flushRanges))

/-! ### Items (R180 to R185) -/

theorem modCmd {s : State} {c : Cmd} {f : Cmd → Cmd} (h : MemoryInv s) : MemoryInv (s.modCmd c f) := upd h

theorem failCmd {s : State} {c : Cmd} {st : Nat} (h : MemoryInv s) : MemoryInv (s.failCmd c st) := h.modCmd

theorem runItem {s : State} {c : Cmd} {e : Nat} (h : MemoryInv s) : MemoryInv (s.runItem c e) :=
  ite h.failCmd (ite h (ite h.flushRanges.failCmd (ite h.flushRanges.failCmd
      (ite h.flushRanges (ite h.flushRanges.flushRanges.useHbm.failCmd h.flushRanges.flushRanges.useHbm.softPut.modCmd)))))

theorem execCupolaItem {ctx stack : Nat} {s : State} (h : MemoryInv s) : Tidied (Machine.execCupolaItem ctx stack s) := by
  unfold Machine.execCupolaItem
  refine next ?_
  split
  · exact h
  · exact ite h.runItem h

theorem execCommandCompletionWord {ctx stack : Nat} {s : State} (h : MemoryInv s) :
    Tidied (Machine.execCommandCompletionWord ctx stack s) := by
  unfold Machine.execCommandCompletionWord
  refine next ?_
  split
  · exact h
  · exact ite h (foldl (upd h.flushRanges.useHbm.putAt) (fun _ _ ht => ht.letGoCap))

theorem execCapEntryFree {stack e : Nat} {s : State} (h : MemoryInv s) : Tidied (Machine.execCapEntryFree stack e s) :=
  next (ite h.dropCap h)

end Sys2Proof.MemoryInv


/-! ## Memory stays in canonical form (O9): the deferred path, the matrix units and the tensor engine -/

namespace Sys2Proof.MemoryInv

open Sys2Proof Sys2Proof.Machine

/-! ### Filing (R270, R278) -/

theorem fileOne {s t : State} {die : Nat} {dest : BinDest} {key srcdev : Nat} {inc : BitVec 16} {r : BinRec} (h : MemoryInv s)
    (hr : s.fileOne die dest key srcdev inc r = some t) :
    MemoryInv t := by
  unfold State.fileOne at hr
  dsimp only at hr
  split at hr
  · cases hr
    exact upd h
  · split_ifs at hr
    cases hr
    exact upd h

theorem file {s t : State} {die : Nat} {dest : BinDest} {key srcdev : Nat} {inc : BitVec 16} {r : BinRec} (h : MemoryInv s)
    (hr : s.file die dest key srcdev inc r = some t) :
    MemoryInv t := by
  refine foldl_option (fun u hu => ?_) (fun o _ u ho hu => ?_) hr
  · cases hu
    exact h
  · cases o with
    | none => cases hu
    | some v => exact (ho v rfl).fileOne hu

theorem execBelfryDrain {core : Nat} {s : State} (h : MemoryInv s) : Tidied (Machine.execBelfryDrain core s) := by
  unfold Machine.execBelfryDrain
  refine next ?_
  dsimp only
  split
  · exact h
  · exact enterMarkers (markerDone (upd h))
  · split
    · next t hr =>
        have ht : MemoryInv t := h.file hr
        exact enterMarkers (upd ht)
    · exact h

/-! ### Failures (R170, R275, R320) -/

theorem failRec {s : State} {key srcdev : Nat} {inc : BitVec 16} {dest : BinDest} {r : BinRec} {cause : Nat} (h : MemoryInv s) :
    MemoryInv (s.failRec key srcdev inc dest r cause) :=
  ite (upd h.sendRecord) (upd h.sendRecord)

theorem failRecs {s : State} {key srcdev : Nat} {inc : BitVec 16} {dest : BinDest} {l : List BinRec} {cause : Nat}
    (h : MemoryInv s) :
    MemoryInv (s.failRecs key srcdev inc dest l cause) :=
  foldl h (fun _ _ ht => ht.failRec)

/-! ### Shipping (R270, R279) -/

theorem freeNotices {s : State} {die : Nat} {dest : BinDest} (h : MemoryInv s) : MemoryInv (s.freeNotices die dest) := h.modChan

theorem ackNotice {s : State} {dev : Nat} {inc : BitVec 16} {req fails : Nat} (h : MemoryInv s) :
    MemoryInv (s.ackNotice dev inc req fails) :=
  upd h

theorem noticeDone {s : State} {nt : Notice} (h : MemoryInv s) : MemoryInv (s.noticeDone nt) := by
  unfold State.noticeDone
  split
  · exact h.modCommit
  · exact ite (ackNotice (upd h)) (upd h)

theorem sendNotices {s : State} {die n k : Nat} (h : MemoryInv s) : MemoryInv (s.sendNotices die n k) := by
  induction k generalizing s with
  | zero => exact h
  | succ k ih =>
    unfold State.sendNotices
    split
    · exact h
    · split
      · exact ite (ih h.modChan.noticeDone) (ite (ih h.modChan.send) h)
      · exact h

theorem shipBin {s : State} {b : Bin} (h : MemoryInv s) : MemoryInv (s.shipBin b) := by
  unfold State.shipBin
  dsimp only
  split
  · exact modChan (upd h)
  · refine ite (failRecs (upd h)) (ite h (ite ?_ h))
    split
    · exact modNodes (upd (send (upd h)))
    · exact upd (send (upd h))

/-! ### Staging (R272 to R274) -/

theorem putSlot {s : State} {g base nslot i srcdev : Nat} {inc : BitVec 16} {hcap : W32} {bseq : Nat} {ws : List W64}
    (h : MemoryInv s) :
    MemoryInv (s.putSlot g base nslot i srcdev inc hcap bseq ws) :=
  h.writeMem.writeMem

theorem stage {s : State} {g base nslot i : Nat} {b : Bin} (h : MemoryInv s) : MemoryInv (s.stage g base nslot i b) := by
  unfold State.stage
  refine upd (putSlot ?_)
  split
  · exact h.holdCap
  · exact h

/-! ### Replay (R275) -/

theorem applyRec {s : State} {x : ReplayRec} {pch : Nat} (h : MemoryInv s) : MemoryInv (s.applyRec x pch) :=
  ite h.failRec (ite h.failRec (ite h.failRec (ite h.failRec h.softPut)))

theorem markReplayed {s : State} {pch : Nat} {nt : Notice} (h : MemoryInv s) : MemoryInv (s.markReplayed pch nt) :=
  freeSlots (upd h)

/-! ### Inbound slots (R273, R274, R279, R292) -/

theorem grantPermits {s : State} {dev x : Nat} (h : MemoryInv s) : MemoryInv (s.grantPermits dev x) := by
  unfold State.grantPermits
  dsimp only
  split
  · exact h
  · exact upd h

theorem returnPermit {s : State} {dev x : Nat} {h1 : W32} (h : MemoryInv s) : MemoryInv (s.returnPermit dev x h1) :=
  grantPermits (upd h)

theorem freeInbound {s : State} (h : MemoryInv s) : MemoryInv (s.freeInbound) := by
  unfold State.freeInbound
  refine foldl (upd h) (fun _ _ ht => (ite (returnPermit ?_) ?_))
  · split
    · exact ht.letGoCap
    · exact ht
  · split
    · exact ht.letGoCap
    · exact ht

/-! ### Arrival at a pseudo-channel and replay (R274, R275) -/

theorem execBinStage {die pch : Nat} {s : State} (h : MemoryInv s) : Tidied (Machine.execBinStage die pch s) := by
  unfold Machine.execBinStage
  refine next ?_
  split
  · exact h
  · dsimp only
    split
    · exact h
    · exact ite (freeInbound (noticeDone (markReplayed (foldl h.modChan (fun _ _ ht => ht.failRec))))) (modChan (upd h))
    · refine ite h.modChan (ite h.failRecs.modChan.freeInbound ?_)
      split
      · exact h.failRecs.modChan.freeInbound
      · split
        · exact ite h h.stage.useHbm.modChan
        · exact ite h h.failRecs.modChan.freeInbound

theorem execCommitNoticeReplay {pch : Nat} {s : State} (h : MemoryInv s) : Tidied (Machine.execCommitNoticeReplay pch s) := by
  unfold Machine.execCommitNoticeReplay
  refine next ?_
  split
  · exact h
  · exact ite h (freeInbound (noticeDone (markReplayed (foldl (useHbm (upd h)) (fun _ _ ht => ht.applyRec)))))

/-! ### Bins and notices from other devices (R273, R280, R292) -/

theorem newIncarnation {s : State} {dev : Nat} {inc : BitVec 16} (h : MemoryInv s) : MemoryInv (s.newIncarnation dev inc) := by
  unfold State.newIncarnation
  refine freeInbound (freeSlots (upd (foldl (foldl (foldl (foldl h fun t b ht => ite ht.failRecs ht) fun t b ht =>
      ite ht.failRecs ht)
    fun t _ ht => foldl ht fun _ _ hu => ?_) fun t b ht => ite ht.failRecs ht)))
  split
  · exact ite hu.failRecs hu
  · exact hu

theorem meet {s t : State} {dev : Nat} {inc : BitVec 16} (h : MemoryInv s) (hr : s.meet dev inc = some t) : MemoryInv t := by
  unfold State.meet at hr
  split at hr
  · cases hr
    exact upd h
  · split_ifs at hr
    · cases hr
      exact h
    · cases hr
      exact h.newIncarnation

theorem refileOne {s t : State} {q : Inbound} {w : RecordW} (h : MemoryInv s) (hr : s.refileOne q w = some t) : MemoryInv t := by
  unfold State.refileOne at hr
  dsimp only at hr
  split_ifs at hr
  · cases hr
    exact (upd h).failRec
  · exact file (upd h) hr

theorem remoteNotice {s : State} {dev req : Nat} {inc : BitVec 16} {tags : List (BitVec 12)} (h : MemoryInv s) :
    MemoryInv (s.remoteNotice dev req inc tags) :=
  ite (ackNotice (upd h)) (foldl (upd (upd h)) (fun _ _ ht => ht.modChan))

theorem fileInbound {s : State} {d k : Nat} (h : MemoryInv s) : MemoryInv (s.fileInbound d k) := by
  induction k generalizing s with
  | zero => exact h
  | succ k ih =>
    unfold State.fileInbound
    split
    · exact h
    · split
      · exact h
      · split
        · exact h
        · next _ hr => exact ih (upd (h.refileOne hr))

theorem fileAll {s : State} {d : Nat} (h : MemoryInv s) : MemoryInv (s.fileAll d) := h.fileInbound.freeInbound

theorem execBinShip {die : Nat} {dest : BinDest} {ctx : Nat} {s : State} (h : MemoryInv s) :
    Tidied (Machine.execBinShip die dest ctx s) := by
  unfold Machine.execBinShip
  refine next ?_
  dsimp only
  split
  · refine freeNotices ?_
    split
    · exact ite h.shipBin.fileAll h
    · exact h
  · refine sendNotices (freeNotices ?_)
    split
    · exact ite h.shipBin.fileAll h
    · exact h

theorem stageInbound {s : State} {b : RemoteBin} {base nslot g i : Nat} (h : MemoryInv s) :
    MemoryInv (s.stageInbound b base nslot g i) := by
  unfold State.stageInbound
  refine upd (putSlot ?_)
  split
  · exact h.holdCap
  · exact h

theorem execRemoteBinReceive {b : RemoteBin} {s : State} (h : MemoryInv s) : Tidied (Machine.execRemoteBinReceive b s) := by
  unfold Machine.execRemoteBinReceive
  refine next ?_
  split
  · exact h
  · next s0 hr =>
      have hs0 : MemoryInv s0 := h.meet hr
      split
      · split
        · exact upd hs0
        · exact ite hs0.fileAll hs0.fileAll.remoteNotice
      · refine ite (upd hs0) ?_
        dsimp only
        split
        · exact returnPermit (upd (failRecs (upd hs0)))
        · refine ite (returnPermit (upd (failRecs (upd hs0)))) ?_
          split
          · exact ite h (fileAll (upd (useHbm (stageInbound (upd hs0)))))
          · exact ite h (returnPermit (upd (failRecs (upd hs0))))

/-! ### Refresh (R282) -/

theorem execRefresh {pch : Nat} {s : State} (h : MemoryInv s) : Tidied (Machine.execRefresh pch s) := next (upd (upd h))

theorem execRefreshHandover {stack : Nat} {s : State} (h : MemoryInv s) : Tidied (Machine.execRefreshHandover stack s) :=
  next (ite h (upd h))

/-! ### Accumulator contexts -/

theorem setAcc {s : State} {x u n : Nat} {a : Machine.Acc} (h : MemoryInv s) : MemoryInv (s.setAcc x u n a) := upd h

theorem spillAcc {s : State} {x u n : Nat} (h : MemoryInv s) : MemoryInv (s.spillAcc x u n) := h.physPut

theorem moveBank {s : State} {u : Nat} {second : Bool} {x n : Nat} (h : MemoryInv s) : MemoryInv (s.moveBank u second x n) := by
  unfold State.moveBank
  refine physWords (upd (ite (setAcc (physNote ?_)) (setAcc ?_)))
  · split
    · exact h.spillAcc
    · exact h
  · split
    · exact h.spillAcc
    · exact h

theorem needBank {s : State} {x u n keep : Nat} (h : MemoryInv s) : MemoryInv (s.needBank x u n keep) := ite h h.moveBank

/-! ### Epilogue and drain (R198, R199) -/

theorem putElem {s : State} {m : MOp} {d : Desc} {w r p code : Nat} (h : MemoryInv s) : MemoryInv (s.putElem m d w r p code) := by
  unfold State.putElem
  refine ite ?_ ?_
  · split
    · exact h.putAt
    · exact h
  · split
    · exact h.setWave
    · exact h

theorem drainTile {s : State} {m : MOp} {rd : List (Array Nat)} {clr : Bool} (h : MemoryInv s) :
    MemoryInv (s.drainTile m rd clr) := by
  unfold State.drainTile
  refine ite (setAcc (foldl h (fun s1 i hs1 => (ite (foldl hs1 (fun s2 b hs2 => ?_)) (foldl hs1 (fun z c hz => hz.putElem))))))
      (foldl h (fun s1 i hs1 => (ite (foldl hs1 (fun s2 b hs2 => ?_)) (foldl hs1 (fun z c hz => hz.putElem)))))
  · dsimp only
    split
    · exact putAt (foldl hs2 (fun z c hz => hz.putElem))
    · exact foldl hs2 (fun z c hz => hz.putElem)
  · dsimp only
    split
    · exact putAt (foldl hs2 (fun z c hz => hz.putElem))
    · exact foldl hs2 (fun z c hz => hz.putElem)

theorem matrixEffect {s : State} {m : MOp} {rd : List (Array Nat)} (h : MemoryInv s) : MemoryInv (s.matrixEffect m rd).1 := by
  unfold State.matrixEffect
  dsimp only
  split
  case h_3 =>
    split
    · exact h
    · exact h.setAcc
  case h_8 => exact h.drainTile
  case h_9 => exact h.drainTile
  case h_13 => exact h.setAcc.setAcc
  case h_14 =>
    split
    · exact h
    · generalize State.accAt _ _ _ _ + _ = a
      exact physWords (upd h)
  case h_15 => exact h
  all_goals exact h.setAcc

/-! ### Issue (R187, R188) -/

theorem matrixIssue {i : Instr} {s : State} (h : MemoryInv s) : Tidied (Machine.matrixIssue i s) := by
  unfold Machine.matrixIssue
  refine issued (fun _ => ?_)
  split
  · exact h.stall
  · refine ite h.stall ?_
    split
    · exact h.trap
    · refine ite h.stall (retire (raise (upd ?_)))
      split
      · refine setAcc ?_
        split
        · exact h
        · exact h.needBank.needBank
        · exact ite h.needBank.setAcc h.needBank
      · split
        · exact h
        · exact h.needBank.needBank
        · exact ite h.needBank.setAcc h.needBank

theorem execMma {f : EF} {s : State} (h : MemoryInv s) : Tidied (Machine.execMma f s) := h.matrixIssue

theorem execMmaSp {f : EF} {s : State} (h : MemoryInv s) : Tidied (Machine.execMmaSp f s) := h.matrixIssue

theorem execMmaChk {f : EF} {s : State} (h : MemoryInv s) : Tidied (Machine.execMmaChk f s) := h.matrixIssue

theorem execMiter {f : EF} {s : State} (h : MemoryInv s) : Tidied (Machine.execMiter f s) := h.matrixIssue

theorem execMiterCont {f : EF} {s : State} (h : MemoryInv s) : Tidied (Machine.execMiterCont f s) := h.matrixIssue

theorem execAclr {f : EF} {s : State} (h : MemoryInv s) : Tidied (Machine.execAclr f s) := h.matrixIssue

theorem execAin {f : EF} {s : State} (h : MemoryInv s) : Tidied (Machine.execAin f s) := h.matrixIssue

theorem execAout {f : EF} {s : State} (h : MemoryInv s) : Tidied (Machine.execAout f s) := h.matrixIssue

theorem execAoutClr {f : EF} {s : State} (h : MemoryInv s) : Tidied (Machine.execAoutClr f s) := h.matrixIssue

theorem execEpi {f : EF} {s : State} (h : MemoryInv s) : Tidied (Machine.execEpi f s) := h.matrixIssue

theorem execKld {f : EF} {s : State} (h : MemoryInv s) : Tidied (Machine.execKld f s) := h.matrixIssue

theorem execKldAll {f : EF} {s : State} (h : MemoryInv s) : Tidied (Machine.execKldAll f s) := h.matrixIssue

theorem execActxSwap {f : EF} {s : State} (h : MemoryInv s) : Tidied (Machine.execActxSwap f s) := h.matrixIssue

theorem execActxRel {f : EF} {s : State} (h : MemoryInv s) : Tidied (Machine.execActxRel f s) := h.matrixIssue

/-! ### The unit at work -/

theorem execMiterIteration {u : Nat} {s : State} (h : MemoryInv s) : Tidied (Machine.execMiterIteration u s) := by
  unfold Machine.execMiterIteration
  refine next ?_
  split
  · exact h
  · exact ite (upd h.setAcc) h

theorem matrixTrap {s : State} {m : MOp} {cause : Nat} (h : MemoryInv s) : MemoryInv (s.matrixTrap m cause) :=
  ite (ite h.putThread.tier3 h.putThread) h.sendRecord

theorem execMatrixOpComplete {u : Nat} {s : State} (h : MemoryInv s) : Tidied (Machine.execMatrixOpComplete u s) := by
  unfold Machine.execMatrixOpComplete
  refine next ?_
  split
  · exact h
  · refine ite h ?_
    dsimp only
    split
    · exact matrixTrap (lowerAt (ite (lateAt (upd (matrixEffect (upd h)))) (upd (matrixEffect (upd h)))))
    · exact lowerAt (ite (lateAt (upd (matrixEffect (upd h)))) (upd (matrixEffect (upd h))))

/-! ### A command's addresses -/

theorem keepAll {s : State} {u x : Nat} {l : List (Nat × Bool)} (h : MemoryInv s) : MemoryInv (s.keepAll u x l) := by
  unfold State.keepAll
  refine foldl h (fun _ _ ht => ?_)
  split
  · exact ht.keepTlb
  · exact ht

/-! ### Issue (R205, R206, R210) -/

theorem readRecord {s : State} {ag : Agent} {va : Nat} (h : MemoryInv s) : MemoryInv (s.readRecord ag va).2 := by
  unfold State.readRecord
  split
  · exact h
  · split
    · exact h
    · exact foldl_snd h fun _ _ ha => ha.agentLoad.keepTlb

theorem listItems {s : State} {ag : Agent} {xaddr n : Nat} (h : MemoryInv s) : MemoryInv (s.listItems ag xaddr n) := by
  unfold State.listItems
  refine foldl h (fun _ _ ht => ?_)
  split
  · exact ite ht.agentItem ht
  · exact ht

theorem setStream {s : State} {k : Nat} {t : Machine.Stream} (h : MemoryInv s) : MemoryInv (s.setStream k t) := upd h

theorem acceptTxf {s0 : State} {ag : Agent} {f : EF} {c : TxfCmd} (h : MemoryInv s0) : MemoryInv (State.acceptTxf s0 ag f c) :=
  retire (raise (put64 (setStream (upd h.passes))))

theorem execTxf {f : EF} {s : State} (h : MemoryInv s) : Tidied (Machine.execTxf f s) := by
  unfold Machine.execTxf
  refine issued (fun _ => (ite h.stall (ite h.stall ?_)))
  dsimp only
  split
  · exact h.readRecord.readRecord.trap
  · split
    · exact h.readRecord.readRecord.faultHere
    · split
      · split
        · exact h.readRecord.readRecord.faultHere
        · exact ite h.readRecord.readRecord.trap (ite h.stall h.readRecord.readRecord.listItems.keepAll.acceptTxf)
      · exact h.readRecord.readRecord.trap

theorem txfcIssue {f : EF} {s : State} {prod : Bool} (h : MemoryInv s) : Tidied (Machine.txfcIssue f s prod) := by
  unfold Machine.txfcIssue
  refine issued (fun _ => (ite h.stall (ite h.stall ?_)))
  dsimp only
  split
  · exact h.readRecord.trap
  · split
    · exact h.readRecord.faultHere
    · exact h.readRecord.trap
    · split
      · exact h.readRecord.faultHere
      · exact ite h.readRecord.trap (ite h.stall h.readRecord.keepAll.acceptTxf)

theorem execTxfcProd {f : EF} {s : State} (h : MemoryInv s) : Tidied (Machine.execTxfcProd f s) := h.txfcIssue

theorem execTxfcCons {f : EF} {s : State} (h : MemoryInv s) : Tidied (Machine.execTxfcCons f s) := h.txfcIssue

theorem execTxfsRd {f : EF} {s : State} (h : MemoryInv s) : Tidied (Machine.execTxfsRd f s) := issued (fun _ => h.put64.retire)

theorem execTxfsClr {f : EF} {s : State} (h : MemoryInv s) : Tidied (Machine.execTxfsClr f s) :=
  issued (fun _ => h.setStream.put64.retire)

/-! ### The engine at work (R209) -/

theorem txfPut {s : State} {x cl key : Nat} {c : TxfCmd} {h1 : Home} {l2 : Bool} {bs : List Byte} (h : MemoryInv s) :
    MemoryInv (s.txfPut x cl key c h1 l2 bs) := by
  unfold State.txfPut
  split
  · exact upd h.send
  · exact h.softPut

theorem txfPutAt {s : State} {x cl key : Nat} {c : TxfCmd} {spc : Bool} {a : ℤ} {bs : List Byte} (h : MemoryInv s) :
    MemoryInv (s.txfPutAt x cl key c spc a bs) := by
  unfold State.txfPutAt
  split
  · exact h.txfPut
  · exact h

theorem shared {s : State} {x : Nat} {h1 : Home} (h : MemoryInv s) : MemoryInv (s.shared x h1).2 := by
  unfold State.shared
  split
  · split
    · exact h
    · exact h.bumpFree.chargeFab
  · exact h

theorem putCode {s : State} {x cl key : Nat} {c : TxfCmd} {l : Layout} {n code : Nat} (h : MemoryInv s) :
    MemoryInv (s.putCode x cl key c l n code) := by
  unfold State.putCode
  split
  · refine txfPutAt ?_
    split
    · split
      · exact h.shared
      · exact h
    · exact h
  · exact h

theorem txfFail {s : State} {x key : Nat} {c : TxfCmd} {cause addr idx : Nat} (h : MemoryInv s) :
    MemoryInv (s.txfFail x key c cause addr idx) :=
  h.setStream.itemFailed

theorem usePlaces {s : State} {x : Nat} {reads writes : List Place} (h : MemoryInv s) :
    MemoryInv (s.usePlaces x reads writes) := by
  unfold State.usePlaces
  refine foldl h.chargeFab (fun _ _ ht => ?_)
  split
  · exact ht.useHbm
  · exact ht

theorem breakCmd {s : State} {c : TxfCmd} {writes : List Place} (h : MemoryInv s) : MemoryInv (s.breakCmd c writes) :=
  ite h.breakAgent h

theorem execTxfBurst {ctx c st : Nat} {s : State} (h : MemoryInv s) : Tidied (Machine.execTxfBurst ctx c st s) := by
  unfold Machine.execTxfBurst
  refine next ?_
  split
  · exact h
  · refine ite h (ite h ?_)
    dsimp only
    split
    · exact h.l1SyncAt.setStream.usePlaces.breakCmd.txfFail.bumpFree
    · exact foldl (foldl h.l1SyncAt.setStream.usePlaces.bumpFree (fun t e ht => ht.putCode)) (fun t e ht => ht.txfPutAt)

theorem writeSums {s : State} {x cl key : Nat} {c : TxfCmd} {b : Layout} (h : MemoryInv s) :
    MemoryInv (s.writeSums x cl key c b) :=
  foldl h.bumpFree (fun _ _ ht => ht.txfPutAt)

theorem execTxfCommandComplete {ctx c st : Nat} {s : State} (h : MemoryInv s) :
    Tidied (Machine.execTxfCommandComplete ctx c st s) := by
  unfold Machine.execTxfCommandComplete
  refine next ?_
  split
  · exact h
  · refine ite h (lowerAt (setStream (ite ?_ (ite h.writeSums h))))
    dsimp only
    split
    · split
      · exact putBarObj (ite h.writeSums h)
      · exact txfFail (ite h.writeSums h)
    · exact txfFail (ite h.writeSums h)

theorem execTxfcPiece {ctx c st : Nat} {s : State} (h : MemoryInv s) : Tidied (Machine.execTxfcPiece ctx c st s) := by
  unfold Machine.execTxfcPiece
  refine next ?_
  split
  · exact h
  · refine ite h ?_
    dsimp only
    split
    · exact h.setStream.txfFail
    · split
      · exact h.setStream.txfFail
      · split
        · exact h
        · refine ite h ?_
          split
          · split
            · exact h.l1SyncAt.setStream.usePlaces.breakCmd.txfFail.bumpFree.putCirBuf
            · exact h.l1SyncAt.setStream.usePlaces.breakCmd.txfFail.bumpFree.putCirBuf
          · refine ite ?_ ?_
            · split
              · exact putCirBuf (foldl h.l1SyncAt.setStream.usePlaces.bumpFree (fun t e ht => ht.txfPutAt))
              · exact putCirBuf (foldl h.l1SyncAt.setStream.usePlaces.bumpFree (fun t e ht => ht.txfPutAt))
            · split
              · exact putCirBuf (foldl h.l1SyncAt.setStream.usePlaces.bumpFree (fun t e ht => ht.putCode))
              · exact putCirBuf (foldl h.l1SyncAt.setStream.usePlaces.bumpFree (fun t e ht => ht.putCode))

end Sys2Proof.MemoryInv


/-! ## Memory stays in canonical form (O9): experts, debug, scheduling, the fabric and firmware -/

namespace Sys2Proof.MemoryInv

open Sys2Proof Sys2Proof.Machine

/-! ### Fetches (R299) -/

theorem beginFetch {s : State} {x id cl : Nat} (h : MemoryInv s) : MemoryInv (s.beginFetch x id cl) := by
  unfold State.beginFetch
  split
  · exact h
  · exact upd h.readsMade.putErt

theorem fetchPut {s : State} {f : Fetch} {h1 : Home} {bs : List Byte} (h : MemoryInv s) : MemoryInv (s.fetchPut f h1 bs) := by
  unfold State.fetchPut
  refine ite h.itemFailed ?_
  split
  · exact h.itemFailed
  · exact foldl h (fun _ _ ht => (upd ht.send))
  · exact h.softPut

theorem setFetch {s : State} {f g : Fetch} (h : MemoryInv s) : MemoryInv (s.setFetch f g) := upd h

theorem copyFetch {s : State} {f : Fetch} {n : Nat} (h : MemoryInv s) : MemoryInv (s.copyFetch f n) := by
  unfold State.copyFetch
  refine setFetch ?_
  split
  · refine fetchPut (useHbm (ite (chargeFab ?_) ?_))
    · split
      · exact h.bumpFree
      · exact h
    · split
      · exact h.bumpFree
      · exact h
  · refine fetchPut (ite (chargeFab ?_) ?_)
    · split
      · exact h.bumpFree
      · exact h
    · split
      · exact h.bumpFree
      · exact h
  · refine ite (chargeFab ?_) ?_
    · split
      · exact h.bumpFree
      · exact h
    · split
      · exact h.bumpFree
      · exact h

theorem dropFetch {s : State} {f : Fetch} (h : MemoryInv s) : MemoryInv (s.dropFetch f) := upd h

/-! ### Parking (R301) -/

theorem fillPlace {s : State} {x l c t b : Nat} {p : W64} {e : W64 × W64} (h : MemoryInv s) :
    MemoryInv (s.fillPlace x l c t b p e) := by
  unfold State.fillPlace
  refine ite (upd h) ?_
  dsimp only
  split
  · exact writeMem (upd h)
  · exact upd h

theorem parkEntry {s : State} {x l c t b a : Nat} {h1 : Home} {q : TileQ} {p : W64} {e : W64 × W64} (h : MemoryInv s) :
    MemoryInv (s.parkEntry x l c t b a h1 q p e) :=
  putBlock (putErt (putErt (ite h.fillPlace.putErt h.fillPlace.setLink)))

/-! ### Instructions -/

theorem expertOp {f : EF} {s : State} {op : State → Agent → Nat → Nat → W64 → State × Bool} (h : MemoryInv s)
    (hop : ∀ t ag id a w, MemoryInv t → MemoryInv (op t ag id a w).1) :
    Tidied (Machine.expertOp f s op) := by
  unfold Machine.expertOp
  refine issued fun ag => ite h.stall ?_
  split
  · exact h.l1Sync.trap
  · exact (hop _ _ _ _ _ h.l1Sync).settleEvicts.put64.retire

theorem execErqQry {f : EF} {s : State} (h : MemoryInv s) : Tidied (Machine.execErqQry f s) := h.expertOp (fun _ _ _ _ _ ht => ht)

theorem modUses {s : State} {l id : Nat} {g : Nat → Nat} (h : MemoryInv s) : MemoryInv (s.modUses l id g) := by
  unfold State.modUses
  split
  · exact h.setLaunch
  · exact h

theorem execErqAcq {f : EF} {s : State} (h : MemoryInv s) : Tidied (Machine.execErqAcq f s) := by
  unfold Machine.execErqAcq
  refine h.expertOp (fun _ _ _ _ _ ht => ?_)
  split
  · exact ht.putErt.modUses
  · exact ht.putErt.modUses
  · exact ht.beginFetch
  · exact ht

theorem execErqRel {f : EF} {s : State} (h : MemoryInv s) : Tidied (Machine.execErqRel f s) := by
  unfold Machine.execErqRel
  refine h.expertOp (fun _ _ _ _ _ ht => ?_)
  split
  · exact ht
  · exact ht.putErt.modUses

theorem execErpin {f : EF} {s : State} (h : MemoryInv s) : Tidied (Machine.execErpin f s) := by
  unfold Machine.execErpin
  refine h.expertOp (fun _ _ _ _ _ ht => ?_)
  split
  · exact ht.putErt
  · exact ht.putErt
  · exact ht.putErt.beginFetch
  · exact ht

theorem execErunpin {f : EF} {s : State} (h : MemoryInv s) : Tidied (Machine.execErunpin f s) :=
  h.expertOp (fun _ _ _ _ _ ht => (ite ht.putErt ht))

theorem putStatus {s : State} {ag : Agent} {o : Opnd} {x : Nat} (h : MemoryInv s) : MemoryInv (s.putStatus ag o x) := h.put64

theorem tqadd {f : EF} {s : State} {routed : Bool} (h : MemoryInv s) : Tidied (Machine.tqadd f s routed) := by
  unfold Machine.tqadd
  refine issued (fun _ => (ite h.stall ?_))
  split
  · exact h.trap
  · exact ite h.trap (ite h.putStatus.retire h.append.putStatus.retire)

theorem execTqaddSh {f : EF} {s : State} (h : MemoryInv s) : Tidied (Machine.execTqaddSh f s) := h.tqadd

theorem execTqaddRt {f : EF} {s : State} (h : MemoryInv s) : Tidied (Machine.execTqaddRt f s) := h.tqadd

theorem takeEntry {s : State} {l c : Nat} {h1 : Home} {q : TileQ} {routed : Bool} {k : Nat} (h : MemoryInv s) :
    MemoryInv (s.takeEntry l c h1 q routed k) :=
  putBlock (ite h (foldl h (fun _ _ ht => ht.putEntry)))

theorem execTnext {f : EF} {s : State} (h : MemoryInv s) : Tidied (Machine.execTnext f s) := by
  unfold Machine.execTnext
  refine issued (fun _ => (ite h.stall ?_))
  split
  · exact h.trap
  · split
    · exact h.trap
    · exact h.stall
    · exact h.l1Sync.put64.put64.retire
    · exact retire (put64 (put64 (ite h.l1Sync.takeEntry.releaseAll h.l1Sync.takeEntry)))

theorem execPark {f : EF} {s' : State} (h : MemoryInv s') : Tidied (Machine.execPark f s') := by
  unfold Machine.execPark
  refine issued (fun _ => (ite h.stall ?_))
  split
  · exact h.l1Sync.trap
  · refine ite h.l1Sync.trap ?_
    split
    · exact h.l1Sync.trap
    · refine ite h.l1Sync.append.putStatus.retire ?_
      split
      · exact h.stall
      · exact retire (putStatus (ite h.l1Sync.parkEntry.beginFetch h.l1Sync.parkEntry))

/-! ### Steps of fetches and evictions -/

theorem execExpertFetchComplete {ctx x : Nat} {s : State} (h : MemoryInv s) :
    Tidied (Machine.execExpertFetchComplete ctx x s) := by
  unfold Machine.execExpertFetchComplete
  refine next ?_
  split
  · exact ite h (ite (ite h h.copyFetch) (ite h h.dropFetch.putErt.putErt.release))
  · exact h

theorem failFetch {s : State} {f : Fetch} {a ferr addr : Nat} (h : MemoryInv s) : MemoryInv (s.failFetch f a ferr addr) :=
  h.dropFetch.putErt.sendRecord

theorem execExpertFetchFail {ctx x done : Nat} {cause : FetchErr} {s : State} (h : MemoryInv s) :
    Tidied (Machine.execExpertFetchFail ctx x done cause s) := by
  unfold Machine.execExpertFetchFail
  refine next ?_
  split
  · refine ite h ?_
    split
    · exact h.failFetch
    · exact ite (failFetch (ite h h.copyFetch)) h
  · exact h

theorem execExpertFetchStart {ctx x : Nat} {s : State} (h : MemoryInv s) : Tidied (Machine.execExpertFetchStart ctx x s) := by
  unfold Machine.execExpertFetchStart
  refine next ?_
  split
  · exact ite (upd h) h
  · exact h

theorem dropTlb {s : State} {x base len : Nat} (h : MemoryInv s) : MemoryInv (s.dropTlb x base len) := upd h

theorem execExpertEvictComplete {ctx x : Nat} {s : State} (h : MemoryInv s) :
    Tidied (Machine.execExpertEvictComplete ctx x s) := by
  unfold Machine.execExpertEvictComplete
  refine next ?_
  split
  · exact h
  · exact ite (ite h.dropTlb.putErt h.dropTlb.putErt.beginFetch) h

/-! ### Stopped waves -/

theorem debugWindow {f : SF} {s : State} {k : Agent → Nat → Wave → Option State} (h : MemoryInv s)
    (hk : ∀ ag w v t, k ag w v = some t → MemoryInv t) :
    Tidied (Machine.debugWindow f s k) := by
  unfold Machine.debugWindow
  refine issued fun ag => ?_
  split
  · exact h.trap
  · refine ite h.stall ?_
    split
    · next t hr => exact hk _ _ _ _ hr
    · exact h.trap

theorem execDwrd {f : SF} {s : State} (h : MemoryInv s) : Tidied (Machine.execDwrd f s) :=
  h.debugWindow fun _ _ _ _ hk => by
    split at hk
    · cases hk
      exact h.put64.retire
    · cases hk

theorem debugPut {s t : State} {w : Nat} {v u : Wave} (h : MemoryInv s) (hr : s.debugPut w v u = some t) : MemoryInv t := by
  have hput (r : State) (x : Wave) (hr : MemoryInv r) : MemoryInv (if x.ended = true then
      ((r.setWave w { x with stop := .run, dlv := false, step := false }).dropReserve w).reap x.wg else r.setWave w x) :=
    ite hr.setWave.dropReserve.reap hr.setWave
  unfold State.debugPut at hr
  split at hr
  · cases hr
    exact hput _ _ h
  · split at hr
    · cases hr
      exact hput _ _ h
    · cases hr
    · next r x hpop =>
      cases hr
      exact hput _ _ (h.popInto hpop)

theorem execDwwr {f : SF} {s : State} (h : MemoryInv s) : Tidied (Machine.execDwwr f s) :=
  h.debugWindow fun _ _ _ t hk => by
    split at hk
    · cases hk
      split
      · next t hr => exact (h.debugPut hr).retire
      · exact h.stall
    · cases hk

theorem letGo {s : State} {i : Nat} {v : Wave} {step : Bool} (h : MemoryInv s) : MemoryInv (s.letGo i v step) :=
  ite h.setWave.dropReserve.reap h.setWave

theorem execDwresResume {f : SF} {s : State} (h : MemoryInv s) : Tidied (Machine.execDwresResume f s) :=
  h.debugWindow fun _ _ _ _ hk => by
    cases hk
    exact h.letGo.retire

theorem execDwresKill {f : SF} {s : State} (h : MemoryInv s) : Tidied (Machine.execDwresKill f s) :=
  h.debugWindow fun _ _ _ _ hk => by
    cases hk
    exact h.killWave.retire

theorem execDwstep {f : SF} {s : State} (h : MemoryInv s) : Tidied (Machine.execDwstep f s) :=
  h.debugWindow fun _ _ _ _ hk => by
    cases hk
    exact h.letGo.retire

/-! ### TRAP, RETT, YIELD, SLEEP, HALT -/

theorem execTrapSeq {f : SF} {s : State} (h : MemoryInv s) : Tidied (Machine.execTrapSeq f s) := by
  unfold Machine.execTrapSeq
  refine issued (fun _ => ?_)
  dsimp only
  split
  · split
    · exact h.setWave.queueTrap.unlatch
    · exact h.stall
  · exact ite h.setThread.tier3.unlatch h.setThread.unlatch

theorem execTrapHost {f : SF} {s : State} (h : MemoryInv s) : Tidied (Machine.execTrapHost f s) := by
  unfold Machine.execTrapHost
  refine issued (fun _ => ?_)
  dsimp only
  split
  · split
    · exact h.setWave.dropReserve.tier3.unlatch
    · exact h.stall
  · exact h.setThread.tier3.unlatch

theorem forwardTrap {s : State} {i : Nat} {v : Wave} (h : MemoryInv s) : MemoryInv (s.forwardTrap i v) :=
  h.putWave.dropReserve.tier3

theorem execRett {x : SF} {s : State} (h : MemoryInv s) : Tidied (Machine.execRett x s) := by
  unfold Machine.execRett
  refine issued (fun _ => ?_)
  split
  · exact h.leaveHandler.stepped
  · refine ite (ite (leaveTrap ?_) (unlatch ?_)) h.trap
    · split
      · exact h.forwardTrap
      · exact h
    · split
      · exact h.forwardTrap
      · exact h

theorem execYield {x : SF} {s : State} (h : MemoryInv s) : Tidied (Machine.execYield x s) := issued (fun _ => h.retire)

theorem execSleep {f : SF} {s : State} (h : MemoryInv s) : Tidied (Machine.execSleep f s) := issued (fun _ => h.jump)

theorem execSleepExpire {a : Agent} {alt : Bool} {s : State} (h : MemoryInv s) : Tidied (Machine.execSleepExpire a alt s) := by
  unfold Machine.execSleepExpire
  refine next ?_
  split
  · split
    · split
      · exact h.setWave.setCore
      · exact h
    · exact h
  · split
    · exact upd h.setThread
    · exact h

theorem execHalt {x : SF} {s : State} (h : MemoryInv s) : Tidied (Machine.execHalt x s) := by
  unfold Machine.execHalt
  refine issued (fun _ => ?_)
  split
  · split
    · exact stackEnd h fun _ hr => h.emptied hr
    · exact h.stall
  · exact h.setThread.freeThread.unlatch

/-! ### PGMAP (R226, R316) -/

theorem writeLeaf {s : State} {w ea : Nat} {e : W64} {frame : Nat} (h : MemoryInv s) : MemoryInv (s.writeLeaf w ea e frame) :=
  h.agentPut

theorem zeroFrame {s : State} {u x frame n : Nat} (h : MemoryInv s) : MemoryInv (s.zeroFrame u x frame n) :=
  (zeroFrame_outer s u x frame n).memoryInv h

theorem mapFrame {s : State} {w x key ea : Nat} {e : W64} {frame : Nat} {p : Pool} (h : MemoryInv s) :
    MemoryInv (s.mapFrame w x key ea e frame p) := by
  unfold State.mapFrame
  dsimp only
  split
  · exact modNodes (writeLeaf (upd h.zeroFrame))
  · exact writeLeaf (upd h.zeroFrame)

theorem noteReserve {s : State} {w : Nat} (h : MemoryInv s) : MemoryInv (s.noteReserve w) := by
  unfold State.noteReserve
  split
  · exact h.setWave
  · exact h

theorem leaveReserve {s : State} {w : Nat} (h : MemoryInv s) : MemoryInv (s.leaveReserve w) := upd h

theorem firstTouch {s t : State} {w x ea st : Nat} {e : W64} (h : MemoryInv s) (hr : s.firstTouch w x ea e = some (st, t)) :
    MemoryInv t := by
  unfold State.firstTouch at hr
  dsimp only at hr
  split at hr
  · cases hr
    exact h
  · split_ifs at hr
    · cases hr
      exact h
    · cases hr
      exact h.mapFrame
    · cases hr
      exact h.mapFrame.noteReserve

theorem joinReserve {s : State} {w x : Nat} {e : W64} (h : MemoryInv s) : MemoryInv (s.joinReserve w x e) := ite h (upd h)

theorem execPgmap {f : SF} {s : State} (h : MemoryInv s) : Tidied (Machine.execPgmap f s) := by
  unfold Machine.execPgmap
  refine issued (fun _ => ?_)
  split
  · exact h.stall
  · refine ite h.leaveReserve.faultHere (ite h.stall ?_)
    dsimp only
    split
    · exact h.l1Sync.readsMade.leaveReserve.trap
    · exact h.l1Sync.readsMade.leaveReserve.agentItem.trap
    · refine ite (ite h.l1Sync.readsMade.leaveReserve.trap h.l1Sync.readsMade.leaveReserve.put32.retire)
          (ite h.l1Sync.readsMade.leaveReserve.trap ?_)
      split
      · next _ t hr =>
          have ht : MemoryInv t := h.l1Sync.readsMade.firstTouch hr
          exact ht.leaveReserve.put32.retire
      · exact h.l1Sync.readsMade.joinReserve.stall

/-! ### Delivery of traps (R218) -/

theorem noteDelivery {s : State} {q : Queued} (h : MemoryInv s) : MemoryInv (s.noteDelivery q) := by
  unfold State.noteDelivery
  split
  · split
    · exact h.setWave
    · exact h
  · exact h

theorem forwardQueued {s : State} {w : Nat} (h : MemoryInv s) : MemoryInv (s.forwardQueued w) := by
  unfold State.forwardQueued
  split
  · exact ite h.forwardTrap h
  · exact h

theorem execTrapDelivery {c t : Nat} {s : State} (h : MemoryInv s) : Tidied (Machine.execTrapDelivery c t s) := by
  unfold Machine.execTrapDelivery
  refine next ?_
  dsimp only
  split
  · exact h
  · refine ite (ite h ?_) (ite h.noteDelivery.setThread h)
    split
    · exact h.setThread.forwardQueued.freeThread
    · exact ite h h.setThread.tier3

theorem execStepTrap {w : Nat} {s : State} (h : MemoryInv s) : Tidied (Machine.execStepTrap w s) := by
  unfold Machine.execStepTrap
  refine next ?_
  split
  · exact ite h.setWave.queueTrap h
  · exact h

/-! ### Clauses -/

theorem fetch {s t : State} {ag : Agent} {pc : Nat} {l : List W64} (h : MemoryInv s) (hr : s.fetch ag pc = .ok (l, t)) :
    MemoryInv t := by
  unfold State.fetch at hr
  dsimp only at hr
  split at hr
  · cases hr
  · cases hr
    split
    · exact agentItem (upd h.keepTlb.agentGet)
    · exact upd h.keepTlb.agentGet

/-! ### Waves -/

theorem tickCore {s : State} {c : Nat} (h : MemoryInv s) : MemoryInv (s.tickCore c) := setCore (upd h)

theorem startWave {s : State} {w : Nat} {v : Wave} (h : MemoryInv s) : MemoryInv (s.startWave w v) := by
  unfold State.startWave
  dsimp only
  split
  · exact h.faultAt
  · next _ s1 hr =>
      have hs1 : MemoryInv s1 := h.fetch hr
      exact ite hs1.trapAt (ite hs1.setWave.passes.goto (upd hs1.setWave.passes))

theorem execWaveSelect {p : Nat} {s : State} (h : MemoryInv s) : Tidied (Machine.execWaveSelect p s) := by
  unfold Machine.execWaveSelect
  refine next ?_
  split
  · exact h
  · exact ite (hostStop (upd h.setWave.tickCore)) (ite (upd h.setWave.tickCore) h.setWave.tickCore.startWave)

/-! ### Sequencer threads -/

theorem startThread {s : State} {c t : Nat} (h : MemoryInv s) : MemoryInv (s.startThread c t) := by
  unfold State.startThread
  dsimp only
  split
  · exact h.faultAt
  · next _ s1 hr =>
      have hs1 : MemoryInv s1 := h.fetch hr
      exact ite hs1.trapAt (ite hs1.setThread.goto (upd hs1.setThread))

theorem execSequencerSelect {c : Nat} {s : State} (h : MemoryInv s) : Tidied (Machine.execSequencerSelect c s) := by
  unfold Machine.execSequencerSelect
  refine next ?_
  split
  · exact h
  · exact ite (hostStop (upd (upd h.setThread))) (ite (upd (upd h.setThread)) (startThread (upd h.setThread)))

/-! ### Barriers -/

theorem execBarrierComplete {w b : Nat} {s : State} (h : MemoryInv s) : Tidied (Machine.execBarrierComplete w b s) :=
  next (ite (foldl h (fun _ _ ht => ht.setWave.l1Sync)) h)

/-! ### The write-index line (R53, R54) -/

theorem makeVisible {s : State} {q n k : Nat} (h : MemoryInv s) : MemoryInv (s.makeVisible q n k) := by
  induction n generalizing s k with
  | zero => exact h
  | succ n ih =>
    unfold State.makeVisible
    exact ih (ite h (ite h.setPacket.dropPacket (ite h.setPacket.dropPacket h.setPacket)))

theorem writeIndex {s : State} {q : Nat} (h : MemoryInv s) : MemoryInv (s.writeIndex q).2 := by
  unfold State.writeIndex
  split
  · exact h.devRead
  · exact h

theorem takeIndex {s : State} {q w : Nat} (h : MemoryInv s) : MemoryInv (s.takeIndex q w) := by
  unfold State.takeIndex
  split
  · exact h
  · exact ite h (ite h.modNode.queueFault (ite h.modNode.queueFault h.modNode.makeVisible))

theorem execWriteIndexReread {q : Nat} {s : State} (h : MemoryInv s) : Tidied (Machine.execWriteIndexReread q s) := by
  unfold Machine.execWriteIndexReread
  refine next ?_
  split
  · exact ite h.writeIndex.modNode.takeIndex h
  · exact h

/-! ### Launch packets (Table 05-1) -/

theorem execLaunchPacketRead {q k : Nat} {s : State} (h : MemoryInv s) : Tidied (Machine.execLaunchPacketRead q k s) := by
  unfold Machine.execLaunchPacketRead
  refine next (ite h ?_)
  dsimp only
  split
  · split
    · exact ite h.readPacket.complete (ite h.readPacket h.readPacket.complete)
    · split
      · exact h.readPacket.complete
      · exact h.readPacket.setPacket.setLaunch.refreshReady
    · exact h.readPacket.complete
  · exact h.readPacket

/-! ### Placement (R35 to R37, R49, R66) -/

theorem addWaves {s : State} {g : Nat} {w : WG} {l : Launch} (h : MemoryInv s) : MemoryInv (s.addWaves g w l) :=
  foldl h (fun _ _ ht => (setWave (upd ht)))

theorem setL1Mode {s : State} {c : Nat} {fused : Bool} (h : MemoryInv s) : MemoryInv (s.setL1Mode c fused) :=
  ite h (upd (foldl h (fun _ _ ht => ht.l1Flush)))

theorem takeCore {s : State} {x core : Nat} (h : MemoryInv s) : MemoryInv (s.takeCore x core) := ite h h.newSlice

theorem place {s : State} {i : Nat} {l : Launch} {core slot : Nat} (h : MemoryInv s) : MemoryInv (s.place i l core slot) := by
  unfold State.place
  refine refreshReady (syncClus (moveStreams (modNode (syncCores (foldl ?_ fun _ _ ht => ht.passTag)))))
  have h1 (b : Bool) (c m : ℕ) (on : Bool) : MemoryInv (if b = true then s.takeCore l.ctx core else
      (s.takeCore l.ctx core).setL1Mode c on) :=
    ite h.takeCore h.takeCore.setL1Mode
  dsimp only
  split
  · exact setThread (upd (addWaves (setLaunch (upd (cleared (ite (l1Flush (h1 _ _ 0 _)) (h1 _ _ 0 _)))))))
  · exact addWaves (setLaunch (upd (cleared (ite (l1Flush (h1 _ _ 0 _)) (h1 _ _ 0 _)))))

theorem execWorkgroupPlace {q k : Nat} {s : State} (h : MemoryInv s) : Tidied (Machine.execWorkgroupPlace q k s) := by
  unfold Machine.execWorkgroupPlace
  refine next ?_
  split
  · refine ite ?_ h
    split
    · exact h.place
    · exact h
  · exact h

/-! ### The end of a launch (R65, R260) -/

theorem resultWord {s : State} {x va : Nat} (h : MemoryInv s) : MemoryInv (s.resultWord x va).2 := by
  unfold State.resultWord
  split
  · exact h
  · split
    · split
      · exact h
      · exact h.farRead (fun _ ha => ha)
      · exact h
    · exact h

theorem skipAfter {s : State} {q k n : Nat} (h : MemoryInv s) : MemoryInv (s.skipAfter q k n) :=
  foldl h.modNode (fun _ _ ht => ht.dropPacket)

theorem closeLaunch {s : State} {i : Nat} {l : Launch} (h : MemoryInv s) : MemoryInv (s.closeLaunch i l) := by
  unfold State.closeLaunch
  refine refreshReady (ite ?_ (upd h.dropExperts.l1FlushAll.complete))
  split
  · next _ t hr =>
      have ht : MemoryInv t := snd_eq h.dropExperts.l1FlushAll.resultWord hr
      exact skipAfter (upd ht.complete)
  · next t hr =>
      have ht : MemoryInv t := snd_eq h.dropExperts.l1FlushAll.resultWord hr
      exact queueFault (upd ht.takeFree.takeFree.complete)

theorem execLaunchEnd {q k : Nat} {s : State} (h : MemoryInv s) : Tidied (Machine.execLaunchEnd q k s) := by
  unfold Machine.execLaunchEnd
  refine next ?_
  dsimp only
  split
  · exact h
  · split
    · exact ite (ite h.startCommit.finishCommit.closeLaunch h.startCommit.setLaunch) h
    · exact ite h (ite h.finishCommit.closeLaunch h)

/-! ### The host (R53, R286, R344) -/

theorem hostWrote {s : State} {pa n : Nat} (h : MemoryInv s) : MemoryInv (s.hostWrote pa n) := h.modNodes

theorem execHostWriteInvalidate {pa : Nat} {data : List Byte} {s : State} (h : MemoryInv s) :
    Tidied (Machine.execHostWriteInvalidate pa data s) :=
  next (ite h.softPut.hostWrote h)

theorem execHostMemAccess {pa n : Nat} {data : Option (List Byte)} {s : State} (h : MemoryInv s) :
    Tidied (Machine.execHostMemAccess pa n data s) := by
  unfold Machine.execHostMemAccess
  refine next ?_
  split
  · exact ite (rootItem (upd h)) (ite (rootItem (upd h)) (ite h (ite (rootItem (upd h.useHbm)) (upd h.useHbm))))
  · exact ite h.rootItem (ite h.rootItem (ite h (ite h.useHbm.rootItem h.useHbm.softPut.hostWrote)))

/-! ### Requests of other devices (R263, R290, R291) -/

theorem say {s : State} {r : Reply} (h : MemoryInv s) : MemoryInv (s.say r) := upd h

theorem execRemoteWriteReceive {f : RemoteFrom} {pa : Nat} {data : List Byte} {s : State} (h : MemoryInv s) :
    Tidied (Machine.execRemoteWriteReceive f pa data s) := by
  unfold Machine.execRemoteWriteReceive
  refine next ?_
  split
  · exact h
  · next s0 hr =>
      have hs0 : MemoryInv s0 := h.meet hr
      exact ite hs0.say (ite hs0.say (ite h (say (ite (rootItem (upd hs0))
          (ite (rootItem (upd hs0)) (softPut (useHbm (upd hs0))))))))

theorem execRemoteAtomicReceive {f : RemoteFrom} {pa : Nat} {op : AtomOp} {ty : Ty} {v : W64} {s : State} (h : MemoryInv s) :
    Tidied (Machine.execRemoteAtomicReceive f pa op ty v s) := by
  unfold Machine.execRemoteAtomicReceive
  refine next ?_
  split
  · exact h
  · next s0 hr =>
      have hs0 : MemoryInv s0 := h.meet hr
      split
      · exact hs0.say
      · exact ite hs0.say (ite h (ite (say (upd hs0.rootItem)) (ite (say (upd hs0.rootItem)) (say (upd hs0.useHbm.softPut)))))

theorem execRemoteReadReceive {src pa n : Nat} {s : State} (h : MemoryInv s) :
    Tidied (Machine.execRemoteReadReceive src pa n s) :=
  next (ite h.say (ite h (ite h.rootItem.say (ite h.rootItem.say h.useHbm.say))))

/-! ### Answers to this device's requests (R262, R264, R289, R291, R292) -/

theorem dropReq {s : State} {n : Nat} (h : MemoryInv s) : MemoryInv (s.dropReq n) := upd h

theorem answered {s : State} {a : Access} {n : Nat} (h : MemoryInv s) : MemoryInv (s.answered a n) := h.modAcc.closeAccess

theorem ackSeq {s : State} {r : FabReq} (h : MemoryInv s) : MemoryInv (s.ackSeq r) := upd h

theorem farSettled {s : State} {dev n : Nat} {tags : List (BitVec 12)} (h : MemoryInv s) : MemoryInv (s.farSettled dev n tags) :=
  upd h

theorem noteFar {s : State} {nt : Notice} {k : Nat} (h : MemoryInv s) : MemoryInv (s.noteFar nt k) := by
  unfold State.noteFar
  split
  · exact upd h
  · exact h

theorem noticeAcked {s : State} {r : FabReq} {nt : Notice} {k : Nat} (h : MemoryInv s) : MemoryInv (s.noticeAcked r nt k) :=
  h.farSettled.modCommit.noteFar.noticeDone

theorem execFabricAcknowledgement {n : Nat} {data : List Byte} {fails : Nat} {s : State} (h : MemoryInv s) :
    Tidied (Machine.execFabricAcknowledgement n data fails s) := by
  unfold Machine.execFabricAcknowledgement
  refine next ?_
  split
  · exact h
  · refine ite h ?_
    dsimp only
    split
    · split
      · exact answered (give (ite (farPut (upd h.dropReq)) (upd h.dropReq)))
      · exact ite (farPut (upd h.dropReq)) (upd h.dropReq)
    · split
      · exact answered (ite h.dropReq.ackSeq.farPut h.dropReq.ackSeq)
      · exact ite h.dropReq.ackSeq.farPut h.dropReq.ackSeq
    · split
      · exact answered (ite h.dropReq.ackSeq.give h.dropReq.ackSeq)
      · exact h.dropReq.ackSeq
    · exact h.dropReq.ackSeq
    · exact h.dropReq.noticeAcked

theorem execFabricResend {n : Nat} {s : State} (h : MemoryInv s) : Tidied (Machine.execFabricResend n s) := by
  unfold Machine.execFabricResend
  refine next ?_
  split
  · exact h
  · exact ite (upd h) h

theorem failReq {s : State} {r : FabReq} {cause : Nat} (h : MemoryInv s) : MemoryInv (s.failReq r cause) := by
  unfold State.failReq
  dsimp only
  split
  · split
    · refine answered ?_
      split
      · exact ite (breakAgent (failLane (upd h.dropReq))) (failLane (upd h.dropReq))
      · exact failLane (upd h.dropReq)
    · split
      · refine itemFailed ?_
        split
        · refine upd ?_
          split
          · exact ite (breakAgent (upd h.dropReq)) (upd h.dropReq)
          · exact upd h.dropReq
        · split
          · exact ite (breakAgent (upd h.dropReq)) (upd h.dropReq)
          · exact upd h.dropReq
      · refine itemFailed ?_
        split
        · exact ite (breakAgent (upd h.dropReq)) (upd h.dropReq)
        · exact upd h.dropReq
  · split
    · refine answered ?_
      split
      · exact ite (breakAgent (failLane (upd h.dropReq))) (failLane (upd h.dropReq))
      · exact failLane (upd h.dropReq)
    · split
      · refine itemFailed ?_
        split
        · refine upd ?_
          split
          · exact ite (breakAgent (upd h.dropReq)) (upd h.dropReq)
          · exact upd h.dropReq
        · split
          · exact ite (breakAgent (upd h.dropReq)) (upd h.dropReq)
          · exact upd h.dropReq
      · refine itemFailed ?_
        split
        · exact ite (breakAgent (upd h.dropReq)) (upd h.dropReq)
        · exact upd h.dropReq
  · split
    · refine answered ?_
      split
      · exact ite (breakAgent (failLane (upd h.dropReq))) (failLane (upd h.dropReq))
      · exact failLane (upd h.dropReq)
    · split
      · refine itemFailed ?_
        split
        · refine upd ?_
          split
          · exact ite (breakAgent (upd h.dropReq)) (upd h.dropReq)
          · exact upd h.dropReq
        · split
          · exact ite (breakAgent (upd h.dropReq)) (upd h.dropReq)
          · exact upd h.dropReq
      · refine itemFailed ?_
        split
        · exact ite (breakAgent (upd h.dropReq)) (upd h.dropReq)
        · exact upd h.dropReq
  · exact upd (failRecs (upd h.dropReq))
  · exact noticeAcked (bumpFree (upd h.dropReq))

theorem execFabricItemFail {n : Nat} {s : State} (h : MemoryInv s) : Tidied (Machine.execFabricItemFail n s) := by
  unfold Machine.execFabricItemFail
  refine next ?_
  split
  · exact ite h h.failReq
  · exact h

theorem execFabricWindow {s : State} (h : MemoryInv s) : Tidied (Machine.execFabricWindow s) := next (sendHeld (upd h))

theorem execLossOfPorts {port dev : Nat} {s : State} (h : MemoryInv s) : Tidied (Machine.execLossOfPorts port dev s) :=
  next (ite (upd h) h)

/-! ### Permits, incarnations, leases (R279, R280, R294) -/

theorem execPermitGrant {ctx dev n : Nat} {h1 : W32} {s : State} (h : MemoryInv s) :
    Tidied (Machine.execPermitGrant ctx dev n h1 s) := by
  unfold Machine.execPermitGrant
  refine next ?_
  split
  · exact h.say
  · exact ite (say (upd h.modNodes)) (upd h.modNodes)

theorem revokeLeases {s : State} {p : Lease → Bool} (h : MemoryInv s) : MemoryInv (s.revokeLeases p) := upd h

theorem execIncarnationAnnounce {dev : Nat} {inc : BitVec 16} {s : State} (h : MemoryInv s) :
    Tidied (Machine.execIncarnationAnnounce dev inc s) := by
  unfold Machine.execIncarnationAnnounce
  refine next ?_
  split
  · exact h
  · next t hr =>
      have ht : MemoryInv t := h.meet hr
      exact ht.revokeLeases

theorem execLeaseRevoke {lender : Nat} {lid : W32} {s : State} (h : MemoryInv s) :
    Tidied (Machine.execLeaseRevoke lender lid s) :=
  next h.revokeLeases

theorem execLeaseDrained {w : Nat} {s : State} (h : MemoryInv s) : Tidied (Machine.execLeaseDrained w s) :=
  next (ite (say (upd h)) h)

theorem execLeaseDrainTimeout {borrower : Nat} {lid : W32} {s : State} (h : MemoryInv s) :
    Tidied (Machine.execLeaseDrainTimeout borrower lid s) :=
  next (upd h)

/-! ### Power, training, reset, recovery (R21, R29, R280, R338, R339, R343) -/

theorem execPowerArbiterTick {mhz : Nat} {hbm pen : List Nat} {s : State} (h : MemoryInv s) :
    Tidied (Machine.execPowerArbiterTick mhz hbm pen s) :=
  next (ite (upd h) h)

theorem execDieReady {d : Nat} {s : State} (h : MemoryInv s) : Tidied (Machine.execDieReady d s) :=
  next (ite (refreshReady (ite (fullService (upd h)) (upd h))) h)

theorem execDeviceReset {s : State} (h : MemoryInv s) : Tidied (Machine.execDeviceReset s) := next (upd ⟨h.1, rfl⟩)

theorem execRinestLinkFail {a b : Nat} {s : State} (h : MemoryInv s) : Tidied (Machine.execRinestLinkFail a b s) :=
  next (ite (upd h) h)

theorem failTo {s : State} {lost : List Nat} (h : MemoryInv s) : MemoryInv (s.failTo lost) := by
  unfold State.failTo
  refine upd (foldl h (fun _ _ ht => ?_))
  split
  · exact ht.failReq
  · exact ht

theorem endBroken {s : State} (h : MemoryInv s) : MemoryInv (s.endBroken) := by
  unfold State.endBroken
  refine upd (foldl h (fun _ _ ht => ?_))
  split
  · exact ht.endDomain
  · exact ht

theorem execPodRecovery {lost : List Nat} {ph : RecoveryPhase} {s : State} (h : MemoryInv s) :
    Tidied (Machine.execPodRecovery lost ph s) := by
  unfold Machine.execPodRecovery
  refine next (ite h ?_)
  split
  · exact upd (say (say (upd h)))
  · exact upd h.failTo
  · exact upd (upd h.revokeLeases)
  · exact upd h.endBroken
  · exact upd h

/-! ### Fault records and invalidations (R321, R322) -/

theorem execHeldFaultRecordWrite {b : FaultBox} {s : State} (h : MemoryInv s) : Tidied (Machine.execHeldFaultRecordWrite b s) :=
  next h.writeHeld

theorem execInvalComplete {n : Nat} {s : State} (h : MemoryInv s) : Tidied (Machine.execInvalComplete n s) := by
  unfold Machine.execInvalComplete
  refine next ?_
  split
  · exact h
  · exact ite h (reply (upd h.dropTlb))

/-! ### Requests (R62, R69) -/

theorem request {s : State} {core x q : Nat} (h : MemoryInv s) : MemoryInv (s.request core x q) := by
  unfold State.request
  refine syncBusy ?_
  split
  · exact syncBusy (ite (ite h.unfill.setCore h.unfill.newSlice) h.unfill.setCore)
  · exact ite (ite h.unfill.setCore h.unfill.newSlice) h.unfill.setCore

theorem execPreemptionRequest {core : Nat} {s : State} (h : MemoryInv s) : Tidied (Machine.execPreemptionRequest core s) := by
  unfold Machine.execPreemptionRequest
  refine next ?_
  dsimp only
  split
  · split
    · exact ite h.refreshReady.request h.refreshReady
    · exact ite h.refreshReady.request h.refreshReady
  · exact h.refreshReady

theorem execSliceEnd {core u : Nat} {s : State} (h : MemoryInv s) : Tidied (Machine.execSliceEnd core u s) :=
  next (ite h.setCore.charge.boundary.rechoose h)

/-! ### Fills and spills (R324, R328 to R330) -/

theorem storeWgs {s : State} {x core : Nat} (h : MemoryInv s) : MemoryInv (s.storeWgs x core) := by
  unfold State.storeWgs
  refine foldl h (fun _ _ ht => ?_)
  dsimp only
  split
  · exact ht.physWords
  · exact ht.physWords

theorem storeWaves {s : State} {x core : Nat} (h : MemoryInv s) : MemoryInv (s.storeWaves x core) :=
  foldl h (fun _ _ ht => ht.storeWave.setWave)

theorem storePermits {s : State} {x : Nat} (h : MemoryInv s) : MemoryInv (s.storePermits x) := h.physWords

theorem execBankSpillComplete {core : Nat} {s : State} (h : MemoryInv s) : Tidied (Machine.execBankSpillComplete core s) := by
  unfold Machine.execBankSpillComplete
  refine next ?_
  split
  · exact h
  · dsimp only
    split
    · exact h.storeWgs.storeWaves.storePermits.physWords.syncCore.setCore.syncBusy.syncBusy
    · exact h.storeWgs.storeWaves.storePermits.physWords.syncCore.setCore.syncBusy

theorem noteFill {s : State} {x core : Nat} (h : MemoryInv s) : MemoryInv (s.noteFill x core) :=
  foldl (foldl h (fun _ _ ht => ht.physNote.physNote)) (fun _ _ ht => ht.physNote)

theorem execShadowFillComplete {core : Nat} {s : State} (h : MemoryInv s) : Tidied (Machine.execShadowFillComplete core s) := by
  unfold Machine.execShadowFillComplete
  refine next ?_
  dsimp only
  split
  · exact h
  · exact ite h (foldl (syncBusy (setCore (noteFill (foldl (upd h) (fun t _ ht => ht.setWave))))) (fun t _ ht => ht.killWave))

/-! ### Accumulator banks (R325) -/

theorem execAccumulatorBankMove {u : Nat} {s : State} (h : MemoryInv s) : Tidied (Machine.execAccumulatorBankMove u s) := by
  unfold Machine.execAccumulatorBankMove
  refine next ?_
  dsimp only
  split
  · exact h
  · split
    · exact h
    · exact ite h h.moveBank

theorem selectBanks {s : State} {x core : Nat} (h : MemoryInv s) : MemoryInv (s.selectBanks x core) :=
  foldl h (fun _ _ ht => (upd ht))

/-! ### Sequencer threads and streams at a switch (R60, R212, R331, R332) -/

theorem moveThread {s : State} {c t core : Nat} {leaves : Bool} (h : MemoryInv s) : MemoryInv (s.moveThread c t core leaves) :=
  ite h (ite h.setThread.storeThread (ite h.physNote.setThread h))

/-! ### The flip (R324) -/

theorem execBankFlip {core : Nat} {s : State} (h : MemoryInv s) : Tidied (Machine.execBankFlip core s) := by
  unfold Machine.execBankFlip
  refine next ?_
  split
  · exact h
  · refine ite h (refreshReady (syncClus (moveStreams ?_)))
    split
    · exact syncBusy (syncClus (moveStreams (foldl (selectBanks (headerBit (newSlice (upd h.chargeRun))))
          (fun t i ht => ht.moveThread))))
    · exact foldl (selectBanks (headerBit (newSlice (upd h.chargeRun)))) (fun t i ht => ht.moveThread)

/-! ### Acting on a command (R336, R346) -/

theorem waitMail {s : State} {b : MailBox} {a : Nat} (h : MemoryInv s) : MemoryInv (s.waitMail b a) := upd h

theorem command {s : State} {d r : Bool} {masks : List Nat} {act : State → MailBox → Nat → List W64 → State} (h : MemoryInv s)
    (ha : ∀ t b m w, MemoryInv t → MemoryInv (act t b m w)) :
    Tidied (Machine.command s d r masks act) := by
  unfold Machine.command
  split
  · exact next h
  · have h0 : MemoryInv { s with fw := none } := upd h
    exact iteO (next h0.waitMail) (iteO (next h0.rootItem) (iteO (next h0.waitMail) (iteO (next h0.fwNote)
      (iteO (next h0.fwNote.reply) (iteO (next h0.fwNote.reply) (next (ha _ _ _ _ h0.fwNote)))))))

/-! ### NODE commands (R345) -/

theorem deferredEntries {s t : State} {x k : Nat} (h : MemoryInv s) (hr : s.deferredEntries x k = some t) : MemoryInv t := by
  induction k generalizing t with
  | zero =>
    cases hr
    exact h
  | succ k ih =>
    unfold State.deferredEntries at hr
    split at hr
    · cases hr
    · next _ hu =>
      split at hr
      · cases hr
      · cases hr
        exact (ih hu).setCap

theorem freshCtx {s : State} {x : Nat} (h : MemoryInv s) : MemoryInv (s.freshCtx x) := upd h

theorem attach {s : State} {a : Nat} {n : Node} (h : MemoryInv s) : MemoryInv (s.attach a n) :=
  refreshReady (ite h.setNode.freshCtx (ite (takeIndex (writeIndex (modNode (upd h.setNode)))) h.setNode))

theorem execNodeAttach {s : State} (h : MemoryInv s) : Tidied (Machine.execNodeAttach s) := by
  unfold Machine.execNodeAttach
  refine h.command (fun _ _ _ _ hs1 => (ite (reply (ite hs1.fwNote hs1))
      (ite (reply (ite hs1.fwNote hs1)) (ite (reply (ite hs1.fwNote hs1))
      (ite (ite (reply (ite hs1.fwNote hs1)) ?_) (ite (reply (ite hs1.fwNote hs1)) (reply (attach (ite hs1.fwNote hs1)))))))))
  split
  · exact reply (ite hs1.fwNote hs1)
  · next t hr =>
      have ht : MemoryInv t := deferredEntries (ite hs1.fwNote hs1) hr
      exact ht.attach.reply

theorem update {s : State} {a : Nat} {o : Node} {w : Vector W64 16} (h : MemoryInv s) : MemoryInv (s.update a o w) :=
  refreshReady (ite (upd h.modNode.writeIndex.modNode) h.modNode)

theorem execNodeUpdate {s : State} (h : MemoryInv s) : Tidied (Machine.execNodeUpdate s) := by
  unfold Machine.execNodeUpdate
  refine h.command (fun _ _ _ _ hs1 => (ite (reply (ite hs1.fwNote hs1)) (ite (reply (ite hs1.fwNote hs1)) ?_)))
  split
  · exact reply (ite hs1.fwNote hs1)
  · exact ite (reply (ite hs1.fwNote hs1)) (reply (update (ite hs1.fwNote hs1)))

theorem endQueue {s : State} {q : Nat} (h : MemoryInv s) : MemoryInv (s.endQueue q) :=
  domainRecord (cancel (foldl h (fun _ _ ht => ht.endLaunch)))

theorem dropRequest {s : State} {q core : Nat} (h : MemoryInv s) : MemoryInv (s.dropRequest q core) := by
  unfold State.dropRequest
  dsimp only
  split
  · exact h
  · exact ite (ite h.unfill.setCore.syncBusy.rechoose h.unfill.setCore.syncBusy) h

theorem endCtx {s : State} {x a : Nat} (h : MemoryInv s) : MemoryInv (s.endCtx x a) :=
  upd (modNodes (freshCtx (foldl h (fun _ _ ht => ht.revokeCap))))

theorem execNodeDetach {s : State} (h : MemoryInv s) : Tidied (Machine.execNodeDetach s) := by
  unfold Machine.execNodeDetach
  refine h.command (fun _ _ _ _ hs1 => ?_)
  dsimp only
  split
  · exact hs1.reply
  · exact ite hs1.reply (ite hs1.reply (ite hs1.waitMail (reply
        (foldl (refreshReady (modNode (ite hs1.endQueue (ite hs1.endCtx hs1)))) (fun _ _ ht => ht.dropRequest)))))

/-! ### Fault buffers (R320, R321) -/

theorem execFaultbuf {s : State} (h : MemoryInv s) : Tidied (Machine.execFaultbuf s) :=
  h.command (fun _ _ _ _ hs1 => (ite hs1.reply (ite hs1.reply hs1.physWords.setFbuf.reply)))

theorem execFaultflush {s : State} (h : MemoryInv s) : Tidied (Machine.execFaultflush s) := by
  unfold Machine.execFaultflush
  refine h.command (fun _ _ _ _ hs1 => (ite hs1.reply ?_))
  split
  · exact hs1.reply
  · exact ite hs1.fwNote.reply hs1.fwNote.physPut.setFbuf.reply

/-! ### Stopped agents and domains (R316, R318, R319) -/

theorem resumeAgent {s : State} {ag : Agent} (h : MemoryInv s) : MemoryInv (s.resumeAgent ag) := by
  unfold State.resumeAgent
  split
  · split
    · exact h.putWave
    · exact h
  · exact h.putThread

theorem unsuspend {s : State} (h : MemoryInv s) : MemoryInv (s.unsuspend) := h.modNodes

theorem execResume {s : State} (h : MemoryInv s) : Tidied (Machine.execResume s) :=
  h.command (fun _ _ _ _ hs1 => (ite hs1.reply (ite hs1.reply (reply
      (refreshReady (unsuspend (upd (foldl hs1 (fun _ _ ht => ht.resumeAgent.modNodes)))))))))

theorem execEndDomain {s : State} (h : MemoryInv s) : Tidied (Machine.execEndDomain s) :=
  h.command (fun _ _ _ _ hs1 => (ite hs1.reply (ite hs1.reply hs1.endDomain.refreshReady.reply)))

/-! ### Contexts (R226, R322, R334) -/

theorem execPool {s : State} (h : MemoryInv s) : Tidied (Machine.execPool s) :=
  h.command (fun _ _ _ _ hs1 => (ite hs1.reply (ite hs1.reply (ite hs1.reply (ite hs1.bumpFree.reply (reply (upd hs1)))))))

theorem emptyBank {s : State} {u : Nat} {second : Bool} (h : MemoryInv s) : MemoryInv (s.emptyBank u second) := by
  unfold State.emptyBank
  refine upd ?_
  split
  · exact h.spillAcc
  · exact h

theorem execSave {s : State} (h : MemoryInv s) : Tidied (Machine.execSave s) :=
  h.command (fun _ _ _ _ hs1 => (ite hs1.reply (ite hs1.reply (ite hs1.waitMail
      (reply (foldl hs1 (fun _ _ ht => ht.emptyBank)))))))

theorem evictRange {s : State} {x va len : Nat} (h : MemoryInv s) : MemoryInv (s.evictRange x va len) := by
  unfold State.evictRange
  split
  · exact h
  · refine settleEvicts (foldl h (fun _ _ hu => ?_))
    split
    · exact hu
    · exact ite hu.putErt hu

theorem execInval {s : State} (h : MemoryInv s) : Tidied (Machine.execInval s) :=
  h.command (fun _ _ _ _ hs1 => (ite hs1.reply (ite hs1.reply (upd hs1.dropTlb.evictRange))))

/-! ### Staging, caches, replicas (R237, R272, R278) -/

theorem execStaging {s : State} (h : MemoryInv s) : Tidied (Machine.execStaging s) :=
  h.command (fun _ _ _ _ hs1 => (ite hs1.reply (ite hs1.reply (reply (upd hs1)))))

theorem execL2ways {s : State} (h : MemoryInv s) : Tidied (Machine.execL2ways s) :=
  h.command (fun _ _ _ _ hs1 => (reply (upd hs1)))

theorem execReplica {s : State} (h : MemoryInv s) : Tidied (Machine.execReplica s) :=
  h.command (fun _ _ _ _ hs1 => (ite hs1.reply (reply (upd hs1))))

/-! ### Experts (R296, R298, R299) -/

theorem clearFetches {s : State} {x k : Nat} (h : MemoryInv s) : MemoryInv (s.clearFetches x k) := by
  unfold State.clearFetches
  refine foldl h (fun _ _ ht => ?_)
  split
  · exact ht.putErt
  · exact ht

theorem execExptableRegister {s : State} (h : MemoryInv s) : Tidied (Machine.execExptableRegister s) :=
  h.command (fun _ _ _ _ hs1 => (ite hs1.reply (ite hs1.reply (ite hs1.reply
      (ite hs1.reply (reply (clearFetches (upd hs1))))))))

theorem execExptableDeregister {s : State} (h : MemoryInv s) : Tidied (Machine.execExptableDeregister s) := by
  unfold Machine.execExptableDeregister
  refine h.command (fun _ _ _ _ hs1 => (ite hs1.reply (ite hs1.reply ?_)))
  split
  · exact hs1.reply
  · exact ite hs1.reply (reply (upd hs1))

theorem execExpfetch {s : State} (h : MemoryInv s) : Tidied (Machine.execExpfetch s) := by
  unfold Machine.execExpfetch
  refine h.command (fun _ _ _ _ hs1 => (ite hs1.reply ?_))
  split
  · exact ite hs1.reply (reply (ite hs1.beginFetch hs1))
  · exact hs1.reply

theorem execExpevict {s : State} (h : MemoryInv s) : Tidied (Machine.execExpevict s) := by
  unfold Machine.execExpevict
  refine h.command (fun _ _ _ _ hs1 => (ite hs1.reply ?_))
  split
  · dsimp only
    split
    · exact ite hs1.putErt.reply (upd hs1)
    · exact hs1.reply
    · exact hs1.reply
  · exact hs1.reply

/-! ### The pod (R288, R292 to R294) -/

theorem execPodJoin {s : State} (h : MemoryInv s) : Tidied (Machine.execPodJoin s) :=
  h.command (fun _ _ _ _ hs1 => (ite (reply (ite hs1.fwNote hs1)) (reply (upd (ite hs1.fwNote hs1)))))

/-- Lean derives no equations for this definition: it is unfolded down to the recursor of the list. -/
theorem inboundEntries {s t : State} {x : Nat} {l : List (Nat × Nat × Nat)} {m : Map W32} (h : MemoryInv s)
    (hr : s.inboundEntries x l = some (t, m)) :
    MemoryInv t := by
  induction l generalizing s m with
  | nil =>
    cases hr
    exact h
  | cons e l ih =>
    delta State.inboundEntries List.brecOn List.brecOn.go State.inboundEntries._f at hr
    dsimp only at hr
    split at hr
    · cases hr
    · next a _ =>
      split at hr
      · cases hr
      · next _ m' hu =>
        cases hr
        refine ih (s := s.setCap e.1 a { s.cap e.1 a with
          state := 1, wr := true, rd := false, kind := 2, owner := x, busy := 0, old := 0,
          base := e.1 * 2 ^ 36 + e.2.1, bound := BitVec.ofNat 64 e.2.2 }) (m := m') h.setCap ?_
        delta State.inboundEntries List.brecOn List.brecOn.go State.inboundEntries._f
        dsimp only
        exact hu

theorem execInbound {s : State} (h : MemoryInv s) : Tidied (Machine.execInbound s) := by
  unfold Machine.execInbound
  refine h.command (fun _ _ _ _ hs1 => (ite (reply (ite hs1.fwNote hs1)) (ite (reply (ite hs1.fwNote hs1)) ?_)))
  split
  · exact reply (ite hs1.fwNote hs1)
  · next t _ hr =>
      have ht : MemoryInv t := inboundEntries (ite hs1.fwNote hs1) hr
      exact reply (grantPermits (upd ht))

theorem execLeaseGrant {s : State} (h : MemoryInv s) : Tidied (Machine.execLeaseGrant s) :=
  h.command (fun _ _ _ _ hs1 => (ite hs1.reply (ite hs1.reply (reply (upd hs1)))))

theorem execLeaseRevokeCommand {s : State} (h : MemoryInv s) : Tidied (Machine.execLeaseRevokeCommand s) :=
  h.command (fun _ _ _ _ hs1 => (reply (upd hs1)))

theorem execLeaseFree {s : State} (h : MemoryInv s) : Tidied (Machine.execLeaseFree s) :=
  h.command (fun _ _ _ _ hs1 => (ite hs1.reply (reply (upd hs1))))

theorem execLeaseRead {s : State} (h : MemoryInv s) : Tidied (Machine.execLeaseRead s) :=
  h.command (fun _ _ _ _ hs1 => (ite hs1.reply hs1.fwPut.reply))

/-! ### The device (R337, R339, R341) -/

theorem execPowercap {s : State} (h : MemoryInv s) : Tidied (Machine.execPowercap s) :=
  h.command (fun _ _ _ _ hs1 => (ite hs1.reply (reply (upd hs1))))

theorem execAttest {s : State} (h : MemoryInv s) : Tidied (Machine.execAttest s) :=
  h.command (fun _ _ _ _ hs1 => (ite hs1.reply hs1.fwNote.fwPut.reply))

theorem execStatus {s : State} (h : MemoryInv s) : Tidied (Machine.execStatus s) := h.command (fun _ _ _ _ hs1 => hs1.reply)

/-! ### Debug commands of a VBZ-40E (R2, R346) -/

theorem execDebugRead {s : State} (h : MemoryInv s) : Tidied (Machine.execDebugRead s) :=
  h.command (fun _ _ _ _ hs1 => (ite hs1.reply hs1.takeFree.fwPut.reply))

theorem execDebugWrite {s : State} (h : MemoryInv s) : Tidied (Machine.execDebugWrite s) :=
  h.command (fun _ _ _ _ hs1 => (ite hs1.reply (reply (upd hs1))))

theorem execDebugHalt {s : State} (h : MemoryInv s) : Tidied (Machine.execDebugHalt s) :=
  h.command (fun _ _ _ _ hs1 => (reply (upd hs1)))

theorem execDebugStep {s : State} (h : MemoryInv s) : Tidied (Machine.execDebugStep s) :=
  h.command (fun _ _ _ _ hs1 => (reply (upd hs1)))

theorem execDebugContinue {s : State} (h : MemoryInv s) : Tidied (Machine.execDebugContinue s) :=
  h.command (fun _ _ _ _ hs1 => (reply (upd hs1)))

theorem execUnknownCommand {s : State} (h : MemoryInv s) : Tidied (Machine.execUnknownCommand s) :=
  h.command (fun _ _ _ _ hs1 => hs1.reply)

end Sys2Proof.MemoryInv


/-! ## Memory stays in canonical form (O9): every instruction and the step -/

namespace Sys2Proof.MemoryInv

open Sys2Proof Sys2Proof.Machine

/-! ### REP (R100 to R102) -/

theorem latchTarget {s : State} {ag : Agent} (h : MemoryInv s) : MemoryInv (s.latchTarget ag) := upd h

theorem execRep {f : PF} {s : State} (h : MemoryInv s) : Tidied (Machine.execRep f s) := by
  unfold Machine.execRep
  refine issued (fun _ => (ite h.retire ?_))
  split
  · exact h.trap
  · refine ite (ite h.stall (ite h.trap ?_)) ?_
    · split
      · exact h.trap
      · exact h.latchTarget
    · split
      · exact h.trap
      · exact h.setRepctl.latchTarget

/-! ### Every instruction -/

theorem exec {i : Instr} {s : State} (h : MemoryInv s) : Tidied (Machine.exec i s) := by
  unfold Machine.exec
  split
  · exact h.execIadd
  · exact h.execIsub
  · exact h.execImul
  · exact h.execImulh
  · exact h.execImad
  · exact h.execIdiv
  · exact h.execIrem
  · exact h.execImin
  · exact h.execImax
  · exact h.execAndS
  · exact h.execOrS
  · exact h.execXorS
  · exact h.execNotS
  · exact h.execShl
  · exact h.execShr
  · exact h.execSar
  · exact h.execRot
  · exact h.execClz
  · exact h.execPopc
  · exact h.execBfx
  · exact h.execBfi
  · exact h.execIcmp
  · exact h.execSel
  · exact h.execMov
  · exact h.execLea
  · exact h.execSfadd
  · exact h.execSfmul
  · exact h.execSfma
  · exact h.execSfcmp
  · exact h.execScvt
  · exact h.execMfs
  · exact h.execMts
  · exact h.execBr
  · exact h.execBrc
  · exact h.execBrx
  · exact h.execCall
  · exact h.execCallx
  · exact h.execRet
  · exact h.execBsplit
  · exact h.execBjoin
  · exact h.execDpush
  · exact h.execDpop
  · exact h.execMsk
  · exact h.execMbcnt
  · exact h.execMfirst
  · exact h.execNop
  · exact h.execViadd
  · exact h.execVisub
  · exact h.execVimul
  · exact h.execVimad
  · exact h.execVimin
  · exact h.execVimax
  · exact h.execViabs
  · exact h.execViadds
  · exact h.execVisubs
  · exact h.execVand
  · exact h.execVor
  · exact h.execVxor
  · exact h.execVnot
  · exact h.execVshl
  · exact h.execVshr
  · exact h.execVsar
  · exact h.execVbfx
  · exact h.execVpopc
  · exact h.execVicmp
  · exact h.execVsel
  · exact h.execVmov
  · exact h.execVfadd
  · exact h.execVfsub
  · exact h.execVfmul
  · exact h.execVfma
  · exact h.execVfmin
  · exact h.execVfmax
  · exact h.execVfcmp
  · exact h.execVfclass
  · exact h.execVcvt
  · exact h.execVpack
  · exact h.execVunpk
  · exact h.execDot4
  · exact h.execDot8
  · exact h.execRcpF32
  · exact h.execRsqF32
  · exact h.execExp2
  · exact h.execLog2
  · exact h.execSinPi
  · exact h.execCosPi
  · exact h.execTanh
  · exact h.execRcpa
  · exact h.execShfl
  · exact h.execBcast
  · exact h.execVred
  · exact h.execVscan
  · exact h.execTopk
  · exact h.execBallot
  · exact h.execLd
  · exact h.execSt
  · exact h.execSld
  · exact h.execSst
  · exact h.execLdsp
  · exact h.execStsp
  · exact h.execLdx
  · exact h.execAtom
  · exact h.execRed
  · exact h.execCas
  · exact h.execSatom
  · exact h.execWaitc
  · exact h.execWaittl
  · exact h.execBar
  · exact h.execArrv
  · exact h.execBowait
  · exact h.execCbacqProd
  · exact h.execCbacqCons
  · exact h.execCbrelProd
  · exact h.execCbrelCons
  · exact h.execCommitBlock
  · exact h.execCommitGrid
  · exact h.execCommitPod
  · exact h.execDflushGrid
  · exact h.execDflushPod
  · exact h.execMred
  · exact h.execMired
  · exact h.execMeval
  · exact h.execMfill
  · exact h.execCapnew
  · exact h.execCapswap
  · exact h.execCaprev
  · exact h.execCapqry
  · exact h.execMma
  · exact h.execMmaSp
  · exact h.execMmaChk
  · exact h.execMiter
  · exact h.execMiterCont
  · exact h.execAclr
  · exact h.execAin
  · exact h.execAout
  · exact h.execAoutClr
  · exact h.execEpi
  · exact h.execKld
  · exact h.execKldAll
  · exact h.execActxSwap
  · exact h.execActxRel
  · exact h.execTxf
  · exact h.execTxfcProd
  · exact h.execTxfcCons
  · exact h.execTxfsRd
  · exact h.execTxfsClr
  · exact h.execTnext
  · exact h.execTqaddSh
  · exact h.execTqaddRt
  · exact h.execPark
  · exact h.execErqQry
  · exact h.execErqAcq
  · exact h.execErqRel
  · exact h.execErpin
  · exact h.execErunpin
  · exact h.execDwrd
  · exact h.execDwwr
  · exact h.execDwresResume
  · exact h.execDwresKill
  · exact h.execDwstep
  · exact h.execTrapSeq
  · exact h.execTrapHost
  · exact h.execRett
  · exact h.execYield
  · exact h.execSleep
  · exact h.execHalt
  · exact h.execPgmap
  · exact h.execRep
  · exact h.execWaveSelect
  · exact h.execSequencerSelect
  · exact h.execTrapDelivery
  · exact h.execStepTrap
  · exact h.execSleepExpire
  · exact h.execAccessComplete
  · exact h.execBarrierComplete
  · exact h.execCommitComplete
  · exact h.execHostWriteInvalidate
  · exact h.execWriteIndexReread
  · exact h.execLaunchPacketRead
  · exact h.execWorkgroupPlace
  · exact h.execLaunchEnd
  · exact h.execSliceEnd
  · exact h.execPreemptionRequest
  · exact h.execBankFlip
  · exact h.execBankSpillComplete
  · exact h.execShadowFillComplete
  · exact h.execAccumulatorBankMove
  · exact h.execMatrixOpComplete
  · exact h.execMiterIteration
  · exact h.execTxfBurst
  · exact h.execTxfCommandComplete
  · exact h.execTxfcPiece
  · exact h.execCupolaItem
  · exact h.execCommandCompletionWord
  · exact h.execCapEntryFree
  · exact h.execBelfryDrain
  · exact h.execBinShip
  · exact h.execBinStage
  · exact h.execRemoteBinReceive
  · exact h.execCommitNoticeReplay
  · exact h.execRefresh
  · exact h.execRefreshHandover
  · exact h.execExpertFetchComplete
  · exact h.execExpertFetchFail
  · exact h.execExpertFetchStart
  · exact h.execExpertEvictComplete
  · exact h.execRemoteWriteReceive
  · exact h.execRemoteAtomicReceive
  · exact h.execRemoteReadReceive
  · exact h.execFabricAcknowledgement
  · exact h.execFabricResend
  · exact h.execFabricItemFail
  · exact h.execFabricWindow
  · exact h.execPermitGrant
  · exact h.execIncarnationAnnounce
  · exact h.execLeaseRevoke
  · exact h.execLeaseDrained
  · exact h.execLeaseDrainTimeout
  · exact h.execHostMemAccess
  · exact h.execPowerArbiterTick
  · exact h.execDieReady
  · exact h.execDeviceReset
  · exact h.execRinestLinkFail
  · exact h.execPodRecovery
  · exact h.execHeldFaultRecordWrite
  · exact h.execInvalComplete
  · exact h.execNodeAttach
  · exact h.execNodeUpdate
  · exact h.execNodeDetach
  · exact h.execFaultbuf
  · exact h.execFaultflush
  · exact h.execResume
  · exact h.execEndDomain
  · exact h.execPool
  · exact h.execSave
  · exact h.execInval
  · exact h.execStaging
  · exact h.execExptableRegister
  · exact h.execExptableDeregister
  · exact h.execExpfetch
  · exact h.execExpevict
  · exact h.execL2ways
  · exact h.execReplica
  · exact h.execPodJoin
  · exact h.execInbound
  · exact h.execLeaseGrant
  · exact h.execLeaseRevokeCommand
  · exact h.execLeaseFree
  · exact h.execLeaseRead
  · exact h.execPowercap
  · exact h.execAttest
  · exact h.execStatus
  · exact h.execDebugRead
  · exact h.execDebugWrite
  · exact h.execDebugHalt
  · exact h.execDebugStep
  · exact h.execDebugContinue
  · exact h.execUnknownCommand
  · exact h.execCommandBlockAcceptance
  · exact h.execLossOfPorts

/-! ### The step -/

/-- What reading the instruction of a latch stops with. -/
theorem next_trapped {s t : State} {l : Latch} (h : MemoryInv s) (hn : s.next l = .trapped t) : MemoryInv t := by
  unfold State.next at hn
  dsimp only at hn
  split at hn
  · cases hn
    exact h.trap
  · split at hn
    · split at hn
      · split at hn
        · cases hn
        · cases hn
          exact h.trap
      · cases hn
    · cases hn
      exact h.trap

theorem step {s : State} (h : MemoryInv s) : Tidied (Machine.step s) := by
  unfold Machine.step
  split
  · split
    · exact h.exec
    · next t hn => exact next (h.next_trapped hn)
  · split
    · exact next h
    · exact exec (upd h)
    · exact exec (upd h)

end Sys2Proof.MemoryInv

namespace Sys2Proof

/-- Settles O9: what changes memory or a scratchpad writes or clears bytes by the operations that keep the canonical form, and
every other part of a step leaves both as they are. -/
theorem stepKeepsMemoryInv : Obligations.StepKeepsMemoryInv := by
  unfold Obligations.StepKeepsMemoryInv
  intro s t h hs
  exact h.step t hs

end Sys2Proof
